-- ==== Sys2Proof/Word.lean ====
section
/-! DEFINITION. The words of the package: 64-bit registers and addresses (R12, R21), 32-bit command words (R210),
bytes. -/

namespace Sys2Proof

/-- A register, a G register, a physical address (R12, R21). -/
abbrev Word := BitVec 64

/-- One 32-bit word of a command slot (R210). -/
abbrev Word32 := BitVec 32

/-- One byte of memory. -/
abbrev Byte := BitVec 8

end Sys2Proof
end

