-- ==== Sys2Proof/Syntax.lean ====
section
/-! DEFINITION. The commands of the block: one constructor of `Instr` per row of spec/opcode_table.json, in the
table's order. A command is an event at the package: a register write, a message, a pin, the end of an operation or
of a time bound. Its operands name the unit it happens at and carry what comes from outside (a written value, a
message, a measured quantity). -/

namespace Sys2Proof

/-- An accelerator core by its flat index (R17). -/
abbrev CoreId := Fin 512
/-- A hardware queue of a core (R18). -/
abbrev QueueId := Fin 8
/-- A core group by its flat index (R19). -/
abbrev GroupId := Fin 64
/-- A host hart (R20). -/
abbrev HartId := Fin 72
/-- A die: 0–3 for SCD0–SCD3, 4 AID-N, 5 AID-S (R56). -/
abbrev DieId := Fin 6
/-- An Acelo: 0 AID-N, 1 AID-S. -/
abbrev AceloId := Fin 2
/-- An optical port (R416). -/
abbrev PortId := Fin 16
/-- An Erotte module (R399). -/
abbrev ModuleId := Fin 64
/-- A memory controller: 0–11 the HBM3E stacks, 12–27 the LPDDR5X devices 0–15 (R44). -/
abbrev CtlId := Fin 28

/-- Who sends a request (R60, R195, R376, R529). -/
inductive Agent
  | hart (h : HartId)
  | pcp (a : AceloId)
  | monitor
  | upstream (a : AceloId)
  | adapter (a : AceloId)
  | cxlDev (a : AceloId)
  | engine (c : CoreId)
  | walker (d : DieId)
  | scrubber (d : DieId)
  | remote (pkg agent : Fin 4096)
  deriving DecidableEq, Repr

/-- The engine of a command; the value is the ENG code of R213. -/
inductive Engine
  | qfe | me | ve | se | de
  deriving DecidableEq, Repr

/-- Ordering scopes (R259). -/
inductive Scope
  | core | die | package | system
  deriving DecidableEq, Repr

/-- Functions of an atomic at the home and of host AMOs (R175, R384). -/
inductive AtomFn
  | swap | add | and | or | xor | minS | maxS | minU | maxU | cas
  deriving DecidableEq, Repr

/-- A host AMO, or one half of an LR/SC pair (R384). -/
inductive HostAmo
  | amo (fn : AtomFn)
  | lr
  | sc
  deriving DecidableEq, Repr

/-- What a hart fence orders: predecessor and successor sets, or one of the other barriers of R360. -/
inductive FenceKind
  | fence (predR predW predI predO succR succW succI succO : Bool)
  | fenceI
  | sfenceVma
  | hfenceVvma
  | hfenceGvma
  deriving DecidableEq, Repr

/-- An atomic at the home: a function with its operands on 4 or 8 bytes (R175, R223), or a reduction of elements
(R217, R385). -/
inductive AtomOp
  | amo (fn : AtomFn) (size : Nat) (off : Nat) (opnd cmp : Word)
  | reduce (rop rfmt : Nat) (mask : BitVec 64)
  deriving DecidableEq, Repr

/-- A CXL.mem request of an external host (R393, R449): a read that leaves a shared or an owned copy, a read that
leaves none, a write of the masked bytes. -/
inductive CxlMemReq
  | rdShared
  | rdOwn
  | rdCurr
  | wr (mask : BitVec 64) (data : List Byte) (poison : Bool)
  deriving DecidableEq, Repr

/-- A snoop response of an agent outside the package (R393, R394). -/
inductive SnpRsp
  | rspI
  | rspS
  | rspData (keepS : Bool) (data : List Byte)
  deriving DecidableEq, Repr

/-- The D2H opcodes of a CXL.cache device (R394); `other` is any opcode outside its table. -/
inductive D2H
  | rdShared | rdOwn | rdOwnNoData | rdCurr
  | itoMWr (mask : BitVec 64) (data : List Byte) | wrCur (mask : BitVec 64) (data : List Byte)
  | dirtyEvict (data : List Byte) | cleanEvict | cleanEvictNoData
  | rspIHitI | rspIHitSE | rspSHitSE | rspIFwdM (data : List Byte) | rspSFwdM (data : List Byte)
  | other
  deriving DecidableEq, Repr

/-- The header slot of a fabric message (R436). `elem` says that a WR, RD or RED carries an element of a DE_GATHER or
DE_SCATTER, for which R334 lets it take the Roe path; R436 names no bit for it (log 97, DESIGN CHOICE). -/
structure FabHdr where
  vc     : BitVec 2
  dst    : BitVec 12
  src    : BitVec 12
  agent  : BitVec 12
  tag    : BitVec 20
  addr   : BitVec 52
  lenM1  : BitVec 8
  rop    : BitVec 4
  rfmt   : BitVec 4
  func   : BitVec 4
  hint   : BitVec 2
  htgt   : BitVec 12
  status : BitVec 4
  opnd   : Word
  cmp    : Word
  elem   : Bool
  deriving DecidableEq, Repr

/-- A partner's identity record as received (R428), with what the signature and certificate checks compare. -/
structure IdentRec where
  ver   : BitVec 16
  kind  : BitVec 16
  id    : BitVec 16
  port  : BitVec 16
  role  : BitVec 16
  level : BitVec 16
  up    : BitVec 16
  down  : BitVec 16
  fabricName : Word
  nonce : List Byte
  key   : List Byte
  cert  : List Byte
  sig   : List Byte
  deriving DecidableEq, Repr

/-- A memory request arriving from below a downstream root port (R454). -/
structure InbReq where
  rid    : BitVec 16
  write  : Bool
  addr   : Word
  len    : Nat
  data   : List Byte
  ro     : Bool
  poison : Bool
  pasid  : Bool
  deriving DecidableEq, Repr

/-- How a non-posted request at a downstream port ends (R463): data, or an Unsupported Request or Completer Abort. -/
inductive CplStatus
  | success | unsupported | abort
  deriving DecidableEq, Repr

/-- What a mesh flit on an Erotte module is to its receiver (R402, R407): a data flit with the sender's sequence number,
an idle flit, one that asks for a replay, or a control flit that reports a retired module's next expected sequence. R400
and R402 give no place in the flit for this (log 54, DEDUCED). -/
inductive MKind
  | data (seq : BitVec 16) | idle | nak | report (m : ModuleId) (dir : Bool) (seq : BitVec 16)
  deriving DecidableEq, Repr

/-- A mesh flit (R400): 992 bits as routed, and the link field of the hop: CRC[31:8], SEQ[7:0]. -/
structure MFlit where
  kind : MKind
  body : BitVec 992
  link : BitVec 32
  deriving DecidableEq, Repr

/-- A flit arriving on an optical port (R421): a data flit, an idle flit, or link control with an acknowledgement or a replay
request. -/
inductive Flit
  | data (seq : BitVec 16) | idle (seq : BitVec 16) | ack (seq : BitVec 16) | nak (seq : BitVec 16)
  deriving DecidableEq, Repr

/-- Margins and outcome of one training unit (R339–R341). -/
structure MarginRes where
  unit    : Nat
  rdL : BitVec 8
  rdR : BitVec 8
  wrL : BitVec 8
  wrR : BitVec 8
  rdLo : BitVec 8
  rdHi : BitVec 8
  wrLo : BitVec 8
  wrHi : BitVec 8
  worst   : BitVec 8
  remap   : BitVec 2
  deriving DecidableEq, Repr

/-- One error found by a traffic checker (R350): unit, lane, byte offset. -/
structure TgErr where
  unit   : Nat
  lane   : BitVec 8
  offset : BitVec 34
  deriving DecidableEq, Repr

/-- A request to load a module (R249, R252, R253): the core group and the context it is for, the digest of the Device
Property Table that the loader read before it translated, the memory it was given for segments, and the first of the local
semaphores and of the credit slots it was given. -/
structure LoadReq where
  group  : GroupId
  ctx    : BitVec 16
  digest : Word
  area   : Nat
  lsem   : Fin 64
  slot   : Fin 64
  deriving DecidableEq, Repr

/-- What the PCP finds when it polls an ELSFP module (R419): what the module reports, and the outputs whose light the
modulators of its ports no longer see. -/
structure LaserRep where
  ready  : Bool
  interlockClosed : Bool
  fault  : BitVec 4
  dark   : BitVec 4
  temp   : BitVec 16
  deriving DecidableEq, Repr

/-- What a boot step meets outside the package's own state (R509): the straps of AID-N and AID-S (true: it claims
primary), the bytes of the two flash slots (none: no answer), whether the secondary answers, the cores the self-test
retires, the dies that cannot be reached and the modules with the lanes that fail training in their two directions,
the margins of every training unit (those of `std` where `res` lists none) and the units that qualification finds
bit errors in. -/
inductive BootIn
  | plain
  | straps (north south : Bool)
  | image (slot0 slot1 : Option (List Byte))
  | secondary (answers : Bool)
  | selftest (retired : List CoreId)
  | erotte (missing : BitVec 6) (bad : List (ModuleId × BitVec 68 × BitVec 68)) (dead : BitVec 64)
  | memory (std : MarginRes) (res : List (CtlId × MarginRes)) (bad : List (CtlId × Nat))
  deriving DecidableEq, Repr

/-- The targets message of the primary to the secondary (R31, R483): ACLK by group, HCLK by cluster. -/
structure Targets where
  aclk : List (Nat × Nat)
  hclk : List (Nat × Nat)
  deriving DecidableEq, Repr

inductive Instr
  -- registers and package (R14–R48, R504, R526, R562)
  | registerWrite (by_ : Agent) (addr size : Nat) (value : Word)
  | popLowHalfRead (by_ : Agent) (addr : Nat)
  | pllLoss (d : DieId) (gen : Fin 48)
  | fatalLineRepeat (a : AceloId)
  | routeRecomputeDone (edge : Fin 8)
  | heartbeatSend (a : AceloId)
  | heartbeatReceive (a : AceloId) (column : Bool)
  | heartbeatTimeout (a : AceloId)
  -- command streams (R205–R235)
  | commandFetch (c : CoreId) (q : QueueId)
  | encodingErrorComplete (c : CoreId) (q : QueueId)
  | commandIssue (c : CoreId) (q : QueueId) (e : Engine)
  | commandRetire (c : CoreId) (q : QueueId) (e : Engine)
  | releaseComplete (c : CoreId) (q : QueueId) (e : Engine)
  | recordWrite (c : CoreId) (q : QueueId)
  | waitTimeout (c : CoreId) (q : QueueId) (e : Engine)
  | semRecheck (c : CoreId) (q : QueueId) (e : Engine)
  | doorbell (by_ : Agent) (c : CoreId) (value : Word)
  | queueEnable (by_ : Agent) (c : CoreId) (q : QueueId) (value : Word)
  | queueDisable (by_ : Agent) (c : CoreId) (q : QueueId) (value : Word)
  | cqEnable (by_ : Agent) (c : CoreId) (q : QueueId) (value : Word)
  | queueResume (by_ : Agent) (c : CoreId) (q : QueueId)
  | queueAbort (by_ : Agent) (c : CoreId) (q : QueueId)
  | qfeNop (c : CoreId) (q : QueueId)
  | qfeFence (c : CoreId) (q : QueueId)
  | qfeRing (c : CoreId) (q : QueueId)
  | qfeStop (c : CoreId) (q : QueueId)
  -- matrix engine (R97–R125)
  | meLoadw (c : CoreId) (q : QueueId)
  | meGemm (c : CoreId) (q : QueueId)
  | meStreamEnter (c : CoreId) (sub : Fin 4)
  | meGemv (c : CoreId) (q : QueueId)
  | holdIdleTimeout (c : CoreId)
  | holdRampDownStep (c : CoreId)
  | holdRampUpStep (c : CoreId)
  -- vector engine (R160–R171)
  | veElem (c : CoreId) (q : QueueId)
  | veCmp (c : CoreId) (q : QueueId)
  | veCvt (c : CoreId) (q : QueueId)
  | veRed (c : CoreId) (q : QueueId)
  | veExpo (c : CoreId) (q : QueueId)
  | veSlice (c : CoreId) (q : QueueId)
  | veDacc (c : CoreId) (q : QueueId)
  | veXcomb (c : CoreId) (q : QueueId)
  | veZline (c : CoreId) (q : QueueId)
  -- scalar engine (R172–R177)
  | seOp (c : CoreId) (q : QueueId)
  | seSetp (c : CoreId) (q : QueueId)
  | seLd (c : CoreId) (q : QueueId)
  | seSt (c : CoreId) (q : QueueId)
  | seAmo (c : CoreId) (q : QueueId)
  | seBr (c : CoreId) (q : QueueId)
  | seZline (c : CoreId) (q : QueueId)
  | seRdcnt (c : CoreId) (q : QueueId)
  -- DMA engine (R191–R200, R217, R218, R322)
  | deXfer (c : CoreId) (q : QueueId)
  | deGather (c : CoreId) (q : QueueId)
  | deScatter (c : CoreId) (q : QueueId)
  | deFill (c : CoreId) (q : QueueId)
  | deCopy (c : CoreId) (q : QueueId)
  | deCreditPost (c : CoreId) (q : QueueId)
  | deCreditTake (c : CoreId) (q : QueueId)
  | deMigrate (c : CoreId) (q : QueueId)
  | dePrefetch (c : CoreId) (q : QueueId)
  -- scratchpad (R193–R203)
  | creditTakeRequest (target : CoreId) (slot : Fin 64) (pkg agent : Fin 4096)
  | creditTakeRetry (c : CoreId) (q : QueueId)
  | creditEndMessage (c : CoreId) (slot : Fin 64) (pkg agent : Fin 4096)
  | spadRemoteWrite (by_ : Agent) (c : CoreId) (off : Nat) (data : List Byte)
  | creditSlotPost (by_ : Agent) (c : CoreId) (slot : Fin 64) (value : Word)
  | creditSlotFree (by_ : Agent) (c : CoreId) (slot : Fin 64) (value : Word)
  | bankGateRequest (by_ : Agent) (c : CoreId) (value : Word)
  | bankGated (c : CoreId) (bank : Fin 48)
  | bankGateClear (by_ : Agent) (c : CoreId) (value : Word)
  | bankWakeDone (c : CoreId) (bank : Fin 48)
  -- L1, core and group power (R72–R92)
  | l1Refill (c : CoreId) (addr : Nat)
  | prefetchFill (c : CoreId) (line : Nat)
  | mbIdleDrain (c : CoreId) (granule : Nat)
  | coreHalt (by_ : Agent) (c : CoreId)
  | coreResume (by_ : Agent) (c : CoreId)
  | reqOffSet (by_ : Agent) (g : GroupId) (value : Word)
  | reqOffClear (by_ : Agent) (g : GroupId) (value : Word)
  | cgGatingComplete (g : GroupId)
  | cgWakeComplete (g : GroupId)
  | semNodeHoldTimeout (d : DieId) (node : Fin 21)
  -- address translation (R285–R310)
  | walkComplete (d : DieId) (ctx : BitVec 16) (va : Word)
  | faultRecordWrite (c : CoreId)
  | faultRetry (by_ : Agent) (c : CoreId) (value : Word)
  | faultAbort (by_ : Agent) (c : CoreId) (value : Word)
  | faultRingEnable (by_ : Agent) (c : CoreId) (value : Word)
  | wlkCtxBaseWrite (by_ : Agent) (d : DieId) (value : Word)
  | invalidate (by_ : Agent) (d : DieId) (value : Word)
  | invalidateBump (d : DieId) (seq : BitVec 32) (c : CoreId)
  | invalidateCoreAck (d : DieId) (seq : BitVec 32) (c : CoreId)
  | invalidateDone (d : DieId)
  -- memory tiers (R322–R337)
  | migrateEntryTaken (c : CoreId) (q : QueueId)
  | migrateBumpDone (c : CoreId) (q : QueueId)
  | migrateCopyDone (c : CoreId) (q : QueueId)
  | migrateReturnWrite
  | mretEnable (by_ : Agent) (value : Word)
  | mpoolEnable (by_ : Agent) (pool : Fin 15) (value : Word)
  -- memory bring-up (R339–R352)
  | mrgCmd (by_ : Agent) (k : CtlId) (value : Word)
  | marginDone (k : CtlId) (res : List MarginRes)
  | tgRun (by_ : Agent) (k : CtlId) (value : Word)
  | tgDone (k : CtlId) (bits : Nat) (errs : List TgErr)
  | driftTrack (k : CtlId) (adjusted : Bool)
  | leccWindow (k : CtlId) (ch : Fin 8) (count : Nat)
  -- harts (R353–R371)
  | hostLoad (h : HartId) (addr size : Nat)
  | hostStore (h : HartId) (addr size : Nat) (value : Word)
  | sbEntryComplete (h : HartId) (idx : Fin 32)
  | hostAmo (h : HartId) (addr size : Nat) (op : HostAmo) (value : Word)
  | fence (h : HartId) (kind : FenceKind)
  | tlvDb (h : HartId) (addr : Nat) (value : Word)
  | tlvStash (h : HartId) (addr : Nat) (rs2 : Word)
  | tlvRel (h : HartId) (scope : Scope)
  | tlvAcq (h : HartId) (scope : Scope)
  | cboClean (h : HartId) (addr : Nat)
  | cboFlush (h : HartId) (addr : Nat)
  | cboInval (h : HartId) (addr : Nat)
  | cboZero (h : HartId) (addr : Nat)
  | prefetchR (h : HartId) (addr : Nat)
  | prefetchW (h : HartId) (addr : Nat)
  | prefetchI (h : HartId) (addr : Nat)
  | hartStop (h : HartId) (powerDown : Bool)
  | hclBerrLog (by_ : Agent) (h : HartId) (high : Bool)
  -- coherence (R372–R396)
  | homeAccept (line : Nat)
  | rdShared (line : Nat) (agent : Agent)
  | rdUnique (line : Nat) (agent : Agent)
  | rdOnce (line : Nat) (agent : Agent) (watch : Bool)
  | wrFull (line : Nat) (agent : Agent) (data : List Byte) (hint : BitVec 2) (htgt : BitVec 12)
  | wrPartial (line : Nat) (agent : Agent) (mask : BitVec 64) (data : List Byte) (hint : BitVec 2) (htgt : BitVec 12)
  | atomic (line : Nat) (agent : Agent) (op : AtomOp) (data : List Byte)
  | wrBack (line : Nat) (agent : Agent)
  | evict (line : Nat) (agent : Agent)
  | snpShared (line : Nat) (agent : Agent)
  | snpInv (line : Nat) (agent : Agent)
  | rspI (line : Nat) (agent : Agent)
  | rspS (line : Nat) (agent : Agent)
  | rspData (line : Nat) (agent : Agent)
  | rspWBInFlight (line : Nat) (agent : Agent)
  | comp (line : Nat) (agent : Agent)
  | compData (line : Nat) (agent : Agent)
  | compAck (line : Nat) (agent : Agent)
  | stashOffer (line : Nat) (target : Agent)
  | writeNote (c : CoreId) (line : Nat)
  | retentionExpire (line : Nat)
  | snoopTimeout (line : Nat) (agent : Agent)
  | slcCtrlWrite (by_ : Agent) (d : DieId) (value : Word)
  | cxlMemRequest (a : AceloId) (hpa : Word) (req : CxlMemReq)
  | bisnpResponse (a : AceloId) (line : Nat) (rsp : SnpRsp)
  | biconflict (a : AceloId) (line : Nat) (data : List Byte)
  | d2hRequest (a : AceloId) (line : Nat) (op : D2H)
  -- Erotte (R398–R414)
  | erotteFlitReceive (m : ModuleId) (dir : Bool) (crcOk : Bool) (flit : MFlit) (badLanes : BitVec 68)
  | erotteIdleTimer (m : ModuleId) (dir : Bool)
  | erotteErrorWindow (d : DieId)
  | erotteRepairDone (m : ModuleId) (ok : Bool) (failA failB : BitVec 68)
  | erotteSidebandFail (m : ModuleId)
  | erotteListRebuildDone (edge : Fin 8)
  -- optical fabric (R415–R446)
  | laserPoll (m : Fin 8) (rep : LaserRep)
  | laserInterrupt (m : Fin 8) (rep : LaserRep)
  | laserModuleRemove (m : Fin 8)
  | laserModuleInsert (m : Fin 8) (rep : LaserRep)
  | portLightDetect (p : PortId)
  | lockDone (p : PortId) (failed : BitVec 17)
  | alignDone (p : PortId) (ok : Bool)
  | linkDone (p : PortId)
  | trainTimeout (p : PortId)
  | retrainDelay (p : PortId)
  | identNonce (p : PortId) (nonce : List Byte)
  | identSignDone (p : PortId)
  | identRecord (p : PortId) (rec_ : IdentRec)
  | optFlitReceive (p : PortId) (fecOk : Bool) (flit : Flit)
  | optIdleTimer (p : PortId)
  | fecWindow (p : PortId) (csym : List Nat) (cw corr uncorr : Nat)
  | laneSignalLoss (p : PortId) (lane : Fin 17)
  | optRepairDone (p : PortId)
  | optRepairTimeout (p : PortId)
  | noFlitTimeout (p : PortId)
  | fecLockLoss (p : PortId)
  | mgmtClose (p : PortId)
  | adminDown (by_ : Agent) (p : PortId) (value : Word)
  | retrain (by_ : Agent) (p : PortId) (value : Word)
  | advertisementSend (p : PortId)
  | advertisement (p : PortId) (partners : List (BitVec 12))
  | viaExpire (dest via : BitVec 12)
  | fabWr (p : PortId) (h : FabHdr) (data : List Byte)
  | fabRd (p : PortId) (h : FabHdr)
  | fabAtom (p : PortId) (h : FabHdr)
  | fabRed (p : PortId) (h : FabHdr) (data : List Byte)
  | fabSemadd (p : PortId) (h : FabHdr)
  | fabSemwr (p : PortId) (h : FabHdr)
  | fabCtake (p : PortId) (h : FabHdr)
  | fabCend (p : PortId) (h : FabHdr)
  | fabCmp (p : PortId) (h : FabHdr)
  | fabRddata (p : PortId) (h : FabHdr) (data : List Byte)
  | fabAtomrsp (p : PortId) (h : FabHdr)
  | fabCtakersp (p : PortId) (h : FabHdr)
  | fabErr (p : PortId) (h : FabHdr)
  | fabRequestTimeout (tag : BitVec 20)
  | paceRelease (level : Fin 5)
  -- CXL ports (R447–R469)
  | hostBarAccess (a : AceloId) (bar : Fin 3) (off size : Nat) (write : Bool) (data : List Byte) (poison : Bool)
  | msixTrigger (by_ : Agent) (a : AceloId) (value : Word)
  | upstreamLinkDown (a : AceloId)
  | cxuPerst (a : AceloId)
  | inboundRequest (a : AceloId) (req : InbReq)
  | roWriteRelease (a : AceloId)
  | iotWinEnable (by_ : Agent) (a : AceloId) (w : Fin 256) (value : Word)
  | iotInv (by_ : Agent) (a : AceloId) (value : Word)
  | iotInvDone (a : AceloId)
  | completionTimeout (a : AceloId) (tag : Nat)
  | surpriseDown (a : AceloId) (dpc : Bool)
  | presenceChange (a : AceloId) (present : Bool) (link : BitVec 3)
  | secondaryBusReset (a : AceloId) (on : Bool)
  | doeReport (a : AceloId) (nonce : List Byte) (mask : BitVec 16)
  | doeCerts (a : AceloId) (off len : Nat)
  -- power and supply (R470–R495, R542–R559)
  | vinSample (a : AceloId) (mv : Nat) (tenMilliAmps : Nat)
  | overvoltageTimeout
  | sagTimeout
  | vinGood
  | droopDetect (g : GroupId)
  | droopClear (g : GroupId)
  | slewTick (a : AceloId) (riseMilliAmps : Nat) (rose : BitVec 64)
  | slewSplit (rampN rampS : Nat)
  | rampGrant (a : AceloId)
  | peakCheck (projected : Nat)
  | brakeAssert
  | brakeCheck (watts : Nat)
  | brakeRelease
  | brakeKStep
  | sustainedTick (w1s w2ms w1ms : Nat)
  | targetHoldTimeout
  | energyUpdate (pkg : Nat) (dies : List Nat) (cores : List (CoreId × Nat × List Nat))
  | pwrTrimUpdate (d : DieId) (measured modelled : Nat) (est : List (GroupId × Nat)) (tj : BitVec 16) (thr : Bool)
  | thermalShutdown
  | vinLowRelease
  -- boot and security (R496–R515)
  | coldRst
  | warmRst
  | pcpResetCold (by_ : Agent) (value : Word)
  | pcpResetWarm (by_ : Agent) (value : Word)
  | bootStepDone (cycles : BitVec 32) (input : BootIn)
  | bootStepTimeout (die : DieId) (gen : Fin 256)
  | haltLineRepeat
  -- errors (R516–R533, R561)
  | scrubRead (k : CtlId)
  | ceWindowExpire (d : DieId)
  | rasInject (by_ : Agent) (d : DieId) (value : Word)
  | rasLog (by_ : Agent) (d : DieId) (high : Bool)
  | spcViolLog (by_ : Agent) (c : CoreId) (high : Bool)
  | qfeErrLog (by_ : Agent) (c : CoreId) (high : Bool)
  | atuErrLog (by_ : Agent) (c : CoreId) (high : Bool)
  | hbmTgErrLog (by_ : Agent) (k : Fin 12) (high : Bool)
  | lpdTgErrLog (by_ : Agent) (k : Fin 16) (high : Bool)
  | ertEvtLog (by_ : Agent) (d : DieId) (high : Bool)
  | pcpMigErrLog (by_ : Agent) (high : Bool)
  | pcpFabEvtLog (by_ : Agent) (high : Bool)
  | cxuErrLog (by_ : Agent) (a : AceloId) (high : Bool)
  | cxdErrLog (by_ : Agent) (a : AceloId) (high : Bool)
  | pcpPwrEvtLog (by_ : Agent) (high : Bool)
  -- the Tahr monitor (R534–R541)
  | monChar (ch : BitVec 8)
  | monAbort
  | monHelp
  | monId
  | monPeek (addr size : Nat)
  | monPoke (addr size : Nat) (value : Word)
  | monDump (addr count : Nat)
  | monCnt (die : Option DieId) (core : Option CoreId)
  | monPwr
  | monLink
  | monMargin (k : CtlId) (unit : Nat)
  | monTg (k : CtlId) (mask pattern op start len : Nat)
  | monLog (die : Option DieId)
  | monChal
  | monUpload (count : Nat)
  | monUploadTimeout
  | monUnlock (key : Nat)
  | monLock
  | monReset
  | monRevoke (key : Nat)
  -- loader, interrupts, links (R251, R359, R360, R449, R451, R547, R422, R483, R517)
  | mkcLoad (module_ : List Byte) (req : LoadReq)
  | interruptHandlerEntry (h : HartId)
  | completionReceived (a : AceloId) (tag : Nat) (status : CplStatus) (data : List Byte) (poison : Bool)
  | upstreamLinkUp (a : AceloId) (cxl : Bool)
  | cxuPerstRelease (a : AceloId)
  | hdmDecoderCommit (a : AceloId) (n : Fin 2) (base : Word)
  | mgmtLaneRepair (p : PortId) (lane : Fin 17)
  | targetsReceive (targets : Targets)
  | ceLogInterval (d : DieId) (unit : BitVec 6) (inst : BitVec 12)
  deriving DecidableEq, Repr

end Sys2Proof
end

