-- ==== Sys2Proof/Decode.lean ====
section
/-! DEFINITION. Commands spelled by words. The table gives no row any bits: a command is an event at the package, not a
word; so no word of the table spells one. A hart's Xtlvq instructions have words of their own (R365), read here into the
commands TLV.DB, TLV.STASH, TLV.REL and TLV.ACQ. -/

namespace Sys2Proof

/-- The command that a word of the table spells: none, as no row of the table has bits (log 15, DESIGN CHOICE). -/
def decodeTableWord (_nbits _w : Nat) : Option Instr := none

/-- What a hart's instruction word is to the Xtlvq extension (R365). -/
inductive XtlvqWord
  /-- A word of another major opcode, or of another extension. -/
  | other
  /-- A custom-0 word that raises an illegal-instruction exception. -/
  | illegal
  /-- An Xtlvq instruction, as the command it gives the block. -/
  | command (i : Instr)
  deriving DecidableEq, Repr

/-- The R-type fields of an instruction word: funct7, rs2, rs1, funct3 and rd. -/
structure RType where
  funct7 : BitVec 7
  rs2    : BitVec 5
  rs1    : BitVec 5
  funct3 : BitVec 3
  rd     : BitVec 5
  deriving DecidableEq, Repr

/-- The fields of a word. -/
def rType (w : BitVec 32) : RType :=
  ⟨w.extractLsb' 25 7, w.extractLsb' 20 5, w.extractLsb' 15 5, w.extractLsb' 12 3, w.extractLsb' 7 5⟩

/-- A custom-0 word. -/
def customZero (w : BitVec 32) : Bool := w.extractLsb' 0 7 == 0b0001011#7

/-- SCOPE, in bits [21:20]. -/
def scopeOf (s : BitVec 2) : Scope :=
  match s.toNat with
  | 0 => .core
  | 1 => .die
  | 2 => .package
  | _ => .system

/-- TLV.REL and TLV.ACQ: rs1 and bits [24:22] are zero. -/
def withScope (f : RType) (c : Scope → Instr) : XtlvqWord :=
  if f.rs1 = 0 ∧ f.rs2.extractLsb' 2 3 = 0 then .command (c (scopeOf (f.rs2.extractLsb' 0 2))) else .illegal

/-- An instruction word of hart `h`, with what its integer registers hold (R365). -/
def readXtlvq (h : HartId) (x : BitVec 5 → Word) (w : BitVec 32) : XtlvqWord :=
  let f := rType w
  if !customZero w then .other
  else if f.funct7 ≠ 0 ∨ f.rd ≠ 0 then .illegal
  else match f.funct3.toNat with
    | 0 => .command (.tlvDb h (x f.rs1).toNat (x f.rs2))
    | 1 => .command (.tlvStash h (x f.rs1).toNat (x f.rs2))
    | 2 => withScope f (.tlvRel h)
    | 3 => withScope f (.tlvAcq h)
    | _ => .illegal

end Sys2Proof
end

