-- ==== Sys2Proof/Config.lean ====
section
/-! DEFINITION. The free values: constants without a body, so that nothing can be proved of the value they take. Each
is named in the assumption log. -/

namespace Sys2Proof.Config

/-- A value the spec leaves open, drawn from the state's plain counter `fresh` (log 4, DESIGN CHOICE). -/
opaque freeWord : Nat → Word

/-- The sizes a driver has programmed at a root port, one for its reads and one for its writes: 128 bytes, or more (R453) (log
76, DEDUCED). -/
opaque portSmall : Nat → Bool → Bool

/-- What the part returns for a bounded function of R166, by function and operand (log 20, DESIGN CHOICE). -/
opaque freeFn : Nat → Nat → Word

/-- The bytes a run of the traffic generator leaves in a unit, by the run's draw and the offset (R342 and R350 name the
patterns, not the order of their bits in memory) (log 10, DEDUCED). -/
opaque trafficByte : Nat → Nat → Byte

/-- The SLC set a block falls into within its slice (R374 gives the number of sets, not the index) (log 11, DESIGN CHOICE). -/
opaque slcSet : Nat → Nat

/-- The snoop-filter set of a line within its slice (R374) (log 11, DESIGN CHOICE). -/
opaque filtSet : Nat → Nat

/-- Verification of an SLH-DSA-SHA2-128f signature: key, message, signature (R428, R501, R539) (log 21, DESIGN CHOICE). -/
opaque slhVerify : List Byte → List Byte → List Byte → Bool

/-- Verification of an SLH-DSA-SHA2-192s signature: key, message, signature (R497, R499, R501) (log 21, DESIGN CHOICE). -/
opaque slhVerify192 : List Byte → List Byte → List Byte → Bool

/-- The SHA-256 digests of firmware signing keys that the part's fuses hold, KEY0–KEY3 (R500) (log 21, DESIGN CHOICE). -/
opaque fuseKey : Nat → List Byte

/-- The device secret of an Acelo's fuses (R500) (log 21, DESIGN CHOICE). -/
opaque deviceSecret : Nat → List Byte

/-- The SLH-DSA-SHA2-128f public key that the seeds of R512 give (log 21, DESIGN CHOICE). -/
opaque idPublic : List Byte → List Byte

/-- The version of the ROM, as its bytes (R511, R541). -/
opaque romVersion : List Byte

/-- Where boot puts the copy of the image's records: how many 4 KiB pages above the host firmware (R509 names only
tier 0) (log 62, DEDUCED). -/
opaque recordsPage : Nat

/-- The SLH-DSA-SHA2-128f signature of the key pair with this public key over a message (R428, R513) (log 21, DESIGN
CHOICE). -/
opaque slhSign : List Byte → List Byte → List Byte

/-- Whether a certificate chain leads a key to an issuer of a trust list (R429) (log 21, DESIGN CHOICE). -/
opaque certOk : List Byte → List Byte → List Byte → Bool

/-- Whether the exponents of a VE_SLICE command, by its control word, go by column rather than by row (R171 names the
exponents as given and no field that tells the two apart) (log 23, DESIGN CHOICE). -/
opaque sliceByColumn : Nat → Bool

/-- The ADDR of a response, by its tag: a local address in the requester, which no request names (R436) (log 97, DESIGN
CHOICE). -/
opaque replyAddr : Nat → BitVec 52

/-- How many slots of a virtual channel the far end of a port can take (R438, which gives credits of slots and no number of
them) (log 55, DEDUCED, DESIGN CHOICE). -/
opaque vcCredits : Nat → Nat

/-- The 16-bit hash that spreads fabric messages over ports: agent, destination, address bits 51:8 (R431) (log 22, DESIGN
CHOICE). -/
opaque portHash : Nat → Nat → Nat → Nat

/-- Whether the driver has assigned an address of a downstream window, by port and offset, to a device's CXL.mem range rather
than to a memory BAR (R59) (log 37, DEDUCED). -/
opaque cxlMem : Nat → Nat → Bool

/-- The 16-bit hash of a flit's source and destination stop identifiers (R404 gives no function) (log 79, DESIGN CHOICE). -/
opaque flitHash : Nat → Nat → BitVec 16

/-- The CRC-24 of a mesh flit, over its routed bits and SEQ (R400 gives no polynomial) (log 54, DEDUCED). -/
opaque crc24 : BitVec 992 → BitVec 8 → BitVec 24

/-- The source and destination stop identifiers of a routed flit (R404; no rule gives the flit's layout) (log 79, DESIGN
CHOICE). -/
opaque flitStops : BitVec 992 → Nat × Nat

/-- The die of a routed flit's destination stop (R27; no rule gives the flit's layout) (log 79, DESIGN CHOICE). -/
opaque flitDie : BitVec 992 → Nat

/-- How many feature records a REQUIRES section opens with, before its minimum-value records (R243 gives no count) (log
24, DESIGN CHOICE). -/
opaque mkcFeatures : List Byte → Nat

/-- A minimum-value record's DPT index, field mask and minimum (R243 gives the record no layout) (log 24, DESIGN CHOICE). -/
opaque mkcMinimum : List Byte → Nat × Nat × Nat

/-- A field of a KERNELS record, by its place in R243's list (R243 gives the record no layout) (log 24, DESIGN CHOICE). -/
opaque mkcKernel : List Byte → Nat → Nat

/-- A parameter of an MKC operation, by its place in R244's list, from the operation code and AUX (R244 gives AUX no
layout) (log 24, DESIGN CHOICE). -/
opaque mkcAux : Nat → Nat → Nat → Nat

/-- A field of an OBJECTS record, by its place in R243's list (R243 gives the record no layout) (log 24, DESIGN CHOICE). -/
opaque mkcObject : List Byte → Nat → Nat

/-- How many K elements a matrix operation runs over, from its words (R244 gives its sizes no layout) (log 24, DESIGN
CHOICE). -/
opaque mkcK : List Byte → Nat

/-- The address that the runtime gives an operand, for one core: its place (the tier of an object, 3 for a parameter), ID and
OFFSET of its reference, the core (R249, R320)
(log 24, DESIGN CHOICE). -/
opaque mkcAddr : Nat → Nat → Nat → Nat → Nat

/-- The native commands of an operation that R246 to R250 leave open: the operation's words with what they refer to, the
table's entries, the core, the choices of a module with DETERMINISTIC = 0, the step of a matrix operation they belong to (log
24, DESIGN CHOICE). -/
opaque mkcBody : List Byte → List (BitVec 64) → Nat → Nat → List Nat → List (List (BitVec 64))

/-- A number that the loader chooses in an operation's translation (R250): the same, and what it is for (log 24, DESIGN
CHOICE). -/
opaque mkcNum : List Byte → List (BitVec 64) → Nat → Nat → List Nat → Nat

/-- How a fall-back prepares an operand (R241): the commands, and the scratchpad address they leave it at, from the operation's
words, the feature, the matrix command, the table's entries (log 24, DESIGN CHOICE). -/
opaque mkcFall : List Byte → Nat → List (BitVec 64) → List (BitVec 64) → List (List (BitVec 64)) × Nat

/-- The parameter set of a trip of a FOR: its words, the core, the trip (log 24, DESIGN CHOICE). -/
opaque mkcParams : List Byte → Nat → Nat → List (BitVec 64)

/-- The credit slots a core needs for a module (R250): its bytes, the core group, the table's entries (log 24, DESIGN
CHOICE). -/
opaque mkcCredits : List Byte → Nat → List (BitVec 64) → Nat

end Sys2Proof.Config
end

