-- ==== Sys2Proof/Machine/Maps.lean ====
section
/-! DEFINITION. Sparse maps in one canonical form: a list of (key, value) pairs with strictly rising keys and no entry
equal to what an unlisted key reads as (`d`). Registers, memories and per-unit records are held this way. -/

namespace Sys2Proof.Machine

/-- A sparse map from numbers; what an unlisted key reads as is a parameter of the operations. -/
abbrev FMap (α : Type) := List (Nat × α)

/-- The value at `k`; `d k` where no entry lists it. -/
def mget {α : Type} (d : Nat → α) : FMap α → Nat → α
  | [], k => d k
  | (k', v) :: m, k => if k' = k then v else mget d m k

/-- Every entry but those of `k`. -/
def merase {α : Type} : FMap α → Nat → FMap α
  | [], _ => []
  | (k', v) :: m, k => if k' = k then merase m k else (k', v) :: merase m k

/-- Insert an entry before the first greater key. -/
def minsert {α : Type} : FMap α → Nat → α → FMap α
  | [], k, v => [(k, v)]
  | (k', v') :: m, k, v => if k < k' then (k, v) :: (k', v') :: m else (k', v') :: minsert m k v

/-- Write `v` at `k`, keeping the canonical form: writing what an unlisted key reads as removes the entry. -/
def mput {α : Type} [DecidableEq α] (d : Nat → α) (m : FMap α) (k : Nat) (v : α) : FMap α :=
  if v = d k then merase m k else minsert (merase m k) k v

/-- Rewrite the value at `k`. -/
def mmod {α : Type} [DecidableEq α] (d : Nat → α) (m : FMap α) (k : Nat) (f : α → α) : FMap α :=
  mput d m k (f (mget d m k))

/-- The canonical form (Memory and every other map): keys strictly rising, no entry equal to the default. -/
def mwf {α : Type} [DecidableEq α] (d : Nat → α) : FMap α → Bool
  | [] => true
  | (k, v) :: m => decide (v ≠ d k) && m.all (fun e => decide (k < e.1)) && mwf d m

/-- A list with the element at `i` rewritten; unchanged when there is none. -/
def modAt {α : Type} (f : α → α) : List α → Nat → List α
  | [], _ => []
  | x :: xs, 0 => f x :: xs
  | x :: xs, i + 1 => x :: modAt f xs i

/-- The element at `i`, `d` when there is none. -/
def atD {α : Type} (d : α) : List α → Nat → α
  | [], _ => d
  | x :: _, 0 => x
  | _ :: xs, i + 1 => atD d xs i

/-- Bits hi down to lo of a number. -/
def nbits (v hi lo : Nat) : Nat := (v >>> lo) % 2 ^ (hi + 1 - lo)

/-- Bits hi down to lo of a word, as a number. -/
def bits {n : Nat} (w : BitVec n) (hi lo : Nat) : Nat := nbits w.toNat hi lo

/-- One bit of a word. -/
def bit {n : Nat} (w : BitVec n) (i : Nat) : Bool := w.getLsbD i

/-- A word with bits hi down to lo set from a number. -/
def setBits (w : Word) (hi lo v : Nat) : Word :=
  BitVec.ofNat 64 (w.toNat - nbits w.toNat hi lo <<< lo + (v % 2 ^ (hi + 1 - lo)) <<< lo)

/-- A word with one bit set or cleared. -/
def setBit (w : Word) (i : Nat) (b : Bool) : Word := setBits w i i (if b then 1 else 0)

/-- The word of a number. -/
def word (v : Nat) : Word := BitVec.ofNat 64 v

/-- 1 for true. -/
def b2n (b : Bool) : Nat := if b then 1 else 0

/-- The little-endian bytes of a number. -/
def leBytes : Nat → Nat → List Byte
  | 0, _ => []
  | n + 1, v => BitVec.ofNat 8 (v % 256) :: leBytes n (v / 256)

/-- The number of little-endian bytes. -/
def leNat : List Byte → Nat
  | [] => 0
  | b :: bs => b.toNat + 256 * leNat bs

/-- The big-endian bytes of a number. -/
def beBytes (n v : Nat) : List Byte := (leBytes n v).reverse

/-- Two's-complement value of the low `n` bits. -/
def toInt (n v : Nat) : Int :=
  let u := v % 2 ^ n
  if u < 2 ^ (n - 1) then (u : Int) else (u : Int) - (2 ^ n : Nat)

/-- The low `n` bits of an integer, two's complement. -/
def ofInt (n : Nat) (i : Int) : Nat := (i % (2 ^ n : Nat)).toNat

/-- Left fold over 0, 1, …, n − 1. -/
def foldN {α : Type} (n : Nat) (a : α) (f : α → Nat → α) : α :=
  (List.range n).foldl f a

end Sys2Proof.Machine
end

