-- ==== Sys2Proof/Machine/Float.lean ====
section
/-! DEFINITION. Number formats and exact arithmetic (R127–R130, R144–R147, R560): every format decodes to an exact
dyadic value, operations are exact, and a result is rounded once into its format with its flags (R169). -/

namespace Sys2Proof.Machine

/-- An exact value: NaN, an infinity, or (−1)^neg × m × 2^e, zero keeping its sign. -/
inductive XNum
  | nan
  | inf (neg : Bool)
  | fin (neg : Bool) (m : Nat) (e : Int)
  deriving DecidableEq, Repr

/-- What a format has at its top codes (R129). -/
inductive TopKind
  | ieee | e4m3 | none
  deriving DecidableEq, Repr

/-- A float format: exponent bits, fraction bits, bias, top codes (R128, R129). -/
structure FFmt where
  eb   : Nat
  mb   : Nat
  bias : Nat
  top  : TopKind
  deriving DecidableEq, Repr

def f64 : FFmt := ⟨11, 52, 1023, .ieee⟩
def f32 : FFmt := ⟨8, 23, 127, .ieee⟩
def fbf16 : FFmt := ⟨8, 7, 127, .ieee⟩
def f16 : FFmt := ⟨5, 10, 15, .ieee⟩
def fE5M2 : FFmt := ⟨5, 2, 15, .ieee⟩
def fE4M3 : FFmt := ⟨4, 3, 7, .e4m3⟩
def fE3M2 : FFmt := ⟨3, 2, 3, .none⟩
def fE2M3 : FFmt := ⟨2, 3, 1, .none⟩
def fE2M1 : FFmt := ⟨2, 1, 1, .none⟩

/-- How a format code's elements are read (R127). -/
inductive Elem
  | int (n : Nat)
  | flt (f : FFmt)
  | e8m0
  deriving DecidableEq, Repr

/-- The element of a format code (R127); MX codes give their unscaled element. -/
def elemOf (code : Nat) : Elem :=
  match code with
  | 0 => .int 4 | 1 => .int 8 | 2 => .flt fE2M1 | 3 => .flt fE2M3 | 4 => .flt fE3M2 | 5 => .flt fE4M3
  | 6 => .flt fE5M2 | 7 => .flt fE4M3 | 8 => .flt fE5M2 | 9 => .flt fbf16 | 10 => .flt f16 | 11 => .flt f32
  | 12 => .flt f64 | 13 => .int 32 | 14 => .int 64 | _ => .e8m0

/-- Bits per element of a format code (R127). -/
def fmtBits (code : Nat) : Nat :=
  match code with
  | 0 => 4 | 1 => 8 | 2 => 4 | 3 => 6 | 4 => 6 | 5 => 8 | 6 => 8 | 7 => 8 | 8 => 8 | 9 => 16 | 10 => 16
  | 11 => 32 | 12 => 64 | 13 => 32 | 14 => 64 | _ => 8

/-- Codes scaled by an E8M0 block scale (R127). -/
def fmtMX (code : Nat) : Bool := code == 2 || code == 3 || code == 4 || code == 7 || code == 8

/-- Integer codes. -/
def fmtInt (code : Nat) : Bool := code == 0 || code == 1 || code == 13 || code == 14

/-- Decode a float (R129). -/
def fdec (f : FFmt) (b : Nat) : XNum :=
  let s := decide (b / 2 ^ (f.eb + f.mb) % 2 = 1)
  let e := b / 2 ^ f.mb % 2 ^ f.eb
  let m := b % 2 ^ f.mb
  let top := 2 ^ f.eb - 1
  if f.top = .ieee ∧ e = top then (if m = 0 then .inf s else .nan)
  else if f.top = .e4m3 ∧ e = top ∧ m = 2 ^ f.mb - 1 then .nan
  else if e = 0 then .fin s m (1 - (f.bias : Int) - f.mb)
  else .fin s (2 ^ f.mb + m) ((e : Int) - f.bias - f.mb)

/-- The NaN written (R129); formats without one write 0 (R137). -/
def fnan (f : FFmt) : Nat :=
  match f.top with
  | .ieee => (2 ^ f.eb - 1) * 2 ^ f.mb + 2 ^ (f.mb - 1)
  | .e4m3 => 2 ^ (f.eb + f.mb) - 1
  | .none => 0

/-- The largest finite magnitude's code (R129). -/
def fmax (f : FFmt) : Nat :=
  match f.top with
  | .ieee => (2 ^ f.eb - 1) * 2 ^ f.mb - 1
  | .e4m3 => 2 ^ (f.eb + f.mb) - 2
  | .none => 2 ^ (f.eb + f.mb) - 1

/-- The sign bit of a format. -/
def fsign (f : FFmt) (neg : Bool) : Nat := if neg then 2 ^ (f.eb + f.mb) else 0

/-- The IEEE flags of R169 as bits NV 4, DZ 3, OF 2, UF 1, NX 0. -/
abbrev Flags := Nat
def flNV : Flags := 16
def flDZ : Flags := 8
def flOF : Flags := 4
def flUF : Flags := 2
def flNX : Flags := 1

/-- Rounding parameters of a conversion: RM, SAT, the element's 16 random bits (R144). -/
structure Rnd where
  rm  : Nat
  sat : Bool
  r   : Nat
  deriving DecidableEq, Repr

def rne : Rnd := ⟨0, false, 0⟩

/-- Whether a value between neighbours takes the larger magnitude (R144): `k` the smaller neighbour, `rem` / 2^`s` the
distance. -/
def roundUp (rd : Rnd) (k rem s : Nat) : Bool :=
  if rem = 0 then false
  else if rd.rm = 0 then decide (2 * rem > 2 ^ s) || (decide (2 * rem = 2 ^ s) && decide (k % 2 = 1))
  else if rd.rm = 1 then false
  else decide (rem * 2 ^ 16 / 2 ^ s + rd.r ≥ 2 ^ 16)

/-- A magnitude m × 2^e cut at weight 2^q: the integer part, the remainder and its number of bits. -/
def cutAt (m : Nat) (e q : Int) : Nat × Nat × Nat :=
  if e ≥ q then (m * 2 ^ (e - q).toNat, 0, 0)
  else let s := (q - e).toNat
       (m / 2 ^ s, m % 2 ^ s, s)

/-- The exponent of the leading bit of m × 2^e, m ≠ 0. -/
def leadExp (m : Nat) (e : Int) : Int := e + (Nat.log2 m : Int)

/-- The code of an overflowed magnitude (R146): RTZ and SAT write the largest finite value, else infinity, NaN for
E4M3, and the largest finite value for MX elements (R137) (log 48, DEDUCED). -/
def foverflow (f : FFmt) (rd : Rnd) : Nat × Flags :=
  if rd.rm = 1 then (fmax f, flNX)
  else if rd.sat || f.top = .none then (fmax f, flOF + flNX)
  else match f.top with
    | .ieee => ((2 ^ f.eb - 1) * 2 ^ f.mb, flOF + flNX)
    | _ => (fnan f, flOF + flNX)

/-- Round a non-zero magnitude into a format (R144, R146, R169): the code without its sign, and the flags. -/
def fround (f : FFmt) (rd : Rnd) (m : Nat) (e : Int) : Nat × Flags :=
  let emin : Int := 1 - (f.bias : Int)
  let L := leadExp m e
  let q := max (L - f.mb) (emin - f.mb)
  let c := cutAt m e q
  let k := c.1 + b2n (roundUp rd c.1 c.2.1 c.2.2)
  let code := (q - (emin - f.mb)).toNat * 2 ^ f.mb + k
  let inexact := decide (c.2.1 ≠ 0)
  let tiny : Bool := decide (L < emin) &&
    (let u := cutAt m e (L - f.mb)
     !(decide (L + 1 = emin) && decide (u.1 + b2n (roundUp rd u.1 u.2.1 u.2.2) = 2 ^ (f.mb + 1))))
  if code > fmax f then foverflow f rd
  else (code, (if inexact then flNX else 0) + (if inexact && tiny then flUF else 0))

/-- A value written in a float format (R146); an infinity that becomes a NaN is invalid (R169) (log 48, DEDUCED). -/
def fenc (f : FFmt) (rd : Rnd) (x : XNum) : Nat × Flags :=
  match x with
  | .nan => (fnan f, 0)
  | .inf s =>
    match f.top with
    | .ieee => ((2 ^ f.eb - 1) * 2 ^ f.mb + fsign f s, 0)
    | .e4m3 => if rd.sat then (fmax f + fsign f s, 0) else (fnan f, flNV)
    | .none => (fmax f + fsign f s, 0)
  | .fin s m e =>
    if m = 0 then (fsign f s, 0)
    else let r := fround f rd m e
         (if r.1 = fnan f ∧ f.top = .e4m3 then r.1 else r.1 + fsign f s, r.2)

/-- An exact integer. -/
def numOfInt (i : Int) : XNum := .fin (decide (i < 0)) i.natAbs 0

/-- A value clamped and rounded into n-bit two's complement (R147): the code and the flags. -/
def ienc (n : Nat) (rd : Rnd) (x : XNum) : Nat × Flags :=
  let lo : Int := -(2 ^ (n - 1) : Nat)
  let hi : Int := (2 ^ (n - 1) : Nat) - 1
  match x with
  | .nan => (0, flNV)
  | .inf s => (ofInt n (if s then lo else hi), flNV)
  | .fin s m e =>
    let c := cutAt m e 0
    let k : Nat := c.1 + b2n (roundUp rd c.1 c.2.1 c.2.2)
    let v : Int := if s then -(k : Int) else k
    if v < lo then (ofInt n lo, flNV) else if v > hi then (ofInt n hi, flNV)
    else (ofInt n v, if c.2.1 ≠ 0 then flNX else 0)

/-- An E8M0 byte read (R129). -/
def e8dec (b : Nat) : XNum := if b = 255 then .nan else .fin false 1 ((b : Int) - 127)

/-- A value written as an E8M0 byte (R560). -/
def e8enc (rd : Rnd) (x : XNum) : Nat × Flags :=
  match x with
  | .nan => (255, flNV)
  | .inf true => (255, flNV)
  | .inf false => if rd.sat then (254, 0) else (255, flOF)
  | .fin s m e =>
    if m = 0 then (0, 0)
    else if s then (255, flNV)
    else
      let L := leadExp m e
      let rem := m - 2 ^ Nat.log2 m
      let up : Bool := if rem = 0 then false
        else if rd.rm = 0 then decide (2 * rem > 2 ^ Nat.log2 m) ||
          (decide (2 * rem = 2 ^ Nat.log2 m) && decide ((L + 127) % 2 = 1))
        else if rd.rm = 1 then false
        else decide (rem * 2 ^ 16 / 2 ^ Nat.log2 m + rd.r ≥ 2 ^ 16)
      let X := L + 127 + (if up then 1 else 0)
      let nx := if rem = 0 then 0 else flNX
      if X > 254 then (if rd.sat then (254, nx) else (255, flOF + nx))
      else if X < 0 then (0, flUF + flNX)
      else (X.toNat, nx)

/-- Read an element of a format code at its exact value. -/
def ndec (code b : Nat) : XNum :=
  match elemOf code with
  | .int n => numOfInt (toInt n b)
  | .flt f => fdec f b
  | .e8m0 => e8dec b

/-- Write a value in a format code, unscaled. -/
def nenc (code : Nat) (rd : Rnd) (x : XNum) : Nat × Flags :=
  match elemOf code with
  | .int n => ienc n rd x
  | .flt f => fenc f rd x
  | .e8m0 => e8enc rd x

/-! #### Exact operations -/

/-- The signed numerator of a finite value at weight 2^q, q ≤ its exponent. -/
def atWeight (neg : Bool) (m : Nat) (e q : Int) : Int :=
  let v : Int := ((m * 2 ^ (e - q).toNat : Nat) : Int)
  if neg then -v else v

/-- Exact sum; the flag is NV for ∞ − ∞. An exact zero is +0 unless both terms are −0. -/
def nadd (x y : XNum) : XNum × Flags :=
  match x, y with
  | .nan, _ => (.nan, 0)
  | _, .nan => (.nan, 0)
  | .inf a, .inf b => if a = b then (.inf a, 0) else (.nan, flNV)
  | .inf a, _ => (.inf a, 0)
  | _, .inf b => (.inf b, 0)
  | .fin s m e, .fin t n g =>
    let q := min e g
    let v := atWeight s m e q + atWeight t n g q
    if v = 0 then (.fin (s && t && decide (m = 0) && decide (n = 0)) 0 0, 0)
    else (.fin (decide (v < 0)) v.natAbs q, 0)

/-- Sign change. -/
def nneg : XNum → XNum
  | .nan => .nan
  | .inf s => .inf !s
  | .fin s m e => .fin (!s) m e

def nabs : XNum → XNum
  | .nan => .nan
  | .inf _ => .inf false
  | .fin _ m e => .fin false m e

/-- Exact product; NV for ∞ × 0. -/
def nmul (x y : XNum) : XNum × Flags :=
  match x, y with
  | .nan, _ => (.nan, 0)
  | _, .nan => (.nan, 0)
  | .inf a, .inf b => (.inf (a != b), 0)
  | .inf a, .fin t n _ => if n = 0 then (.nan, flNV) else (.inf (a != t), 0)
  | .fin s m _, .inf b => if m = 0 then (.nan, flNV) else (.inf (s != b), 0)
  | .fin s m e, .fin t n g => (.fin (s != t) (m * n) (e + g), 0)

/-- x × y + z, exact. ∞ × 0 + NaN raises NV: IEEE 754-2019 leaves it to the implementation (log 95, DESIGN CHOICE). -/
def nfma (x y z : XNum) : XNum × Flags :=
  let p := nmul x y
  let r := nadd p.1 z
  (r.1, if p.2 = flNV ∨ r.2 = flNV then flNV else 0)

/-- x × 2^k. -/
def nscale (x : XNum) (k : Int) : XNum :=
  match x with
  | .fin s m e => .fin s m (e + k)
  | v => v

/-- Quotient, with enough bits and a sticky bit for one rounding; DZ and NV by IEEE 754. -/
def ndiv (x y : XNum) : XNum × Flags :=
  match x, y with
  | .nan, _ => (.nan, 0)
  | _, .nan => (.nan, 0)
  | .inf _, .inf _ => (.nan, flNV)
  | .inf a, .fin t _ _ => (.inf (a != t), 0)
  | .fin s _ _, .inf b => (.fin (s != b) 0 0, 0)
  | .fin s m e, .fin t n g =>
    if n = 0 then (if m = 0 then (.nan, flNV) else (.inf (s != t), flDZ))
    else if m = 0 then (.fin (s != t) 0 0, 0)
    else
      let k := 200 + Nat.log2 n
      let v := m * 2 ^ k / n
      let st := if m * 2 ^ k % n = 0 then 0 else 1
      (.fin (s != t) (2 * v + st) (e - g - (k : Int) - 1), 0)

/-- Integer square root, bit by bit from bit `i` down. -/
def isqrtGo : Nat → Nat → Nat → Nat
  | 0, _, r => r
  | i + 1, n, r => let c := r + 2 ^ i; if c * c ≤ n then isqrtGo i n c else isqrtGo i n r

def isqrt (n : Nat) : Nat := isqrtGo (Nat.log2 n / 2 + 1) n 0

/-- Square root with a sticky bit; NV for a negative value other than −0. -/
def nsqrt (x : XNum) : XNum × Flags :=
  match x with
  | .nan => (.nan, 0)
  | .inf true => (.nan, flNV)
  | .inf false => (.inf false, 0)
  | .fin s m e =>
    if m = 0 then (.fin s 0 0, 0)
    else if s then (.nan, flNV)
    else
      let m2 := if e % 2 = 0 then m else 2 * m
      let e2 := if e % 2 = 0 then e else e - 1
      let n := m2 * 2 ^ 260
      let r := isqrt n
      (.fin false (2 * r + (if r * r = n then 0 else 1)) (e2 / 2 - 131), 0)

/-- Comparison of two values that are not NaN. -/
def ncmp (x y : XNum) : Ordering :=
  match x, y with
  | .nan, _ => .eq
  | _, .nan => .eq
  | .inf a, .inf b => if a = b then .eq else if a then .lt else .gt
  | .inf a, _ => if a then .lt else .gt
  | _, .inf b => if b then .gt else .lt
  | .fin s m e, .fin t n g =>
    let q := min e g
    compare (atWeight s m e q) (atWeight t n g q)

def nisNan : XNum → Bool
  | .nan => true
  | _ => false

/-- The sign of a value, −0 negative. -/
def nneg? : XNum → Bool
  | .nan => false
  | .inf s => s
  | .fin s _ _ => s

def nzero : XNum → Bool
  | .fin _ 0 _ => true
  | _ => false

/-- MIN and MAX of R165: a NaN wins, −0 is below +0. -/
def nmin (x y : XNum) : XNum :=
  if nisNan x || nisNan y then .nan
  else match ncmp x y with
    | .lt => x
    | .gt => y
    | .eq => if nneg? x then x else y

def nmax (x y : XNum) : XNum :=
  if nisNan x || nisNan y then .nan
  else match ncmp x y with
    | .lt => y
    | .gt => x
    | .eq => if nneg? x then y else x

/-- The 16 random bits of output element `idx` under SEED (R145). -/
def srBits (seed idx : Nat) : Nat :=
  let x0 : BitVec 32 := BitVec.ofNat 32 seed ^^^ (BitVec.ofNat 32 idx * 2654435769#32)
  let x1 := x0 ^^^ (x0 >>> 16)
  let x2 := x1 * 2246822507#32
  let x3 := x2 ^^^ (x2 >>> 13)
  let x4 := x3 * 3266489909#32
  let x5 := x4 ^^^ (x4 >>> 16)
  (x5 >>> 16).toNat

end Sys2Proof.Machine
end

