-- ==== Sys2Proof/Machine/Atomics.lean ====
section
/-! DEFINITION. What an atomic does to its bytes (R175, R223, R384) and what a reduction does to its elements (R385). -/

namespace Sys2Proof.Machine

/-- The new value of an atomic on `n`-bit values (R175). -/
def atomNew (fn : AtomFn) (n old opnd cmp : Nat) : Nat :=
  match fn with
  | .swap => opnd % 2 ^ n
  | .add => (old + opnd) % 2 ^ n
  | .and => (old &&& opnd) % 2 ^ n
  | .or => (old ||| opnd) % 2 ^ n
  | .xor => (old ^^^ opnd) % 2 ^ n
  | .minS => if toInt n opnd < toInt n old then opnd % 2 ^ n else old
  | .maxS => if toInt n opnd > toInt n old then opnd % 2 ^ n else old
  | .minU => if opnd % 2 ^ n < old then opnd % 2 ^ n else old
  | .maxU => if opnd % 2 ^ n > old then opnd % 2 ^ n else old
  | .cas => if old = cmp % 2 ^ n then opnd % 2 ^ n else old

/-- One element of a reduction (R385): ROP 1 ADD, 2 MIN, 3 MAX. -/
def reduceElem (rop rfmt old new : Nat) : Nat :=
  match elemOf rfmt with
  | .int n =>
    if rop = 1 then (old + new) % 2 ^ n
    else if rop = 2 then (if toInt n new < toInt n old then new else old)
    else (if toInt n new > toInt n old then new else old)
  | .flt f =>
    let x := fdec f old
    let y := fdec f new
    if rop = 1 then (fenc f rne (nadd x y).1).1
    else if rop = 2 then (fenc f rne (nmin x y)).1
    else (fenc f rne (nmax x y)).1
  | .e8m0 => old

/-- The bytes lo to lo + n of a list. -/
def slice (bs : List Byte) (lo n : Nat) : List Byte := (bs.drop lo).take n

/-- Bytes with `new` in place of those from `lo` on. -/
def splice (bs : List Byte) (lo : Nat) (new : List Byte) : List Byte :=
  bs.take lo ++ new ++ bs.drop (lo + new.length)

/-- Bits lo to lo + n of a mask are all set. -/
def maskAll (mask : BitVec 64) (lo n : Nat) : Bool := nbits mask.toNat (lo + n - 1) lo == 2 ^ n - 1

/-- A reduction on a line (R385): every element whose bytes the mask names; the other bytes are unchanged. -/
def reduceLine (rop rfmt : Nat) (mask : BitVec 64) (old data : List Byte) : List Byte :=
  let w := fmtBits rfmt / 8
  foldN (64 / w) old (fun acc i =>
    if maskAll mask (w * i) w then
      splice acc (w * i) (leBytes w (reduceElem rop rfmt (leNat (slice old (w * i) w)) (leNat (slice data (w * i) w))))
    else acc)

/-- An atomic on a line (R384). -/
def atomLine (op : AtomOp) (old data : List Byte) : List Byte :=
  match op with
  | .amo fn size off opnd cmp =>
    splice old off (leBytes size (atomNew fn (8 * size) (leNat (slice old off size)) opnd.toNat cmp.toNat))
  | .reduce rop rfmt mask => reduceLine rop rfmt mask old data

/-- Masked bytes of `new` over `old`. -/
def mergeBytes (mask : BitVec 64) : Nat → List Byte → List Byte → List Byte
  | _, [], _ => []
  | _, o :: os, [] => o :: os
  | i, o :: os, n :: ns => (if bit mask i then n else o) :: mergeBytes mask (i + 1) os ns

/-- The 64-bit mask of bytes off to off + n of a line. -/
def lineMask (off n : Nat) : BitVec 64 := BitVec.ofNat 64 ((2 ^ n - 1) * 2 ^ off)

def fullMask : BitVec 64 := BitVec.ofNat 64 (2 ^ 64 - 1)

end Sys2Proof.Machine
end

