-- ==== Sys2Proof/Machine/RegAddr.lean ====
section
/-! DEFINITION. Where each register stands in the local address map: block bases (R52, R54, R56, R58) and one
address function per register of the spec's tables. Groups, stacks, devices, ports and clusters carry their flat
package-wide numbers (R17, R19, R20, R44). -/

namespace Sys2Proof.Machine

/-- Core window of flat core c (R52). -/
def coreWin (c : Nat) : Nat := 0x040000000000 + c * 0x1000000
/-- Register block of core c, sub-block at off (R52, R54). -/
def coreBlk (c off : Nat) : Nat := coreWin c + 0xC00000 + off
/-- Register window of die d, block at off (R56). -/
def dieBlk (d off : Nat) : Nat := 0x060000000000 + d * 0x40000000 + off
/-- The PCP block of Acelo a (R56). -/
def pcpBlk (a off : Nat) : Nat := dieBlk (4 + a) (0x500000 + off)

namespace Reg

/-! CORE (R91) -/
def coreId (c : Nat) : Nat := coreBlk c (0x0 + 0)
def coreStatus (c : Nat) : Nat := coreBlk c (0x0 + 8)
def coreCtrl (c : Nat) : Nat := coreBlk c (0x0 + 0x10)
def coreHaltCause (c : Nat) : Nat := coreBlk c (0x0 + 0x18)
def coreMbErr (c : Nat) : Nat := coreBlk c (0x0 + 0x20)
def coreMeBusyCnt (c : Nat) : Nat := coreBlk c (0x0 + 0x40)
def coreVeBusyCnt (c : Nat) : Nat := coreBlk c (0x0 + 0x48)
def coreSeBusyCnt (c : Nat) : Nat := coreBlk c (0x0 + 0x50)
def coreDeBusyCnt (c : Nat) : Nat := coreBlk c (0x0 + 0x58)
def coreCmdRetCnt (c : Nat) : Nat := coreBlk c (0x0 + 0x60)

/-! QFE (R236) -/
def qfeCfg (c : Nat) : Nat := coreBlk c (0x1000 + 0)
def qfeStatus (c : Nat) : Nat := coreBlk c (0x1000 + 8)
def qfeDbQueue (c : Nat) : Nat := coreBlk c (0x1000 + 0x10)
def qfeErrLog (c : Nat) : Nat := coreBlk c (0x1000 + 0x18)
def qfeMsiAddr (c : Nat) : Nat := coreBlk c (0x1000 + 0x20)
def qfeMsiData (c : Nat) : Nat := coreBlk c (0x1000 + 0x28)
def qfeFetchCnt (c : Nat) : Nat := coreBlk c (0x1000 + 0x30)
def qfeXlatStallCnt (c : Nat) : Nat := coreBlk c (0x1000 + 0x38)
def qfePatchCnt (c : Nat) : Nat := coreBlk c (0x1000 + 0x40)
def qfeQCtrl (c i : Nat) : Nat := coreBlk c (0x1000 + 0x100 + 0x80 * i)
def qfeQRing (c i : Nat) : Nat := coreBlk c (0x1000 + 0x108 + 0x80 * i)
def qfeQCtx (c i : Nat) : Nat := coreBlk c (0x1000 + 0x110 + 0x80 * i)
def qfeQHead (c i : Nat) : Nat := coreBlk c (0x1000 + 0x118 + 0x80 * i)
def qfeQTail (c i : Nat) : Nat := coreBlk c (0x1000 + 0x120 + 0x80 * i)
def qfeQStatus (c i : Nat) : Nat := coreBlk c (0x1000 + 0x128 + 0x80 * i)
def qfeQCq (c i : Nat) : Nat := coreBlk c (0x1000 + 0x130 + 0x80 * i)
def qfeQCqHead (c i : Nat) : Nat := coreBlk c (0x1000 + 0x138 + 0x80 * i)
def qfeQCqTail (c i : Nat) : Nat := coreBlk c (0x1000 + 0x140 + 0x80 * i)
def qfeQWtmo (c i : Nat) : Nat := coreBlk c (0x1000 + 0x148 + 0x80 * i)
def qfeQErr (c i : Nat) : Nat := coreBlk c (0x1000 + 0x150 + 0x80 * i)
def qfeQRestart (c i : Nat) : Nat := coreBlk c (0x1000 + 0x158 + 0x80 * i)
def qfeQRep (c i : Nat) : Nat := coreBlk c (0x1000 + 0x160 + 0x80 * i)
def qfeQStopCode (c i : Nat) : Nat := coreBlk c (0x1000 + 0x168 + 0x80 * i)
def qfeLsem (c i : Nat) : Nat := coreBlk c (0x1000 + 0x800 + 8 * i)

/-! ATU (R309) -/
def atuCfg (c : Nat) : Nat := coreBlk c (0x2000 + 0)
def atuStatus (c : Nat) : Nat := coreBlk c (0x2000 + 8)
def atuFltBase (c : Nat) : Nat := coreBlk c (0x2000 + 0x10)
def atuFltHead (c : Nat) : Nat := coreBlk c (0x2000 + 0x18)
def atuFltTail (c : Nat) : Nat := coreBlk c (0x2000 + 0x20)
def atuFltResume (c : Nat) : Nat := coreBlk c (0x2000 + 0x28)
def atuMsiAddr (c : Nat) : Nat := coreBlk c (0x2000 + 0x30)
def atuMsiData (c : Nat) : Nat := coreBlk c (0x2000 + 0x38)
def atuHitCnt (c : Nat) : Nat := coreBlk c (0x2000 + 0x40)
def atuMissCnt (c : Nat) : Nat := coreBlk c (0x2000 + 0x48)
def atuFltCnt (c : Nat) : Nat := coreBlk c (0x2000 + 0x50)
def atuJoinCnt (c : Nat) : Nat := coreBlk c (0x2000 + 0x58)
def atuRetransCnt (c : Nat) : Nat := coreBlk c (0x2000 + 0x60)
def atuErrLog (c : Nat) : Nat := coreBlk c (0x2000 + 0x68)
def atuFltPend (c i : Nat) : Nat := coreBlk c (0x2000 + 0x100 + 0x10 * i)
def atuFltPva (c i : Nat) : Nat := coreBlk c (0x2000 + 0x108 + 0x10 * i)
def atuQEpoch (c i : Nat) : Nat := coreBlk c (0x2000 + 0x200 + 8 * i)

/-! SPC (R204) -/
def spcCfg (c : Nat) : Nat := coreBlk c (0x3000 + 0)
def spcBankGate (c : Nat) : Nat := coreBlk c (0x3000 + 8)
def spcBankOff (c : Nat) : Nat := coreBlk c (0x3000 + 0x10)
def spcBankPend (c : Nat) : Nat := coreBlk c (0x3000 + 0x18)
def spcBankHold (c : Nat) : Nat := coreBlk c (0x3000 + 0x20)
def spcWideConfCnt (c : Nat) : Nat := coreBlk c (0x3000 + 0x28)
def spcNarrowWaitCnt (c : Nat) : Nat := coreBlk c (0x3000 + 0x30)
def spcAgeOvrCnt (c : Nat) : Nat := coreBlk c (0x3000 + 0x38)
def spcCeCnt (c : Nat) : Nat := coreBlk c (0x3000 + 0x40)
def spcViolCnt (c : Nat) : Nat := coreBlk c (0x3000 + 0x48)
def spcViolLog (c : Nat) : Nat := coreBlk c (0x3000 + 0x50)
def spcErr (c : Nat) : Nat := coreBlk c (0x3000 + 0x58)
def spcCredit (c i : Nat) : Nat := coreBlk c (0x3000 + 0x100 + 8 * i)

/-! ME (R126) -/
def meCfg (c : Nat) : Nat := coreBlk c (0x4000 + 0)
def meStatus (c : Nat) : Nat := coreBlk c (0x4000 + 8)
def mePolicy (c : Nat) : Nat := coreBlk c (0x4000 + 0x10)
def meRepair (c : Nat) : Nat := coreBlk c (0x4000 + 0x18)
def meStreamCnt (c : Nat) : Nat := coreBlk c (0x4000 + 0x20)
def meMacCnt (c : Nat) : Nat := coreBlk c (0x4000 + 0x28)
def meActCnt (c : Nat) : Nat := coreBlk c (0x4000 + 0x30)
def meFdCnt (c : Nat) : Nat := coreBlk c (0x4000 + 0x38)
def meLoadStallCnt (c : Nat) : Nat := coreBlk c (0x4000 + 0x40)
def meOpndStallCnt (c : Nat) : Nat := coreBlk c (0x4000 + 0x48)
def meHoldCnt (c : Nat) : Nat := coreBlk c (0x4000 + 0x50)
def meAccCeCnt (c : Nat) : Nat := coreBlk c (0x4000 + 0x58)
def meErr (c : Nat) : Nat := coreBlk c (0x4000 + 0x60)

/-! VE (R179) -/
def veCfg (c : Nat) : Nat := coreBlk c (0x5000 + 0)
def veStatus (c : Nat) : Nat := coreBlk c (0x5000 + 8)
def veElemCnt (c : Nat) : Nat := coreBlk c (0x5000 + 0x10)
def veFlopCnt (c : Nat) : Nat := coreBlk c (0x5000 + 0x18)
def veOpndStallCnt (c : Nat) : Nat := coreBlk c (0x5000 + 0x20)
def veL1StallCnt (c : Nat) : Nat := coreBlk c (0x5000 + 0x28)
def veErr (c : Nat) : Nat := coreBlk c (0x5000 + 0x30)
def veFlags (c i : Nat) : Nat := coreBlk c (0x5000 + 0x100 + 8 * i)

/-! SE (R180) -/
def seCfg (c : Nat) : Nat := coreBlk c (0x6000 + 0)
def seStatus (c : Nat) : Nat := coreBlk c (0x6000 + 8)
def seOpCnt (c : Nat) : Nat := coreBlk c (0x6000 + 0x10)
def seBrCnt (c : Nat) : Nat := coreBlk c (0x6000 + 0x18)
def seG (c i : Nat) : Nat := coreBlk c (0x6000 + 0x100 + 8 * i)
def sePred (c i : Nat) : Nat := coreBlk c (0x6000 + 0x500 + 8 * i)

/-! L1 (R93) -/
def l1Cfg (c : Nat) : Nat := coreBlk c (0x8000 + 0)
def l1Ctrl (c : Nat) : Nat := coreBlk c (0x8000 + 8)
def l1WayDis (c : Nat) : Nat := coreBlk c (0x8000 + 0x10)
def l1ParCnt (c : Nat) : Nat := coreBlk c (0x8000 + 0x18)
def l1HitCnt (c : Nat) : Nat := coreBlk c (0x8000 + 0x20)
def l1MissCnt (c : Nat) : Nat := coreBlk c (0x8000 + 0x28)
def l1PfIssueCnt (c : Nat) : Nat := coreBlk c (0x8000 + 0x30)
def l1PfHitCnt (c : Nat) : Nat := coreBlk c (0x8000 + 0x38)
def l1MbDrainCnt (c : Nat) : Nat := coreBlk c (0x8000 + 0x40)

/-! ENG (R495) -/
def engCoreE (c : Nat) : Nat := coreBlk c (0x9000 + 0)
def engIdleE (c : Nat) : Nat := coreBlk c (0x9000 + 8)
def engQE (c i : Nat) : Nat := coreBlk c (0x9000 + 0x100 + 8 * i)

/-! CLK, both die types (R45) -/
def clkDomainNclk (d : Nat) : Nat := dieBlk d (0x10000 + 0)
def clkNclkCnt (d : Nat) : Nat := dieBlk d (0x10000 + 8)
def clkPllStatus (d : Nat) : Nat := dieBlk d (0x10000 + 0x20)
def clkPllLoss (d : Nat) : Nat := dieBlk d (0x10000 + 0x28)

/-! CLK, compute dies only (R45) -/
def clkAclkCnt (d i : Nat) : Nat := dieBlk d (0x10000 + 0x100 + 8 * i)
def clkAclkMhz (d i : Nat) : Nat := dieBlk d (0x10000 + 0x180 + 8 * i)

/-! CLK, Acelos only (R45) -/
def clkRefCnt (d : Nat) : Nat := dieBlk d (0x10000 + 0x10)
def clkPcpCnt (d : Nat) : Nat := dieBlk d (0x10000 + 0x18)
def clkHclkCnt (d i : Nat) : Nat := dieBlk d (0x10000 + 0x100 + 8 * i)
def clkHclkMhz (d i : Nat) : Nat := dieBlk d (0x10000 + 0x180 + 8 * i)

/-! RAS (R531) -/
def rasCfg (d : Nat) : Nat := dieBlk d (0x20000 + 0)
def rasStatus (d : Nat) : Nat := dieBlk d (0x20000 + 8)
def rasLog (d : Nat) : Nat := dieBlk d (0x20000 + 0x10)
def rasLogW1 (d : Nat) : Nat := dieBlk d (0x20000 + 0x18)
def rasOvfCnt (d : Nat) : Nat := dieBlk d (0x20000 + 0x20)
def rasCeCnt (d : Nat) : Nat := dieBlk d (0x20000 + 0x28)
def rasUeCnt (d : Nat) : Nat := dieBlk d (0x20000 + 0x30)
def rasMsiAddr (d : Nat) : Nat := dieBlk d (0x20000 + 0x38)
def rasMsiData (d : Nat) : Nat := dieBlk d (0x20000 + 0x40)
def rasMsiMask (d : Nat) : Nat := dieBlk d (0x20000 + 0x48)
def rasScrub (d : Nat) : Nat := dieBlk d (0x20000 + 0x50)
def rasInject (d : Nat) : Nat := dieBlk d (0x20000 + 0x58)

/-! PWR (R493) -/
def pwrDieP (d : Nat) : Nat := dieBlk d (0x30000 + 0)
def pwrEDie (d : Nat) : Nat := dieBlk d (0x30000 + 8)
def pwrTrim (d : Nat) : Nat := dieBlk d (0x30000 + 0x10)
def pwrTj (d : Nat) : Nat := dieBlk d (0x30000 + 0x18)

/-! PWR, Acelos only (R493) -/
def pwrHalfIn (d : Nat) : Nat := dieBlk d (0x30000 + 0x20)

/-! ERT (R414) -/
def ertCfg (d : Nat) : Nat := dieBlk d (0x40000 + 0)
def ertCtrl (d : Nat) : Nat := dieBlk d (0x40000 + 8)
def ertCapLocal (d : Nat) : Nat := dieBlk d (0x40000 + 0x10)
def ertNegStatus (d : Nat) : Nat := dieBlk d (0x40000 + 0x18)
def ertEvtLog (d : Nat) : Nat := dieBlk d (0x40000 + 0x20)
def ertEvtCnt (d : Nat) : Nat := dieBlk d (0x40000 + 0x28)
def ertCap (d i : Nat) : Nat := dieBlk d (0x40000 + 0x40 + 8 * i)
def ertEdge (d i : Nat) : Nat := dieBlk d (0x40000 + 0x80 + 8 * i)
def ertMStatus (d i : Nat) : Nat := dieBlk d (0x40000 + 0x1000 + 0x40 * i)
def ertMFailLo (d i : Nat) : Nat := dieBlk d (0x40000 + 0x1008 + 0x40 * i)
def ertMFailHi (d i : Nat) : Nat := dieBlk d (0x40000 + 0x1010 + 0x40 * i)
def ertMCrcCnt (d i : Nat) : Nat := dieBlk d (0x40000 + 0x1018 + 0x40 * i)
def ertMReplayCnt (d i : Nat) : Nat := dieBlk d (0x40000 + 0x1020 + 0x40 * i)
def ertMFlitCnt (d i : Nat) : Nat := dieBlk d (0x40000 + 0x1028 + 0x40 * i)
def ertMRepairCnt (d i : Nat) : Nat := dieBlk d (0x40000 + 0x1030 + 0x40 * i)

/-! SEM (R284) -/
def semCfg (d : Nat) : Nat := dieBlk d (0x50000 + 0)
def semInCnt (d : Nat) : Nat := dieBlk d (0x50000 + 8)
def semOutCnt (d : Nat) : Nat := dieBlk d (0x50000 + 0x10)
def semMaxlat (d : Nat) : Nat := dieBlk d (0x50000 + 0x18)
def semHoldCnt (d : Nat) : Nat := dieBlk d (0x50000 + 0x20)

/-! WLK (R310) -/
def wlkCfg (d : Nat) : Nat := dieBlk d (0x60000 + 0)
def wlkCtxBase (d : Nat) : Nat := dieBlk d (0x60000 + 8)
def wlkInvVa (d : Nat) : Nat := dieBlk d (0x60000 + 0x10)
def wlkInvReq (d : Nat) : Nat := dieBlk d (0x60000 + 0x18)
def wlkInvDoneAddr (d : Nat) : Nat := dieBlk d (0x60000 + 0x20)
def wlkInvSeq (d : Nat) : Nat := dieBlk d (0x60000 + 0x28)
def wlkInvStatus (d : Nat) : Nat := dieBlk d (0x60000 + 0x30)
def wlkMsiAddr (d : Nat) : Nat := dieBlk d (0x60000 + 0x38)
def wlkMsiData (d : Nat) : Nat := dieBlk d (0x60000 + 0x40)
def wlkWalkCnt (d : Nat) : Nat := dieBlk d (0x60000 + 0x48)
def wlkCacheHitCnt (d : Nat) : Nat := dieBlk d (0x60000 + 0x50)
def wlkReadCnt (d : Nat) : Nat := dieBlk d (0x60000 + 0x58)
def wlkWalkNclkCnt (d : Nat) : Nat := dieBlk d (0x60000 + 0x60)
def wlkErr (d : Nat) : Nat := dieBlk d (0x60000 + 0x68)

/-! HBM (R350) -/
def hbmCfg (k : Nat) : Nat := dieBlk (k / 3) (0x100000 + 0x10000 * (k % 3) + 0)
def hbmStatus (k : Nat) : Nat := dieBlk (k / 3) (0x100000 + 0x10000 * (k % 3) + 8)
def hbmPchMarg (k : Nat) : Nat := dieBlk (k / 3) (0x100000 + 0x10000 * (k % 3) + 0x10)
def hbmPchFail (k : Nat) : Nat := dieBlk (k / 3) (0x100000 + 0x10000 * (k % 3) + 0x18)
def hbmLimits (k : Nat) : Nat := dieBlk (k / 3) (0x100000 + 0x10000 * (k % 3) + 0x20)
def hbmMrgCmd (k : Nat) : Nat := dieBlk (k / 3) (0x100000 + 0x10000 * (k % 3) + 0x28)
def hbmErr (k : Nat) : Nat := dieBlk (k / 3) (0x100000 + 0x10000 * (k % 3) + 0x30)
def hbmTgCtrl (k : Nat) : Nat := dieBlk (k / 3) (0x100000 + 0x10000 * (k % 3) + 0x38)
def hbmTgRange (k : Nat) : Nat := dieBlk (k / 3) (0x100000 + 0x10000 * (k % 3) + 0x40)
def hbmTgStatus (k : Nat) : Nat := dieBlk (k / 3) (0x100000 + 0x10000 * (k % 3) + 0x48)
def hbmTgErrCnt (k : Nat) : Nat := dieBlk (k / 3) (0x100000 + 0x10000 * (k % 3) + 0x50)
def hbmTgErrLog (k : Nat) : Nat := dieBlk (k / 3) (0x100000 + 0x10000 * (k % 3) + 0x58)
def hbmTrackCnt (k : Nat) : Nat := dieBlk (k / 3) (0x100000 + 0x10000 * (k % 3) + 0x60)
def hbmInitCnt (k : Nat) : Nat := dieBlk (k / 3) (0x100000 + 0x10000 * (k % 3) + 0x68)
def hbmMrgT (k i : Nat) : Nat := dieBlk (k / 3) (0x100000 + 0x10000 * (k % 3) + 0x100 + 0x10 * i)
def hbmMrgV (k i : Nat) : Nat := dieBlk (k / 3) (0x100000 + 0x10000 * (k % 3) + 0x108 + 0x10 * i)

/-! SLC (R397) -/
def slcCfg (d : Nat) : Nat := dieBlk d (0x200000 + 0)
def slcCtrl (d : Nat) : Nat := dieBlk d (0x200000 + 8)
def slcHitCnt (d : Nat) : Nat := dieBlk d (0x200000 + 0x10)
def slcMissCnt (d : Nat) : Nat := dieBlk d (0x200000 + 0x18)
def slcSnpCnt (d : Nat) : Nat := dieBlk d (0x200000 + 0x20)
def slcWbxCnt (d : Nat) : Nat := dieBlk d (0x200000 + 0x28)
def slcFiltEvictCnt (d : Nat) : Nat := dieBlk d (0x200000 + 0x30)
def slcBlockNclkCnt (d : Nat) : Nat := dieBlk d (0x200000 + 0x38)
def slcQueueMax (d : Nat) : Nat := dieBlk d (0x200000 + 0x40)
def slcStashOfferCnt (d : Nat) : Nat := dieBlk d (0x200000 + 0x48)
def slcWatchOvfCnt (d : Nat) : Nat := dieBlk d (0x200000 + 0x50)
def slcAtomicCnt (d : Nat) : Nat := dieBlk d (0x200000 + 0x58)
def slcAgentDead (d : Nat) : Nat := dieBlk d (0x200000 + 0x60)
def slcErr (d : Nat) : Nat := dieBlk d (0x200000 + 0x68)

/-! CG (R94, R494) -/
def cgStatus (g : Nat) : Nat := dieBlk (g / 16) (0x300000 + 0x10000 * (g % 16) + 0)
def cgPwrCtrl (g : Nat) : Nat := dieBlk (g / 16) (0x300000 + 0x10000 * (g % 16) + 8)
def cgPart (g : Nat) : Nat := dieBlk (g / 16) (0x300000 + 0x10000 * (g % 16) + 0x10)
def cgClkStatus (g : Nat) : Nat := dieBlk (g / 16) (0x300000 + 0x10000 * (g % 16) + 0x100)
def cgDroopCfg (g : Nat) : Nat := dieBlk (g / 16) (0x300000 + 0x10000 * (g % 16) + 0x108)
def cgDroopCnt (g : Nat) : Nat := dieBlk (g / 16) (0x300000 + 0x10000 * (g % 16) + 0x110)
def cgStretchCnt (g : Nat) : Nat := dieBlk (g / 16) (0x300000 + 0x10000 * (g % 16) + 0x118)
def cgRampCnt (g : Nat) : Nat := dieBlk (g / 16) (0x300000 + 0x10000 * (g % 16) + 0x120)
def cgRampWaitCnt (g : Nat) : Nat := dieBlk (g / 16) (0x300000 + 0x10000 * (g % 16) + 0x128)
def cgE (g : Nat) : Nat := dieBlk (g / 16) (0x300000 + 0x10000 * (g % 16) + 0x130)
def cgPEst (g : Nat) : Nat := dieBlk (g / 16) (0x300000 + 0x10000 * (g % 16) + 0x138)

/-! LPD (R351) -/
def lpdCfg (k : Nat) : Nat := dieBlk (4 + k / 8) (0x100000 + 0x10000 * (k % 8) + 0)
def lpdStatus (k : Nat) : Nat := dieBlk (4 + k / 8) (0x100000 + 0x10000 * (k % 8) + 8)
def lpdChMarg (k : Nat) : Nat := dieBlk (4 + k / 8) (0x100000 + 0x10000 * (k % 8) + 0x10)
def lpdChFail (k : Nat) : Nat := dieBlk (4 + k / 8) (0x100000 + 0x10000 * (k % 8) + 0x18)
def lpdLimits (k : Nat) : Nat := dieBlk (4 + k / 8) (0x100000 + 0x10000 * (k % 8) + 0x20)
def lpdMrgCmd (k : Nat) : Nat := dieBlk (4 + k / 8) (0x100000 + 0x10000 * (k % 8) + 0x28)
def lpdErr (k : Nat) : Nat := dieBlk (4 + k / 8) (0x100000 + 0x10000 * (k % 8) + 0x30)
def lpdTgCtrl (k : Nat) : Nat := dieBlk (4 + k / 8) (0x100000 + 0x10000 * (k % 8) + 0x38)
def lpdTgRange (k : Nat) : Nat := dieBlk (4 + k / 8) (0x100000 + 0x10000 * (k % 8) + 0x40)
def lpdTgStatus (k : Nat) : Nat := dieBlk (4 + k / 8) (0x100000 + 0x10000 * (k % 8) + 0x48)
def lpdTgErrCnt (k : Nat) : Nat := dieBlk (4 + k / 8) (0x100000 + 0x10000 * (k % 8) + 0x50)
def lpdTgErrLog (k : Nat) : Nat := dieBlk (4 + k / 8) (0x100000 + 0x10000 * (k % 8) + 0x58)
def lpdTrackCnt (k : Nat) : Nat := dieBlk (4 + k / 8) (0x100000 + 0x10000 * (k % 8) + 0x60)
def lpdInitCnt (k : Nat) : Nat := dieBlk (4 + k / 8) (0x100000 + 0x10000 * (k % 8) + 0x68)
def lpdMrgT (k i : Nat) : Nat := dieBlk (4 + k / 8) (0x100000 + 0x10000 * (k % 8) + 0x100 + 0x10 * i)
def lpdMrgV (k i : Nat) : Nat := dieBlk (4 + k / 8) (0x100000 + 0x10000 * (k % 8) + 0x108 + 0x10 * i)
def lpdLeccCeCnt (k i : Nat) : Nat := dieBlk (4 + k / 8) (0x100000 + 0x10000 * (k % 8) + 0x200 + 8 * i)
def lpdLeccEvt (k : Nat) : Nat := dieBlk (4 + k / 8) (0x100000 + 0x10000 * (k % 8) + 0x240)

/-! OPT (R445) -/
def optCfg (p : Nat) : Nat := dieBlk (4 + p / 8) (0x300000 + 0x10000 * (p % 8) + 0)
def optStatus (p : Nat) : Nat := dieBlk (4 + p / 8) (0x300000 + 0x10000 * (p % 8) + 8)
def optCtrl (p : Nat) : Nat := dieBlk (4 + p / 8) (0x300000 + 0x10000 * (p % 8) + 0x10)
def optCmd (p : Nat) : Nat := dieBlk (4 + p / 8) (0x300000 + 0x10000 * (p % 8) + 0x18)
def optPartner (p : Nat) : Nat := dieBlk (4 + p / 8) (0x300000 + 0x10000 * (p % 8) + 0x20)
def optPartnerKey (p : Nat) : Nat := dieBlk (4 + p / 8) (0x300000 + 0x10000 * (p % 8) + 0x28)
def optLaneFail (p : Nat) : Nat := dieBlk (4 + p / 8) (0x300000 + 0x10000 * (p % 8) + 0x30)
def optLaser (p : Nat) : Nat := dieBlk (4 + p / 8) (0x300000 + 0x10000 * (p % 8) + 0x38)
def optFecCwCnt (p : Nat) : Nat := dieBlk (4 + p / 8) (0x300000 + 0x10000 * (p % 8) + 0x40)
def optFecCorrCnt (p : Nat) : Nat := dieBlk (4 + p / 8) (0x300000 + 0x10000 * (p % 8) + 0x48)
def optFecUncorrCnt (p : Nat) : Nat := dieBlk (4 + p / 8) (0x300000 + 0x10000 * (p % 8) + 0x50)
def optReplayCnt (p : Nat) : Nat := dieBlk (4 + p / 8) (0x300000 + 0x10000 * (p % 8) + 0x58)
def optTxFlitCnt (p : Nat) : Nat := dieBlk (4 + p / 8) (0x300000 + 0x10000 * (p % 8) + 0x60)
def optRxFlitCnt (p : Nat) : Nat := dieBlk (4 + p / 8) (0x300000 + 0x10000 * (p % 8) + 0x68)
def optTrainCnt (p : Nat) : Nat := dieBlk (4 + p / 8) (0x300000 + 0x10000 * (p % 8) + 0x70)
def optErr (p : Nat) : Nat := dieBlk (4 + p / 8) (0x300000 + 0x10000 * (p % 8) + 0x78)
def optLane (p i : Nat) : Nat := dieBlk (4 + p / 8) (0x300000 + 0x10000 * (p % 8) + 0x100 + 8 * i)

/-! CXU (R467) -/
def cxuCfg (a : Nat) : Nat := dieBlk (4 + a) (0x400000 + 0)
def cxuStatus (a : Nat) : Nat := dieBlk (4 + a) (0x400000 + 8)
def cxuHdmBase0 (a : Nat) : Nat := dieBlk (4 + a) (0x400000 + 0x10)
def cxuHdmBase1 (a : Nat) : Nat := dieBlk (4 + a) (0x400000 + 0x18)
def cxuMsixTrig (a : Nat) : Nat := dieBlk (4 + a) (0x400000 + 0x20)
def cxuErrLog (a : Nat) : Nat := dieBlk (4 + a) (0x400000 + 0x28)
def cxuLinkdownCnt (a : Nat) : Nat := dieBlk (4 + a) (0x400000 + 0x30)
def cxuRxFlitCnt (a : Nat) : Nat := dieBlk (4 + a) (0x400000 + 0x38)
def cxuTxFlitCnt (a : Nat) : Nat := dieBlk (4 + a) (0x400000 + 0x40)

/-! CXD (R468) -/
def cxdCfg (a : Nat) : Nat := dieBlk (4 + a) (0x410000 + 0)
def cxdStatus (a : Nat) : Nat := dieBlk (4 + a) (0x410000 + 8)
def cxdCtrl (a : Nat) : Nat := dieBlk (4 + a) (0x410000 + 0x10)
def cxdErrLog (a : Nat) : Nat := dieBlk (4 + a) (0x410000 + 0x18)
def cxdCtoCnt (a : Nat) : Nat := dieBlk (4 + a) (0x410000 + 0x20)
def cxdInbCnt (a : Nat) : Nat := dieBlk (4 + a) (0x410000 + 0x28)
def cxdMsiAddr (a : Nat) : Nat := dieBlk (4 + a) (0x410000 + 0x30)
def cxdMsiData (a : Nat) : Nat := dieBlk (4 + a) (0x410000 + 0x38)

/-! IOT (R469) -/
def iotCfg (a : Nat) : Nat := dieBlk (4 + a) (0x420000 + 0)
def iotInv (a : Nat) : Nat := dieBlk (4 + a) (0x420000 + 8)
def iotInvSeq (a : Nat) : Nat := dieBlk (4 + a) (0x420000 + 0x10)
def iotErr (a : Nat) : Nat := dieBlk (4 + a) (0x420000 + 0x18)
def iotMissCnt (a : Nat) : Nat := dieBlk (4 + a) (0x420000 + 0x20)
def iotWinBase (a i : Nat) : Nat := dieBlk (4 + a) (0x420000 + 0x1000 + 0x20 * i)
def iotWinTgt (a i : Nat) : Nat := dieBlk (4 + a) (0x420000 + 0x1008 + 0x20 * i)
def iotWinId (a i : Nat) : Nat := dieBlk (4 + a) (0x420000 + 0x1010 + 0x20 * i)

/-! PCP and package window (R237, R337, R352, R446, R492, R514, R532) -/
def pcpDpt (a i : Nat) : Nat := pcpBlk a (0x8000 + 8 * i)
def pcpTierCfg (a : Nat) : Nat := pcpBlk a (0xA000)
def pcpMigStatus (a : Nat) : Nat := pcpBlk a (0xA008)
def pcpMigPageCnt (a : Nat) : Nat := pcpBlk a (0xA010)
def pcpMigErrLog (a : Nat) : Nat := pcpBlk a (0xA018)
def pcpMretBase (a : Nat) : Nat := pcpBlk a (0xA020)
def pcpMretHead (a : Nat) : Nat := pcpBlk a (0xA028)
def pcpMretTail (a : Nat) : Nat := pcpBlk a (0xA030)
def pcpMpoolBase (a i : Nat) : Nat := pcpBlk a (0xA100 + 0x20 * i)
def pcpMpoolTail (a i : Nat) : Nat := pcpBlk a (0xA108 + 0x20 * i)
def pcpMpoolHead (a i : Nat) : Nat := pcpBlk a (0xA110 + 0x20 * i)
def pcpMemStatus (a : Nat) : Nat := pcpBlk a (0xB000)
def pcpMemTime (a : Nat) : Nat := pcpBlk a (0xB008)
def pcpFabCfg (a : Nat) : Nat := pcpBlk a (0xC000)
def pcpFabName (a : Nat) : Nat := pcpBlk a (0xC008)
def pcpFabLevel (a i : Nat) : Nat := pcpBlk a (0xC010 + 8 * i)
def pcpFabTmo (a : Nat) : Nat := pcpBlk a (0xC030)
def pcpFabPorts (a : Nat) : Nat := pcpBlk a (0xC038)
def pcpFabRtIdx (a : Nat) : Nat := pcpBlk a (0xC040)
def pcpFabRtData (a : Nat) : Nat := pcpBlk a (0xC048)
def pcpFabRtGen (a : Nat) : Nat := pcpBlk a (0xC050)
def pcpFabEvtLog (a : Nat) : Nat := pcpBlk a (0xC058)
def pcpFabEvtCnt (a : Nat) : Nat := pcpBlk a (0xC060)
def pcpFabMsiAddr (a : Nat) : Nat := pcpBlk a (0xC068)
def pcpFabMsiData (a : Nat) : Nat := pcpBlk a (0xC070)
def pcpFabUnreachCnt (a : Nat) : Nat := pcpBlk a (0xC078)
def pcpFabLateCnt (a : Nat) : Nat := pcpBlk a (0xC080)
def pcpFabTransitCnt (a : Nat) : Nat := pcpBlk a (0xC088)
def pcpFabDropCnt (a : Nat) : Nat := pcpBlk a (0xC090)
def pcpFabPaceCnt (a : Nat) : Nat := pcpBlk a (0xC098)
def pcpPwrCfg (a : Nat) : Nat := pcpBlk a (0xD000)
def pcpPlSus (a : Nat) : Nat := pcpBlk a (0xD008)
def pcpPwrStatus (a : Nat) : Nat := pcpBlk a (0xD010)
def pcpPAvg (a : Nat) : Nat := pcpBlk a (0xD018)
def pcpEPkg (a : Nat) : Nat := pcpBlk a (0xD020)
def pcpEUnattr (a : Nat) : Nat := pcpBlk a (0xD028)
def pcpBrakeCnt (a : Nat) : Nat := pcpBlk a (0xD030)
def pcpBrakeLat (a : Nat) : Nat := pcpBlk a (0xD038)
def pcpSagCnt (a : Nat) : Nat := pcpBlk a (0xD040)
def pcpSlewStallCnt (a : Nat) : Nat := pcpBlk a (0xD048)
def pcpRampWaitCnt (a : Nat) : Nat := pcpBlk a (0xD050)
def pcpPwrEvtLog (a : Nat) : Nat := pcpBlk a (0xD058)
def pcpPwrMsiAddr (a : Nat) : Nat := pcpBlk a (0xD060)
def pcpPwrMsiData (a : Nat) : Nat := pcpBlk a (0xD068)
def pcpPwrEvtCnt (a : Nat) : Nat := pcpBlk a (0xD070)
def pcpPwrFault (a : Nat) : Nat := pcpBlk a (0xD078)
def pcpPartCap (a i : Nat) : Nat := pcpBlk a (0xD100 + 8 * i)
def pcpPartE (a i : Nat) : Nat := pcpBlk a (0xD300 + 8 * i)
def pcpBootStatus (a : Nat) : Nat := pcpBlk a (0xE000)
def pcpBootHalt (a : Nat) : Nat := pcpBlk a (0xE008)
def pcpRstCause (a : Nat) : Nat := pcpBlk a (0xE010)
def pcpRstCnt (a : Nat) : Nat := pcpBlk a (0xE018)
def pcpRstDisc (a : Nat) : Nat := pcpBlk a (0xE020)
def pcpReset (a : Nat) : Nat := pcpBlk a (0xE028)
def pcpHbStatus (a : Nat) : Nat := pcpBlk a (0xE030)
def pcpSecFuse (a : Nat) : Nat := pcpBlk a (0xE038)
def pcpCgPresent (a : Nat) : Nat := pcpBlk a (0xE040)
def pcpMeasCtrl (a : Nat) : Nat := pcpBlk a (0xE048)
def pcpBootTime (a i : Nat) : Nat := pcpBlk a (0xE080 + 8 * i)
def pcpMeas (a i : Nat) : Nat := pcpBlk a (0xE100 + 8 * i)
def pcpRasSum (a : Nat) : Nat := pcpBlk a (0xF000)
def pcpRasPolicy (a : Nat) : Nat := pcpBlk a (0xF008)

/-! HCL (R371) -/
def hclCfg (k : Nat) : Nat := dieBlk (4 + k / 3) (0x600000 + 0x10000 * (k % 3) + 0)
def hclStatus (k : Nat) : Nat := dieBlk (4 + k / 3) (0x600000 + 0x10000 * (k % 3) + 8)
def hclEccCeCnt (k : Nat) : Nat := dieBlk (4 + k / 3) (0x600000 + 0x10000 * (k % 3) + 0x10)
def hclBerrOvf (k : Nat) : Nat := dieBlk (4 + k / 3) (0x600000 + 0x10000 * (k % 3) + 0x18)
def hclBerrLog (k i : Nat) : Nat := dieBlk (4 + k / 3) (0x600000 + 0x10000 * (k % 3) + 0x100 + 8 * i)
def hclSbDisc (k i : Nat) : Nat := dieBlk (4 + k / 3) (0x600000 + 0x10000 * (k % 3) + 0x180 + 8 * i)

end Reg

end Sys2Proof.Machine
end

