-- ==== Sys2Proof/Machine/RegTables.lean ====
section
/-! DEFINITION. The register maps of the spec, one list per block, in the order of the spec's own tables:
name, offset, number of instances and their stride, access type (R14), reset value (R13), the defined bits of
a writable register (R16), whether a warm reset leaves it unchanged (R13), and whether it counts clock cycles or
other time (R43). A reset value the spec calls die-, fuse- or image-specific is 0 here; the read of such a
register is computed (Machine/Regs.lean). -/

namespace Sys2Proof.Machine

/-- The access types of R14. -/
inductive Access
  | ro | rw | w1c | wo | pop
  deriving DecidableEq, Repr

/-- One row of a register map (R13). -/
structure RegRow where
  name   : String
  off    : Nat
  n      : Nat
  stride : Nat
  acc    : Access
  reset  : Nat
  mask   : Nat
  keep   : Bool
  cyc    : Bool
  deriving DecidableEq, Repr

/-- A row that a warm reset clears and that counts no time. -/
def reg (name : String) (off n stride : Nat) (acc : Access) (reset mask : Nat) : RegRow :=
  ⟨name, off, n, stride, acc, reset, mask, false, false⟩

/-- A row that a warm reset leaves unchanged. -/
def regK (name : String) (off n stride : Nat) (acc : Access) (reset mask : Nat) : RegRow :=
  ⟨name, off, n, stride, acc, reset, mask, true, false⟩

/-- A counter of time: it advances by itself (R43), so a read finds a free amount more than the last read. -/
def regC (name : String) (off n stride : Nat) (keep : Bool) : RegRow :=
  ⟨name, off, n, stride, .ro, 0, 0, keep, true⟩

/-- CORE (R91). -/
def rowsCore : List RegRow :=
  [reg "CORE_ID" 0 1 8 .ro 0 0,
   reg "CORE_STATUS" 8 1 8 .ro 2 0,
   reg "CORE_CTRL" 0x10 1 8 .rw 0 1,
   reg "CORE_HALT_CAUSE" 0x18 1 8 .ro 0 0,
   reg "CORE_MB_ERR" 0x20 1 8 .w1c 0 0xC00000000000FFFF,
   regC "CORE_ME_BUSY_CNT" 0x40 1 8 true,
   regC "CORE_VE_BUSY_CNT" 0x48 1 8 true,
   regC "CORE_SE_BUSY_CNT" 0x50 1 8 true,
   regC "CORE_DE_BUSY_CNT" 0x58 1 8 true,
   regK "CORE_CMD_RET_CNT" 0x60 1 8 .ro 0 0]

/-- QFE (R236). -/
def rowsQfe : List RegRow :=
  [reg "QFE_CFG" 0 1 8 .ro 0x40040401048 0,
   reg "QFE_STATUS" 8 1 8 .ro 0 0,
   reg "QFE_DB_QUEUE" 0x10 1 8 .wo 0 0x7FFFFFFFF,
   reg "QFE_ERR_LOG" 0x18 1 8 .pop 0 0,
   reg "QFE_MSI_ADDR" 0x20 1 8 .rw 0 0xFFFFFFFFFFFFC,
   reg "QFE_MSI_DATA" 0x28 1 8 .rw 0 0xFFFFFFFF,
   regK "QFE_FETCH_CNT" 0x30 1 8 .ro 0 0,
   regC "QFE_XLAT_STALL_CNT" 0x38 1 8 true,
   regK "QFE_PATCH_CNT" 0x40 1 8 .ro 0 0,
   reg "QFE_Q_CTRL_q" 0x100 8 0x80 .rw 0x602 0x1F03,
   reg "QFE_Q_RING_q" 0x108 8 0x80 .rw 0 0xFFFFFFFFFF000,
   reg "QFE_Q_CTX_q" 0x110 8 0x80 .rw 0 0xFFFF,
   reg "QFE_Q_HEAD_q" 0x118 8 0x80 .ro 0 0,
   reg "QFE_Q_TAIL_q" 0x120 8 0x80 .ro 0 0,
   reg "QFE_Q_STATUS_q" 0x128 8 0x80 .ro 0 0,
   reg "QFE_Q_CQ_q" 0x130 8 0x80 .rw 0 0xFFFFFFFFFFF9F,
   reg "QFE_Q_CQ_HEAD_q" 0x138 8 0x80 .rw 0 0xFFFFFFFF,
   reg "QFE_Q_CQ_TAIL_q" 0x140 8 0x80 .ro 0 0,
   reg "QFE_Q_WTMO_q" 0x148 8 0x80 .rw 0 0xFFFFFFFF,
   reg "QFE_Q_ERR_q" 0x150 8 0x80 .ro 0 0] ++
  [reg "QFE_Q_RESTART_q" 0x158 8 0x80 .wo 0 3,
   reg "QFE_Q_REP_q" 0x160 8 0x80 .ro 0 0,
   reg "QFE_Q_STOP_CODE_q" 0x168 8 0x80 .ro 0 0,
   reg "QFE_LSEM_n" 0x800 64 8 .rw 0 0xFFFFFFFF]

/-- ATU (R309). -/
def rowsAtu : List RegRow :=
  [reg "ATU_CFG" 0 1 8 .ro 0x80008080F390020 0,
   reg "ATU_STATUS" 8 1 8 .ro 0 0,
   reg "ATU_FLT_BASE" 0x10 1 8 .rw 0 0xFFFFFFFFFF09F,
   reg "ATU_FLT_HEAD" 0x18 1 8 .rw 0 0xFFFFFFFF,
   reg "ATU_FLT_TAIL" 0x20 1 8 .ro 0 0,
   reg "ATU_FLT_RESUME" 0x28 1 8 .wo 0 0xFFFF0307,
   reg "ATU_MSI_ADDR" 0x30 1 8 .rw 0 0xFFFFFFFFFFFFC,
   reg "ATU_MSI_DATA" 0x38 1 8 .rw 0 0xFFFFFFFF,
   regK "ATU_HIT_CNT" 0x40 1 8 .ro 0 0,
   regK "ATU_MISS_CNT" 0x48 1 8 .ro 0 0,
   regK "ATU_FLT_CNT" 0x50 1 8 .ro 0 0,
   regK "ATU_JOIN_CNT" 0x58 1 8 .ro 0 0,
   regK "ATU_RETRANS_CNT" 0x60 1 8 .ro 0 0,
   reg "ATU_ERR_LOG" 0x68 1 8 .pop 0 0,
   reg "ATU_FLT_PEND_n" 0x100 8 0x10 .ro 0 0,
   reg "ATU_FLT_PVA_n" 0x108 8 0x10 .ro 0 0,
   reg "ATU_Q_EPOCH_q" 0x200 8 8 .ro 0 0]

/-- SPC (R204). -/
def rowsSpc : List RegRow :=
  [reg "SPC_CFG" 0 1 8 .ro 0x304004800C0A0806 0,
   reg "SPC_BANK_GATE" 8 1 8 .rw 0 0xFFFFFFFFFFFF,
   reg "SPC_BANK_OFF" 0x10 1 8 .ro 0 0,
   reg "SPC_BANK_PEND" 0x18 1 8 .ro 0 0,
   reg "SPC_BANK_HOLD" 0x20 1 8 .ro 0 0,
   regC "SPC_WIDE_CONF_CNT" 0x28 1 8 true,
   regC "SPC_NARROW_WAIT_CNT" 0x30 1 8 true,
   regC "SPC_AGE_OVR_CNT" 0x38 1 8 true,
   regK "SPC_CE_CNT" 0x40 1 8 .ro 0 0,
   regK "SPC_VIOL_CNT" 0x48 1 8 .ro 0 0,
   reg "SPC_VIOL_LOG" 0x50 1 8 .pop 0 0,
   reg "SPC_ERR" 0x58 1 8 .w1c 0 0x3F,
   reg "SPC_CREDIT_n" 0x100 64 8 .rw 0 0xEFFFFFFFFFE1FFFF]

/-- ME (R126). -/
def rowsMe : List RegRow :=
  [reg "ME_CFG" 0 1 8 .ro 0x80000800080001F 0,
   reg "ME_STATUS" 8 1 8 .ro 0x700000000 0,
   reg "ME_POLICY" 0x10 1 8 .ro 0 0,
   reg "ME_REPAIR" 0x18 1 8 .ro 0 0,
   regK "ME_STREAM_CNT" 0x20 1 8 .ro 0 0,
   regK "ME_MAC_CNT" 0x28 1 8 .ro 0 0,
   regC "ME_ACT_CNT" 0x30 1 8 true,
   regC "ME_FD_CNT" 0x38 1 8 true,
   regC "ME_LOAD_STALL_CNT" 0x40 1 8 true,
   regC "ME_OPND_STALL_CNT" 0x48 1 8 true,
   regC "ME_HOLD_CNT" 0x50 1 8 true,
   regK "ME_ACC_CE_CNT" 0x58 1 8 .ro 0 0,
   reg "ME_ERR" 0x60 1 8 .w1c 0 3]

/-- VE (R179). -/
def rowsVe : List RegRow :=
  [reg "VE_CFG" 0 1 8 .ro 0x20000204080 0,
   reg "VE_STATUS" 8 1 8 .ro 0 0,
   regK "VE_ELEM_CNT" 0x10 1 8 .ro 0 0,
   regK "VE_FLOP_CNT" 0x18 1 8 .ro 0 0,
   regC "VE_OPND_STALL_CNT" 0x20 1 8 true,
   regC "VE_L1_STALL_CNT" 0x28 1 8 true,
   reg "VE_ERR" 0x30 1 8 .w1c 0 1,
   reg "VE_FLAGS_q" 0x100 8 8 .w1c 0 0x1F]

/-- SE (R180). -/
def rowsSe : List RegRow :=
  [reg "SE_CFG" 0 1 8 .ro 0x10000080810 0,
   reg "SE_STATUS" 8 1 8 .ro 0 0,
   regK "SE_OP_CNT" 0x10 1 8 .ro 0 0,
   regK "SE_BR_CNT" 0x18 1 8 .ro 0 0,
   reg "SE_G_q_n" 0x100 128 8 .ro 0 0,
   reg "SE_PRED_q" 0x500 8 8 .ro 1 0]

/-- L1 (R93). -/
def rowsL1 : List RegRow :=
  [reg "L1_CFG" 0 1 8 .ro 0x10001008080080 0,
   reg "L1_CTRL" 8 1 8 .rw 1 1,
   regK "L1_WAY_DIS" 0x10 1 8 .ro 0 0,
   regK "L1_PAR_CNT" 0x18 1 8 .ro 0 0,
   reg "L1_HIT_CNT" 0x20 1 8 .ro 0 0,
   reg "L1_MISS_CNT" 0x28 1 8 .ro 0 0,
   reg "L1_PF_ISSUE_CNT" 0x30 1 8 .ro 0 0,
   reg "L1_PF_HIT_CNT" 0x38 1 8 .ro 0 0,
   reg "L1_MB_DRAIN_CNT" 0x40 1 8 .ro 0 0]

/-- ENG (R495). -/
def rowsEng : List RegRow :=
  [regK "ENG_CORE_E" 0 1 8 .ro 0 0,
   regK "ENG_IDLE_E" 8 1 8 .ro 0 0,
   regK "ENG_Q_E_q" 0x100 8 8 .ro 0 0]

/-- CLK, both die types (R45). -/
def rowsClk : List RegRow :=
  [reg "CLK_DOMAIN_NCLK" 0 1 8 .ro 0 0,
   regC "CLK_NCLK_CNT" 8 1 8 true,
   reg "CLK_PLL_STATUS" 0x20 1 8 .ro 0 0,
   regK "CLK_PLL_LOSS" 0x28 1 8 .w1c 0 0xFFFFFFFFFFFF]

/-- CLK, compute dies only (R45). -/
def rowsClkC : List RegRow :=
  [regC "CLK_ACLK_CNT_g" 0x100 16 8 true,
   reg "CLK_ACLK_MHZ_g" 0x180 16 8 .ro 0 0]

/-- CLK, Acelos only (R45). -/
def rowsClkA : List RegRow :=
  [regC "CLK_REF_CNT" 0x10 1 8 true,
   regC "CLK_PCP_CNT" 0x18 1 8 true,
   regC "CLK_HCLK_CNT_c" 0x100 3 8 true,
   reg "CLK_HCLK_MHZ_c" 0x180 3 8 .ro 0 0]

/-- RAS (R531). -/
def rowsRas : List RegRow :=
  [regK "RAS_CFG" 0 1 8 .ro 0x20 0,
   regK "RAS_STATUS" 8 1 8 .ro 0 0,
   regK "RAS_LOG" 0x10 1 8 .pop 0 0,
   regK "RAS_LOG_W1" 0x18 1 8 .ro 0 0,
   regK "RAS_OVF_CNT" 0x20 1 8 .ro 0 0,
   regK "RAS_CE_CNT" 0x28 1 8 .ro 0 0,
   regK "RAS_UE_CNT" 0x30 1 8 .ro 0 0,
   regK "RAS_MSI_ADDR" 0x38 1 8 .rw 0 0xFFFFFFFFFFFFC,
   regK "RAS_MSI_DATA" 0x40 1 8 .rw 0 0xFFFFFFFF,
   regK "RAS_MSI_MASK" 0x48 1 8 .rw 0x3C 0x7E,
   regK "RAS_SCRUB" 0x50 1 8 .ro 0 0,
   regK "RAS_INJECT" 0x58 1 8 .wo 0 0xFFFFFFFFFFFC3]

/-- PWR (R493). -/
def rowsPwr : List RegRow :=
  [reg "PWR_DIE_P" 0 1 8 .ro 0 0,
   regK "PWR_E_DIE" 8 1 8 .ro 0 0,
   reg "PWR_TRIM" 0x10 1 8 .ro 0x1000 0,
   reg "PWR_TJ" 0x18 1 8 .ro 0 0]

/-- PWR, Acelos only (R493). -/
def rowsPwrA : List RegRow :=
  [reg "PWR_HALF_IN" 0x20 1 8 .ro 0 0]

/-- ERT (R414). -/
def rowsErt : List RegRow :=
  [reg "ERT_CFG" 0 1 8 .ro 0 0,
   regK "ERT_CTRL" 8 1 8 .rw 0x10 0xFFFF,
   reg "ERT_CAP_LOCAL" 0x10 1 8 .ro 0 0,
   reg "ERT_NEG_STATUS" 0x18 1 8 .ro 0 0,
   reg "ERT_EVT_LOG" 0x20 1 8 .pop 0 0,
   regK "ERT_EVT_CNT" 0x28 1 8 .ro 0 0,
   reg "ERT_CAP_d" 0x40 6 8 .ro 0 0,
   reg "ERT_EDGE_e" 0x80 8 8 .ro 0 0,
   reg "ERT_M_STATUS_m" 0x1000 64 0x40 .ro 0 0,
   reg "ERT_M_FAIL_LO_m" 0x1008 64 0x40 .ro 0 0,
   reg "ERT_M_FAIL_HI_m" 0x1010 64 0x40 .ro 0 0,
   regK "ERT_M_CRC_CNT_m" 0x1018 64 0x40 .ro 0 0,
   regK "ERT_M_REPLAY_CNT_m" 0x1020 64 0x40 .ro 0 0,
   regK "ERT_M_FLIT_CNT_m" 0x1028 64 0x40 .ro 0 0,
   regK "ERT_M_REPAIR_CNT_m" 0x1030 64 0x40 .ro 0 0]

/-- SEM (R284). -/
def rowsSem : List RegRow :=
  [reg "SEM_CFG" 0 1 8 .ro 0x80015 0,
   regK "SEM_IN_CNT" 8 1 8 .ro 0 0,
   regK "SEM_OUT_CNT" 0x10 1 8 .ro 0 0,
   reg "SEM_MAXLAT" 0x18 1 8 .w1c 0 0xFFFF,
   regC "SEM_HOLD_CNT" 0x20 1 8 true]

/-- WLK (R310). -/
def rowsWlk : List RegRow :=
  [reg "WLK_CFG" 0 1 8 .ro 0x400020000010 0,
   regK "WLK_CTX_BASE" 8 1 8 .rw 0 0xFFFFFFFFFF01F,
   reg "WLK_INV_VA" 0x10 1 8 .rw 0 0x1FFFFFFFFFFF03F,
   reg "WLK_INV_REQ" 0x18 1 8 .wo 0 0x10000FFFF,
   reg "WLK_INV_DONE_ADDR" 0x20 1 8 .rw 0 0xFFFFFFFFFFFF9,
   reg "WLK_INV_SEQ" 0x28 1 8 .ro 0 0,
   reg "WLK_INV_STATUS" 0x30 1 8 .ro 0 0,
   reg "WLK_MSI_ADDR" 0x38 1 8 .rw 0 0xFFFFFFFFFFFFC,
   reg "WLK_MSI_DATA" 0x40 1 8 .rw 0 0xFFFFFFFF,
   regK "WLK_WALK_CNT" 0x48 1 8 .ro 0 0,
   regK "WLK_CACHE_HIT_CNT" 0x50 1 8 .ro 0 0,
   regK "WLK_READ_CNT" 0x58 1 8 .ro 0 0,
   regC "WLK_WALK_NCLK_CNT" 0x60 1 8 true,
   reg "WLK_ERR" 0x68 1 8 .w1c 0 0xF]

/-- HBM (R350). -/
def rowsHbm : List RegRow :=
  [reg "HBM_CFG" 0 1 8 .ro 0x240100020 0,
   reg "HBM_STATUS" 8 1 8 .ro 0 0,
   reg "HBM_PCH_MARG" 0x10 1 8 .ro 0 0,
   reg "HBM_PCH_FAIL" 0x18 1 8 .ro 0 0,
   reg "HBM_LIMITS" 0x20 1 8 .ro 0 0,
   reg "HBM_MRG_CMD" 0x28 1 8 .wo 0 0x1F,
   reg "HBM_ERR" 0x30 1 8 .w1c 0 3,
   reg "HBM_TG_CTRL" 0x38 1 8 .rw 0 0xFFFFFFFF00000F31,
   reg "HBM_TG_RANGE" 0x40 1 8 .rw 0 0x7FFF00007FFF,
   reg "HBM_TG_STATUS" 0x48 1 8 .ro 0 0,
   reg "HBM_TG_ERR_CNT" 0x50 1 8 .ro 0 0,
   reg "HBM_TG_ERR_LOG" 0x58 1 8 .pop 0 0,
   regK "HBM_TRACK_CNT" 0x60 1 8 .ro 0 0,
   reg "HBM_INIT_CNT" 0x68 1 8 .ro 0 0,
   reg "HBM_MRG_T_p" 0x100 32 0x10 .ro 0 0,
   reg "HBM_MRG_V_p" 0x108 32 0x10 .ro 0 0]

/-- SLC (R397). -/
def rowsSlc : List RegRow :=
  [reg "SLC_CFG" 0 1 8 .ro 0 0,
   reg "SLC_CTRL" 8 1 8 .rw 0xA 0x1FF,
   regK "SLC_HIT_CNT" 0x10 1 8 .ro 0 0,
   regK "SLC_MISS_CNT" 0x18 1 8 .ro 0 0,
   regK "SLC_SNP_CNT" 0x20 1 8 .ro 0 0,
   regK "SLC_WBX_CNT" 0x28 1 8 .ro 0 0,
   regK "SLC_FILT_EVICT_CNT" 0x30 1 8 .ro 0 0,
   regC "SLC_BLOCK_NCLK_CNT" 0x38 1 8 true,
   reg "SLC_QUEUE_MAX" 0x40 1 8 .w1c 0 0xFF,
   regK "SLC_STASH_OFFER_CNT" 0x48 1 8 .ro 0 0,
   regK "SLC_WATCH_OVF_CNT" 0x50 1 8 .ro 0 0,
   regK "SLC_ATOMIC_CNT" 0x58 1 8 .ro 0 0,
   reg "SLC_AGENT_DEAD" 0x60 1 8 .ro 0 0,
   reg "SLC_ERR" 0x68 1 8 .w1c 0 3]

/-- CG (R94, R494). -/
def rowsCg : List RegRow :=
  [reg "CG_STATUS" 0 1 8 .ro 0 0,
   reg "CG_PWR_CTRL" 8 1 8 .rw 0 3,
   reg "CG_PART" 0x10 1 8 .rw 0 0x3F,
   reg "CG_CLK_STATUS" 0x100 1 8 .ro 0x10000 0,
   reg "CG_DROOP_CFG" 0x108 1 8 .ro 0 0,
   regK "CG_DROOP_CNT" 0x110 1 8 .ro 0 0,
   regC "CG_STRETCH_CNT" 0x118 1 8 true,
   regK "CG_RAMP_CNT" 0x120 1 8 .ro 0 0,
   regK "CG_RAMP_WAIT_CNT" 0x128 1 8 .ro 0 0,
   regK "CG_E" 0x130 1 8 .ro 0 0,
   reg "CG_P_EST" 0x138 1 8 .ro 0 0]

/-- LPD (R351). -/
def rowsLpd : List RegRow :=
  [reg "LPD_CFG" 0 1 8 .ro 0x40080000 0,
   reg "LPD_STATUS" 8 1 8 .ro 0 0,
   reg "LPD_CH_MARG" 0x10 1 8 .ro 0 0,
   reg "LPD_CH_FAIL" 0x18 1 8 .ro 0 0,
   reg "LPD_LIMITS" 0x20 1 8 .ro 0 0,
   reg "LPD_MRG_CMD" 0x28 1 8 .wo 0 7,
   reg "LPD_ERR" 0x30 1 8 .w1c 0 3,
   reg "LPD_TG_CTRL" 0x38 1 8 .rw 0 0xFF00000F31,
   reg "LPD_TG_RANGE" 0x40 1 8 .rw 0 0x3FFFF0003FFFF,
   reg "LPD_TG_STATUS" 0x48 1 8 .ro 0 0,
   reg "LPD_TG_ERR_CNT" 0x50 1 8 .ro 0 0,
   reg "LPD_TG_ERR_LOG" 0x58 1 8 .pop 0 0,
   regK "LPD_TRACK_CNT" 0x60 1 8 .ro 0 0,
   reg "LPD_INIT_CNT" 0x68 1 8 .ro 0 0,
   reg "LPD_MRG_T_c" 0x100 8 0x10 .ro 0 0,
   reg "LPD_MRG_V_c" 0x108 8 0x10 .ro 0 0,
   regK "LPD_LECC_CE_CNT_c" 0x200 8 8 .ro 0 0,
   regK "LPD_LECC_EVT" 0x240 1 8 .w1c 0 0xFF]

/-- OPT (R445). -/
def rowsOpt : List RegRow :=
  [reg "OPT_CFG" 0 1 8 .ro 0 0,
   reg "OPT_STATUS" 8 1 8 .ro 0 0,
   reg "OPT_CTRL" 0x10 1 8 .rw 0 1,
   reg "OPT_CMD" 0x18 1 8 .wo 0 1,
   reg "OPT_PARTNER" 0x20 1 8 .ro 0 0,
   reg "OPT_PARTNER_KEY" 0x28 1 8 .ro 0 0,
   reg "OPT_LANE_FAIL" 0x30 1 8 .ro 0 0,
   reg "OPT_LASER" 0x38 1 8 .ro 0 0,
   regK "OPT_FEC_CW_CNT" 0x40 1 8 .ro 0 0,
   regK "OPT_FEC_CORR_CNT" 0x48 1 8 .ro 0 0,
   regK "OPT_FEC_UNCORR_CNT" 0x50 1 8 .ro 0 0,
   regK "OPT_REPLAY_CNT" 0x58 1 8 .ro 0 0,
   regK "OPT_TX_FLIT_CNT" 0x60 1 8 .ro 0 0,
   regK "OPT_RX_FLIT_CNT" 0x68 1 8 .ro 0 0,
   regK "OPT_TRAIN_CNT" 0x70 1 8 .ro 0 0,
   reg "OPT_ERR" 0x78 1 8 .w1c 0 0x1F,
   reg "OPT_LANE_l" 0x100 17 8 .ro 0 0]

/-- CXU (R467). -/
def rowsCxu : List RegRow :=
  [reg "CXU_CFG" 0 1 8 .ro 0x80000004010 0,
   reg "CXU_STATUS" 8 1 8 .ro 0 0,
   reg "CXU_HDM_BASE_0" 0x10 1 8 .ro 0 0,
   reg "CXU_HDM_BASE_1" 0x18 1 8 .ro 0 0,
   reg "CXU_MSIX_TRIG" 0x20 1 8 .wo 0 0x7FF,
   reg "CXU_ERR_LOG" 0x28 1 8 .pop 0 0,
   regK "CXU_LINKDOWN_CNT" 0x30 1 8 .ro 0 0,
   regC "CXU_RX_FLIT_CNT" 0x38 1 8 true,
   regC "CXU_TX_FLIT_CNT" 0x40 1 8 true]

/-- CXD (R468). -/
def rowsCxd : List RegRow :=
  [reg "CXD_CFG" 0 1 8 .ro 0x100002004010 0,
   reg "CXD_STATUS" 8 1 8 .ro 0 0,
   reg "CXD_CTRL" 0x10 1 8 .rw 0x2710 0x1FFFF,
   reg "CXD_ERR_LOG" 0x18 1 8 .pop 0 0,
   regK "CXD_CTO_CNT" 0x20 1 8 .ro 0 0,
   regK "CXD_INB_CNT" 0x28 1 8 .ro 0 0,
   reg "CXD_MSI_ADDR" 0x30 1 8 .rw 0 0xFFFFFFFFFFFFC,
   reg "CXD_MSI_DATA" 0x38 1 8 .rw 0 0xFFFFFFFF]

/-- IOT (R469). -/
def rowsIot : List RegRow :=
  [reg "IOT_CFG" 0 1 8 .ro 0x100 0,
   reg "IOT_INV" 8 1 8 .wo 0 0xFF,
   reg "IOT_INV_SEQ" 0x10 1 8 .ro 0 0,
   reg "IOT_ERR" 0x18 1 8 .w1c 0 0xF,
   regK "IOT_MISS_CNT" 0x20 1 8 .ro 0 0,
   reg "IOT_WIN_BASE_w" 0x1000 256 0x20 .rw 0 0xFFFFFFFFFFFFF03F,
   reg "IOT_WIN_TGT_w" 0x1008 256 0x20 .rw 0 0xFFFFFFFFFF01F,
   reg "IOT_WIN_ID_w" 0x1010 256 0x20 .rw 0 0xFFF0000FFFFFFFF]

/-- PCP and package window (R237, R337, R352, R446, R492, R514, R532). -/
def rowsPcp : List RegRow :=
  [reg "PCP_DPT_n" 0x8000 256 8 .ro 0 0,
   reg "PCP_TIER_CFG" 0xA000 1 8 .ro 0 0,
   reg "PCP_MIG_STATUS" 0xA008 1 8 .ro 0 0,
   regK "PCP_MIG_PAGE_CNT" 0xA010 1 8 .ro 0 0,
   reg "PCP_MIG_ERR_LOG" 0xA018 1 8 .pop 0 0,
   reg "PCP_MRET_BASE" 0xA020 1 8 .rw 0 0xFFFFFFFFFF09F,
   reg "PCP_MRET_HEAD" 0xA028 1 8 .rw 0 0xFFFFFFFF,
   reg "PCP_MRET_TAIL" 0xA030 1 8 .ro 0 0,
   reg "PCP_MPOOL_BASE_p" 0xA100 15 0x20 .rw 0 0xFFFFFFFFFF09F,
   reg "PCP_MPOOL_TAIL_p" 0xA108 15 0x20 .rw 0 0xFFFFFFFF,
   regK "PCP_MPOOL_HEAD_p" 0xA110 15 0x20 .ro 0 0,
   reg "PCP_MEM_STATUS" 0xB000 1 8 .ro 0 0,
   reg "PCP_MEM_TIME" 0xB008 1 8 .ro 0 0,
   reg "PCP_FAB_CFG" 0xC000 1 8 .ro 0 0,
   reg "PCP_FAB_NAME" 0xC008 1 8 .ro 0 0,
   reg "PCP_FAB_LEVEL_l" 0xC010 4 8 .ro 0 0,
   reg "PCP_FAB_TMO" 0xC030 1 8 .rw 0x2710 0x1FFFF,
   reg "PCP_FAB_PORTS" 0xC038 1 8 .ro 0 0,
   reg "PCP_FAB_RT_IDX" 0xC040 1 8 .rw 0 0xFFF,
   reg "PCP_FAB_RT_DATA" 0xC048 1 8 .ro 0 0] ++
  [reg "PCP_FAB_RT_GEN" 0xC050 1 8 .ro 0 0,
   reg "PCP_FAB_EVT_LOG" 0xC058 1 8 .pop 0 0,
   regK "PCP_FAB_EVT_CNT" 0xC060 1 8 .ro 0 0,
   reg "PCP_FAB_MSI_ADDR" 0xC068 1 8 .rw 0 0xFFFFFFFFFFFFC,
   reg "PCP_FAB_MSI_DATA" 0xC070 1 8 .rw 0 0xFFFFFFFF,
   regK "PCP_FAB_UNREACH_CNT" 0xC078 1 8 .ro 0 0,
   regK "PCP_FAB_LATE_CNT" 0xC080 1 8 .ro 0 0,
   regK "PCP_FAB_TRANSIT_CNT" 0xC088 1 8 .ro 0 0,
   regK "PCP_FAB_DROP_CNT" 0xC090 1 8 .ro 0 0,
   regK "PCP_FAB_PACE_CNT" 0xC098 1 8 .ro 0 0,
   reg "PCP_PWR_CFG" 0xD000 1 8 .ro 0 0,
   reg "PCP_PL_SUS" 0xD008 1 8 .rw 0 0xFFFF,
   reg "PCP_PWR_STATUS" 0xD010 1 8 .ro 0 0,
   reg "PCP_P_AVG" 0xD018 1 8 .ro 0 0,
   regK "PCP_E_PKG" 0xD020 1 8 .ro 0 0,
   regK "PCP_E_UNATTR" 0xD028 1 8 .ro 0 0,
   regK "PCP_BRAKE_CNT" 0xD030 1 8 .ro 0 0,
   reg "PCP_BRAKE_LAT" 0xD038 1 8 .w1c 0 0xFFFF,
   regK "PCP_SAG_CNT" 0xD040 1 8 .ro 0 0,
   regK "PCP_SLEW_STALL_CNT" 0xD048 1 8 .ro 0 0] ++
  [regK "PCP_RAMP_WAIT_CNT" 0xD050 1 8 .ro 0 0,
   reg "PCP_PWR_EVT_LOG" 0xD058 1 8 .pop 0 0,
   reg "PCP_PWR_MSI_ADDR" 0xD060 1 8 .rw 0 0xFFFFFFFFFFFFC,
   reg "PCP_PWR_MSI_DATA" 0xD068 1 8 .rw 0 0xFFFFFFFF,
   regK "PCP_PWR_EVT_CNT" 0xD070 1 8 .ro 0 0,
   reg "PCP_PWR_FAULT" 0xD078 1 8 .w1c 0 7,
   reg "PCP_PART_CAP_n" 0xD100 64 8 .rw 0 0xFFF0000FFFF,
   regK "PCP_PART_E_n" 0xD300 64 8 .ro 0 0,
   reg "PCP_BOOT_STATUS" 0xE000 1 8 .ro 0 0,
   reg "PCP_BOOT_HALT" 0xE008 1 8 .ro 0 0,
   reg "PCP_RST_CAUSE" 0xE010 1 8 .ro 0 0,
   reg "PCP_RST_CNT" 0xE018 1 8 .ro 0 0,
   reg "PCP_RST_DISC" 0xE020 1 8 .ro 0 0,
   reg "PCP_RESET" 0xE028 1 8 .wo 0 0xFFFF000000000003,
   reg "PCP_HB_STATUS" 0xE030 1 8 .ro 0 0,
   reg "PCP_SEC_FUSE" 0xE038 1 8 .ro 0 0,
   reg "PCP_CG_PRESENT" 0xE040 1 8 .ro 0 0,
   reg "PCP_MEAS_CTRL" 0xE048 1 8 .ro 0 0,
   reg "PCP_BOOT_TIME_n" 0xE080 10 8 .ro 0 0,
   reg "PCP_MEAS_m_w" 0xE100 24 8 .ro 0 0] ++
  [reg "PCP_RAS_SUM" 0xF000 1 8 .ro 0 0,
   reg "PCP_RAS_POLICY" 0xF008 1 8 .ro 0 0]

/-- HCL (R371). -/
def rowsHcl : List RegRow :=
  [reg "HCL_CFG" 0 1 8 .ro 0x8000040200C 0,
   reg "HCL_STATUS" 8 1 8 .ro 0 0,
   regK "HCL_ECC_CE_CNT" 0x10 1 8 .ro 0 0,
   reg "HCL_BERR_OVF" 0x18 1 8 .ro 0 0,
   reg "HCL_BERR_LOG_c" 0x100 12 8 .pop 0 0,
   reg "HCL_SB_DISC_c" 0x180 12 8 .ro 0 0]

end Sys2Proof.Machine
end

