-- ==== Sys2Proof/Machine/State.lean ====
section
/-! DEFINITION. The state of the package: every register, memory, cache, queue, counter, mode and pin the spec gives
it, as plain data; the faults and refusals; the state right after a cold reset. Registers stand in one map keyed by
their local address; what a register holds that no entry lists is its reset value (Machine/Regs.lean). -/

namespace Sys2Proof.Machine

/-! ### Coherent memory and its homes (R372–R396) -/

/-- What the SLC holds of one 64-byte line (R374). -/
inductive SlcSt
  | inv | clean | dirty
  deriving DecidableEq, Repr

/-- A 128-byte block in a slice (R372, R374): its number A >> 7, retention priority (R375), its two lines. -/
structure SlcBlock where
  blk    : Nat
  retain : Bool
  l0     : SlcSt
  l1     : SlcSt
  deriving DecidableEq, Repr

/-- Snoop-filter states of a tracked line (R377): cluster bits and U0, U1, D0, D1 bits, or one owner. -/
inductive FiltSt
  | shared (clusters : BitVec 6) (ext : BitVec 4)
  | owned (o : Agent)
  deriving DecidableEq, Repr

/-- One snoop-filter entry (R377); `line` is the address divided by 64. -/
structure FiltEnt where
  line : Nat
  st   : FiltSt
  deriving DecidableEq, Repr

/-- Requests a home serves (R380). -/
inductive ReqKind
  | rdShared | rdUnique | rdOnce | wrFull | wrPartial | atomic | wrBack | evict | victim
  deriving DecidableEq, Repr

/-- A request at a home (R380): its sender, the bytes a write carries and their mask, an atomic's operation, the hint
of R389, whether it registers a watch (R388), the poison a write carries, whether it takes the Roe path (R334), the core and
command that have the request outstanding until the home answers it (R70, R261), whether it waits at its slice's input
(R382), the number of the adapter's write it belongs to (R458). -/
structure HReq where
  kind   : ReqKind
  agent  : Agent
  line   : Nat
  mask   : BitVec 64
  data   : List Byte
  op     : Option AtomOp
  hint   : Nat
  htgt   : Nat
  watch  : Bool
  poison : Bool
  roe    : Bool
  who    : Option (Nat × Nat)
  nodata : Bool
  atInput : Bool
  seq    : Nat
  deriving DecidableEq, Repr

/-- The request a line is blocked on (R381): the agents whose snoop responses are awaited, a WrBack held aside with
its data (R387), whether RspWBInFlight has come, the agent whose CompAck ends the block, and of an atomic applied before the
sharers have answered (R384) the old line and whether poison kept it from being applied. -/
structure Txn where
  req     : HReq
  waiting : List Agent
  held    : Option (Agent × List Byte)
  inFlight : Bool
  ackFrom : Option Agent
  applied : Option (List Byte × Bool)
  deriving DecidableEq, Repr

/-- The home's record of a line: the block and the per-line queue (R381). -/
structure Home where
  busy  : Option Txn
  queue : List HReq
  deriving DecidableEq, Repr

/-- Messages under way between homes and agents (R380). -/
inductive MsgKind
  | snpShared | snpInv | rspI | rspS
  | rspData (keepS : Bool) (data : List Byte)
  | rspWBInFlight
  | wrBack (data : List Byte)
  | evict
  | comp
  | compData (granted : Option Bool) (hasData : Bool) (data : List Byte) (poison : Bool)
  | compAck
  | stashOffer
  | writeNote
  deriving DecidableEq, Repr

/-- One message; `agent` is its other end, the home being that of `line`. -/
structure Msg where
  kind  : MsgKind
  line  : Nat
  agent : Agent
  deriving DecidableEq, Repr

/-- An armed injection of a die (R561): line and KIND. -/
structure Inject where
  line : Nat
  kind : Nat
  deriving DecidableEq, Repr

/-- A range of a training unit that the traffic generator has written (R348): controller, unit, first byte and end, the
draw its bytes come from. -/
structure TgRange where
  ctl  : Nat
  unit : Nat
  lo   : Nat
  hi   : Nat
  seed : Nat
  deriving DecidableEq, Repr

/-- Tier 0 and tier 1 with their homes. `input` holds by slice the lines whose first request waits for a tracker, in the
order it came (R382). `slcFlip`, `tagFlip` and `filtFlip` are the bit errors that stand in the SLC's data,
in its tags and in the snoop filter, by line: 1 one that SECDED corrects, 2 one that it does not, in tags both copies
(R518). -/
structure Mem where
  data    : FMap Byte
  poison  : FMap Bool
  slc     : FMap (List SlcBlock)
  filt    : FMap (List FiltEnt)
  homes   : FMap Home
  input   : FMap (List Nat)
  watches : FMap (List (Nat × Nat))
  net     : List Msg
  armed   : FMap (Option Inject)
  marked  : FMap Nat
  traffic : List TgRange
  slcFlip : FMap Nat
  tagFlip : FMap Nat
  filtFlip : FMap Nat
  deriving DecidableEq, Repr

/-! ### Host harts (R353–R371) -/

/-- States of a line in a hart's L1D and L2 (R376). -/
inductive HSt
  | m | e | s
  deriving DecidableEq, Repr

/-- A line held by a hart (R356). -/
structure HLine where
  st     : HSt
  data   : List Byte
  poison : Bool
  deriving DecidableEq, Repr

/-- Kinds of store-buffer entries (R359); `orderMark` holds no store: what stands behind it leaves after what stands
before it, as TLV.REL CORE orders (R367). -/
inductive SbKind
  | cacheable | register | posted | nonPosted | orderMark
  deriving DecidableEq, Repr

/-- A store-buffer entry (R358): an aligned granule with a byte mask, or one I/O store with its address and size;
`tag` names the completion an issued non-posted store waits for; `ro0` is set on the posted store that leaves with RO = 0
(R457). -/
structure SbEnt where
  kind : SbKind
  addr : Nat
  size : Nat
  mask : BitVec 64
  data : List Byte
  tag  : Option Nat
  ro0  : Bool
  deriving DecidableEq, Repr

/-- Why a hart has asked for a line. -/
inductive MissWhy
  | load
  | store
  | zero
  | amo
  | prefetch (instr : Bool)
  | stash
  deriving DecidableEq, Repr

/-- A barrier that waits for its non-posted store (R361). -/
inductive Barrier
  | fence | tlvRel | tlvDb (addr : Nat) (value : Word) | tlvAcq | handler | stop (powerDown : Bool) | io (addr size : Nat)
  deriving DecidableEq, Repr

/-- A load under way (R355, R358): its address and size, the bytes it has so far from lines held and from the store buffer,
whether one of them came out of a poisoned line. -/
structure LoadRec where
  addr : Nat
  size : Nat
  got  : List (Option Byte)
  bad  : Bool
  deriving DecidableEq, Repr

/-- One hart: the lines of its L2, those among them in L1I and in L1D (R356), evicted M lines awaiting Comp (R386), store
buffer, outstanding misses, the loads that wait for them, reservation,
power state, waiting barrier, pending stash offers (R391), the bus-error bit of mip (R362), the source of a held RO = 0
attribute (R457), the outstanding I/O load, where it was started with its a0 and a1 (R509), its CSRs by number (R48, R353), bit errors in
its L1I and in its L1D and L2 by line: 1 corrected by SECDED, 2 not (R518). -/
structure Hart where
  lines  : FMap (Option HLine)
  icache : List Nat
  dcache : List Nat
  wbuf   : FMap (Option HLine)
  sb     : List SbEnt
  miss   : List (Nat × MissWhy)
  loads  : List LoadRec
  resv   : Option (Nat × Nat)
  stopped : Bool
  off    : Bool
  bar    : Option Barrier
  offers : List Nat
  mip35  : Bool
  orderNext : Bool
  ioLoad : Option (Nat × Nat × Nat)
  start : Option (Nat × Nat × Nat)
  csr   : FMap Word
  flipI : FMap Nat
  flipD : FMap Nat
  deriving DecidableEq, Repr

/-! ### Dies, memory controllers, Erotte, ports, Acelos -/

/-- Per-die record outside the registers: corrected errors already logged in the running 1 ms (R517), the CE count of
the running second and whether its storm record is written. -/
structure Die where
  ceLogged : List (Nat × Nat)
  ceCount  : Nat
  storm    : Bool
  deriving DecidableEq, Repr

/-- An optical port's record outside its registers: the wait of 100 ms in DARK, whether light is awaited; the nonces
and the progress of the identity exchange (R428); the partner's whole KEY; go-back-N state (R421): next expected
sequence, whether a replay request is out, next sequence to send, unacknowledged flits, replays of one flit without
progress; the lanes that fail in the running repair; the slots filled of the flit sent last (R436); the slots of each virtual
channel whose credits have not come back (R438); forwarded requests not acknowledged at the link, each with the number of its
last flit (R443). -/
structure Port where
  holdoff  : Bool
  nonceIn  : List Byte
  nonceOut : List Byte
  sent     : Bool
  recOk    : Bool
  key      : List Byte
  rxNext   : Nat
  rxNak    : Bool
  txNext   : Nat
  unacked  : Nat
  replays  : Nat
  repairing : BitVec 17
  fill     : Nat
  vcUsed   : FMap Nat
  transit  : List (Nat × FabHdr)
  deriving DecidableEq, Repr

/-- A laser module as last polled (R418, R419). -/
structure Laser where
  present : Bool
  ready   : Bool
  fault   : BitVec 4
  enabled : Bool
  temp    : BitVec 16
  deriving DecidableEq, Repr

/-- Where the answer of a fabric or downstream-port request of a command goes: nowhere, a destination of a transfer
(its kind, address, reduction, format and hint), an element of the scratchpad, a G register of a load or an atomic, the
watched value of a semaphore, a credit take, the END of a credit. -/
inductive ReqDest
  | none
  | put (kind addr rop rfmt hint htgt : Nat)
  | greg (n size : Nat)
  | sem
  | take
  | ending
  deriving DecidableEq, Repr

/-- An outstanding fabric request (R440): its tag, opcode, destination package and address, the port it left by and its place in that
port's flits, and the command that waits on it. -/
structure FabReq where
  tag   : Nat
  op    : Nat
  dst   : Nat
  addr  : Nat
  port  : Nat
  seq   : Nat
  acked : Bool
  core  : Nat
  cmd   : Nat
  dest  : ReqDest
  len   : Nat
  deriving DecidableEq, Repr

/-- A message held by pacing (R435), or by the recompute of a lost edge (R30). -/
structure Held where
  level : Nat
  op    : Nat
  hdr   : FabHdr
  data  : List Byte
  req   : Option FabReq
  deriving DecidableEq, Repr

/-- Who waits on a non-posted request at a downstream port (R463). -/
inductive DsWho
  | hartLoad (h size : Nat)
  | hartStore (h : Nat)
  | engine (r : FabReq)
  | agent (ag : Agent)
  deriving DecidableEq, Repr

/-- An outstanding non-posted request at a downstream port. -/
structure DsReq where
  tag  : Nat
  addr : Nat
  who  : DsWho
  deriving DecidableEq, Repr

/-- A matched write of an adapter (R454): its window, target, hint and hint target as they were then, its number in the order of
the port's posted writes (R458). -/
structure HeldWr where
  win  : Nat
  tgt  : Nat
  hint : Nat
  htgt : Nat
  seq  : Nat
  req  : InbReq
  deriving DecidableEq, Repr

/-- An Acelo's record outside its registers: CXU_PERST_N and CXD_PERST_N low, outstanding downstream requests and the
next tag, matched writes held at the root port (R30, R458) and the number of the next one, submitted drains, each with the
number of the first write that it does not wait for (R456), the register that the upstream host's last POP read took an entry
from (R461), what names the sizes programmed at the root port (R453), the REPORT request its DOE mailbox serves (R513). -/
structure Acelo where
  perst    : Bool
  cxdPerst : Bool
  out      : List DsReq
  nextTag  : Nat
  roHeld   : List HeldWr
  nextWr   : Nat
  inv      : List (Nat × Nat)
  popOut   : Option Nat
  prog     : Nat
  doe      : Option (List Byte × BitVec 16)
  deriving DecidableEq, Repr

/-! ### Accelerator cores (R65–R310) -/

/-- One page's translation (R288): virtual base, log2 of its size, physical base with its package field, permissions,
the level, the address and the entry of its leaf, whether its context aborts on a fault (R286). -/
structure Page where
  va    : Nat
  log2  : Nat
  pa    : Nat
  r     : Bool
  w     : Bool
  level : Nat
  leaf  : Nat
  entry : Word
  aof   : Bool
  deriving DecidableEq, Repr

/-- An ATU entry (R293): a page tagged with its context; `par` is set while its parity is bad (R295). -/
structure AtuEnt where
  ctx  : Nat
  page : Page
  par  : Bool
  deriving DecidableEq, Repr

/-- Where a command stands (R205): read from its slot and being translated, refused at fetch (R564), in the issue
window, in its engine's FIFO, started, its work done, its release begun with the merging-buffer granules still to
drain (R262). -/
inductive Stage
  | fetching | bad | window | fifo | started | done
  | releasing (left : List Nat)
  deriving DecidableEq, Repr

/-- What a started command still waits for, beside outstanding requests: an L1 refill of a load with its address (R73),
a retry of a credit take with the refusals left (R197), the END of a credit slot (R198), a step of a page migration
(R323), a stream to enter its sub-array (R103), the bytes of a compressed stream (R331, R332). -/
inductive Work
  | none
  | load (pa : Nat)
  | take (left : Nat) (pa : Nat) (waiting : Bool)
  | ending
  | migEntry
  | migBump
  | migCopy (dst : Nat)
  | migReturn
  | stream
  | codec (len src dst : Nat)
  deriving DecidableEq, Repr

/-- A codec transfer that waits for bytes; it holds the values it read when it started (R178). -/
def Work.isCodec : Work → Bool
  | codec _ _ _ => true
  | _ => false

/-- A command in flight (R66): serial number, queue, its eight words as patched, the parameter registers its A and B
operands name (R216), its place for records (R226), stage, translations (R207) and whether an epoch made them old
(R302), the status a check at fetch fixed, the semaphore value last read and its poison, whether a record entry is
reserved (R282), outstanding requests, status, INFO, what it waits for, the pages a DE_MIGRATE has still to move, whether it has sent a posted write downstream (R457), whether a write of it
has been dropped, so that it issues no more (R200), a bit error in its storage: 1 corrected by SECDED, 2 not (R518), whether
it completed without having started (R179, R235). -/
structure Cmd where
  id    : Nat
  q     : Nat
  w     : List Word
  kA    : Word
  kB    : Word
  index : Nat
  inst  : Nat
  rep   : Nat
  stage : Stage
  pages : List Page
  old   : Bool
  walking : Bool
  pre   : Option Nat
  seen  : Option Word
  seenBad : Bool
  resv  : Bool
  out   : Nat
  status : Nat
  info  : Nat
  work  : Work
  left  : List Page
  posted : Bool
  dropped : Bool
  flip  : Nat
  unrun : Bool
  deriving DecidableEq, Repr

/-- A running QFE_REPLAY (R230). -/
structure Replay where
  index : Nat
  seg   : Nat
  pset  : Nat
  len   : Nat
  pcnt  : Nat
  reps  : Nat
  rep   : Nat
  pos   : Nat
  loaded : Bool
  deriving DecidableEq, Repr

/-- A loop nest (R232): the QFE_LOOP's place and words, the looped command's words, place and parameter operands once
read, the next instance. -/
structure LoopNest where
  index : Nat
  inst  : Nat
  w     : List Word
  body  : List Word
  kA    : Word
  kB    : Word
  bodyIndex : Nat
  bodyInst  : Nat
  next  : Nat
  deriving DecidableEq, Repr

/-- A queue outside its registers: state 0 OFF, 1 RUN, 2 STOPPED; parameter registers (R228); fetch position; pin
(R231); running replay and loop; an unresolved SE_BR (R177); a QFE_FENCE has run since the queue's last posted write downstream
(R457); bit errors in its parameter registers: 1 corrected by SECDED, 2 not (R518). -/
structure Queue where
  st       : Nat
  k        : FMap Word
  pos      : Nat
  pinned   : Bool
  replay   : Option Replay
  loop     : Option LoopNest
  br       : Bool
  ordNext  : Bool
  kFlip    : FMap Nat
  deriving DecidableEq, Repr

/-- A completion record in an engine's buffer (R226, R282). -/
structure Rec where
  eng  : Nat
  q    : Nat
  w0   : Word
  w1   : Word
  cint : Bool
  deriving DecidableEq, Repr

/-- A 128-byte line of L1 or of the side buffer (R71): its number, the way it stands in, its parity (0 good, 1 bad in its
data, 2 bad in its tag; R81), its sectors. -/
structure L1Line where
  line : Nat
  way  : Nat
  par  : Nat
  s0   : Option (List Byte)
  s1   : Option (List Byte)
  deriving DecidableEq, Repr

/-- A merging-buffer entry (R76, R170); `par` is its parity: 0 good, 1 bad in data or mask, 2 bad in the tag (R83). -/
structure MbEnt where
  gran   : Nat
  ctx    : Nat
  mask   : BitVec 64
  data   : List Byte
  poison : Bool
  par    : Nat
  deriving DecidableEq, Repr

/-- A prefetch stream tracker (R80): its context, direction, last demanded line, furthest requested line, the page it
stays in (first line and number of lines, first line of its virtual addresses). -/
structure Tracker where
  eng   : Nat
  ctx   : Nat
  up    : Bool
  last  : Nat
  ahead : Nat
  base  : Nat
  lines : Nat
  vbase : Nat
  deriving DecidableEq, Repr

/-- A line being refilled for loads (R73): the sectors still to come, whether it may be installed (R78), the commands whose
loads wait for it. -/
structure Refill where
  line    : Nat
  sectors : List Nat
  install : Bool
  loads   : List Nat
  deriving DecidableEq, Repr

/-- A pending fault slot of an ATU (R298): context, stopping entry (its address; for causes 5 and 6 at the context, the
context alone), cause, level, access bits, SEQ, first address, the entry, the index of the first requester, the joined
requesters (command numbers), whether its record is written. -/
structure FltSlot where
  ctx   : Nat
  key   : Option Nat
  cause : Nat
  level : Nat
  acc   : Nat
  seq   : Nat
  va    : Nat
  entry : Word
  index : Nat
  reqs  : List Nat
  qmask : Nat
  emask : Nat
  recorded : Bool
  deriving DecidableEq, Repr

/-- A tile of the matrix array (R100): format, sparsity, logical K and N, for each logical K row the elements (none
where sparsity keeps none), the block scales by block and column, the columns that hold a poisoned cell (R565), the columns whose parity is bad (R125). -/
structure Tile where
  fmt    : Nat
  sparse : Bool
  tk     : Nat
  tn     : Nat
  cells  : List (List (Option Nat))
  scales : List (List Nat)
  bad    : List Nat
  par    : List Nat
  deriving DecidableEq, Repr

/-- A stream of the matrix array (R103): its command, whether it takes the shadow tile, the parameters it runs with. -/
structure Stream where
  cmd    : Nat
  gemv   : Bool
  swap   : Bool
  acc    : Bool
  fmtA   : Nat
  fmtB   : Nat
  sparse : Bool
  m      : Nat
  k      : Nat
  n      : Nat
  accRow : Nat
  aAddr  : Nat
  aStride : Nat
  bAddr  : Nat
  bStride : Nat
  par    : List Nat
  deriving DecidableEq, Repr

/-- A sub-array (R98): active and shadow tile, the streams in it, the assigned stream. -/
structure SubArr where
  active   : Option Tile
  shadow   : Option Tile
  inside   : List Stream
  assigned : Option Stream
  deriving DecidableEq, Repr

/-- The matrix array (R97, R119): shape (7 none), sub-arrays, the HOLD state (0 idle, 1 holding, 2 ramping down, 3
ramping up), the current level in percent, whether the ramp is granted. -/
structure MeSt where
  shape   : Nat
  subs    : FMap SubArr
  hold    : Nat
  level   : Nat
  granted : Bool
  deriving DecidableEq, Repr

/-- A part of a tile write, within one granule, that is still to appear (R255, R270): the command that writes it, where it goes
(0 own scratchpad, 1 own accumulator, 2 a physical address), its bytes and poison; at an address, the reduction and its
format, the hint, whether it is an element of a table. -/
structure LatePart where
  cmd    : Nat
  kind   : Nat
  addr   : Nat
  data   : List Byte
  poison : Bool
  rop    : Nat
  rfmt   : Nat
  hint   : Nat
  htgt   : Nat
  roe    : Bool
  deriving DecidableEq, Repr

/-- One accelerator core outside its registers: scratchpad and accumulator with their poison, queues, commands in the
order fetched, record buffers, L1, side buffer, merging buffer, trackers, the line each
engine missed last, lines being prefetched and refilled, ATU,
fault slots and requesters that wait for one, faults whose slot is free again and whose record is not written yet (R299), the
fault number, the matrix array, banks being zeroed (R203), contexts a parity error has killed whose queues are about to stop (R83), bytes with their poison that a codec
transfer has read of its streams, by command and offset (R331, R332), bit errors in the scratchpad's words and in the
accumulator's entries: 1 corrected by SECDED, 2 not (R116, R190), corrected errors of L1 by way (R82), the queue each
engine served last (R68), how many commands each engine has started, parts of tile writes that are still to appear (R270). -/
structure Core where
  spad    : FMap Byte
  spadBad : FMap Bool
  acc     : FMap Byte
  accBad  : FMap Bool
  queues  : FMap Queue
  cmds    : List Cmd
  nextId  : Nat
  recs    : List Rec
  l1      : List L1Line
  side    : List L1Line
  mb      : List MbEnt
  trackers : List Tracker
  missed  : List (Nat × Nat)
  pf      : List Nat
  refills : List Refill
  atu     : List AtuEnt
  slots   : FMap (Option FltSlot)
  slotWait : List Nat
  fltLate : List (Nat × FltSlot)
  fltSeq  : Nat
  me      : MeSt
  waking  : BitVec 48
  killed  : List Nat
  staged  : FMap (Option (Byte × Bool))
  spadFlip : FMap Nat
  accFlip : FMap Nat
  wayErr  : FMap Nat
  served  : FMap Nat
  begun   : FMap Nat
  late    : List LatePart
  deriving DecidableEq, Repr

/-- A walk a core waits for (R294): the core, the command, the context, the address, whether it writes. -/
structure WalkReq where
  core  : Nat
  cmd   : Nat
  ctx   : Nat
  va    : Nat
  write : Bool
  deriving DecidableEq, Repr

/-- An invalidation at a walker (R303): sequence number, context, first address and end, whole context, the cores that
have not taken the bump and those that have not acknowledged, the started commands (core, number) it waits for. -/
structure InvReq where
  seq    : Nat
  ctx    : Nat
  lo     : Nat
  hi     : Nat
  all    : Bool
  toBump : List Nat
  toAck  : List Nat
  waits  : List (Nat × Nat)
  deriving DecidableEq, Repr

/-- An ADD in a node of a combining tree (R279): the word's address, the sum, the signalling core or none when several
were merged. -/
structure TreeAdd where
  addr : Nat
  sum  : Nat
  core : Option Nat
  deriving DecidableEq, Repr

/-- A migration entry (R323): the core and command, context, page. -/
structure MigEnt where
  core  : Nat
  cmd   : Nat
  ctx   : Nat
  page  : Page
  deriving DecidableEq, Repr

/-- A return entry that waits for its ring (R326). -/
structure MigRet where
  core : Nat
  cmd  : Nat
  w0   : Word
  w1   : Word
  deriving DecidableEq, Repr

/-- A compute die's walker and combining tree: the walker cache (entry address, context, entry; most recently used
first), the addresses of its entries whose parity is bad (R295), walks, invalidations, tree nodes. -/
structure Tree where
  cache : List (Nat × Nat × Word)
  par   : List (Nat × Nat)
  walks : List WalkReq
  invs  : List InvReq
  nodes : FMap (List TreeAdd)
  deriving DecidableEq, Repr

/-- What the paths of R478 ask of a core group (R476): the stretch factor each requests, and whether a cap or a
temperature holds its target down. -/
structure GPow where
  droop : Nat
  slew  : Nat
  peak  : Nat
  brake : Nat
  sag   : Nat
  cap   : Nat
  capped : Bool
  temp  : Bool
  deriving DecidableEq, Repr

/-- A half's measurements and slew limiter (R470, R480, R481): samples and sums of the running 1 µs, the last averages in
mV and mA, the rise of the running millisecond, the share of SLEW in mA per µs, what grants have used of it, whether the
next interval is taken whole by a wake, whether a grant was issued in this interval, the requests that have waited a
tick. -/
structure Half where
  n      : Nat
  sumMv  : Nat
  sumMa  : Nat
  mv     : Nat
  ma     : Nat
  share  : Nat
  used   : Nat
  skip   : Bool
  issued : Bool
  waited : List Nat
  deriving DecidableEq, Repr

/-- The governor's package-wide record: sag, brake, the PL_SUS in force (R490), the targets held when the brake was asserted,
whether the peak path holds k up, whether the package is off (1 a supply fault, 2 a thermal shutdown), THERMTRIP, whether
the 1 s average lacks room. -/
structure Pow where
  sag    : Bool
  brake  : Bool
  sus    : Nat
  savedA : List (Nat × Nat)
  savedH : List (Nat × Nat)
  peakOn : Bool
  off    : Nat
  therm  : Bool

  lack   : Bool
  deriving DecidableEq, Repr

/-- A memory controller outside its registers: the run in progress (0 none, 1 margining, 2 the traffic generator) and
its unit, the line the scrub reads next, passes and progress of the scrub, the read width and height a MARGINAL unit was
accepted with, self-refresh (R346, R348, R505, R524). -/
structure Ctl where
  op     : Nat
  unit   : Nat
  next   : Nat
  passes : Nat
  accepted : FMap (Nat × Nat)
  selfRef : Bool
  deriving DecidableEq, Repr

/-- One direction of an Erotte module at its receiver and sender (R402, R403): next expected sequence, a replay asked
for, the flit last replayed and how often in a row, charged errors by lane, failed lanes that a repair has still to
remap, the sender's next sequence number and its replay buffer, oldest first. -/
structure MDir where
  rxNext  : Nat
  nak     : Bool
  nakSeq  : Nat
  replays : Nat
  errs    : FMap Nat
  todo    : BitVec 68
  txNext  : Nat
  buf     : List (BitVec 992)
  deriving DecidableEq, Repr

/-- A flit held at a boundary stop: it waits for an edge, toward its first or its second die (R404, R406, R407). -/
structure MHeld where
  edge : Nat
  dir  : Bool
  body : BitVec 992
  deriving DecidableEq, Repr

/-- The Erotte layer: directions by module and receiving end, edges that are lost, edges whose list is being rebuilt,
edges whose route recompute is under way (R30, R404, R407), flits held for an edge; the inter-die routing tables that the primary owns, the dies
a flit visits by the dies it goes between and its column (R27, R31). -/
structure Ert where
  dirs    : FMap MDir
  lost    : BitVec 8
  rebuild : BitVec 8
  routing : BitVec 8
  held    : List MHeld
  routes  : FMap (List Nat)
  deriving DecidableEq, Repr

/-- Package-wide records outside the registers: the primary, next hops, pacing tokens, held messages, ports that wait for a
signature, fabric requests and the next tag, the Acelos that have heard no heartbeat since they lost it (R504). -/
structure Pkg where
  primary  : Nat
  via      : List (Nat × Nat)
  tokens   : FMap Nat
  held     : List Held
  identQ   : List Nat
  fabReqs  : List FabReq
  nextTag  : Nat
  silent   : BitVec 2
  deriving DecidableEq, Repr

/-- What the loader puts into a ring: a native command, or a QFE_REPLAY of a segment with one parameter set per trip
(R250). -/
inductive SncItem
  | cmd (w : List Word)
  | replay (body : List (List Word)) (psets : List (List Word))
  deriving DecidableEq, Repr

/-- A translation the loader keeps (R252): the module's MEAS, the Device Property Table's digest, the core group and the
context asked for, the native commands by core and by the number of the queue among the context's, the first and the
number of the local semaphores and of the credit slots that it uses on each of its cores, whether it is in use since the
last reset (R253). -/
structure KeptSnc where
  meas   : List Byte
  digest : Word
  group  : Nat
  ctx    : Nat
  snc    : List (Nat × Nat × List SncItem)
  lsem   : Nat
  lsems  : Nat
  slot   : Nat
  slots  : Nat
  live   : Bool
  deriving DecidableEq, Repr

/-- The values of the configuration image in force (R498). -/
structure Image where
  errPolicy : BitVec 32
  t0Local   : Nat
  t1Local   : Nat
  pkgId     : BitVec 12
  fabricName : Word
  auth      : Bool
  transit   : Bool
  pace      : Bool
  levels    : Nat
  roles     : BitVec 32
  shift     : List Nat
  up        : List Nat
  down      : List Nat
  laneLimit : Nat
  trust     : List Byte
  aclkMax   : Nat
  hclkMax   : Nat
  baud      : Nat
  plSus     : Nat
  plPeak    : Nat
  plBrake   : Nat
  slew      : Nat
  hold      : Bool
  tmin      : Nat
  vmin      : Nat
  memQual   : Nat
  memMaint  : Nat
  leccLimit : Nat
  deriving DecidableEq, Repr

/-- A message write under way (R61): the die of the issuing block, the target address, the data. -/
structure MsgWr where
  die  : Nat
  addr : Nat
  data : Nat
  deriving DecidableEq, Repr

/-- What the package sends outside itself. -/
inductive Out
  | mon (a : Nat) (chars : List Byte)
  | ertFlit (m : Nat) (dir : Bool) (f : MFlit)
  | targets (t : Targets)
  | heartbeat (a : Nat) (east : Bool)
  | aer (port : Nat) (fatal : Bool)
  | snoop (agent : Agent) (line : Nat) (inv : Bool)
  | msix (a : Nat) (vector addr data : Nat)
  | optFlit (port : Nat) (f : Flit)
  | tlp (a : Nat) (write : Bool) (addr len : Nat) (data : List Byte) (ro : Bool)
  | peer (a : Nat) (req : InbReq)
  | accessFailed (agent : Agent)
  | mgmt (port : Nat) (kind : Nat) (bytes : List Byte)
  | fab (port : Nat) (op : Nat) (h : FabHdr) (data : List Byte)
  deriving DecidableEq, Repr

/-- What the last command's sender observes: among others a precise access fault of a hart's load, of its store or AMO
(R63, R355), an illegal-instruction exception (R354). -/
inductive Answer
  | none
  | done
  | notEnabled
  | value (v : Word)
  | values (vs : List (Option Word))
  | bytes (bs : List Byte)
  | poisoned (bs : List Byte)
  | loadFault
  | storeFault
  | illegal
  | busError
  | completerAbort
  | unsupported
  | discarded
  | pending
  deriving DecidableEq, Repr

/-- The hardware but for the security state. `clk` holds the cycle counts of the domains that no register shows, by domain
identifier (R42, R44); `pcpFlip` the bit errors in the PCPs' local memories (R518); `retired` the cores that field
retirement has taken out, as their fuses hold them (R124); `placed` the ring index up to which the loader has put commands,
by core and queue (R253); `tallied` what each counter of time has counted up to, so that
reading one with nothing going on leaves it as it is (R15). -/
structure Hw where
  regs    : FMap Word
  logs    : FMap (List (Word × Word))
  lastPop : FMap (Word × Word)
  fresh   : Nat
  mem     : Mem
  harts   : FMap Hart
  cores   : FMap Core
  groups  : FMap Nat
  parts   : FMap Nat
  trees   : FMap Tree
  migs    : List MigEnt
  migRets : List MigRet
  portsUp : Bool
  ramps   : List Nat
  fenced  : BitVec 2
  gpow    : FMap GPow
  halves  : FMap Half
  pow     : Pow
  ctls    : FMap Ctl
  ert     : Ert
  dies    : FMap Die
  ports   : FMap Port
  lasers  : FMap Laser
  acelos  : FMap Acelo
  pkg     : Pkg
  img     : Image
  present : BitVec 64
  locked  : Bool
  stop    : Bool
  fatal   : List (Nat × Word)
  msgs    : List MsgWr
  imsic   : FMap (List Nat)
  bar4    : FMap Byte
  idKey   : List Byte
  idCert  : List Byte
  deadHarts : List Nat
  clk     : FMap Word
  pcpFlip : FMap Nat
  retired : List Nat
  tallied : FMap Nat
  kept    : List KeptSnc
  placed  : FMap Nat
  sent    : List Out
  deriving DecidableEq, Repr

/-- An access the monitor makes: a PEEK, a POKE, the rest of a DUMP with its column (R538). -/
inductive MonJob
  | peek (a size : Nat)
  | poke (a size : Nat) (v : Word)
  | dump (a left col : Nat)
  deriving DecidableEq, Repr

/-- What the monitor's running command waits for (R538, R539): a controller, the bytes of an upload, an access whose
line is blocked or whose request has gone out to a downstream port. -/
inductive MonWait
  | idle
  | margin (k unit : Nat)
  | traffic (k : Nat)
  | upload (count : Nat)
  | access (issued : Bool) (job : MonJob)
  deriving DecidableEq, Repr

/-- The Tahr monitor (R534–R541): UNLOCKED, the line typed so far, what it waits for, bytes buffered meanwhile and
whether more than 256 came, the challenge pending, the bytes of the upload under way and of a completed one, whether an
UNLOCK has failed within the last second, halt and fatal lines that wait for the running command's end (R541). -/
structure Mon where
  unlocked : Bool
  line   : List Byte
  wait   : MonWait
  inbuf  : List Byte
  excess : Bool
  nonce  : Option (List Byte)
  coming : List Byte
  upload : List Byte
  rated  : Bool
  due    : List Byte
  deriving DecidableEq, Repr

/-- PCP firmware in an Acelo's local memory (R499): the Acelo, where it is loaded and entered, its code. -/
structure PcpRun where
  acelo : Nat
  load  : Nat
  entry : Nat
  code  : List Byte
  deriving DecidableEq, Repr

/-- Fuses, boot, identity and monitor: what only resets, boot steps and the Tahr monitor change (R496–R515,
R534–R541): revocation bits, FUSE_SVN, the last boot step completed, whether the boot is cold, whether a step 7 has
completed since the last cold reset, the maintenance hold, halt words by Acelo, of the image in use the slot, SVN, key
slot, SVN_COMMIT, PCP_FW body, the firmware loaded in the PCPs, HOST_FW fields and code, monitor keys, records as a copy for the host; the measurement
registers and which are final; whether the last run ended in a fence; the monitor. -/
structure Sec where
  revoked  : BitVec 4
  fuseSvn  : Nat
  step     : Nat
  cold     : Bool
  memDone  : Bool
  maint    : Bool
  halts    : List (Nat × Nat)
  slot     : Nat
  svn      : Nat
  keyIdx   : Nat
  commit   : Bool
  pcpFw    : List Byte
  pcpRun   : List PcpRun
  hostLoad : Nat
  hostEntry : Nat
  hostFw   : List Byte
  monKeys  : List (List Byte)
  records  : List (List Byte)
  header   : List Byte
  meas     : List (List Byte)
  measDone : BitVec 6
  fencedLast : Bool
  mon      : Mon
  deriving DecidableEq, Repr

/-- The block: its hardware, its security state, the commands waiting first in first out, and what the last command's
sender observed. -/
structure State where
  hw      : Hw
  sec     : Sec
  pending : List Instr
  answer  : Answer
  deriving DecidableEq, Repr

/-- Faults of a step. The spec names no event at which the block stops for good: errors, halts and supply faults are states
it goes on from. -/
inductive Fault
  /-- Raised by no command: the interface asks for a type of faults, and this names the case that does not come; safe. -/
  | neverRaised
  deriving DecidableEq, Repr

/-- Commands without a meaning. -/
inductive Refusal
  /-- Answered by an arm of `exec` whose command has no meaning yet; safe. -/
  | notModelled (mnemonic : String)
  deriving DecidableEq, Repr

/-! ### The state right after a cold reset -/

/-- The configuration in force before an image has been accepted: every field at the default its chapter gives, the
fabric off (R313, R340, R343, R349, R422, R425, R474, R477, R527). -/
def Image.reset : Image :=
  { errPolicy := 0, t0Local := 0, t1Local := 0, pkgId := 0, fabricName := 0, auth := true, transit := false,
    pace := false, levels := 0, roles := 0, shift := [], up := [], down := [], laneLimit := 65536, trust := [],
    aclkMax := 2400, hclkMax := 3400, baud := 115200, plSus := 3600, plPeak := 4000, plBrake := 1200, slew := 20,
    hold := true, tmin := 24, vmin := 20, memQual := 0, memMaint := 0, leccLimit := 1024 }

def Pow.reset : Pow := ⟨false, false, 0, [], [], false, 0, false, false⟩
def Mon.reset : Mon := ⟨true, [], .idle, [], false, none, [], [], false, []⟩

/-- The hardware right after a cold reset (R506): registers at their reset values, every map empty, no link up, every
core group OFF, every hart stopped; the part an A512 with no core retired (log 6, DESIGN CHOICE). -/
def Hw.reset : Hw :=
  { regs := [], logs := [], lastPop := [], fresh := 0
    mem := ⟨[], [], [], [], [], [], [], [], [], [], [], [], [], []⟩
    harts := [], cores := [], groups := [], parts := [], trees := [], migs := [], migRets := []
    portsUp := false, ramps := [], fenced := 0, gpow := [], halves := [], pow := Pow.reset, ctls := []
    ert := ⟨[], 0, 0, 0, [], []⟩, dies := [], ports := [], lasers := [], acelos := []
    pkg := ⟨0, [], [], [], [], [], 1, 0⟩
    img := Image.reset, present := BitVec.allOnes 64, locked := false, stop := false, fatal := [], msgs := []
    imsic := [], bar4 := [], idKey := [], idCert := [], deadHarts := [], clk := [], pcpFlip := [], retired := [], tallied := [], kept := [],
    placed := [], sent := [] }

/-- The security state right after a cold reset: fuses as an unfused part has them (log 6, DESIGN CHOICE), step 0 of a cold boot, the
monitor unlocked as the part is not production-locked (R537). -/
def Sec.reset : Sec :=
  { revoked := 0, fuseSvn := 0, step := 0, cold := true, memDone := false, maint := false, halts := []
    slot := 0, svn := 0, keyIdx := 0, commit := false, pcpFw := [], pcpRun := [], hostLoad := 0, hostEntry := 0, hostFw := []
    monKeys := [], records := [], header := [], meas := List.replicate 6 (List.replicate 32 0), measDone := 0
    fencedLast := false, mon := Mon.reset }

/-- The block right after a cold reset, before boot step 1, with no command waiting (log 6, DESIGN CHOICE; log 16, DESIGN
CHOICE; log 17, DESIGN CHOICE). -/
def State.reset : State := ⟨Hw.reset, Sec.reset, [], .none⟩

end Sys2Proof.Machine
end

