-- ==== Sys2Proof/Machine/Regs.lean ====
section
/-! DEFINITION. The local address map (R49–R59) and the register file: which block an address names, the row of the
spec's tables it falls on, its reset value, and plain reading and writing of the stored value. -/

namespace Sys2Proof.Machine

/-- A register block: a sub-block of a core's register block (R54) by its offset divided by 0x1000, or a 64 KiB block
of a die window (R56) by its offset divided by 0x1_0000. -/
inductive Blk
  | core (c sub : Nat)
  | die (d b : Nat)
  deriving DecidableEq, Repr

/-- What a local address names (R49, R52, R54, R56, R57, R59). -/
inductive Loc
  | tier0
  | tier1
  | spad (c off : Nat)
  | acc (c off : Nat)
  | reg (b : Blk) (off : Nat)
  | imsic (h file off : Nat)
  | pkgReg (off : Nat)
  | port (a off : Nat)
  | hole (d : Option Nat)
  deriving DecidableEq, Repr

/-- Offsets of the HIC range: machine-level files, then supervisor-level and guest files (R57). -/
def locateHic (d off : Nat) : Loc :=
  if off < 36 * 0x1000 then .imsic (36 * (d - 4) + off / 0x1000) 0 (off % 0x1000)
  else if 0x100000 ≤ off ∧ off < 0x100000 + 36 * 0x8000 then
    .imsic (36 * (d - 4) + (off - 0x100000) / 0x8000) (1 + (off - 0x100000) % 0x8000 / 0x1000) (off % 0x1000)
  else .hole (some d)

/-- Whether die `d` has block `b` (R56). -/
def dieHasBlock (d b : Nat) : Bool :=
  if b ≤ 4 ∨ b = 0x20 then true
  else if d < 4 then decide (b = 5 ∨ b = 6 ∨ (0x10 ≤ b ∧ b ≤ 0x12) ∨ (0x30 ≤ b ∧ b ≤ 0x3F))
  else decide ((0x10 ≤ b ∧ b ≤ 0x17) ∨ (0x30 ≤ b ∧ b ≤ 0x37) ∨ (0x40 ≤ b ∧ b ≤ 0x42) ∨ b = 0x50 ∨
    (0x60 ≤ b ∧ b ≤ 0x62))

/-- The local map (R49, R52, R56). -/
def locate (a : Nat) : Loc :=
  if a < 0x00C000000000 then .tier0
  else if 0x010000000000 ≤ a ∧ a < 0x030000000000 then .tier1
  else if 0x040000000000 ≤ a ∧ a < 0x040200000000 then
    let c := (a - 0x040000000000) / 0x1000000
    let o := a % 0x1000000
    if o < 0x600000 then .spad c o
    else if 0x800000 ≤ o ∧ o < 0x900000 then .acc c (o - 0x800000)
    else if 0xC00000 ≤ o ∧ o < 0xC0A000 then .reg (.core c ((o - 0xC00000) / 0x1000)) (o % 0x1000)
    else .hole (some (c / 128))
  else if 0x060000000000 ≤ a ∧ a < 0x060180000000 then
    let d := (a - 0x060000000000) / 0x40000000
    let o := a % 0x40000000
    if d ≥ 4 ∧ 0x1000000 ≤ o ∧ o < 0x1300000 then locateHic d (o - 0x1000000)
    else if o / 0x10000 < 0x100 ∧ dieHasBlock d (o / 0x10000) = true then .reg (.die d (o / 0x10000)) (o % 0x10000)
    else .hole (some d)
  else if 0x070000000000 ≤ a ∧ a < 0x070000010000 then .pkgReg (a % 0x10000)
  else if 0x080000000000 ≤ a ∧ a < 0x0C0000000000 then .port 0 (a - 0x080000000000)
  else if 0x0C0000000000 ≤ a ∧ a < 0x100000000000 then .port 1 (a - 0x0C0000000000)
  else .hole none

/-- The register rows of a block. -/
def rowsOf : Blk → List RegRow
  | .core _ s =>
    match s with
    | 0 => rowsCore | 1 => rowsQfe | 2 => rowsAtu | 3 => rowsSpc | 4 => rowsMe | 5 => rowsVe | 6 => rowsSe
    | 8 => rowsL1 | 9 => rowsEng | _ => []
  | .die d b =>
    if b = 1 then rowsClk ++ (if d < 4 then rowsClkC else rowsClkA)
    else if b = 2 then rowsRas
    else if b = 3 then rowsPwr ++ (if d < 4 then [] else rowsPwrA)
    else if b = 4 then rowsErt
    else if b = 5 then rowsSem
    else if b = 6 then rowsWlk
    else if 0x10 ≤ b ∧ b ≤ 0x17 then (if d < 4 then rowsHbm else rowsLpd)
    else if b = 0x20 then rowsSlc
    else if 0x30 ≤ b ∧ b ≤ 0x3F then (if d < 4 then rowsCg else rowsOpt)
    else if b = 0x40 then rowsCxu
    else if b = 0x41 then rowsCxd
    else if b = 0x42 then rowsIot
    else if b = 0x50 then rowsPcp
    else if 0x60 ≤ b ∧ b ≤ 0x62 then rowsHcl
    else []

/-- The row an 8-byte-aligned offset falls on, with the instance. -/
def findRow : List RegRow → Nat → Option (RegRow × Nat)
  | [], _ => none
  | r :: rs, o =>
    if r.off ≤ o ∧ (o - r.off) % r.stride = 0 ∧ (o - r.off) / r.stride < r.n then some (r, (o - r.off) / r.stride)
    else findRow rs o

/-- The address of an offset of a block. -/
def blkAddr : Blk → Nat → Nat
  | .core c s, o => coreBlk c (0x1000 * s + o)
  | .die d b, o => dieBlk d (0x10000 * b + o)

/-- Reset values the tables call die-specific: those R44, R397, R414 and R445 fix, and the capability records of R411
(revision 1.0, Erotte version 1, every feature of R241 implemented: DESIGN CHOICE, log 5). -/
def dieReset (d b off : Nat) : Option Nat :=
  if b = 1 ∧ off = 0 then some (0x2000 + d)
  else if b = 4 ∧ off = 0 then some (if d < 4 then 0x000440200000001A else 0x000440200000000C)
  else if b = 4 ∧ off = 0x10 then some (if d < 4 then 0x1010011000FF00FF else 0x2010011000800080)
  else if b = 0x20 ∧ off = 0 then some (if d < 4 then 0x800C020040003040 else 0x2010040080006040)
  else if d ≥ 4 ∧ 0x30 ≤ b ∧ b ≤ 0x37 ∧ off = 0 then some (0x040011100200E000 + 8 * (d - 4) + (b - 0x30))
  else none

/-- The reset value of the register at an address (R13); 0 where none stands (log 17, DESIGN CHOICE). -/
def regDefault (a : Nat) : Word :=
  match locate a with
  | .reg b off =>
    match b with
    | .die d k =>
      match dieReset d k off with
      | some v => word v
      | none => match findRow (rowsOf b) off with
        | some (r, _) => word r.reset
        | none => 0
    | .core _ _ => match findRow (rowsOf b) off with
      | some (r, _) => word r.reset
      | none => 0
  | _ => 0

/-- The stored value of a register. -/
def rget (hw : Hw) (a : Nat) : Word := mget regDefault hw.regs a

/-- Store a value. -/
def rset (hw : Hw) (a : Nat) (v : Word) : Hw := { hw with regs := mput regDefault hw.regs a v }

/-- Store a number. -/
def rsetN (hw : Hw) (a v : Nat) : Hw := rset hw a (word v)

/-- Set the bits of a mask. -/
def ror (hw : Hw) (a : Nat) (m : Nat) : Hw := rset hw a (rget hw a ||| word m)

/-- Clear the bits of a mask. -/
def rclr (hw : Hw) (a : Nat) (m : Nat) : Hw := rset hw a (rget hw a &&& ~~~ word m)

/-- Set bits hi down to lo. -/
def rfield (hw : Hw) (a hi lo v : Nat) : Hw := rset hw a (setBits (rget hw a) hi lo v)

/-- Add to a counter. -/
def radd (hw : Hw) (a n : Nat) : Hw := rset hw a (rget hw a + word n)

/-- Add to a counter that is a field of a register; it wraps within the field. -/
def rinc (hw : Hw) (a hi lo n : Nat) : Hw := rfield hw a hi lo (bits (rget hw a) hi lo + n)

/-- What a counter of time counts has happened since it was last read (R15) (log 4, DESIGN CHOICE). -/
def touch (hw : Hw) (a : Nat) : Hw := { hw with tallied := mput (fun _ => 0) hw.tallied a 1 }

/-- Bits hi down to lo of a register. -/
def rbits (hw : Hw) (a hi lo : Nat) : Nat := bits (rget hw a) hi lo

/-- One bit of a register. -/
def rbit (hw : Hw) (a i : Nat) : Bool := bit (rget hw a) i

/-- Whether a feature of R241 is present: every die whose ROLE takes part implements it (R412). -/
def featureOn (hw : Hw) (i : Nat) : Bool :=
  (List.range 6).all (fun d => !rbit hw (Reg.ertCapLocal d) (16 + i) || rbit hw (Reg.ertCapLocal d) i)

/-- Draw a free value. -/
def draw (hw : Hw) : Word × Hw := (Config.freeWord hw.fresh, { hw with fresh := hw.fresh + 1 })

/-! #### Identity of cores, groups and agents -/

/-- Whether core `c`'s group is enabled (R2, R3). -/
def groupPresent (hw : Hw) (g : Nat) : Bool := bit hw.present g

/-- The agent code of R195. -/
def agentCode : Agent → Nat
  | .engine c => c
  | .hart h => 0x400 + h
  | .pcp a => 0x800 + a
  | .upstream a => 0xC00 + a
  | .adapter a => 0xC02 + a
  | .remote _ ag => ag
  | .cxlDev a => 0xC02 + a
  | .monitor => 0xFFF
  | .walker _ => 0xFFF
  | .scrubber _ => 0xFFF

/-- The package an agent belongs to, 0 for this one (R195). -/
def agentPkg : Agent → Nat
  | .remote p _ => p
  | _ => 0

/-- The number that separates the initiators of R529: harts, PCPs, the monitor, upstream ports. -/
def initiatorNo : Agent → Nat
  | .hart h => h
  | .pcp a => 72 + a
  | .monitor => 74
  | .upstream a => 75 + a
  | _ => 77

/-! #### POP registers and their queues (R461, R562) -/

/-- The entries a POP register holds. -/
def logGet (hw : Hw) (a : Nat) : List (Word × Word) := mget (fun _ => []) hw.logs a

/-- Append an entry, unless the queue already holds `cap`; says whether it was kept. -/
def logPush (hw : Hw) (a cap : Nat) (e : Word × Word) : Bool × Hw :=
  let q := logGet hw a
  if q.length < cap then (true, { hw with logs := mput (fun _ => []) hw.logs a (q ++ [e]) }) else (false, hw)

def Acelo.reset : Acelo := ⟨false, true, [], 0, [], 1, [], none, 0, none⟩
def getAcelo (hw : Hw) (a : Nat) : Acelo := mget (fun _ => Acelo.reset) hw.acelos a
def setAcelo (hw : Hw) (a : Nat) (v : Acelo) : Hw := { hw with acelos := mput (fun _ => Acelo.reset) hw.acelos a v }

/-- A completion that carries a popped entry leaves by an upstream port (R461). -/
def popOut (hw : Hw) (by_ : Agent) (a : Nat) : Hw :=
  match by_ with
  | .upstream p => if logGet hw a = [] then hw else setAcelo hw p { getAcelo hw p with popOut := some a }
  | _ => hw

/-- A POP read (R461): the oldest entry, kept as the initiator's last read; an empty queue gives V = 0. -/
def logPop (hw : Hw) (by_ : Agent) (a : Nat) : (Word × Word) × Hw :=
  let q := logGet hw a
  let e := q.headD (0, 0)
  (e, { popOut hw by_ a with
    logs := mput (fun _ => []) hw.logs a q.tail
    lastPop := mput (fun _ => (0, 0)) hw.lastPop (a * 128 + initiatorNo by_) e })

/-- What the initiator's last POP read of the register returned; zero before any (R529, R562). -/
def lastPopped (hw : Hw) (by_ : Agent) (a : Nat) : Word × Word :=
  mget (fun _ => (0, 0)) hw.lastPop (a * 128 + initiatorNo by_)

end Sys2Proof.Machine
end

