-- ==== Sys2Proof/Machine/Text.lean ====
section
/-! DEFINITION. Text on the monitor's line (R510, R526, R536): ASCII, hexadecimal, lines. -/

namespace Sys2Proof.Machine

def ascii (s : String) : List Byte := s.toList.map (fun c => BitVec.ofNat 8 c.toNat)

/-- An upper-case hexadecimal digit. -/
def hexDigit (n : Nat) : Byte := BitVec.ofNat 8 (if n < 10 then 48 + n else 55 + n)

/-- `n` hexadecimal digits of a number. -/
def hexDigits : Nat → Nat → List Byte
  | 0, _ => []
  | n + 1, v => hexDigits n (v / 16) ++ [hexDigit (v % 16)]

/-- A 64-bit value as the manual prints it: 0x0000_0003_0000_000A. -/
def hexWord (v : Nat) : List Byte :=
  ascii "0x" ++ hexDigits 4 (v / 2 ^ 48) ++ ascii "_" ++ hexDigits 4 (v / 2 ^ 32) ++ ascii "_" ++ hexDigits 4 (v / 2 ^ 16) ++
    ascii "_" ++ hexDigits 4 v

/-- A 32-bit value: 0x0780_0000. -/
def hexWord32 (v : Nat) : List Byte := ascii "0x" ++ hexDigits 4 (v / 2 ^ 16) ++ ascii "_" ++ hexDigits 4 v

/-- A 48-bit address: 0x0700_0000_E000. -/
def hexAddr (v : Nat) : List Byte :=
  ascii "0x" ++ hexDigits 4 (v / 2 ^ 32) ++ ascii "_" ++ hexDigits 4 (v / 2 ^ 16) ++ ascii "_" ++ hexDigits 4 v

def decGo : Nat → Nat → List Byte → List Byte
  | 0, _, acc => acc
  | f + 1, n, acc => let acc1 := BitVec.ofNat 8 (48 + n % 10) :: acc; if n < 10 then acc1 else decGo f (n / 10) acc1

/-- A number in decimal. -/
def decimal (n : Nat) : List Byte := decGo 24 n []

/-- A line with its CR LF (R536). -/
def textLine (b : List Byte) : List Byte := b ++ [13, 10]

end Sys2Proof.Machine
end

