-- ==== Sys2Proof/Machine/Ras.lean ====
section
/-! DEFINITION. Error records and message writes: writing a record into a die's RAS log with its interrupt and its
consequences (R516, R517, R526–R530), the event logs' own message writes (R61), error responses (R63). -/

namespace Sys2Proof.Machine

/-! #### Classes and units (R516, R530) -/

def clsCE : Nat := 1
def clsDEG : Nat := 2
def clsUE : Nat := 3
def clsCTX : Nat := 4
def clsPKG : Nat := 5
def clsRESP : Nat := 6

/-- A message write of a block whose ADDR register is at `ra`, on die `d` (R61): queued in order; an ADDR of zero
disables it (log 30, DEDUCED). -/
def message (hw : Hw) (d ra data : Nat) : Hw :=
  let a := (rget hw ra).toNat
  if a = 0 then hw else { hw with msgs := hw.msgs ++ [⟨d, a, data % 2 ^ 32⟩] }

/-- CE_STORM of ERR_POLICY; 0 means 1,000 (R527). -/
def ceStorm (hw : Hw) : Nat := if bits hw.img.errPolicy 31 16 = 0 then 1000 else bits hw.img.errPolicy 31 16

/-- Word 0 of a record (R529). -/
def rasWord0 (cls unit cause inst agent ctx : Nat) : Word :=
  word (2 ^ 63 + cls % 8 * 2 ^ 60 + unit % 64 * 2 ^ 54 + cause % 64 * 2 ^ 48 + inst % 4096 * 2 ^ 36 +
    agent % 4096 * 2 ^ 24 + ctx % 65536)

/-- Word 1 of a record (R529). -/
def rasWord1 (pkg addr : Nat) : Word := word (pkg % 4096 * 2 ^ 52 + addr % 2 ^ 52)

/-- Package stop (R526): every hart stops, the logs and the monitor stay. -/
def packageStop (hw : Hw) : Hw := { hw with stop := true }

/-- The half of a die: 0 with AID-N, 1 with AID-S (R470, R505). -/
def halfOfDie (d : Nat) : Nat := if d < 4 then d / 2 else d - 4

/-- The RAS FATAL line of a record, on the MON_TX of the Acelo of the die that found the error (R526), its word as R536 prints
values. -/
def fatalText (d : Nat) (w0 : Word) : Out := .mon (halfOfDie d) (textLine (ascii "RAS FATAL " ++ hexWord w0.toNat))

/-- Something leaves the block. -/
def say (hw : Hw) (o : Out) : Hw := { hw with sent := hw.sent ++ [o] }

/-- What each upstream port whose link is up reports of a record (R528). -/
def rasReports (hw : Hw) (cls : Nat) : List Out :=
  let ports := (List.range 2).filter (fun a => rbits hw (Reg.cxuStatus a) 49 48 != 0)
  if cls = clsPKG ∨ cls = clsCTX ∨ cls = clsUE then ports.map (fun a => .aer a (decide (cls = clsPKG))) else []

/-- An entry enters die `d`'s log and raises its interrupt, and the upstream ports report it (R528); one that finds the log
full is counted only (R531). -/
def rasEnter (hw : Hw) (d cls : Nat) (e : Word × Word) : Hw :=
  let r := logPush hw (Reg.rasLog d) 32 e
  if r.1 then
    let hw1 := { r.2 with sent := r.2.sent ++ rasReports hw cls }
    if rbit hw (Reg.rasMsiMask d) cls then message hw1 d (Reg.rasMsiAddr d) ((rget hw (Reg.rasMsiData d)).toNat + cls) else hw1
  else radd r.2 (Reg.rasOvfCnt d) 1

/-- The package stop that a record starts: a PKG record's, with its RAS FATAL line (R526), a CTX or UE record's under the
policy of R527 (log 77, DEDUCED). -/
def rasStop (hw : Hw) (d cls cause : Nat) (w0 : Word) : Hw :=
  if cls = clsPKG then packageStop (say { hw with fatal := (d, w0) :: hw.fatal } (fatalText d w0))
  else if (cls = clsCTX ∧ bit hw.img.errPolicy 1) ∨ (cls = clsUE ∧ cause = 2 ∧ bit hw.img.errPolicy 0) then packageStop hw
  else hw

/-- Put a record into die `d`'s log, with what follows from it (R526–R528) (log 77, DEDUCED). -/
def rasWrite (hw : Hw) (d cls unit cause inst agent ctx pkg addr : Nat) : Hw :=
  let w0 := rasWord0 cls unit cause inst agent ctx
  rasStop (rasEnter hw d cls (w0, rasWord1 pkg addr)) d cls cause w0

/-- The default record of a die. -/
def Die.reset : Die := ⟨[], 0, false⟩

def getDie (hw : Hw) (d : Nat) : Die := mget (fun _ => Die.reset) hw.dies d
def setDie (hw : Hw) (d : Nat) (v : Die) : Hw := { hw with dies := mput (fun _ => Die.reset) hw.dies d v }

/-- One error found on die `d` (R517). A corrected error counts in RAS_CE_CNT and is logged at most once per unit
instance per 1 ms; the error that carries the second's count over CE_STORM writes one DEG record, cause 14. A created
poison counts in RAS_UE_CNT. -/
def ras (hw : Hw) (d cls unit cause inst agent ctx pkg addr : Nat) : Hw :=
  if cls = clsCE then
    let r := getDie hw d
    let n := r.ceCount + 1
    let cross : Bool := decide (n > ceStorm hw) && !r.storm
    let logged : Bool := r.ceLogged.contains (unit, inst)
    let hw1 := radd hw (Reg.rasCeCnt d) 1
    let quiet : Bool := logged || (decide (n > ceStorm hw) && !cross)
    let hw2 := setDie hw1 d { r with ceCount := n, storm := r.storm || cross,
                                     ceLogged := if quiet then r.ceLogged else (unit, inst) :: r.ceLogged }
    let hw3 := if quiet then hw2 else rasWrite hw2 d clsCE unit cause inst agent ctx pkg addr
    if cross then rasWrite hw3 d clsDEG unit 14 inst 0xFFF 0 0 0 else hw3
  else if cls = clsUE ∧ cause = 2 then
    rasWrite (radd hw (Reg.rasUeCnt d) 1) d cls unit cause inst agent ctx pkg addr
  else rasWrite hw d cls unit cause inst agent ctx pkg addr

/-- The error response of R63: a RESP record of cause 5–8 on the die that produced it. The monitor's accesses are those of
the primary PCP (R535) (log 29, DESIGN CHOICE). -/
def errorResponse (hw : Hw) (d cause : Nat) (by_ : Agent) (ctx addr : Nat) : Hw :=
  let code := if by_ = .monitor then 0x800 + hw.pkg.primary else agentCode by_
  ras hw d clsRESP 0x0F cause 0 code ctx (agentPkg by_) addr

/-- The die a requester sits on, which answers for addresses in no range (R64). R64 does not say which die that is for a
request of another package: die 4, whatever its port (log 78, DESIGN CHOICE). -/
def dieOfAgent : Agent → Nat
  | .engine c => c / 128
  | .hart h => 4 + h / 36
  | .pcp a => 4 + a
  | .upstream a => 4 + a
  | .adapter a => 4 + a
  | .cxlDev a => 4 + a
  | .walker d => d
  | .scrubber d => d
  | .monitor => 4
  | .remote _ _ => 4

/-- The monitor's accesses are the primary PCP's (R535). -/
def busAgent (hw : Hw) (by_ : Agent) : Agent := if by_ = .monitor then .pcp (Fin.ofNat 2 hw.pkg.primary) else by_

/-- A read by a hart, a PCP, the external host or an adapter that meets poison: a UE record with cause 3 on its die (R521, R522);
a core's engines have records of their own (log 69, DEDUCED). -/
def consumed (hw : Hw) (by_ : Agent) (addr : Nat) (poison : Bool) : Hw :=
  let mark := fun d unit inst code => if poison then ras hw d clsUE unit 3 inst code 0 (agentPkg by_) addr else hw
  match by_ with
  | .hart h => mark (4 + h / 36) 0x08 h (agentCode by_)
  | .pcp a => mark (4 + a) 0x0D 0 (agentCode by_)
  | .monitor => mark (4 + hw.pkg.primary) 0x0D 0 (0x800 + hw.pkg.primary)
  | .upstream a => mark (4 + a) 0x0B 0 (agentCode by_)
  | .adapter a => mark (4 + a) 0x0B 1 (agentCode by_)
  | .cxlDev a => mark (4 + a) 0x0B 1 (agentCode by_)
  | _ => hw

/-- The form the error response takes for each initiator (R63) (log 29, DESIGN CHOICE). -/
def errorAnswer (by_ : Agent) (write : Bool) : Answer :=
  match by_ with
  | .hart _ => if write then .discarded else .loadFault
  | .pcp _ => .busError
  | .monitor => .busError
  | .upstream _ => if write then .discarded else .completerAbort
  | .adapter _ => if write then .discarded else .completerAbort
  | _ => .busError

end Sys2Proof.Machine
end

