-- ==== Sys2Proof/Machine/Mesh.lean ====
section
/-! DEFINITION. The one mesh over six dies (R23, R27–R31): edges, the fixed route of a flit between two dies, the routing
tables that the primary recomputes around a lost edge, traffic that waits for a recompute or for the list of an edge;
the clock domains with their identifiers (R33, R44). -/

namespace Sys2Proof.Machine

/-! #### Edges and routes (R23, R27, R28) -/

/-- The two dies of an edge (R23). -/
def edgeDies (e : Nat) : Nat × Nat :=
  match e with
  | 0 => (0, 1) | 1 => (2, 3) | 2 => (0, 2) | 3 => (1, 3) | 4 => (4, 0) | 5 => (4, 1) | 6 => (5, 2) | _ => (5, 3)

/-- The edge between two dies, where they touch. -/
def edgeOf (a b : Nat) : Option Nat :=
  (List.range 8).find? (fun e => edgeDies e == (a, b) || edgeDies e == (b, a))

/-- Column and row of a die in the placement of R22: 0 west, 1 east; 0 north, 1 south. An Acelo lies in its row. -/
def dieCol (d : Nat) : Nat := d % 2
def dieRow (d : Nat) : Nat := if d < 4 then d / 2 else d - 4

/-- The compute die at a column and a row. -/
def dieAt (col row : Nat) : Nat := 2 * row + col

/-- The dies a flit between two dies visits while the package is not degraded, by the first rule of R27 that applies;
`east` chooses the column between the two Acelos. -/
def fixedRoute (a b : Nat) (east : Bool) : List Nat :=
  if a = b then [a]
  else if (edgeOf a b).isSome then [a, b]
  else if a < 4 ∧ b < 4 then [a, dieAt (dieCol b) (dieRow a), b]
  else if b < 4 then [a, dieAt (dieCol b) (dieRow a), b]
  else if a < 4 then [a, dieAt (dieCol a) (dieRow b), b]
  else [a, dieAt (b2n east) (dieRow a), dieAt (b2n east) (dieRow b), b]

/-- The column of addressed traffic between the Acelos (R27 rule 5): east when the XOR of address bits 8, 12, 16 and 20
is one. -/
def columnOf (addr : Nat) : Bool := (nbits addr 8 8 + nbits addr 12 12 + nbits addr 16 16 + nbits addr 20 20) % 2 == 1

/-- The key of a pair of dies and a column in the routing tables. -/
def routeKey (a b : Nat) (east : Bool) : Nat := 16 * a + 2 * b + b2n east

/-- The tables as they stand while no edge is lost. -/
def routeDefault (k : Nat) : List Nat := fixedRoute (k / 16) (k % 16 / 2) (k % 2 == 1)

/-- The dies a flit visits by the tables in force (R27, R30). -/
def dieRoute (hw : Hw) (a b : Nat) (east : Bool) : List Nat := mget routeDefault hw.ert.routes (routeKey a b east)

/-- The edges a route crosses. -/
def routeEdges : List Nat → List Nat
  | a :: b :: rest => (edgeOf a b).toList ++ routeEdges (b :: rest)
  | _ => []

/-- How many die edges a route crosses (R28). -/
def routeCrossings (r : List Nat) : Nat := r.length - 1

/-! #### Modules and edges (R399, R404) -/

/-- The edge of a module. -/
def modEdge (m : Nat) : Nat := if m < 40 then m / 10 else 4 + (m - 40) / 6

/-- The receiving die of a direction: the edge's second die, or its first when `dir` is set. -/
def rxDie (m : Nat) (dir : Bool) : Nat := if dir then (edgeDies (modEdge m)).1 else (edgeDies (modEdge m)).2

/-- A register offset of a die's ERT block that belongs to a module ending on another die (R414). -/
def modElsewhere (d off : Nat) : Bool :=
  let e := edgeDies (modEdge ((off - 0x1000) / 0x40))
  decide (0x1000 ≤ off) && e.1 != d && e.2 != d

/-- STATE: 0 DOWN, 1 TRAIN, 2 FULL, 3 HALF, 4 RETIRED, 5 REPAIR; both ends show the same. -/
def modState (hw : Hw) (m : Nat) : Nat := rbits hw (Reg.ertMStatus (rxDie m false) m) 2 0

/-- The modules of an edge. -/
def edgeModules (e : Nat) : List Nat := (List.range 64).filter (fun m => modEdge m == e)

/-- The live modules of an edge in ascending number, each with its weight: 2 at full width, 1 at half width (R404). -/
def edgeList (hw : Hw) (e : Nat) : List (Nat × Nat) :=
  (edgeModules e).filterMap (fun m =>
    if modState hw m = 2 then some (m, 2) else if modState hw m = 3 then some (m, 1) else none)

/-- The entry of a weighted list whose cumulative range holds a number. -/
def pickWeighted : List (Nat × Nat) → Nat → Option Nat
  | [], _ => none
  | (m, w) :: rest, h => if h < w then some m else pickWeighted rest (h - w)

/-- The module that a flit between two stops takes across an edge: H mod W among the cumulative weights (R404) (log 79,
DESIGN CHOICE). -/
def moduleOf (hw : Hw) (e src dst : Nat) : Option Nat :=
  let l := edgeList hw e
  pickWeighted l ((Config.flitHash src dst).toNat % (l.map (·.2)).sum)

/-- Traffic waits for an edge that has no live module left while one of its modules is in REPAIR (R406) (log 79, DESIGN
CHOICE). -/
def edgeWaits (hw : Hw) (e : Nat) : Bool :=
  (edgeList hw e).isEmpty && (edgeModules e).any (fun m => modState hw m == 5)

/-! #### Routes around lost edges (R30) -/

/-- Every way to lengthen a path by one live edge to a die it has not visited. -/
def pathSteps (lost : BitVec 8) (p : List Nat) : List (List Nat) :=
  (List.range 6).filterMap (fun d => match p.getLast? with
    | some x => match edgeOf x d with
      | some e => if bit lost e || p.contains d then none else some (p ++ [d])
      | none => none
    | none => none)

/-- The first of the shortest paths over live edges; empty where none is left. R30 names no choice among equal ones
(log 79, DESIGN CHOICE). -/
def detour (lost : BitVec 8) (b : Nat) : Nat → List (List Nat) → List Nat
  | 0, _ => []
  | n + 1, ps =>
    match ps.find? (fun p => p.getLast? == some b) with
    | some p => p
    | none => detour lost b n (ps.flatMap (pathSteps lost))

/-- The tables for a set of lost edges: a route that crosses none stays as R27 fixes it. -/
def recomputeRoutes (lost : BitVec 8) : FMap (List Nat) :=
  (List.range 96).foldl (fun t k =>
    let r := routeDefault k
    if k % 16 / 2 < 6 ∧ (routeEdges r).any (fun e => bit lost e) then
      mput routeDefault t k (detour lost (k % 16 / 2) 6 [[k / 16]])
    else t) []

/-- The primary's tables follow the edges that are lost (R30, R31). -/
def setRoutes (hw : Hw) : Hw := { hw with ert := { hw.ert with routes := recomputeRoutes hw.ert.lost } }

/-- An edge takes no flits: its routes are being recomputed (R30), its list is being rebuilt (R404), or its last modules
are in REPAIR (R406). -/
def edgeShut (hw : Hw) (e : Nat) : Bool := bit hw.ert.routing e || bit hw.ert.rebuild e || edgeWaits hw e

/-- Whether traffic between two dies gets through; between the Acelos it takes a column (R27 rule 5, R32). -/
def columnOpen (hw : Hw) (a b : Nat) (east : Bool) : Bool :=
  let r := dieRoute hw a b east
  !r.isEmpty && !(routeEdges r).any (edgeShut hw)

/-- Traffic between two dies waits at its source: its route crosses an edge that takes no flits, or no route is left. -/
def meshHeld (hw : Hw) (a b addr : Nat) : Bool := !columnOpen hw a b (columnOf addr)

/-! #### Clock domains (R33, R44) -/

/-- A domain instance of R33. -/
inductive Domain
  | aclk (g : Fin 64)
  | nclk (d : Fin 6)
  | hclk (k : Fin 6)
  | pcp (a : Fin 2)
  | mclk0 (n : Fin 12)
  | mclk1 (n : Fin 16)
  | erotte (m : Fin 64) (high : Bool)
  | oclk (receive : Bool) (p : Fin 16)
  | cclk (n : Fin 4)
  | ref (a : Fin 2)
  deriving DecidableEq, Repr

/-- CLASS of an identifier. -/
def Domain.cls : Domain → Nat
  | .aclk _ => 1 | .nclk _ => 2 | .hclk _ => 3 | .pcp _ => 4 | .mclk0 _ => 5 | .mclk1 _ => 6 | .erotte _ _ => 7
  | .oclk _ _ => 8 | .cclk _ => 9 | .ref _ => 10

/-- INSTANCE of an identifier. -/
def Domain.inst : Domain → Nat
  | .aclk g => g | .nclk d => d | .hclk k => k | .pcp a => a | .mclk0 n => n | .mclk1 n => n
  | .erotte m high => 2 * m + b2n high
  | .oclk receive p => 16 * b2n receive + p
  | .cclk n => n
  | .ref a => a

/-- The 16-bit identifier that a trace record names a count with (R44). -/
def Domain.ident (x : Domain) : Nat := 4096 * x.cls + x.inst

/-- The register that shows a domain's counter, where one does (R45). -/
def Domain.reg : Domain → Option Nat
  | .aclk g => some (Reg.clkAclkCnt (g / 16) (g % 16))
  | .nclk d => some (Reg.clkNclkCnt d)
  | .hclk k => some (Reg.clkHclkCnt (4 + k / 3) (k % 3))
  | .pcp a => some (Reg.clkPcpCnt (4 + a))
  | .ref a => some (Reg.clkRefCnt (4 + a))
  | _ => none

/-- The cycle count of a domain (R42): in its register, or among the counts that no register shows. -/
def domainCount (hw : Hw) (x : Domain) : Word :=
  match x.reg with
  | some a => rget hw a
  | none => mget (fun _ => 0) hw.clk x.ident

/-- What a trace record carries: identifier and count (R11, R44). -/
def traceCount (hw : Hw) (x : Domain) : Nat × Word := (x.ident, domainCount hw x)

/-- The generator that a domain without a register runs from: its die and its number (R33, R46). -/
def Domain.gen : Domain → Option (Nat × Nat)
  | .mclk0 n => some (n / 3, 17 + n % 3)
  | .mclk1 n => some (4 + n / 8, 20 + n % 8)
  | .oclk false p => some (4 + p / 8, 32 + p % 8)
  | .cclk n => some (4 + n / 2, 40 + n % 2)
  | _ => none

/-- A domain whose count no register shows runs: its own generator is locked; a clock that comes over a link runs while
the link carries it. -/
def domainRuns (hw : Hw) (x : Domain) : Bool :=
  match x with
  | .erotte m high =>
    let e := edgeDies (if m.val < 40 then m / 10 else 4 + (m - 40) / 6)
    let lo := min e.1 e.2
    let s := rbits hw (Reg.ertMStatus (if high then max e.1 e.2 else lo) m) 2 0
    s == 2 || s == 3
  | .oclk true p => decide (2 ≤ rbits hw (Reg.optStatus p) 3 0)
  | _ => match x.gen with
    | some (d, g) => rbit hw (Reg.clkPllStatus d) g
    | none => true

/-- The domains whose counts no register shows. -/
def hiddenDomains : List Domain :=
  (List.finRange 12).map .mclk0 ++ (List.finRange 16).map .mclk1 ++
  (List.finRange 64).flatMap (fun m => [.erotte m false, .erotte m true]) ++
  (List.finRange 16).flatMap (fun p => [.oclk false p, .oclk true p]) ++ (List.finRange 4).map .cclk

/-- The counts that no register shows move on by free amounts while their domains run (R42, R43) (log 4, DESIGN CHOICE). -/
def clocksRun (hw : Hw) : Hw :=
  let r := draw hw
  { r.2 with clk := (hiddenDomains.zipIdx).foldl (fun t x =>
      if domainRuns hw x.1 then mmod (fun _ => 0) t x.1.ident (fun v => v + word (Config.freeWord (r.1.toNat + x.2)).toNat % 2 ^ 32)
      else t) r.2.clk }

end Sys2Proof.Machine
end

