-- ==== Sys2Proof/Machine/Tiers.lean ====
section
/-! DEFINITION. Decoding of tier addresses: regions, stacks and devices, channels, homes and slices (R313–R317, R372). -/

namespace Sys2Proof.Machine

def gib : Nat := 0x40000000

/-- T0_LOCAL_GIB in force (R313). -/
def tierL (hw : Hw) : Nat := hw.img.t0Local
/-- T1_LOCAL_GIB in force (R313). -/
def tierM (hw : Hw) : Nat := hw.img.t1Local

/-- A tier-0 address decoded (R315): stack, pseudo-channel index p, byte offset in the pseudo-channel. -/
def decodeT0 (l a : Nat) : Nat × Nat × Nat :=
  let start := (768 - 4 * l) * gib
  let local_ : Bool := decide (start ≤ a)
  let d := (a - start) / (l * gib)
  let o := if local_ then a - start - d * (l * gib) else a
  let u := o / 256
  let stack := if local_ then 3 * d + u % 3 else u % 12
  let v := if local_ then u / 3 else u / 12
  let p := (v % 32) ^^^ (v / 32 % 32) ^^^ (v / 1024 % 32)
  let base := if local_ then (64 - l / 3) * gib / 32 else 0
  (stack, p, base + 256 * (v / 32) + o % 256)

/-- A tier-1 address decoded (R316): device, channel, byte offset in the channel. -/
def decodeT1 (m a : Nat) : Nat × Nat × Nat :=
  let x := a - 0x010000000000
  let start := (2048 - 2 * m) * gib
  let local_ : Bool := decide (start ≤ x)
  let n := (x - start) / (m * gib)
  let o := if local_ then x - start - n * (m * gib) else x
  let u := o / 256
  let dev := if local_ then 8 * n + u % 8 else u % 16
  let v := if local_ then u / 8 else u / 16
  let c := (v % 8) ^^^ (v / 8 % 8) ^^^ (v / 64 % 8)
  let base := if local_ then (128 - m / 8) * gib / 8 else 0
  (dev, c, base + 256 * (v / 8) + o % 256)

/-- The address of a tier-0 location: the inverse of R315. -/
def encodeT0 (l stack p off : Nat) : Nat :=
  let base := (64 - l / 3) * gib / 32
  let local_ : Bool := decide (base ≤ off)
  let k := (if local_ then off - base else off) / 256
  let v := 32 * k + (p ^^^ (k % 32) ^^^ (k / 32 % 32))
  if local_ then (768 - 4 * l) * gib + stack / 3 * (l * gib) + 256 * (3 * v + stack % 3) + off % 256
  else 256 * (12 * v + stack) + off % 256

/-- The address of a tier-1 location: the inverse of R316. -/
def encodeT1 (m dev c off : Nat) : Nat :=
  let base := (128 - m / 8) * gib / 8
  let local_ : Bool := decide (base ≤ off)
  let k := (if local_ then off - base else off) / 256
  let v := 8 * k + (c ^^^ (k % 8) ^^^ (k / 8 % 8))
  0x010000000000 + (if local_ then (2048 - 2 * m) * gib + dev / 8 * (m * gib) + 256 * (8 * v + dev % 8) + off % 256
    else 256 * (16 * v + dev) + off % 256)

/-- Whether an address is in a tier (R49). -/
def inTier (a : Nat) : Bool := decide (a < 0x00C000000000) || (decide (0x010000000000 ≤ a) && decide (a < 0x030000000000))

/-- A run that lies wholly in one tier (R230, R566). -/
def inTierRange (a n : Nat) : Bool :=
  decide (a + n ≤ 0x00C000000000) || decide (0x010000000000 ≤ a ∧ a + n ≤ 0x030000000000)

/-- The die whose SLC homes a tier address and whose controllers hold it (R317). -/
def homeDie (hw : Hw) (a : Nat) : Nat :=
  if a < 0x00C000000000 then (decodeT0 (tierL hw) a).1 / 3 else 4 + (decodeT1 (tierM hw) a).1 / 8

/-- A request from outside a fenced half to a home in it gets the error response (R505) (log 44, DEDUCED). -/
def fencedHome (hw : Hw) (ag : Agent) (a : Nat) : Bool :=
  let h := halfOfDie (homeDie hw a)
  hw.fenced.getLsbD h && halfOfDie (dieOfAgent ag) != h

/-- UNIT and INST of a tier address (R530). -/
def memUnit (hw : Hw) (a : Nat) : Nat × Nat :=
  if a < 0x00C000000000 then
    let r := decodeT0 (tierL hw) a
    (0x06, 32 * (r.1 % 3) + r.2.1)
  else
    let r := decodeT1 (tierM hw) a
    (0x07, 8 * (r.1 % 8) + r.2.1)

/-- The memory controller of a tier address: 0–11 the stacks, 12–27 the devices. -/
def ctlOf (hw : Hw) (a : Nat) : Nat :=
  if a < 0x00C000000000 then (decodeT0 (tierL hw) a).1 else 12 + (decodeT1 (tierM hw) a).1

/-- The unit of a tier address within its controller, and the byte offset in the unit (R315, R316). -/
def unitOf (hw : Hw) (a : Nat) : Nat × Nat :=
  if a < 0x00C000000000 then (decodeT0 (tierL hw) a).2 else (decodeT1 (tierM hw) a).2

/-- XOR of the `k`-bit fields of `u` (R372). -/
def xorFields : Nat → Nat → Nat → Nat
  | 0, _, _ => 0
  | n + 1, k, u => (u % 2 ^ k) ^^^ xorFields n k (u / 2 ^ k)

/-- The home slice of an address, named package-wide (R372). -/
def homeSlice (hw : Hw) (a : Nat) : Nat :=
  let d := homeDie hw a
  let u := a % 2 ^ 52 / 128
  128 * d + (if d < 4 then xorFields 7 7 u else xorFields 9 5 u)

/-- SLC ways and filter ways of a slice, by its die (R374). -/
def slcWays (slice : Nat) : Nat := if slice < 512 then 12 else 16
def filtWays : Nat := 16
/-- Sets of the data array and of the filter of a slice (R374). -/
def slcSets (slice : Nat) : Nat := if slice < 512 then 512 else 1024
def filtSets (slice : Nat) : Nat := if slice < 512 then 1024 else 2048
/-- Request trackers of a slice (R374). -/
def trackers (slice : Nat) : Nat := if slice < 512 then 48 else 96

/-- The region of R314 a tier-0 address lies in: 0 interleaved, 1 + d local to SCDd. -/
def t0Region (hw : Hw) (a : Nat) : Nat :=
  let start := (768 - 4 * tierL hw) * gib
  if a < start then 0 else 1 + (a - start) / (tierL hw * gib)

end Sys2Proof.Machine
end

