-- ==== Sys2Proof/Machine/Home.lean ====
section
/-! DEFINITION. The homes of coherent memory: the SLC as home (R374, R375), the snoop filter (R377–R379), serving a
request (R381–R385), watches (R388), hints (R389–R392), dead agents (R395), injections (R561), and the accesses that
engines make at the point of coherence. -/

namespace Sys2Proof.Machine

/-! #### Bytes of memory -/

/-- What an unwritten byte of a scratchpad or an accumulator reads as: zero, as a wake leaves it (R88) (log 18, DESIGN
CHOICE). -/
def memDefault : Nat → Byte := fun _ => 0

/-- What an unlisted byte of the tiers reads as: zero, as initialisation leaves it (R345), or what the traffic generator
left there (R348) (log 10, DEDUCED; log 18, DESIGN CHOICE). -/
def tierDefault (hw : Hw) (a : Nat) : Byte :=
  match hw.mem.traffic with
  | [] => 0
  | ts =>
    let u := unitOf hw a
    match ts.find? (fun t => t.ctl == ctlOf hw a && t.unit == u.1 && decide (t.lo ≤ u.2 ∧ u.2 < t.hi)) with
    | some t => Config.trafficByte t.seed u.2
    | none => 0

/-- The byte at a local address (log 18, DESIGN CHOICE). -/
def memByte (hw : Hw) (a : Nat) : Byte := mget (tierDefault hw) hw.mem.data a

/-- `n` bytes from `a`. -/
def readBytes (hw : Hw) (a n : Nat) : List Byte := (List.range n).map (fun i => memByte hw (a + i))

/-- Write bytes from `a` on into a memory whose unlisted bytes read as `d`. -/
def putBytesD (d : Nat → Byte) : FMap Byte → Nat → List Byte → FMap Byte
  | m, _, [] => m
  | m, a, b :: bs => putBytesD d (mput d m a b) (a + 1) bs

def putBytes (m : FMap Byte) (a : Nat) (bs : List Byte) : FMap Byte := putBytesD memDefault m a bs

def writeBytes (hw : Hw) (a : Nat) (bs : List Byte) : Hw :=
  { hw with mem := { hw.mem with data := putBytesD (tierDefault hw) hw.mem.data a bs } }

/-- The 64 bytes of a line. -/
def lineData (hw : Hw) (line : Nat) : List Byte := readBytes hw (64 * line) 64

/-- Whether a line is poisoned (R521). -/
def linePoison (hw : Hw) (line : Nat) : Bool := mget (fun _ => false) hw.mem.poison line

def setPoison (hw : Hw) (line : Nat) (p : Bool) : Hw :=
  { hw with mem := { hw.mem with poison := mput (fun _ => false) hw.mem.poison line p } }

/-! #### Harts as holders of lines (log 17, DESIGN CHOICE) -/

def Hart.reset : Hart := ⟨[], [], [], [], [], [], [], none, true, false, none, [], false, false, none, none, [], [], []⟩
def getHart (hw : Hw) (h : Nat) : Hart := mget (fun _ => Hart.reset) hw.harts h
def setHart (hw : Hw) (h : Nat) (v : Hart) : Hw := { hw with harts := mput (fun _ => Hart.reset) hw.harts h v }
def hartLine (t : Hart) (line : Nat) : Option HLine := mget (fun _ => none) t.lines line
def setLine (t : Hart) (line : Nat) (v : Option HLine) : Hart := { t with lines := mput (fun _ => none) t.lines line v }
def wbufLine (t : Hart) (line : Nat) : Option HLine := mget (fun _ => none) t.wbuf line
def setWbuf (t : Hart) (line : Nat) (v : Option HLine) : Hart := { t with wbuf := mput (fun _ => none) t.wbuf line v }

/-! #### Cores as holders of requests -/

def MeSt.reset : MeSt := ⟨7, [], 0, 5, false⟩
def SubArr.reset : SubArr := ⟨none, none, [], none⟩
def Queue.reset : Queue := ⟨0, [], 0, false, none, none, false, false, []⟩
/-- A core right after a cold reset (log 17, DESIGN CHOICE). -/
def Core.reset : Core :=
  ⟨[], [], [], [], [], [], 0, [], [], [], [], [], [], [], [], [], [], [], [], 0, MeSt.reset, 0, [], [], [], [], [], [], [], []⟩

/-! #### Dead agents (R395) -/

/-- The bit of U0, U1, D0, D1 (R397). -/
def extBit : Agent → Option Nat
  | .upstream a => some a
  | .cxlDev a => some (2 + a)
  | _ => none

/-- Whether an agent is declared dead; every die shows the same. -/
def agentDead (hw : Hw) (ag : Agent) : Bool :=
  match extBit ag with
  | some i => rbit hw (Reg.slcAgentDead 0) i
  | none => match ag with
    | .hart h => hw.deadHarts.contains h.val
    | _ => false

/-! #### Filter entries (R377) -/

def filtList (hw : Hw) (line : Nat) : List FiltEnt := mget (fun _ => []) hw.mem.filt (homeSlice hw (64 * line))

def filtGet (hw : Hw) (line : Nat) : Option FiltSt :=
  ((filtList hw line).find? (fun e => e.line == line)).map (·.st)

/-- Set or clear the entry of a line; an entry set becomes the most recently used (log 11, DESIGN CHOICE). -/
def filtSet (hw : Hw) (line : Nat) (st : Option FiltSt) : Hw :=
  let rest := (filtList hw line).filter (fun e => e.line != line)
  let l := match st with
    | some v => ⟨line, v⟩ :: rest
    | none => rest
  { hw with mem := { hw.mem with filt := mput (fun _ => []) hw.mem.filt (homeSlice hw (64 * line)) l } }

/-- An error of the SLC or its filter, recorded on the home's die (R518, R530). -/
def slcRas (hw : Hw) (line cls cause : Nat) : Hw :=
  ras hw (homeDie hw (64 * line)) cls 0x05 cause (homeSlice hw (64 * line) % 128) 0xFFF 0 0 (64 * line)

def setMem (hw : Hw) (m : Mem) : Hw := { hw with mem := m }

/-- Bit errors in the tags a lookup of the line reads (R518): one copy serves for the other, with a CE record; both bad
are fatal to the package. -/
def tagCheck (hw : Hw) (line : Nat) : Hw :=
  let hw1 := setMem hw { hw.mem with tagFlip := mput (fun _ => 0) hw.mem.tagFlip line 0 }
  match mget (fun _ => 0) hw.mem.tagFlip line with
  | 0 => hw
  | 1 => slcRas hw1 line clsCE 1
  | _ => slcRas hw1 line clsPKG 4

/-- The clusters whose harts have all lost their clock (R525). -/
def deadClusters (hw : Hw) : BitVec 6 :=
  BitVec.ofNat 6 (foldN 6 0 (fun v k => v + 2 ^ k * b2n ((List.range 12).all (fun i => hw.deadHarts.contains (12 * k + i)))))

/-- The entry of a line with dead agents taken out (R395, R525): a dead owner's line is poisoned and logged. -/
def filtLive (hw : Hw) (line : Nat) : Option FiltSt × Hw :=
  match filtGet hw line with
  | none => (none, hw)
  | some (.owned o) =>
    if agentDead hw o then
      let d := homeDie hw (64 * line)
      let hw1 := ror (setPoison (filtSet hw line none) line true) (Reg.slcErr d) 2
      (none, ras hw1 d clsUE 0x05 2 (homeSlice hw (64 * line) % 128) (agentCode o) 0 0 (64 * line))
    else (some (.owned o), hw)
  | some (.shared cl ext) =>
    let ext' := ext &&& ~~~ (BitVec.ofNat 4 (rbits hw (Reg.slcAgentDead 0) 3 0))
    let cl' := cl &&& ~~~ deadClusters hw
    if ext' = ext ∧ cl' = cl then (some (.shared cl ext), hw)
    else if cl' = 0 ∧ ext' = 0 then (none, filtSet hw line none)
    else (some (.shared cl' ext'), filtSet hw line (some (.shared cl' ext')))

/-- A SHARED entry that names one agent. -/
def sharedOf (ag : Agent) : FiltSt :=
  match ag with
  | .hart h => .shared (BitVec.ofNat 6 (2 ^ (h.val / 12))) 0
  | _ => match extBit ag with
    | some i => .shared 0 (BitVec.ofNat 4 (2 ^ i))
    | none => .shared 0 0

/-- An entry with an agent added. -/
def addSharer (st : FiltSt) (ag : Agent) : FiltSt :=
  match st, sharedOf ag with
  | .shared c e, .shared c' e' => .shared (c ||| c') (e ||| e')
  | .owned o, .shared c' e' => match sharedOf o with
    | .shared c e => .shared (c ||| c') (e ||| e')
    | s => s
  | s, _ => s

/-- Whether an agent is a caching agent (R376). -/
def isCaching : Agent → Bool
  | .hart _ => true
  | .upstream _ => true
  | .cxlDev _ => true
  | _ => false

/-- Every agent an entry's bits reach, in order: the 12 harts of each cluster, then U0, U1, D0, D1 (R377). -/
def sharers (cl : BitVec 6) (ext : BitVec 4) : List Agent :=
  (List.finRange 72).filterMap (fun h => if bit cl (h.val / 12) then some (Agent.hart h) else none) ++
  [(0, Agent.upstream 0), (1, Agent.upstream 1), (2, Agent.cxlDev 0), (3, Agent.cxlDev 1)].filterMap
    (fun p => if bit ext p.1 then some p.2 else none)

/-- A request by which its sender gives up a line: it holds none to be snooped for. -/
def givesUp : ReqKind → Bool
  | .wrBack => true
  | .evict => true
  | _ => false

/-- Bit errors in the filter entry a request reads (R518): a corrected one gives a CE record; an entry that cannot be
read counts as SHARED by everyone, and the SnpInv to all leave no copy and no entry. The sender of a WrBack or an Evict has
been the owner, and is not snooped (log 88, DESIGN CHOICE, DEDUCED). -/
def filtCheck (hw : Hw) (kind : ReqKind) (line : Nat) (r : Agent) : Bool × Hw :=
  let hw1 := slcRas (setMem hw { hw.mem with filtFlip := mput (fun _ => 0) hw.mem.filtFlip line 0 }) line clsCE 1
  match mget (fun _ => 0) hw.mem.filtFlip line with
  | 0 => (false, hw)
  | 1 => (false, hw1)
  | _ => (true, filtSet hw1 line (if givesUp kind then some (.owned r) else none))

/-- Whether an agent may still hold a copy by the entry. -/
def marked (st : Option FiltSt) (ag : Agent) : Bool :=
  match st with
  | none => false
  | some (.owned o) => o == ag
  | some (.shared cl ext) => match ag with
    | .hart h => bit cl (h.val / 12)
    | _ => match extBit ag with
      | some i => bit ext i
      | none => false

/-- The snoops a request needs by filter state (R383): the targets, and whether they invalidate. A write or an atomic takes
the line from all sharers, a RdUnique from all but its requester. -/
def snoopsFor (kind : ReqKind) (st : Option FiltSt) (r : Agent) : List Agent × Bool :=
  match st with
  | none => ([], false)
  | some (.owned o) =>
    if o = r then ([], false)
    else match kind with
      | .rdShared => ([o], false)
      | .rdOnce => ([o], false)
      | .wrBack => ([], false)
      | .evict => ([], false)
      | _ => ([o], true)
  | some (.shared cl ext) =>
    match kind with
    | .rdShared => ([], false)
    | .rdOnce => ([], false)
    | .wrBack => ([], false)
    | .evict => ([], false)
    | .wrFull | .wrPartial | .atomic => (sharers cl ext, true)
    | _ => ((sharers cl ext).filter (fun a => a != r), true)

/-- The snoops of a request, dead agents left out (R383, R395): the entry it found, the targets and whether they
invalidate, the state. -/
def snoopPlan (hw : Hw) (kind : ReqKind) (line : Nat) (r : Agent) : Option FiltSt × (List Agent × Bool) × Hw :=
  let ck := filtCheck (tagCheck hw line) kind line r
  let fl := filtLive ck.2 line
  let all := sharers (BitVec.allOnes 6) (BitVec.allOnes 4)
  let sn := if ck.1 then (if givesUp kind then all.filter (fun a => a != r) else all, true) else snoopsFor kind fl.1 r
  (fl.1, (sn.1.filter (fun a => !agentDead fl.2 a), sn.2), fl.2)

/-! #### Writes that reach the device and reads that come from it (R519, R561) -/

/-- A write of the line leaves its controller for the device: an injection armed for the line is applied (R561),
any earlier one on the line is overwritten. -/
def memLeave (hw : Hw) (line : Nat) : Hw :=
  let d := homeDie hw (64 * line)
  match mget (fun _ => none) hw.mem.armed d with
  | some j => if j.line = line then
      { hw with mem := { hw.mem with armed := mput (fun _ => none) hw.mem.armed d none,
                                     marked := mput (fun _ => 0) hw.mem.marked line j.kind } }
    else { hw with mem := { hw.mem with marked := mput (fun _ => 0) hw.mem.marked line 0 } }
  | none => { hw with mem := { hw.mem with marked := mput (fun _ => 0) hw.mem.marked line 0 } }

/-- What a read of the line from its device finds is recorded: a KIND 1 pattern as CE, a KIND 2 pattern as UE (R561). -/
def memSeen (hw : Hw) (line : Nat) : Hw :=
  let u := memUnit hw (64 * line)
  let d := homeDie hw (64 * line)
  match mget (fun _ => 0) hw.mem.marked line with
  | 1 => ras hw d clsCE u.1 1 u.2 0xFFF 0 0 (64 * line)
  | 2 => ras hw d clsUE u.1 2 u.2 0xFFF 0 0 (64 * line)
  | _ => hw

/-- The line is read from its device: a KIND 1 pattern gives a CE record and corrected data written back, a KIND 2
pattern gives a UE record and poison (R561) (log 91, DEDUCED). -/
def memFetch (hw : Hw) (line : Nat) : Hw :=
  match mget (fun _ => 0) hw.mem.marked line with
  | 1 => memLeave (memSeen hw line) line
  | 2 => setPoison (memLeave (memSeen hw line) line) line true
  | _ => hw

/-! #### The SLC (R374, R375) -/

def slcList (hw : Hw) (line : Nat) : List SlcBlock := mget (fun _ => []) hw.mem.slc (homeSlice hw (64 * line))

def setSlcList (hw : Hw) (slice_ : Nat) (l : List SlcBlock) : Hw :=
  { hw with mem := { hw.mem with slc := mput (fun _ => []) hw.mem.slc slice_ l } }

/-- What the SLC holds of a line. -/
def slcState (hw : Hw) (line : Nat) : SlcSt :=
  match (slcList hw line).find? (fun b => b.blk == line / 2) with
  | none => .inv
  | some b => if line % 2 = 0 then b.l0 else b.l1

/-- The blocks of one of a slice's sets (log 11, DESIGN CHOICE). -/
def sameSet (l : List SlcBlock) (sets blk : Nat) : List SlcBlock :=
  l.filter (fun b => Config.slcSet b.blk % sets == Config.slcSet blk % sets)

/-- The block a full set gives up: least recently used among the unretained, else among all (R375) (log 70, DESIGN CHOICE). -/
def slcVictim (l : List SlcBlock) (ways sets blk : Nat) : Option SlcBlock :=
  if l.length < ways then none
  else if (sameSet l sets blk).length < ways then none
  else match ((sameSet l sets blk).filter (fun b => !b.retain)).getLast? with
    | some b => some b
    | none => (sameSet l sets blk).getLast?

/-- Put a line into the SLC in a state, most recently used; Dirty lines of a replaced block are written to memory. -/
def slcPut (hw : Hw) (line : Nat) (st : SlcSt) (retain : Bool) : Hw :=
  let s := homeSlice hw (64 * line)
  let l := slcList hw line
  let old := (l.find? (fun b => b.blk == line / 2)).getD ⟨line / 2, false, .inv, .inv⟩
  let b : SlcBlock := if line % 2 = 0 then { old with l0 := st, retain := old.retain || retain }
                      else { old with l1 := st, retain := old.retain || retain }
  let rest := l.filter (fun x => x.blk != line / 2)
  match slcVictim rest (slcWays s) (slcSets s) (line / 2) with
  | none => setSlcList hw s (b :: rest)
  | some v =>
    let hw1 := setSlcList hw s (b :: rest.filter (fun x => x.blk != v.blk))
    let hw2 := if v.l0 = .dirty then memLeave hw1 (2 * v.blk) else hw1
    if v.l1 = .dirty then memLeave hw2 (2 * v.blk + 1) else hw2

/-- Bit errors in the data the SLC gives (R518): a corrected one; an uncorrectable one of a clean line, which is read
again from memory; of a dirty line, which is poisoned. -/
def slcCheck (hw : Hw) (line : Nat) : Hw :=
  let hw1 := setMem hw { hw.mem with slcFlip := mput (fun _ => 0) hw.mem.slcFlip line 0 }
  match mget (fun _ => 0) hw.mem.slcFlip line with
  | 0 => hw
  | 1 => slcRas hw1 line clsCE 1
  | _ => if slcState hw line = .dirty then slcRas (setPoison hw1 line true) line clsUE 2
         else memFetch (slcRas hw1 line clsCE 1) line

/-- A line's data is replaced whole: what stood in it is gone (R518, R521). -/
def slcFresh (hw : Hw) (line : Nat) : Hw :=
  if mget (fun _ => 0) hw.mem.slcFlip line = 0 then hw
  else setMem hw { hw.mem with slcFlip := mput (fun _ => 0) hw.mem.slcFlip line 0 }

/-- A request that wants the line's data at the home: served from the SLC, or read from memory and allocated, unless
it is a Roe request that misses (R335, R375). -/
def homeFetch (hw : Hw) (line : Nat) (alloc : Bool) : Hw :=
  let d := homeDie hw (64 * line)
  match slcState hw line with
  | .inv => let hw1 := memFetch (radd hw (Reg.slcMissCnt d) 1) line
            if alloc then slcPut hw1 line .clean false else hw1
  | st => slcPut (slcCheck (radd hw (Reg.slcHitCnt d) 1) line) line st false

/-- All bytes of one or both 32-byte halves, and no others: what a Roe write sends as half-bursts without a read (R335). -/
def wholeHalf (mask : BitVec 64) : Bool := mask == lineMask 0 32 || mask == lineMask 32 32

/-- A write of the masked bytes at the home (R375, R521): a whole line clears poison, a partial one leaves it; a
whole line without HINT 1 that the SLC does not hold, and a Roe write to an absent line (R335), goes to memory, without
a read where it covers its half (log 73, DEDUCED). -/
def homeWrite (hw : Hw) (line : Nat) (mask : BitVec 64) (data : List Byte) (poison retain roe : Bool) : Hw :=
  let whole : Bool := mask == fullMask
  let absent : Bool := slcState hw line == .inv
  let hw0 := if !absent then
      (let h := radd hw (Reg.slcHitCnt (homeDie hw (64 * line))) 1
       if whole then slcFresh h line else slcCheck h line)
    else if whole || (roe && wholeHalf mask) then hw else homeFetch hw line (!roe)
  let hw1 := writeBytes hw0 (64 * line) (mergeBytes mask 0 (lineData hw0 line) data)
  let hw2 := if poison then setPoison hw1 line true else if whole then setPoison hw1 line false else hw1
  if absent && ((whole && !retain) || roe) then memLeave hw2 line
  else slcPut hw2 line .dirty retain

/-! #### Messages and watches -/

def sendMsg (hw : Hw) (k : MsgKind) (line : Nat) (ag : Agent) : Hw :=
  { hw with mem := { hw.mem with net := hw.mem.net ++ [⟨k, line, ag⟩] } }

/-- Remove the first message that satisfies `p`. -/
def takeMsg (p : Msg → Bool) : List Msg → Option (Msg × List Msg)
  | [] => none
  | m :: ms => if p m then some (m, ms) else (takeMsg p ms).map (fun r => (r.1, m :: r.2))

def setNet (hw : Hw) (n : List Msg) : Hw := { hw with mem := { hw.mem with net := n } }

/-- The next write or atomic sends one WriteNote to every watching QFE and clears the watches (R388). -/
def notifyWatches (hw : Hw) (line : Nat) : Hw :=
  let s := homeSlice hw (64 * line)
  let ws := mget (fun _ => []) hw.mem.watches s
  let hit := ws.filter (fun w => w.2 == line)
  let hw1 := { hw with mem := { hw.mem with watches := mput (fun _ => []) hw.mem.watches s (ws.filter (fun w => w.2 != line)) } }
  hit.foldl (fun h w => sendMsg h .writeNote line (.engine (Fin.ofNat 512 w.1))) hw1

/-- Register a watch of core `c`; a slice holds 64 (R388). -/
def addWatch (hw : Hw) (line c : Nat) : Hw :=
  let s := homeSlice hw (64 * line)
  let ws := mget (fun _ => []) hw.mem.watches s
  if ws.contains (c, line) then hw
  else if ws.length < 64 then { hw with mem := { hw.mem with watches := mput (fun _ => []) hw.mem.watches s (ws ++ [(c, line)]) } }
  else radd hw (Reg.slcWatchOvfCnt (s / 128)) 1

/-- A DE, of this package or of another (R389). -/
def isDe : Agent → Bool
  | .engine _ => true
  | .remote _ _ => true
  | _ => false

/-- HINT 2 and 3 of a completed write, reduction or prefetch (R391); HINT 3 comes from a DE alone (R392). -/
def applyHint (hw : Hw) (line : Nat) (by_ : Agent) (hint htgt : Nat) : Hw :=
  let d := homeDie hw (64 * line)
  if hint = 2 ∧ htgt < 72 then
    radd (sendMsg hw .stashOffer line (.hart (Fin.ofNat 72 htgt))) (Reg.slcStashOfferCnt d) 1
  else if hint = 3 ∧ htgt < 512 ∧ isDe by_ then
    radd (sendMsg hw .stashOffer line (.engine (Fin.ofNat 512 htgt))) (Reg.slcStashOfferCnt d) 1
  else hw

/-! #### Serving a request (R383) -/

/-- What a served request returns. -/
structure Served where
  hw      : Hw
  old     : List Byte
  poison  : Bool
  granted : Option Bool
  hasData : Bool

/-- Apply a request whose snoops are answered: the data part and the filter entry of R383; `st` is the entry it
found. An atomic on poison is not applied (R522). -/
def homeApply (hw : Hw) (req : HReq) (st : Option FiltSt) : Served :=
  let line := req.line
  let d := homeDie hw (64 * line)
  match req.kind with
  | .rdShared =>
    let hw1 := homeFetch hw line true
    match st with
    | none => ⟨filtSet hw1 line (some (.owned req.agent)), lineData hw1 line, linePoison hw1 line, some true, true⟩
    | some s => if s = .owned req.agent then ⟨hw1, lineData hw1 line, linePoison hw1 line, some true, true⟩
                else ⟨filtSet hw1 line (some (addSharer s req.agent)), lineData hw1 line, linePoison hw1 line, some false, true⟩
  | .rdUnique =>
    let hw1 := if req.nodata then hw else homeFetch hw line true
    ⟨filtSet hw1 line (some (.owned req.agent)), lineData hw1 line, linePoison hw1 line, some true, !req.nodata⟩
  | .rdOnce =>
    let hw0 := homeFetch hw line (!req.roe)
    let hw1 := if req.hint == 1 then slcPut hw0 line (slcState hw0 line) true else hw0
    let hw2 := match st with
      | some (.owned o) => if o = req.agent then hw1 else filtSet hw1 line (some (sharedOf o))
      | _ => hw1
    let hw3 := match req.watch, req.agent with
      | true, .engine c => addWatch hw2 line c
      | _, _ => hw2
    ⟨applyHint hw3 line req.agent req.hint req.htgt, lineData hw1 line, linePoison hw1 line, none, true⟩
  | .wrFull | .wrPartial =>
    let hw1 := homeWrite hw line req.mask req.data req.poison (req.hint == 1) req.roe
    ⟨applyHint (notifyWatches (filtSet hw1 line none) line) line req.agent req.hint req.htgt, [], false, none, false⟩
  | .atomic =>
    let absent : Bool := req.roe && slcState hw line == .inv
    let hw1 := homeFetch hw line (!req.roe)
    let p := linePoison hw1 line
    let old := lineData hw1 line
    match req.op with
    | some op =>
      let hw2 := if p then hw1
        else if absent then memLeave (writeBytes hw1 (64 * line) (atomLine op old req.data)) line
        else slcPut (writeBytes hw1 (64 * line) (atomLine op old req.data)) line .dirty
               (match op with | .amo .. => true | .reduce .. => req.hint == 1)
      let hw3 := applyHint (notifyWatches (filtSet hw2 line none) line) line req.agent req.hint req.htgt
      ⟨radd hw3 (Reg.slcAtomicCnt d) (if p then 0 else 1), old, p, none, true⟩
    | none => ⟨hw1, old, p, none, true⟩
  | .wrBack =>
    if st = some (.owned req.agent) then
      ⟨filtSet (slcPut (setPoison (writeBytes hw (64 * line) req.data) line req.poison) line .dirty false) line none,
        [], false, none, false⟩
    else ⟨hw, [], false, none, false⟩
  | .evict =>
    if st = some (.owned req.agent) then ⟨filtSet hw line none, [], false, none, false⟩ else ⟨hw, [], false, none, false⟩
  | .victim => ⟨filtSet hw line none, [], false, none, false⟩

def Home.reset : Home := ⟨none, []⟩
def getHome (hw : Hw) (line : Nat) : Home := mget (fun _ => Home.reset) hw.mem.homes line
def setHome (hw : Hw) (line : Nat) (v : Home) : Hw :=
  { hw with mem := { hw.mem with homes := mput (fun _ => Home.reset) hw.mem.homes line v } }

/-- Whether the requester installs a copy, so that its CompAck ends the block (R381). -/
def installs : ReqKind → Bool
  | .rdShared => true
  | .rdUnique => true
  | _ => false

/-- A signal to a poisoned word is not applied (R563); `pkg` is the signalling core's package (R195). -/
def signalPoisoned (hw : Hw) (pa agent : Nat) (pkg : Nat := 0) : Hw :=
  ras hw (homeDie hw pa) clsUE 0x05 3 (homeSlice hw pa % 128) agent 0 pkg pa

/-- The address of the word an atomic names. -/
def atomAddr (req : HReq) : Nat :=
  match req.op with
  | some (.amo _ _ off _ _) => 64 * req.line + off
  | _ => 64 * req.line

/-- The home answers a request that a command has outstanding (R70, R261): the command has one less to wait for, and an
atomic that poison kept from being applied gives it DATA_ERROR (R522). Copies of the line in the issuing core's own L1 and
side buffer go before the answer (R257). Command 0 is none: such an atomic is a semaphore's signal (R563). -/
def reqAnswered (hw : Hw) (req : HReq) (who : Nat × Nat) (poison : Bool) : Hw :=
  let c := who.1
  let bad : Bool := poison && req.kind == .atomic
  if who.2 = 0 then (if bad then signalPoisoned hw (atomAddr req) c else hw)
  else
    let hw1 := if bad then ras hw (c / 128) clsUE 0x01 3 c c 0 0 (64 * req.line) else hw
    let t := mget (fun _ => Core.reset) hw1.cores c
    let cmds := t.cmds.map (fun m => if m.id = who.2 then
      { m with out := m.out - 1, status := if bad && m.status == 0 then 0x13 else m.status } else m)
    let other := fun l : L1Line => l.line != req.line / 2
    let t1 := { t with cmds := cmds, l1 := t.l1.filter other, side := t.side.filter other }
    { hw1 with cores := mput (fun _ => Core.reset) hw1.cores c t1 }

/-- Comp for a WrBack: a hart's write-back buffer is free once its home sends it (R386). -/
def sendComp (hw : Hw) (line : Nat) (ag : Agent) : Hw :=
  match ag with
  | .hart h => sendMsg (setHart hw h (setWbuf (getHart hw h) line none)) .comp line ag
  | _ => sendMsg hw .comp line ag

/-- The reply to a served request, and the end of the block or its wait for CompAck (R381). -/
def homeReply (r : Served) (req : HReq) : Hw :=
  let h := getHome r.hw req.line
  let hw1 := match req.who, req.kind with
    | some w, _ => reqAnswered r.hw req w r.poison
    | none, .rdShared | none, .rdUnique | none, .rdOnce | none, .atomic =>
      sendMsg r.hw (.compData r.granted r.hasData r.old r.poison) req.line req.agent
    | none, .victim => r.hw
    | none, .wrBack => sendComp r.hw req.line req.agent
    | none, _ => sendMsg r.hw .comp req.line req.agent
  if installs req.kind then
    setHome hw1 req.line { h with busy := some ⟨req, [], none, false, some req.agent, none⟩ }
  else setHome hw1 req.line { h with busy := none }

/-- The data a RdUnique needs: none when the requester is still marked SHARED (R383). -/
def finishReq (hw : Hw) (req : HReq) (st : Option FiltSt) : Hw :=
  let r := homeApply hw req st
  match req.kind, st with
  | .rdUnique, some (.shared _ _) =>
    homeReply (if marked st req.agent then { r with hasData := false } else r) req
  | _, _ => homeReply r req

/-- The entries of the filter set a line falls into, most recently used first (log 70, DESIGN CHOICE). -/
def filtSetOf (hw : Hw) (line : Nat) : List FiltEnt :=
  let sets := filtSets (homeSlice hw (64 * line))
  (filtList hw line).filter (fun e => Config.filtSet e.line % sets == Config.filtSet line % sets)

/-- A line is being taken out of the filter: the request that does so is accepted or queued (R379). -/
def leavesFilter (hw : Hw) (line : Nat) : Bool :=
  let h := getHome hw line
  (match h.busy with
    | some t => t.req.kind == .victim
    | none => false) || h.queue.any (fun q => q.kind == .victim)

/-- No entry is left for a new line in its filter set. -/
def filtFull (hw : Hw) (line : Nat) : Bool :=
  decide (filtWays ≤ (filtList hw line).length) && decide (filtWays ≤ (filtSetOf hw line).length)

/-- The filter victim of a full set: a SHARED entry first, least recently used, among those not taken out already (R379) (log
70, DESIGN CHOICE). -/
def filtVictim (hw : Hw) (line : Nat) : Option FiltEnt :=
  let set := (filtSetOf hw line).filter (fun e => !leavesFilter hw e.line)
  match (set.filter (fun e => match e.st with | .shared _ _ => true | _ => false)).getLast? with
  | some e => some e
  | none => set.getLast?

/-- A write's hint once its write is complete: HINT 2 and 3 offer the line then (R391); HINT 1 goes with the write. -/
def hintLater (req : HReq) : HReq := { req with hint := if req.hint = 1 then 1 else 0 }

/-- An atomic on a SHARED line is applied at once, beside the snoops (R384): its old line and whether poison kept it from
being applied. -/
def applyShared (hw : Hw) (req : HReq) (st : Option FiltSt) : Hw × Option (List Byte × Bool) :=
  match req.kind, st with
  | .atomic, some (.shared _ _) => let r := homeApply hw (hintLater req) st; (r.hw, some (r.old, r.poison))
  | _, _ => (hw, none)

/-- The data of a line that its owner's write-back brings: a WrBack, or an external host's MemWr of a line it owns (R387,
R393). -/
def backData (hw : Hw) (st : Option FiltSt) (q : HReq) : Option (List Byte) :=
  match q.kind, q.agent with
  | .wrBack, _ => some q.data
  | .wrFull, .upstream _ | .wrPartial, .upstream _ =>
    if st = some (.owned q.agent) then some (mergeBytes q.mask 0 (lineData hw q.line) q.data) else none
  | _, _ => none

/-- Accept a request for a line that is not blocked (R381, R383): snoop, or finish when no snoop is needed. The line
stays blocked until the last response, so no reader sees an atomic on a SHARED line before no old copy is left (R384). A
WrBack of a snooped owner that has come before is held aside, an Evict of one is counted as a crossing (R387). -/
def acceptReq (hw : Hw) (req : HReq) : Hw :=
  let pl := snoopPlan hw req.kind req.line req.agent
  let st := pl.1
  let hw0 := pl.2.2
  let d := homeDie hw (64 * req.line)
  let sn := pl.2.1
  if sn.1 = [] then finishReq hw0 req st
  else
    let ap := applyShared hw0 req st
    let hw1 := sn.1.foldl (fun h a => radd (sendMsg h (if sn.2 then .snpInv else .snpShared) req.line a) (Reg.slcSnpCnt d) 1) ap.1
    let h := getHome hw1 req.line
    let back := h.queue.find? (fun q => sn.1.contains q.agent && (backData hw1 st q).isSome)
    let hw2 := radd hw1 (Reg.slcWbxCnt d) (h.queue.countP (fun q => q.kind == .evict && sn.1.contains q.agent))
    let hw3 := match back with
      | some q => setPoison hw2 req.line q.poison
      | none => hw2
    setHome hw3 req.line {
      busy := some ⟨req, sn.1, back.map (fun q => (q.agent, (backData hw1 st q).getD q.data)), false, none, ap.2⟩
      queue := match back with
        | some q => h.queue.erase q
        | none => h.queue }

/-- Blocked lines of a slice: the trackers in use (R382). -/
def trackersUsed (hw : Hw) (slice_ : Nat) : Nat :=
  (hw.mem.homes.filter (fun e => e.2.busy.isSome && homeSlice hw (64 * e.1) == slice_)).length

/-- Lines whose first request waits at a slice's input (R382). -/
def sliceInput (hw : Hw) (slice_ : Nat) : List Nat := mget (fun _ => []) hw.mem.input slice_

/-- A slice takes a request that has just come: a tracker is free and none waits before it (R382). -/
def trackerFree (hw : Hw) (slice_ : Nat) : Bool :=
  decide (trackersUsed hw slice_ < trackers slice_) && (sliceInput hw slice_).isEmpty

/-- A request waits in its line's queue (R381); SLC_QUEUE_MAX shows the longest (R397). -/
def enqueue (hw : Hw) (req : HReq) : Hw :=
  let h := getHome hw req.line
  let d := homeDie hw (64 * req.line)
  let q := h.queue ++ [req]
  let hw1 := setHome hw req.line { h with queue := q }
  if q.length > rbits hw (Reg.slcQueueMax d) 7 0 then rsetN hw1 (Reg.slcQueueMax d) (min q.length 255) else hw1

/-- A request waits at its slice's input, in arrival order (R382). -/
def waitInput (hw : Hw) (req : HReq) : Hw :=
  let s := homeSlice hw (64 * req.line)
  let hw1 := enqueue hw { req with atInput := true }
  { hw1 with mem := { hw1.mem with input := mput (fun _ => []) hw1.mem.input s (sliceInput hw s ++ [req.line]) } }

/-- Whether a request needs an entry the filter does not have. -/
def needsEntry (hw : Hw) (req : HReq) : Bool := installs req.kind && (filtGet hw req.line).isNone

/-- A request of an agent to the home of a line waits at its source for the mesh (R30, R404). -/
def lineHeld (hw : Hw) (ag : Agent) (line : Nat) : Bool := meshHeld hw (dieOfAgent ag) (homeDie hw (64 * line)) (64 * line)

/-- A plain request. -/
def mkReq (kind : ReqKind) (ag : Agent) (line : Nat) : HReq :=
  { kind := kind, agent := ag, line := line, mask := 0, data := [], op := none, hint := 0, htgt := 0,
    watch := false, poison := false, roe := false, who := none, nodata := false, atInput := false, seq := 0 }

/-- The home takes an entry out of a line's full filter set (R379): the victim is a request of its own, accepted in arrival
order (R396); none where every entry is on its way out. -/
def victimGo (hw : Hw) (line : Nat) : Hw :=
  let d := homeDie hw (64 * line)
  match filtVictim hw line with
  | none => hw
  | some v =>
    let vr := mkReq .victim (.scrubber (Fin.ofNat 6 d)) v.line
    let hw1 := radd hw (Reg.slcFiltEvictCnt d) 1
    let hv := getHome hw1 v.line
    if hv.busy.isNone && hv.queue.isEmpty then acceptReq hw1 vr else enqueue hw1 vr

/-- Arrival of a request at its home (R381, R382): accepted when the line is free with nothing queued and a tracker is
free; queued behind the line's block, as it is while the mesh holds it at its source; at the slice's input without a
tracker. A request that needs a filter victim waits for it (R379). -/
def homeArrive (hw : Hw) (req : HReq) : Hw :=
  let h := getHome hw req.line
  if h.busy.isSome || lineHeld hw req.agent req.line then enqueue hw req
  else if !trackerFree hw (homeSlice hw (64 * req.line)) then waitInput hw req
  else if !h.queue.isEmpty then enqueue hw req
  else if needsEntry hw req && filtFull hw req.line then victimGo (enqueue hw req) req.line
  else acceptReq hw req

/-! #### Accesses of engines, QFEs, walkers and message writes: served whole at the point of coherence -/

/-- Bit errors that a read of a line in a hart's L1D and L2 meets (R356, R518): corrected and counted; uncorrectable, a clean
line is fetched again, a dirty one is poisoned. -/
def hartScan (hw : Hw) (h line : Nat) : Hw :=
  let t := getHart hw h
  let k := mget (fun _ => 0) t.flipD line
  if k = 0 then hw
  else
    let t1 := { t with flipD := mput (fun _ => 0) t.flipD line 0 }
    let ce := fun w : Hw => ras (radd w (Reg.hclEccCeCnt (h / 12)) 1) (4 + h / 36) clsCE 0x08 1 h (0x400 + h) 0 0 (64 * line)
    match hartLine t line with
    | none => setHart hw h t1
    | some l =>
      if k ≠ 1 ∧ l.st = .m then
        ras (setHart hw h (setLine t1 line (some { l with poison := true }))) (4 + h / 36) clsUE 0x08 2 h (0x400 + h) 0 0 (64 * line)
      else ce (setHart hw h t1)

/-- Bit errors that a fetch from a line in a hart's L1I meets (R356, R518): corrected and counted, or the line is fetched
again, with a record either way. -/
def fetchScan (hw : Hw) (h line : Nat) : Hw :=
  let t := getHart hw h
  let k := mget (fun _ => 0) t.flipI line
  if k = 0 ∨ t.icache.contains line = false then hw
  else
    let w := setHart hw h { t with flipI := mput (fun _ => 0) t.flipI line 0 }
    ras (if k = 1 then radd w (Reg.hclEccCeCnt (h / 12)) 1 else w) (4 + h / 36) clsCE 0x08 1 h (0x400 + h) 0 0 (64 * line)

/-- A line leaves a hart: L2 holds L1I and L1D within it (R356), so both lose it; a reservation on it is gone (R384)
(log 92, DESIGN CHOICE). -/
def hartLose (t : Hart) (line : Nat) : Hart :=
  { setLine t line none with
    icache := t.icache.filter (fun x => x != line)
    dcache := t.dcache.filter (fun x => x != line)
    resv := match t.resv with
      | some v => if v.1 / 64 = line then none else some v
      | none => none }

/-- Dirty data of a snoop's answer goes into the SLC as Dirty, unless the request overwrites the whole line (R383). -/
def snoopData (hw : Hw) (line : Nat) (drop : Bool) (data : List Byte) (poison : Bool) : Hw :=
  if drop then hw else slcPut (setPoison (writeBytes hw (64 * line) data) line poison) line .dirty false

/-- Take a line from a hart at once (R383, R384). A line whose WrBack is under way stands in its home's queue (R386). -/
def snoopHart (hwOld : Hw) (line h : Nat) (inv drop : Bool) : Hw :=
  let hw := hartScan hwOld h line
  let t := getHart hw h
  match hartLine t line with
  | none => if inv then setHart hw h (hartLose t line) else hw
  | some l =>
    let hw1 := if l.st = .m then snoopData hw line drop l.data l.poison else hw
    setHart hw1 h (if inv then hartLose t line else setLine t line (some { l with st := .s }))

/-- 64 bytes that the model does not know. -/
def freeLine (hw : Hw) : List Byte := (List.range 8).flatMap (fun i => leBytes 8 (Config.freeWord (hw.fresh + i)).toNat)

/-- The register bits that show an agent dead (R397, R467, R468). -/
def showDead (hw : Hw) (ag : Agent) : Hw :=
  match extBit ag with
  | none => hw
  | some i =>
    let hw1 := foldN 6 hw (fun h d => ror h (Reg.slcAgentDead d) (2 ^ i))
    if i < 2 then ror hw1 (Reg.cxuStatus i) (2 ^ 56) else ror hw1 (Reg.cxdStatus (i - 2)) (2 ^ 48)

/-- A snoop of an agent outside the package was not answered in time: recorded, the agent is dead (R395). -/
def snoopExpired (hw : Hw) (line : Nat) (ag : Agent) : Hw :=
  let d := homeDie hw (64 * line)
  showDead (ras (ror hw (Reg.slcErr d) 1) d clsDEG 0x05 11 (homeSlice hw (64 * line) % 128) (agentCode ag) 0 0 (64 * line)) ag

/-- An agent outside the package answers the snoop of a request that is served whole (R393, R394), or does not in time (R395),
which is free: one that may hold the line in S without data, its owner with or without, which is free, as the data are.
Answers whether it gave any (log 19, DEDUCED). -/
def snoopExt (hw : Hw) (line : Nat) (a : Agent) (inv drop owner : Bool) : Hw × Bool :=
  let r := draw { hw with sent := hw.sent ++ [.snoop a line inv] }
  if bits r.1 2 1 = 3 then (snoopExpired r.2 line a, false)
  else if owner ∧ bit r.1 0 then (snoopData { r.2 with fresh := r.2.fresh + 8 } line drop (freeLine r.2) false, true)
  else (r.2, false)

/-- A hart answers a snoop with the line's data. -/
def givesData (hw : Hw) (line h : Nat) : Bool :=
  match hartLine (getHart hw h) line with
  | some l => l.st == .m
  | none => false

/-- Serve a request of a non-caching agent whole (R383): none while the line is blocked or has requests waiting, while
no tracker is free (R382), while the mesh holds its traffic (R30, R404) (log 19, DEDUCED) (log 73, DEDUCED). -/
def pocServe (hw : Hw) (req : HReq) : Option Served :=
  let h := getHome hw req.line
  if h.busy.isSome || !h.queue.isEmpty || lineHeld hw req.agent req.line || !trackerFree hw (homeSlice hw (64 * req.line)) then none
  else
    let pl := snoopPlan hw req.kind req.line req.agent
    let d := homeDie hw (64 * req.line)
    let sn := pl.2.1
    let drop := req.kind == .wrFull
    let x := sn.1.foldl (fun (y : Hw × Bool) a =>
      let w := radd y.1 (Reg.slcSnpCnt d) 1
      match a with
      | .hart t => (snoopHart w req.line t sn.2 drop, y.2 || (givesData w req.line t && !drop))
      | _ =>
        let e := snoopExt w req.line a sn.2 drop (pl.1 == some (.owned a) || pl.1 == none)
        (e.1, y.2 || (e.2 && !drop))) (pl.2.2, false)
    let fl := filtLive x.1 req.line
    let r := homeApply fl.2 req fl.1
    some (if x.2 then { r with hw := rset r.hw (Reg.slcHitCnt d) (rget hw (Reg.slcHitCnt d)) } else r)

/-- Read a line at the point of coherence: data and poison. -/
def pocRead (hw : Hw) (ag : Agent) (line : Nat) (watch : Bool) : Option (Hw × List Byte × Bool) :=
  (pocServe hw { mkReq .rdOnce ag line with watch := watch }).map (fun r => (r.hw, r.old, r.poison))

/-- Write masked bytes of a line at the point of coherence. -/
def pocWrite (hw : Hw) (ag : Agent) (line : Nat) (mask : BitVec 64) (data : List Byte) (poison : Bool)
    (hint htgt : Nat) : Option Hw :=
  (pocServe hw { mkReq (if mask = fullMask then .wrFull else .wrPartial) ag line with
    mask := mask, data := data, poison := poison, hint := hint, htgt := htgt }).map (·.hw)

/-- Apply an atomic at the point of coherence: old bytes of the line, and whether poison kept it from being applied. -/
def pocAtomic (hw : Hw) (ag : Agent) (line : Nat) (op : AtomOp) (data : List Byte) : Option (Hw × List Byte × Bool) :=
  (pocServe hw { mkReq .atomic ag line with op := some op, data := data }).map (fun r => (r.hw, r.old, r.poison))

/-- Read `n` bytes from a tier address, line by line: bytes and whether any line was poisoned. -/
def pocReadN : Nat → Hw → Agent → Nat → Nat → Option (Hw × List Byte × Bool)
  | 0, hw, _, _, _ => some (hw, [], false)
  | fuel + 1, hw, ag, a, n =>
    if n = 0 then some (hw, [], false)
    else
      let k := min n (64 - a % 64)
      match pocRead hw ag (a / 64) false with
      | none => none
      | some (hw1, bs, p) =>
        match pocReadN fuel hw1 ag (a + k) (n - k) with
        | none => none
        | some (hw2, rest, p2) => some (hw2, slice bs (a % 64) k ++ rest, p || p2)

/-- Write bytes to a tier address, line by line. -/
def pocWriteN : Nat → Hw → Agent → Nat → List Byte → Bool → Nat → Nat → Option Hw
  | 0, hw, _, _, _, _, _, _ => some hw
  | fuel + 1, hw, ag, a, bs, poison, hint, htgt =>
    if bs = [] then some hw
    else
      let k := min bs.length (64 - a % 64)
      let data := List.replicate (a % 64) 0 ++ bs.take k
      match pocWrite hw ag (a / 64) (lineMask (a % 64) k) data poison hint htgt with
      | none => none
      | some hw1 => pocWriteN fuel hw1 ag (a + k) (bs.drop k) poison hint htgt

/-! #### MSI-X (R450) -/

/-- BAR4/5 after reset: every vector masked, as PCIe 6.x lays down; the pending-bit array is at offset 0x8000 (log 35,
PRESUMED). -/
def bar4Default : Nat → Byte := fun k => if k % 65536 < 32768 ∧ k % 16 = 12 then 1 else 0

/-- Send vector `v` of port `a`, set its pending bit when masked, or drop and log it when its entry is disabled, which
is an entry without a message address (R450) (log 35, PRESUMED). -/
def msixFire (hw : Hw) (a v : Nat) : Hw :=
  let b := fun o => mget bar4Default hw.bar4 (65536 * a + o)
  let addr := leNat ((List.range 8).map (fun i => b (16 * v + i)))
  if addr = 0 then (logPush hw (Reg.cxuErrLog a) 16 (word (2 ^ 63 + 5 * 2 ^ 60), 0)).2
  else if bit (b (16 * v + 12)) 0 then
    let o := 32768 + v / 8
    { hw with bar4 := mput bar4Default hw.bar4 (65536 * a + o) (b o ||| BitVec.ofNat 8 (2 ^ (v % 8))) }
  else { hw with sent := hw.sent ++ [.msix a v addr (leNat ((List.range 4).map (fun i => b (16 * v + 8 + i))))] }

/-! #### Delivery of message writes (R61) -/

/-- The key of interrupt file `f` of hart `h`: 0 the machine-level file, 1 the supervisor-level one, 1 + g guest file g
(R57). -/
def imsicKey (h f : Nat) : Nat := 9 * h + f

/-- An identity becomes pending in an interrupt file (R57, R61) (log 36, PRESUMED; log 66, DESIGN CHOICE). -/
def imsicPend (hw : Hw) (h f v : Nat) : Hw :=
  let k := imsicKey h f
  { hw with imsic := mput (fun _ => []) hw.imsic k ((mget (fun _ => []) hw.imsic k).filter (· != v) ++ [v]) }

/-- The die a message write goes to. -/
def msgDie (hw : Hw) (m : MsgWr) : Nat :=
  match locate m.addr with
  | .imsic h _ _ => 4 + h / 36
  | .reg (.die d _) _ => d
  | .tier0 | .tier1 => homeDie hw m.addr
  | _ => m.die

/-- The agent a message write into a tier is served as: the PCP of the issuing block's Acelo, that of AID-N for a block
of a compute die. R61 names none (log 80, DESIGN CHOICE). -/
def msgAgent (m : MsgWr) : Agent := .pcp (Fin.ofNat 2 (m.die - 4))

/-- One message write at its target: an interrupt file, CXU_MSIX_TRIG, or a tier; anything else is discarded and
recorded with cause 7 (log 30, DEDUCED). It waits at its source while the mesh holds its route (R30) (log 100, DESIGN CHOICE). -/
def deliverMsg (hw : Hw) (m : MsgWr) : Hw :=
  if meshHeld hw m.die (msgDie hw m) m.addr then { hw with msgs := hw.msgs ++ [m] }
  else match locate m.addr with
  | .imsic h f off => if off = 0 ∧ 0 < m.data ∧ m.data < 2048 then imsicPend hw h f m.data else hw
  | .reg (.die d b) off =>
    if b = 0x40 ∧ off = 0x20 then
      msixFire hw (d - 4) (m.data % 2048)
    else ras hw m.die clsRESP 0x0F 7 0 0xFFF 0 0 m.addr
  | .tier0 | .tier1 =>
    let line := m.addr / 64
    let req : HReq := { mkReq .wrPartial (msgAgent m) line with
      mask := lineMask (m.addr % 64) 4, data := List.replicate (m.addr % 64) 0 ++ leBytes 4 m.data, who := some (0xFFF, 0) }
    match pocServe hw req with
    | some r => r.hw
    | none => homeArrive hw req
  | _ => ras hw m.die clsRESP 0x0F 7 0 0xFFF 0 0 m.addr

/-- Deliver every message write under way, in order; those a delivery itself raises follow in the next round (log 30,
DEDUCED). -/
def settle : Nat → Hw → Hw
  | 0, hw => hw
  | n + 1, hw =>
    match hw.msgs with
    | [] => hw
    | ms => settle n (ms.foldl deliverMsg { hw with msgs := [] })

end Sys2Proof.Machine
end

