-- ==== Sys2Proof/Machine/Acts.lean ====
section
/-! DEFINITION. Shapes of an effect on the hardware: an effect with the answer its sender observes, an effect that
happens only under a condition; a write that gets the error response (R63). -/

namespace Sys2Proof.Machine

/-- The effect of a command that happens only under a condition: where it does not hold, the event does not occur and
nothing changes (log 1, DESIGN CHOICE). -/
def guardHw (c : Hw → Bool) (f : Hw → Hw × Answer) (hw : Hw) : Hw × Answer :=
  if c hw then f hw else (hw, .notEnabled)

/-- An effect that answers `done` (log 1, DESIGN CHOICE; log 16, DESIGN CHOICE). -/
def did (hw : Hw) : Hw × Answer := (hw, .done)

/-! #### A hart's store that fails (R362) -/

/-- A hart's die, package-wide cluster and place in it (R20, R56). -/
def hartDie (h : Nat) : Nat := 4 + h / 36
def hartCl (h : Nat) : Nat := h / 12
def hartIdx (h : Nat) : Nat := h % 12

/-- The address of a hart's bus-error log. -/
def berrLog (h : Nat) : Nat := Reg.hclBerrLog (hartCl h) (hartIdx h)

/-- A store retires as failed (R362): logged, mip bit 35 set; a full log sets the overflow bit. -/
def hartBerr (hw : Hw) (h cause addr : Nat) : Hw :=
  let r := logPush hw (berrLog h) 8 (word (2 ^ 63 + cause * 2 ^ 60 + addr % 2 ^ 56), 0)
  let hw1 := if r.1 then r.2 else ror r.2 (Reg.hclBerrOvf (hartCl h)) (2 ^ hartIdx h)
  setHart hw1 h { getHart hw1 h with mip35 := true }

/-- A write that gets the error response; a hart's store retires as failed (R63, R362) (log 29, DESIGN CHOICE). -/
def writeRefused (hw : Hw) (d cause : Nat) (by_ : Agent) (addr : Nat) : Hw × Answer :=
  let hw1 := errorResponse hw d cause by_ 0 addr
  match by_ with
  | .hart h => (hartBerr hw1 h 1 addr, .discarded)
  | _ => (hw1, errorAnswer by_ true)

end Sys2Proof.Machine
end

