-- ==== Sys2Proof/Machine/Coherence.lean ====
section
/-! DEFINITION. The commands of the coherence protocol (R372–R397): requests arriving at a home, snoops arriving at
holders, responses and completions, watches, stash offers, timeouts, and the CXL agents' shares in it. -/

namespace Sys2Proof.Machine

/-- Whether a request of a dead agent is refused (R395) (log 32, DEDUCED). -/
def deadRequest (hw : Hw) (line : Nat) (ag : Agent) : Hw × Answer :=
  (errorResponse hw (homeDie hw (64 * line)) 7 ag 0 (64 * line), errorAnswer ag false)

/-- A request arrives at its home (R381); a dead agent's and one from outside a fenced half get the error response. -/
def arriveGuarded (ok : Hw → Bool) (req : HReq) (hw : Hw) : Hw × Answer :=
  if !inTier (64 * req.line) then (hw, .notEnabled)
  else if agentDead hw req.agent || fencedHome hw req.agent (64 * req.line) then deadRequest hw req.line req.agent
  else if ok hw then did (homeArrive hw req) else (hw, .notEnabled)

/-- A hart may ask for a line: it is not stopped, and no WrBack of the line is under way (R386). -/
def hartMayAsk (hw : Hw) (h line : Nat) : Bool :=
  let t := getHart hw h
  !t.stopped && !t.off && (wbufLine t line).isNone

/-- Record that a hart waits for a line, unless it already does. -/
def hartWaits (hw : Hw) (h line : Nat) (why : MissWhy) : Hw :=
  let t := getHart hw h
  if t.miss.any (fun m => m.1 == line) then hw else setHart hw h { t with miss := t.miss ++ [(line, why)] }

/-- A hart misses and sends its request to the home. -/
def hartRequest (hw : Hw) (h : HartId) (line : Nat) (unique : Bool) (why : MissWhy) : Hw :=
  let t := getHart hw h
  let asked := t.miss.any (fun m => m.1 == line)
  let hw1 := setHart hw h { t with miss := t.miss ++ [(line, why)] }
  if asked then hw1
  else homeArrive hw1 { mkReq (if unique then .rdUnique else .rdShared) (.hart h) line with nodata := why == .zero }

/-- Whether an agent writes without keeping a copy (R380). -/
def writesThrough : Agent → Bool
  | .hart _ => false
  | _ => true

/-- An atomic's bytes are naturally aligned in the line (R175); a reduction names a format of R217. -/
def atomOk (op : AtomOp) : Bool :=
  match op with
  | .amo _ size off _ _ => (size == 4 || size == 8) && off % size == 0 && decide (off + size ≤ 64)
  | .reduce rop rfmt _ => decide (1 ≤ rop ∧ rop ≤ 3) && (rfmt == 9 || (decide (11 ≤ rfmt) && decide (rfmt ≤ 14)))

/-! #### Evictions and crossings (R378, R386, R387) -/

/-- Whether a blocked request awaits a snoop response of the agent. -/
def awaits (hw : Hw) (line : Nat) (ag : Agent) : Bool :=
  match (getHome hw line).busy with
  | some t => t.waiting.contains ag
  | none => false

/-- One awaited response has come; with the last, the blocked request is finished under the filter state found then. -/
def responded (hw : Hw) (line : Nat) (ag : Agent) : Hw :=
  let h := getHome hw line
  match h.busy with
  | none => hw
  | some t =>
    let w := t.waiting.filter (fun a => a != ag)
    let hw1 := setHome hw line { h with busy := some { t with waiting := w } }
    if w ≠ [] then hw1
    else match t.applied with
      | some (old, p) => homeReply ⟨applyHint hw1 line t.req.agent (if t.req.hint = 1 then 0 else t.req.hint) t.req.htgt, old, p, none, true⟩ t.req
      | none => let fl := filtLive hw1 line; finishReq fl.2 t.req fl.1

/-- The owner answers that it holds the line no more: no entry names it (R387). -/
def ownerLeft (hw : Hw) (line : Nat) (ag : Agent) : Hw :=
  if filtGet hw line = some (.owned ag) then filtSet hw line none else hw

/-- An awaited RspI. -/
def respondedI (hw : Hw) (line : Nat) (ag : Agent) : Hw := responded (ownerLeft hw line ag) line ag

/-- Dirty data goes into the SLC as Dirty. -/
def dirtyIn (hw : Hw) (line : Nat) (data : List Byte) (poison : Bool) : Hw := snoopData hw line false data poison

/-- The request a line is blocked on overwrites it whole, so that an owner's data is discarded (R383). -/
def discardsData (hw : Hw) (line : Nat) : Bool :=
  match (getHome hw line).busy with
  | some t => t.req.kind == .wrFull
  | none => false

/-- An awaited response with the owner's data: the request it completes takes its data from there, so it counts neither
as served from the SLC nor as a read of memory (R383, R397) (log 73, DEDUCED); a write of the whole line discards them. -/
def dataResponse (hw : Hw) (line : Nat) (ag : Agent) (data : List Byte) (poison : Bool) : Hw :=
  let hit := Reg.slcHitCnt (homeDie hw (64 * line))
  if discardsData hw line then responded hw line ag
  else rset (responded (dirtyIn hw line data poison) line ag) hit (rget hw hit)

/-- A WrBack held aside and the RspWBInFlight for it have both come (R387): its data stands in for the snoop's, the
blocked request finishes with no entry of the former owner, and the WrBack gets a Comp that carries no data (log 33, DEDUCED). -/
def crossing (hw : Hw) (line : Nat) (ag : Agent) (data : List Byte) : Hw :=
  let hw1 := radd (ownerLeft hw line ag) (Reg.slcWbxCnt (homeDie hw (64 * line))) 1
  sendComp (dataResponse hw1 line ag data (linePoison hw line)) line ag

/-- A blocked request's home holds a write-back aside, for the snoop response it stands in for (R387). -/
def holdAside (hw : Hw) (line : Nat) (ag : Agent) (data : List Byte) : Hw :=
  let h := getHome hw line
  setHome hw line { h with busy := h.busy.map (fun t => { t with held := some (ag, data) }) }

/-- A WrBack arrives (R387): held aside while its sender's snoop is pending, else served in order. -/
def arriveWrBack (hw : Hw) (line : Nat) (ag : Agent) (data : List Byte) (poison : Bool) : Hw :=
  let h := getHome hw line
  match h.busy with
  | some t =>
    if t.waiting.contains ag then
      let hw1 := setPoison hw line poison
      if t.inFlight then crossing hw1 line ag data else holdAside hw1 line ag data
    else homeArrive hw { mkReq .wrBack ag line with data := data, mask := fullMask, poison := poison }
  | none => homeArrive hw { mkReq .wrBack ag line with data := data, mask := fullMask, poison := poison }

/-- An Evict arrives; one that meets a snoop to its sender is counted as a crossing (R387). -/
def arriveEvict (hw : Hw) (line : Nat) (ag : Agent) : Hw :=
  let hw1 := if awaits hw line ag then radd hw (Reg.slcWbxCnt (homeDie hw (64 * line))) 1 else hw
  homeArrive hw1 (mkReq .evict ag line)


/-- A hart's L2 drops a line in M into its write-back buffer (R386). -/
def hartDrop (hw : Hw) (h line : Nat) (l : HLine) : Hw := setHart hw h (setWbuf (hartLose (getHart hw h) line) line (some l))

/-- A hart's L2 drops a line (R378): M by WrBack, E by Evict, S without a message. -/
def hartEvict (hw : Hw) (h : HartId) (line : Nat) : Hw :=
  let w := hartScan hw h line
  match hartLine (getHart w h) line with
  | none => w
  | some l =>
    if l.st = .m then arriveWrBack (hartDrop w h line l) line (.hart h) l.data l.poison
    else
      let w1 := setHart w h (hartLose (getHart w h) line)
      if l.st = .e then arriveEvict w1 line (.hart h) else w1

/-- Room in the 16 ways of a line's L2 set (R356): a full set drops a line that has no request outstanding, which one is
open (log 92, DESIGN CHOICE). -/
def hartRoom (hw : Hw) (h : HartId) (line : Nat) : Hw :=
  let t := getHart hw h
  let set := (t.lines.map (·.1)).filter (fun x => x % 2048 == line % 2048)
  let free := set.filter (fun x => !t.miss.any (fun m => m.1 == x))
  if set.contains line ∨ set.length < 16 ∨ free = [] then hw
  else let r := draw hw; hartEvict r.2 h (atD 0 free (r.1.toNat % free.length))

/-- A line enters a cache of so many ways and sets; a full set loses the one that entered first (R356) (log 92, DESIGN
CHOICE). -/
def setPut (ways sets : Nat) (l : List Nat) (line : Nat) : List Nat :=
  let rest := l.filter (fun x => x != line)
  let out := (rest.filter (fun x => x % sets == line % sets)).drop (ways - 1)
  line :: rest.filter (fun x => !out.contains x)

/-- A line enters L1I: 4 ways in each of 256 sets (R356). -/
def icachePut (l : List Nat) (line : Nat) : List Nat := setPut 4 256 l line

/-- A hart's load, store or AMO uses a line, which stands in L1D from then on: 8 ways in each of 128 sets (R356). -/
def dcacheUse (t : Hart) (line : Nat) : Hart := { t with dcache := setPut 8 128 t.dcache line }

/-! #### Accepting what waits (R381, R382) -/

/-- The next request of a line that the mesh does not hold at its source (R30, R404). -/
def nextReq (hw : Hw) (line : Nat) : Option HReq := (getHome hw line).queue.find? (fun r => !lineHeld hw r.agent line)

/-- A line's next request finds a tracker; at the slice's input the first that could go comes first (R382). -/
def mayAccept (hw : Hw) (line : Nat) : Bool :=
  let s := homeSlice hw (64 * line)
  decide (trackersUsed hw s < trackers s) && (!(match nextReq hw line with | some r => r.atInput | none => false) ||
    (sliceInput hw s).find? (fun l => (getHome hw l).busy.isNone && (nextReq hw l).isSome) == some line)

/-- A line's request leaves its queue, and the slice's input where it stands there. -/
def leaveQueue (hw : Hw) (req : HReq) : Hw :=
  let h := getHome hw req.line
  let s := homeSlice hw (64 * req.line)
  let hw1 := setHome hw req.line { h with queue := h.queue.erase req }
  if req.atInput then
    { hw1 with mem := { hw1.mem with input := mput (fun _ => []) hw1.mem.input s ((sliceInput hw s).erase req.line) } }
  else hw1

/-! #### Snoops at their targets -/

/-- The next message of a kind between the home of a line and an agent arrives; none while the mesh holds it at its source
(R30, R404). -/
def takeNet (hw : Hw) (line : Nat) (ag : Agent) (p : MsgKind → Bool) : Option (Msg × List Msg) :=
  if lineHeld hw ag line then none else takeMsg (fun m => m.line == line && m.agent == ag && p m.kind) hw.mem.net

/-- A hart answers a snoop (R380, R386): from its write-back buffer with RspWBInFlight, from M with its data, else
without. A snoop that takes the line clears the reservation (R384). -/
def hartSnooped (hwOld : Hw) (h : HartId) (line : Nat) (inv : Bool) : Hw :=
  let hw := hartScan hwOld h line
  let t := getHart hw h
  match wbufLine t line with
  | some _ => sendMsg hw .rspWBInFlight line (.hart h)
  | none =>
    match hartLine t line with
    | none => sendMsg hw .rspI line (.hart h)
    | some l =>
      let keep := !inv
      let hw1 := setHart hw h (if keep then setLine t line (some { l with st := .s }) else hartLose t line)
      if l.st = .m then sendMsg (setPoison hw1 line l.poison) (.rspData keep l.data) line (.hart h)
      else sendMsg hw1 (if keep then .rspS else .rspI) line (.hart h)

/-- A snoop under way to an agent reaches it; to an agent outside the package it leaves as BISnp or H2D snoop. -/
def snoopArrives (line : Nat) (agent : Agent) (inv : Bool) (hw : Hw) : Hw × Answer :=
  match takeNet hw line agent (fun k => k == if inv then .snpInv else .snpShared) with
  | none => (hw, .notEnabled)
  | some (_, rest) =>
    let hw1 := setNet hw rest
    match agent with
    | .hart h => did (hartSnooped hw1 h line inv)
    | _ => did { hw1 with sent := hw1.sent ++ [.snoop agent line inv] }

/-! #### Responses at the home -/

/-- A response no home awaits, from an agent declared dead, is discarded and logged (R396) (log 32, DEDUCED). -/
def lateResponse (hw : Hw) (line : Nat) (ag : Agent) : Hw × Answer :=
  if agentDead hw ag then
    (ras hw (homeDie hw (64 * line)) clsDEG 0x05 11 (homeSlice hw (64 * line) % 128) (agentCode ag) 0 0 (64 * line), .discarded)
  else (hw, .notEnabled)

/-- A response without data. -/
def plainResponse (line : Nat) (agent : Agent) (k : MsgKind) (hw : Hw) : Hw × Answer :=
  match takeNet hw line agent (fun x => x == k) with
  | none => (hw, .notEnabled)
  | some (_, rest) =>
    if awaits hw line agent then
      did (if k = .rspI then respondedI (setNet hw rest) line agent else responded (setNet hw rest) line agent)
    else lateResponse (setNet hw rest) line agent

/-! #### Completions at the requester -/

/-- A line's bytes as their hart sees them: its buffered stores lie over them (R358). -/
def sbOver (t : Hart) (line : Nat) (data : List Byte) : List Byte :=
  t.sb.foldl (fun d e => if e.kind = .cacheable ∧ e.addr = 64 * line then mergeBytes e.mask 0 d e.data else d) data

/-- A load under way takes the bytes of a line that it still misses. -/
def loadFill (line : Nat) (data : List Byte) (poison : Bool) (l : LoadRec) : LoadRec :=
  let here := fun i => (l.addr + i) / 64 == line
  { l with
    got := (l.got.zipIdx).map (fun x => if x.1.isNone && here x.2 then some (atD 0 data ((l.addr + x.2) % 64)) else x.1)
    bad := l.bad || (poison && (l.got.zipIdx).any (fun x => x.1.isNone && here x.2)) }

/-- A load has all its bytes. -/
def loadFull (l : LoadRec) : Bool := l.got.all (·.isSome)

/-- What a full load returns: its value, or nothing where it takes its access fault (R522). -/
def loadValue (l : LoadRec) : Option Word := if l.bad then none else some (word (leNat (l.got.map (·.getD 0))))

/-- Loads after one that faults are not performed: exceptions are precise (R363). -/
def upToFault : List LoadRec → List LoadRec
  | [] => []
  | l :: ls => if loadFull l && l.bad then [l] else l :: upToFault ls

/-- A line that a requester outside the harts receives, with its poison (R522). -/
def lineAnswer (data : List Byte) (poison : Bool) : Answer := if poison then .poisoned data else .bytes data

/-- Loads that have all their bytes end: what each returns, in program order. -/
def loadAnswer (done : List LoadRec) : Answer :=
  match done.map loadValue with
  | [] => .done
  | [some v] => .value v
  | [none] => .loadFault
  | vs => .values vs

/-- CompData at a hart: the line is installed, the misses on it end, CompAck goes home (R381); a block that waits to be zeroed
is (R357). A poisoned line gives a waiting load its access fault (R522). -/
def hartInstall (hwOld : Hw) (h : HartId) (line : Nat) (granted hasData : Bool) (data : List Byte) (poison : Bool) :
    Hw × Answer :=
  let hw := hartRoom hwOld h line
  let t := getHart hw h
  let held := hartLine t line
  let bytes := if hasData then data else match held with
    | some l => l.data
    | none => data
  let st : HSt := if granted then .e else .s
  let waits := t.miss.filter (fun m => m.1 == line)
  let zero : Bool := granted && waits.any (fun m => m.2 == .zero)
  let new : HLine := if zero then ⟨.m, List.replicate 64 0, false⟩ else ⟨st, bytes, poison⟩
  let loads := upToFault (t.loads.map (loadFill line bytes poison))
  let t1 := { setLine t line (some new) with
    miss := t.miss.filter (fun m => m.1 != line),
    loads := loads.filter (fun l => !loadFull l),
    flipD := mput (fun _ => 0) t.flipD line 0,
    flipI := if t.icache.contains line then t.flipI else mput (fun _ => 0) t.flipI line 0,
    offers := t.offers.filter (fun x => x != line),
    icache := if waits.any (fun m => m.2 == .prefetch true) then icachePut t.icache line else t.icache }
  let t2 := if zero || waits.any (fun m => m.2 == .load) then dcacheUse t1 line else t1
  let hw1 := sendMsg (setHart hw h t2) .compAck line (.hart h)
  let done := loads.filter loadFull
  (consumed hw1 (.hart h) (64 * line) (done.any (·.bad)), loadAnswer done)

/-! #### Retention, timeouts and SLC_CTRL -/


/-- A write-back of the agent that the home has held aside since it snooped the agent (R387), and the home without it. -/
def takeHeld (hw : Hw) (line : Nat) (ag : Agent) : Option (List Byte × Hw) :=
  let h := getHome hw line
  match h.busy with
  | some t => match t.held with
    | some (a, data) => if a = ag then some (data, setHome hw line { h with busy := some { t with held := none } }) else none
    | none => none
  | none => none

/-- A home whose agent `ag` is dead: a block that waits for its CompAck ends, a request of its own under way leaves no copy with
it; a muted one completes without a response (R451). -/
def cutHome (ag : Agent) (mute : Bool) (h : Home) : Home :=
  let quiet := fun q : HReq => if mute && q.agent == ag then { q with who := some (0xFFF, 0) } else q
  { queue := h.queue.map quiet
    busy := match h.busy with
      | none => none
      | some t =>
        if t.ackFrom = some ag then none
        else some { t with req := quiet (if t.req.agent = ag ∧ installs t.req.kind = true then { t.req with kind := .rdOnce } else t.req) } }

/-- The homes once an agent is dead; where its link is lost, what it has outstanding completes without a response, and its
reads that still wait are gone (R451) (log 32, DEDUCED). -/
def cutAgent (hw : Hw) (ag : Agent) (mute : Bool) : Hw :=
  let reads := hw.mem.homes.flatMap (fun e => e.2.queue.filter (fun q => q.agent == ag && (installs q.kind || q.kind == .rdOnce)))
  let hw1 := if mute then reads.foldl leaveQueue hw else hw
  hw1.mem.homes.foldl (fun w e => setHome w e.1 (cutHome ag mute e.2)) hw1

/-- An agent is declared dead (R395): its pending snoops count as RspI, with the data of a write-back that had come before,
and the blocked requests continue (log 32, DEDUCED). -/
def declareDead (hw : Hw) (ag : Agent) : Hw :=
  let hw1 := cutAgent (showDead hw ag) ag false
  let lines := (hw1.mem.homes.filter (fun e => match e.2.busy with
    | some t => t.waiting.contains ag
    | none => false)).map (·.1)
  lines.foldl (fun h l => match takeHeld h l ag with
    | some (data, w) => crossing w l ag data
    | none => responded h l ag) hw1

/-- Whether an initiator may reach registers (R60) (log 29, DESIGN CHOICE). -/
def reachesRegs : Agent → Bool
  | .hart _ => true
  | .pcp _ => true
  | .monitor => true
  | .upstream _ => true
  | _ => false

/-- Whether the initiator's own half is fenced off: an upstream port of a fenced half answers with the error response
(R505). -/
def portFenced (hw : Hw) : Agent → Bool
  | .upstream a => hw.fenced.getLsbD a.val
  | _ => false

/-- An access an initiator may make: R60 admits it, and its own port is not fenced off. -/
def mayAccess (hw : Hw) (by_ : Agent) : Bool := reachesRegs by_ && !portFenced hw by_

/-- An access to a register of a die waits while the mesh holds it at its source (R30). -/
def regHeld (hw : Hw) (by_ : Agent) (d addr : Nat) : Bool := meshHeld hw (dieOfAgent (busAgent hw by_)) d addr

/-- A register write from an initiator R60 admits; any other gets the error response. -/
def regWriteBy (by_ : Agent) (d addr : Nat) (f : Hw → Hw × Answer) (hw : Hw) : Hw × Answer :=
  if !mayAccess hw by_ then writeRefused hw d 7 by_ addr
  else if regHeld hw by_ d addr then (hw, .notEnabled)
  else f hw

/-- SLC_CTRL on every die (R395, R397): 0 is ignored, and so are values above 256 (log 31, DEDUCED). -/
def slcCtrlWrite (value : Word) (hw : Hw) : Hw × Answer :=
  let v := bits value 8 0
  if 1 ≤ v ∧ v ≤ 256 then did (foldN 6 hw (fun h d => rsetN h (Reg.slcCtrl d) v)) else did hw

/-! #### CXL agents (R393, R394, R449) -/

/-- The line an upstream host address names through the committed decoders of a port (R449). -/
def hdmLine (hw : Hw) (a : Nat) (hpa : Nat) : Option Nat :=
  let b0 := rbits hw (Reg.cxuHdmBase0 a) 63 28 * 2 ^ 28
  let b1 := rbits hw (Reg.cxuHdmBase1 a) 63 28 * 2 ^ 28
  if rbit hw (Reg.cxuStatus a) 40 ∧ b0 ≤ hpa ∧ hpa < b0 + 768 * gib then some ((hpa - b0) / 64)
  else if rbit hw (Reg.cxuStatus a) 41 ∧ b1 ≤ hpa ∧ hpa < b1 + 2048 * gib then some ((0x010000000000 + (hpa - b1)) / 64)
  else none

/-- A snoop response from outside the package, at the home; one without data whose write-back has come before takes the data
from there (R387). It waits at its source while the mesh holds it (R30). -/
def extResponse (line : Nat) (ag : Agent) (rsp : SnpRsp) (hw : Hw) : Hw × Answer :=
  if lineHeld hw ag line then (hw, .notEnabled)
  else if awaits hw line ag then
    match rsp with
    | .rspI => match takeHeld hw line ag with
      | some (data, w) => did (crossing w line ag data)
      | none => did (respondedI hw line ag)
    | .rspS => match takeHeld hw line ag with
      | some (data, w) => did (crossing w line ag data)
      | none => did (responded hw line ag)
    | .rspData _ data => if data.length = 64 then did (dataResponse hw line ag data false) else (hw, .notEnabled)
  else lateResponse hw line ag

end Sys2Proof.Machine
end

