-- ==== Sys2Proof/Machine/Sha256.lean ====
section
/-! DEFINITION. SHA-256 and CRC-32, which the spec names for key digests, measurements, images and uploads (R429,
R498, R511, R539). -/

namespace Sys2Proof.Machine

/-- The first 64 primes. -/
def shaPrimes : List Nat :=
  [2, 3, 5, 7, 11, 13, 17, 19, 23, 29, 31, 37, 41, 43, 47, 53, 59, 61, 67, 71, 73, 79, 83, 89, 97, 101, 103, 107, 109,
   113, 127, 131] ++
  [137, 139, 149, 151, 157, 163, 167, 173, 179, 181, 191, 193, 197, 199, 211, 223, 227, 229, 233, 239, 241, 251, 257,
   263, 269, 271, 277, 281, 283, 293, 307, 311]

/-- The largest root below bit `i` by bisection: r with r^p ≤ n. -/
def rootGo (p : Nat) : Nat → Nat → Nat → Nat
  | 0, _, r => r
  | i + 1, n, r => let c := r + 2 ^ i; if c ^ p ≤ n then rootGo p i n c else rootGo p i n r

/-- The round constants: the first 32 fraction bits of the cube roots of the primes. -/
def shaK : List (BitVec 32) := shaPrimes.map (fun p => BitVec.ofNat 32 (rootGo 3 36 (p * 2 ^ 96) 0))

/-- The initial hash: the first 32 fraction bits of the square roots of the first eight primes. -/
def shaH0 : List (BitVec 32) := (shaPrimes.take 8).map (fun p => BitVec.ofNat 32 (rootGo 2 36 (p * 2 ^ 64) 0))

def rotr32 (x : BitVec 32) (n : Nat) : BitVec 32 := (x >>> n) ||| (x <<< (32 - n))

/-- The message schedule, newest word first. -/
def shaSched : Nat → List (BitVec 32) → List (BitVec 32)
  | 0, w => w
  | n + 1, w =>
    let g := fun i => atD 0 w i
    let s0 := rotr32 (g 14) 7 ^^^ rotr32 (g 14) 18 ^^^ (g 14 >>> 3)
    let s1 := rotr32 (g 1) 17 ^^^ rotr32 (g 1) 19 ^^^ (g 1 >>> 10)
    shaSched n ((g 15 + s0 + g 6 + s1) :: w)

structure Sha8 where
  a : BitVec 32
  b : BitVec 32
  c : BitVec 32
  d : BitVec 32
  e : BitVec 32
  f : BitVec 32
  g : BitVec 32
  h : BitVec 32
  deriving DecidableEq, Repr

def shaRound (s : Sha8) (kw : BitVec 32 × BitVec 32) : Sha8 :=
  let s1 := rotr32 s.e 6 ^^^ rotr32 s.e 11 ^^^ rotr32 s.e 25
  let ch := (s.e &&& s.f) ^^^ (~~~ s.e &&& s.g)
  let t1 := s.h + s1 + ch + kw.1 + kw.2
  let s0 := rotr32 s.a 2 ^^^ rotr32 s.a 13 ^^^ rotr32 s.a 22
  let maj := (s.a &&& s.b) ^^^ (s.a &&& s.c) ^^^ (s.b &&& s.c)
  ⟨t1 + (s0 + maj), s.a, s.b, s.c, s.d + t1, s.e, s.f, s.g⟩

def sha8Of (l : List (BitVec 32)) : Sha8 :=
  ⟨atD 0 l 0, atD 0 l 1, atD 0 l 2, atD 0 l 3, atD 0 l 4, atD 0 l 5, atD 0 l 6, atD 0 l 7⟩

def sha8Add (x y : Sha8) : Sha8 :=
  ⟨x.a + y.a, x.b + y.b, x.c + y.c, x.d + y.d, x.e + y.e, x.f + y.f, x.g + y.g, x.h + y.h⟩

/-- The big-endian 32-bit words of a byte list. -/
def words32 : Nat → List Byte → List (BitVec 32)
  | 0, _ => []
  | n + 1, bs => BitVec.ofNat 32 (leNat (bs.take 4).reverse) :: words32 n (bs.drop 4)

def shaBlock (st : Sha8) (blk : List Byte) : Sha8 :=
  let w := (shaSched 48 (words32 16 blk).reverse).reverse
  sha8Add st ((shaK.zip w).foldl shaRound st)

def shaBlocks : Nat → Sha8 → List Byte → Sha8
  | 0, st, _ => st
  | n + 1, st, bs => shaBlocks n (shaBlock st (bs.take 64)) (bs.drop 64)

/-- SHA-256 of a byte list, 32 bytes. -/
def sha256 (msg : List Byte) : List Byte :=
  let n := msg.length
  let z := (119 - n % 64) % 64
  let padded := msg ++ [0x80#8] ++ List.replicate z 0 ++ beBytes 8 (8 * n)
  let s := shaBlocks (padded.length / 64) (sha8Of shaH0) padded
  [s.a, s.b, s.c, s.d, s.e, s.f, s.g, s.h].flatMap (fun w => beBytes 4 w.toNat)

/-- HMAC-SHA-256 with a key of at most 64 bytes (R512). -/
def hmac (key msg : List Byte) : List Byte :=
  let k := key ++ List.replicate (64 - key.length) 0
  let pad := fun b : Byte => k.map (fun x => x ^^^ b)
  sha256 (pad 0x5C#8 ++ sha256 (pad 0x36#8 ++ msg))

/-- One bit of CRC-32 (reflected polynomial 0xEDB8_8320). -/
def crcBits : Nat → Nat → Nat
  | 0, c => c
  | n + 1, c => crcBits n (if c % 2 = 1 then (c / 2) ^^^ 0xEDB88320 else c / 2)

/-- CRC-32 of IEEE 802.3. -/
def crc32 (bs : List Byte) : Nat :=
  (bs.foldl (fun c b => crcBits 8 (c ^^^ b.toNat)) 0xFFFFFFFF) ^^^ 0xFFFFFFFF

end Sys2Proof.Machine
end

