-- ==== Sys2Proof/Machine/Routes.lean ====
section
/-! DEFINITION. Optical ports as state: their registers' fields, the fabric event log (R424, R446), the routing table as
a function of the live ports (R430, R431), and what a change of ports does to it (R442). -/

namespace Sys2Proof.Machine

def Port.reset : Port := ⟨false, [], [], false, false, [], 0, false, 0, 0, 0, 0, 0, [], []⟩
def getPort (hw : Hw) (p : Nat) : Port := mget (fun _ => Port.reset) hw.ports p
def setPort (hw : Hw) (p : Nat) (v : Port) : Hw := { hw with ports := mput (fun _ => Port.reset) hw.ports p v }

def Laser.reset : Laser := ⟨true, false, 0, false, 0⟩
def getLaser (hw : Hw) (m : Nat) : Laser := mget (fun _ => Laser.reset) hw.lasers m
def setLaser (hw : Hw) (m : Nat) (v : Laser) : Hw := { hw with lasers := mput (fun _ => Laser.reset) hw.lasers m v }

/-! #### States and widths of a port (R427, R423, R445) -/

def psDisabled : Nat := 0
def psDark : Nat := 1
def psLock : Nat := 2
def psAlign : Nat := 3
def psLink : Nat := 4
def psIdent : Nat := 5
def psActive : Nat := 6
def psRepair : Nat := 7
def psIsolated : Nat := 8

def pState (hw : Hw) (p : Nat) : Nat := rbits hw (Reg.optStatus p) 3 0
def setPState (hw : Hw) (p s : Nat) : Hw := rfield hw (Reg.optStatus p) 3 0 s
/-- WIDTH: 0 none, 1 HALF, 2 FULL. -/
def pWidth (hw : Hw) (p : Nat) : Nat := rbits hw (Reg.optStatus p) 9 8
/-- The role of the image's fabric record: 0 OFF, 1 DIRECT, 2 UP (R425). -/
def roleOf (hw : Hw) (p : Nat) : Nat := bits hw.img.roles (2 * p + 1) (2 * p)
/-- Failed physical lanes. -/
def laneFails (hw : Hw) (p : Nat) : BitVec 17 := BitVec.ofNat 17 (rbits hw (Reg.optLaneFail p) 16 0)
/-- Physical lanes not failed. -/
def goodLanes (fails : BitVec 17) : List Nat := (List.range 17).filter (fun l => !bit fails l)

/-- The physical lanes a port uses (R423): at FULL the sixteen working lanes with a failed one replaced by lane 16,
at HALF the eight lowest good lanes. -/
def lanesInUse (hw : Hw) (p : Nat) : List Nat :=
  let g := goodLanes (laneFails hw p)
  if pWidth hw p = 2 then (if rbit hw (Reg.optStatus p) 12 then g.take 16 else List.range 16)
  else if pWidth hw p = 1 then g.take 8 else []

/-- The width and spare that a set of failed lanes allows (R423): width, whether the spare is used, which lane it
carries. -/
def chooseWidth (fails : BitVec 17) : Nat × Bool × Nat :=
  let bad := (List.range 17).filter (fun l => bit fails l)
  if bad.length = 0 then (2, false, 0)
  else if bad.length = 1 then (if bad = [16] then (2, false, 0) else (2, true, bad.headD 0))
  else if 17 - bad.length ≥ 8 then (1, false, 0)
  else (0, false, 0)

def setWidth (hw : Hw) (p : Nat) (w : Nat × Bool × Nat) : Hw :=
  let hw1 := rfield (rfield hw (Reg.optStatus p) 9 8 w.1) (Reg.optStatus p) 12 12 (b2n w.2.1)
  rfield hw1 (Reg.optLaneFail p) 28 24 (if w.2.1 then w.2.2 else 0)

/-- An entry of PCP_FAB_EVT_LOG with its interrupt (R446). -/
def fabEvent (hw : Hw) (evt p pkg info : Nat) : Hw :=
  let a := hw.pkg.primary
  let e := word (2 ^ 63 + evt % 32 * 2 ^ 58 + p % 16 * 2 ^ 48 + pkg % 4096 * 2 ^ 32 + info % 2 ^ 32)
  let r := logPush (radd hw (Reg.pcpFabEvtCnt a) 1) (Reg.pcpFabEvtLog a) 32 (e, 0)
  message r.2 (4 + a) (Reg.pcpFabMsiAddr a) (rget hw (Reg.pcpFabMsiData a)).toNat

/-- A change of width, spare, repair, laser, loss or gain of a port: the event and the degradation record (R424). -/
def portEvent (hw : Hw) (evt p pkg info : Nat) : Hw :=
  ras (fabEvent hw evt p pkg info) (4 + p / 8) clsDEG 0x0A 9 p 0xFFF 0 0 0

/-! #### Flits (R420, R421, R436) -/

/-- Slots leave by a port: they go on in the flit sent last, where that is still open, and into as many flits of eight slots
as they need; whether it is still open is free, FILL slots close one (log 55, DEDUCED). -/
def flitsOut (hw : Hw) (p slots : Nat) : Hw :=
  let t := getPort hw p
  let d : Bool × Hw := if t.fill = 0 then (false, hw) else let r := draw hw; (bit r.1 0, r.2)
  let fill := if d.1 then t.fill else 0
  let n := (fill + slots + 7) / 8 - b2n (fill != 0)
  radd (setPort d.2 p { t with txNext := (t.txNext + n) % 65536, unacked := t.unacked + n, fill := (fill + slots) % 8 })
    (Reg.optTxFlitCnt p) n

/-- A message of the management channel to the partner, in a header slot and slots of data like any other (R428, R436, R437)
(log 55, DEDUCED). -/
def mgmtOut (hw : Hw) (p kind : Nat) (bytes : List Byte) : Hw :=
  let hw1 := flitsOut hw p (1 + (bytes.length + 31) / 32)
  { hw1 with sent := hw1.sent ++ [.mgmt p kind bytes] }

/-- The flits of a port that its partner has not acknowledged, oldest first (R421). -/
def unackedFlits (t : Port) : List Nat := (List.range t.unacked).map (fun i => (t.txNext + 65536 - t.unacked + i) % 65536)

/-! #### Routes (R430–R432) -/

/-- Whether a port carries or will carry traffic: ACTIVE, or in REPAIR. -/
def pLive (hw : Hw) (p : Nat) : Bool := pState hw p == psActive || pState hw p == psRepair

/-- The ID of a port's partner (R445). -/
def partnerId (hw : Hw) (p : Nat) : Nat := rbits hw (Reg.optPartner p) 43 32

def portsWhere (f : Nat → Bool) : List Nat := (List.range 16).filter f
def maskOf (ps : List Nat) : Nat := ps.foldl (fun m p => m + 2 ^ p) 0

def directPorts (hw : Hw) (d : Nat) : List Nat :=
  portsWhere (fun p => pLive hw p && roleOf hw p == 1 && partnerId hw p == d)

def upPorts (hw : Hw) : List Nat := portsWhere (fun p => pLive hw p && roleOf hw p == 2)

/-- The intermediate of a VIA entry: the lowest ID among those that advertise the destination and are reached. -/
def viaOf (hw : Hw) (d : Nat) : Option Nat :=
  (hw.pkg.via.filter (fun e => e.1 == d && !(directPorts hw e.2).isEmpty)).foldl
    (fun best e => match best with
      | none => some e.2
      | some b => some (min b e.2)) none

/-- LEVEL of a destination (R430). -/
def levelOf (hw : Hw) (d : Nat) : Nat :=
  match (List.range hw.img.levels).find? (fun i => d >>> atD 0 hw.img.shift i == hw.img.pkgId.toNat >>> atD 0 hw.img.shift i) with
  | some i => i + 1
  | none => 0

/-- A routing entry. -/
structure Route where
  kind  : Nat
  ports : List Nat
  level : Nat
  via   : Nat
  deriving DecidableEq, Repr

/-- The entry of a destination: the first rule of R431 that yields ports; KIND as PCP_FAB_RT_DATA codes it. The table holds
none for 0 (R430). -/
def routeOf (hw : Hw) (d : Nat) : Route :=
  if d = 0 then ⟨0, [], 0, 0⟩
  else if d = hw.img.pkgId.toNat then ⟨1, [], 0, 0⟩
  else if !(directPorts hw d).isEmpty then ⟨2, directPorts hw d, levelOf hw d, 0⟩
  else if !(upPorts hw).isEmpty then ⟨4, upPorts hw, levelOf hw d, 0⟩
  else match (if hw.img.transit then viaOf hw d else none) with
    | some m => ⟨3, directPorts hw m, levelOf hw d, m⟩
    | none => ⟨0, [], 0, 0⟩

/-- PCP_FAB_RT_DATA for a destination (R446). -/
def routeData (hw : Hw) (d : Nat) : Word :=
  let r := routeOf hw d
  if r.kind = 0 then 0
  else word (2 ^ 63 + r.kind * 2 ^ 60 + r.level * 2 ^ 56 + r.via * 2 ^ 32 + maskOf r.ports)

/-- The port a message takes (R431): a hash of agent, destination and address against the ports' weights, 2 at FULL
and 1 at HALF, ports in REPAIR left out (log 22, DESIGN CHOICE). -/
def choosePort (hw : Hw) (r : Route) (agent dst addr : Nat) : Option Nat :=
  let ps := r.ports.filter (fun p => pState hw p == psActive)
  match ps with
  | [] => none
  | [p] => some p
  | _ =>
    let w := ps.map (fun p => if pWidth hw p = 2 then 2 else 1)
    let total := w.foldl (· + ·) 0
    let h := Config.portHash agent dst (addr / 256) % 65536 % total
    ((ps.zip w).foldl (fun (acc : Nat × Option Nat) pw =>
      match acc.2 with
      | some _ => acc
      | none => if acc.1 < pw.2 then (0, some pw.1) else (acc.1 - pw.2, none)) (h, none)).2

/-- The destinations a change at a port can touch: all for an UP port, the partner and what it advertises for a
DIRECT one. -/
def touched (hw : Hw) (p : Nat) : List Nat :=
  if roleOf hw p = 2 then (List.range 4096).drop 1
  else partnerId hw p :: (hw.pkg.via.filter (fun e => e.2 == partnerId hw p)).map (·.1)

/-- After a change of ports (R442): one event for each destination that became NONE or came back, and a new table
generation where an entry changed. -/
def reroute (old hw : Hw) (dests : List Nat) : Hw :=
  let hw1 := dests.foldl (fun h d =>
    let was := (routeOf old d).kind
    let now := (routeOf hw d).kind
    if was ≠ 0 ∧ now = 0 then fabEvent h 7 0 d 0
    else if was = 0 ∧ now ≠ 0 then fabEvent h 8 0 d 0 else h) hw
  if dests.any (fun d => routeOf old d != routeOf hw d) then
    rfield hw1 (Reg.pcpFabRtGen hw.pkg.primary) 31 0 (rbits hw (Reg.pcpFabRtGen hw.pkg.primary) 31 0 + 1)
  else hw1

/-- The IDs a package advertises (R432): its DIRECT partners, at most 16. -/
def advertList (hw : Hw) : List Nat :=
  ((portsWhere (fun p => pLive hw p && roleOf hw p == 1)).map (partnerId hw)).foldl
    (fun l d => if l.contains d then l else l ++ [d]) []

/-- An advertisement on every ACTIVE DIRECT port. -/
def advertise (hw : Hw) : Hw :=
  let list := (advertList hw).flatMap (fun d => leBytes 2 d)
  (portsWhere (fun p => pState hw p == psActive && roleOf hw p == 1)).foldl (fun h p => mgmtOut h p 2 list) hw

/-- New advertisements where the set of DIRECT partners has changed (R432). -/
def advertiseNew (old hw : Hw) : Hw :=
  let a := advertList old
  let b := advertList hw
  if a.all (fun d => b.contains d) && b.all (fun d => a.contains d) then hw else advertise hw

/-- PCP_FAB_PORTS (R446). -/
def fabPorts (hw : Hw) : Word :=
  word (maskOf (portsWhere (fun p => pState hw p == psActive)) +
    2 ^ 16 * maskOf (portsWhere (fun p => pState hw p == psActive && pWidth hw p == 1)) +
    2 ^ 32 * maskOf (portsWhere (fun p => pState hw p == psIsolated)))

end Sys2Proof.Machine
end

