-- ==== Sys2Proof/Machine/Ports.lean ====
section
/-! DEFINITION. Training, identity and lane commands of the optical ports that lose no traffic (R418–R432); those that
take a port down stand in Machine/Fabric.lean. -/

namespace Sys2Proof.Machine

/-- A port may train at all: its role is on, the package has an identifier, ADMIN_DOWN is clear (R427), its half is not
fenced (R505: a fenced half's ports stay DISABLED). -/
def portEnabled (hw : Hw) (p : Nat) : Bool :=
  roleOf hw p != 0 && hw.img.pkgId != 0 && !rbit hw (Reg.optCtrl p) 0 && !hw.fenced.getLsbD (p / 8)

/-- Training starts from DARK: lane and failure fields cleared (R445), the attempt counted (R427). -/
def trainStart (hw : Hw) (p : Nat) : Hw :=
  let hw1 := foldN 17 (rset hw (Reg.optLaneFail p) 0) (fun h l => rset h (Reg.optLane p l) 0)
  let hw2 := setWidth hw1 p (0, false, 0)
  setPort (radd hw2 (Reg.optTrainCnt p) 1) p { getPort hw2 p with holdoff := false }

/-- The port's OCLK generator has lock; without it the port stands still (R37, R46). -/
def portClock (hw : Hw) (p : Nat) : Bool := rbit hw (Reg.clkPllStatus (4 + p / 8)) (32 + p % 8)

/-- The port starts in DARK and trains (boot step 9, a module inserted). -/
def portDark (hw : Hw) (p : Nat) : Hw :=
  if portEnabled hw p then trainStart (setPState (rfield hw (Reg.optStatus p) 17 16 (roleOf hw p)) p psDark) p
  else setPState (rfield hw (Reg.optStatus p) 17 16 (roleOf hw p)) p psDisabled

/-- A port that fails to train returns to DARK and waits 100 ms (R427). -/
def backToDark (hw : Hw) (p : Nat) : Hw :=
  let hw1 := setWidth (setPState hw p psDark) p (0, false, 0)
  let hw2 := rset (rset hw1 (Reg.optPartner p) 0) (Reg.optPartnerKey p) 0
  let hw3 := { hw2 with pkg := { hw2.pkg with identQ := hw2.pkg.identQ.filter (fun x => x != p) } }
  setPort hw3 p { Port.reset with holdoff := true }

/-- The laser module of a port, and its two outputs (R418). -/
def laserOk (hw : Hw) (p : Nat) : Bool :=
  let l := getLaser hw (p / 2)
  l.present && l.ready && l.enabled

/-- OPT_LASER of both ports of a module (R445). -/
def showLaser (hw : Hw) (m : Nat) : Hw :=
  let l := getLaser hw m
  foldN 2 hw (fun h i =>
    let p := 2 * m + i
    rsetN h (Reg.optLaser p) (b2n l.present * 2 ^ 63 + b2n l.ready * 2 ^ 62 +
      nbits l.fault.toNat (2 * i + 1) (2 * i) * 2 ^ 60 + m * 2 ^ 48 + l.temp.toNat))

/-- The physical lanes of a fiber (R415). -/
def fiberLanes (fiber : Nat) : List Nat := if fiber = 0 then List.range 8 else (List.range 17).drop 8

/-- A 32-byte random nonce (R428) (log 21, DESIGN CHOICE). -/
def drawNonce (hw : Hw) : List Byte × Hw :=
  ((List.range 4).flatMap (fun i => leBytes 8 (Config.freeWord (hw.fresh + i)).toNat), { hw with fresh := hw.fresh + 4 })

/-- The fields of a record but for its signature (R428). -/
def identBytes (r : IdentRec) : List Byte :=
  [r.ver, r.kind, r.id, r.port, r.role].flatMap (fun w => leBytes 2 w.toNat) ++
  (if r.kind = 2 then [r.level, r.up, r.down].flatMap (fun w => leBytes 2 w.toNat) else []) ++
  leBytes 8 r.fabricName.toNat ++ r.nonce ++ r.key ++ r.cert

/-- What a record's signature covers: the record, then the other side's nonce (R428). -/
def signedBytes (r : IdentRec) (nonce : List Byte) : List Byte := identBytes r ++ nonce

/-- The package's own record for a port (R428) (log 34, PRESUMED). -/
def ownRecord (hw : Hw) (p : Nat) : IdentRec :=
  { ver := 1, kind := 1, id := BitVec.ofNat 16 hw.img.pkgId.toNat, port := BitVec.ofNat 16 p,
    role := BitVec.ofNat 16 (roleOf hw p), level := 0, up := 0, down := 0, fabricName := hw.img.fabricName,
    nonce := (getPort hw p).nonceOut, key := hw.idKey, cert := hw.idCert, sig := [] }

/-- The events of the width and the spare that training chooses for a port (R424); its partner is not known yet. -/
def widthEvents (hw : Hw) (p : Nat) : Hw :=
  if pWidth hw p = 1 then portEvent hw 3 p (partnerId hw p) 0
  else if rbit hw (Reg.optStatus p) 12 then portEvent hw 2 p (partnerId hw p) 0 else hw

/-- The port becomes ACTIVE and its routes are installed (R429, R442). -/
def portActive (hw : Hw) (p : Nat) : Hw :=
  let hw1 := setPState hw p psActive
  let hw2 := portEvent hw1 1 p (partnerId hw1 p) 0
  advertiseNew hw (reroute hw hw2 (touched hw2 p))

/-- The role check of R429 (log 34, PRESUMED). -/
def identRoleOk (hw : Hw) (p : Nat) (r : IdentRec) : Bool :=
  if roleOf hw p = 1 then r.kind == 1 && r.role == 1
  else r.kind == 2 && r.role == 3 && r.level == 1 && r.up.toNat == atD 0 hw.img.up 0 && r.down.toNat == atD 0 hw.img.down 0

/-- The first failing check of R429: its OPT_ERR bit. -/
def identCheck (hw : Hw) (p : Nat) (r : IdentRec) : Option Nat :=
  if !Config.slhVerify r.key (signedBytes r (getPort hw p).nonceOut) r.sig then some 4
  else if hw.img.auth ∧ Config.certOk r.key r.cert hw.img.trust = false then some 4
  else if r.fabricName ≠ hw.img.fabricName then some 2
  else if !identRoleOk hw p r then some 3
  else if r.kind = 1 ∧ r.id.toNat = hw.img.pkgId.toNat then some 1
  else if r.kind = 1 ∧ (portsWhere (fun x => x != p && pLive hw x && rbits hw (Reg.optPartner x) 62 61 == 1 &&
      partnerId hw x == r.id.toNat % 4096 && (getPort hw x).key != r.key)).isEmpty = false then some 1
  else none

end Sys2Proof.Machine
end

