-- ==== Sys2Proof/Machine/CmdWords.lean ====
section
/-! DEFINITION. The native command as eight words (R210–R217): its header and body fields, the reserved bits and field
values that make an encoding error (R564), what a G register may replace (R212), and the statuses of R234. -/

namespace Sys2Proof.Machine

/-! #### Statuses (R234) -/

def stSuccess : Nat := 0x00
def stSkipped : Nat := 0x01
def stStopped : Nat := 0x02
def stEncoding : Nat := 0x10
def stOperand : Nat := 0x11
def stAddress : Nat := 0x12
def stData : Nat := 0x13
def stXlatAbort : Nat := 0x14
def stCreditRefused : Nat := 0x15
def stCreditTimeout : Nat := 0x16
def stCreditViolation : Nat := 0x17
def stWaitTimeout : Nat := 0x18
def stUnreachable : Nat := 0x19
def stIoTimeout : Nat := 0x1A
def stAborted : Nat := 0x21

/-- Whether a status stops its queue only when STOP_ON_ERR is 1. -/
def stopsOnErr (st : Nat) : Bool := decide (0x10 ≤ st ∧ st ≤ 0x1A)

/-- Whether a status is an error, so that signals are performed only with SIGERR = 1 (R224). -/
def isError (st : Nat) : Bool := decide (st ≥ 0x10)

/-! #### Fields (R210, R211) -/

/-- Bits of word `i`. -/
def wf (w : List Word) (i hi lo : Nat) : Nat := bits (atD 0 w i) hi lo

def hEng (w : List Word) : Nat := wf w 0 63 61
def hOp (w : List Word) : Nat := wf w 0 60 56
def hScope (w : List Word) : Nat := wf w 0 55 54
def hRel (w : List Word) : Bool := wf w 0 53 53 == 1
def hAcq (w : List Word) : Bool := wf w 0 52 52 == 1
def hPen (w : List Word) : Bool := wf w 0 51 51 == 1
def hPpol (w : List Word) : Bool := wf w 0 50 50 == 1
def hPred (w : List Word) : Nat := wf w 0 49 47
def hPatch (w : List Word) : Nat := wf w 0 46 40
def hPk (w : List Word) : Nat := wf w 0 39 34
def hMsk (w : List Word) : Nat := wf w 0 33 32
def hGv (w : List Word) : Bool := wf w 0 31 31 == 1
def hGreg (w : List Word) : Nat := wf w 0 30 27
def hGfld (w : List Word) : Nat := wf w 0 26 24
def hVol (w : List Word) : Bool := wf w 0 23 23 == 1
def hCrec (w : List Word) : Bool := wf w 0 22 22 == 1
def hCint (w : List Word) : Bool := wf w 0 21 21 == 1
def hSigerr (w : List Word) : Bool := wf w 0 20 20 == 1
/-- Local wait: present, subtract, semaphore, value. -/
def hLw (w : List Word) : Bool × Bool × Nat × Nat := (wf w 1 63 63 == 1, wf w 1 62 62 == 1, wf w 1 61 56, wf w 1 55 48)
/-- Local signal: present, SET, semaphore, value. -/
def hLs (w : List Word) : Bool × Bool × Nat × Nat := (wf w 1 47 47 == 1, wf w 1 46 46 == 1, wf w 1 45 40, wf w 1 39 32)
def hMv (w : List Word) : Nat := wf w 1 31 0
def hMsem (w : List Word) : Nat := wf w 2 56 0

/-- ENG and OP together. -/
def kop (w : List Word) : Nat × Nat := (hEng w, hOp w)

/-- The codes of the engines (R213). -/
def engCode : Engine → Nat
  | .qfe => 0 | .me => 1 | .ve => 2 | .se => 3 | .de => 4

/-! #### Reserved bits of the body (R213, R214) -/

/-- A mask of fields. -/
def fm : List (Nat × Nat) → Nat
  | [] => 0
  | (hi, lo) :: fs => (2 ^ (hi + 1) - 2 ^ lo) ||| fm fs

def allBits : Nat := 2 ^ 64 - 1

/-- The bits a VE descriptor of a kind may set; `d` says it is D. -/
def descMask (kind : Nat) (d : Bool) : Option Nat :=
  match kind with
  | 0 => some (fm [(63, 61)])
  | 1 => some (if d then fm [(63, 61), (60, 37), (36, 23), (22, 0)] else fm [(63, 61), (60, 37), (22, 0)])
  | 2 => some (if d then fm [(63, 61), (36, 23), (17, 11), (10, 0)] else fm [(63, 61), (17, 11), (10, 0)])
  | 3 => some (fm [(63, 61), (56, 0)])
  | 4 => some (fm [(63, 61)])
  | 5 => some (fm [(63, 61), (3, 0)])
  | _ => none

/-- The bits words 3–7 may set; none for an unassigned ENG or OP (log 41, DEDUCED). -/
def bodyMask (w : List Word) : Option (List Nat) :=
  let xhint := fm [(63, 62), (59, 48)]
  match kop w with
  | (0, 0x00) => some [0, 0, 0, 0, 0]
  | (0, 0x01) => some [0, 0, 0, 0, 0]
  | (0, 0x02) => some [fm [(16, 16), (11, 0)], fm [(31, 0)], 0, 0, 0]
  | (0, 0x03) => some [fm [(7, 0)], 0, 0, 0, 0]
  | (0, 0x08) => some [fm [(9, 8), (5, 0)], allBits, allBits, allBits, 0]
  | (0, 0x09) => some [fm [(51, 6)], fm [(51, 3)], fm [(63, 48), (46, 40), (31, 0)], 0, 0]
  | (0, 0x0A) => some [allBits, allBits, allBits, allBits, allBits]
  | (0, 0x0B) => some [1, 0, 0, 0, 0]
  | (1, 0x00) => some [fm [(63, 61), (60, 59), (58, 55), (54, 54), (41, 32), (22, 16)], fm [(54, 32), (22, 0)], 0, 0, 0]
  | (1, 0x01) => some [fm [(63, 61), (60, 59), (58, 55), (54, 51), (50, 48), (42, 32), (10, 0)],
                       fm [(54, 32), (22, 0)], 0, 0, 0]
  | (1, 0x02) => some [fm [(58, 55), (49, 49), (47, 32), (10, 0)], fm [(54, 32), (22, 0)], fm [(47, 32), (22, 0)], 0, 0]
  | (2, op) =>
    if op ≤ 8 then
      match descMask (wf w 4 63 61) true, descMask (wf w 5 63 61) false, descMask (wf w 6 63 61) false,
            descMask (wf w 7 63 61) false with
      | some d, some a, some b, some c => some [fm [(63, 38), (35, 0)], d, a, b, c]
      | _, _, _, _ => none
    else none
  | (3, 0x00) => some [fm [(63, 58), (51, 29)], allBits, 0, 0, 0]
  | (3, 0x01) => some [fm [(63, 58), (50, 32)], allBits, 0, 0, 0]
  | (3, 0x02) => some [fm [(63, 60), (51, 43), (31, 0)], allBits, 0, 0, 0]
  | (3, 0x03) => some [fm [(63, 60), (51, 43), (31, 0)], allBits, 0, 0, 0]
  | (3, 0x04) => some [fm [(63, 57), (51, 40)], allBits, 0, 0, 0]
  | (3, 0x05) => some [fm [(63, 59), (51, 48), (23, 0)], 0, 0, 0, 0]
  | (3, 0x06) => some [0, allBits, 0, 0, 0]
  | (3, 0x07) => some [fm [(51, 48)], 0, 0, 0, 0]
  | (4, 0x00) => some [allBits, allBits, allBits, fm [(63, 7)], xhint]
  | (4, 0x01) => some [allBits, allBits, fm [(54, 32), (23, 0)], fm [(63, 48), (15, 0)], xhint]
  | (4, 0x02) => some [allBits, allBits, fm [(54, 32), (23, 0)], fm [(63, 48), (23, 16), (15, 0)], xhint]
  | (4, 0x03) => some [allBits, allBits, fm [(31, 0)], fm [(63, 28)], 0]
  | (4, 0x04) => some [allBits, allBits, allBits, fm [(63, 28)], 0]
  | (4, 0x05) => some [fm [(5, 0)], fm [(61, 61), (59, 21), (16, 0)], 0, 0, 0]
  | (4, 0x06) => some [allBits, fm [(31, 16), (5, 0)], 0, 0, 0]
  | (4, 0x07) => some [allBits, allBits, fm [(63, 63), (55, 48)], 0, 0]
  | (4, 0x08) => some [allBits, allBits, 0, 0, xhint]
  | _ => none

/-- Whether words from `i` on keep to their masks. -/
def bodyOk (w : List Word) : Nat → List Nat → Bool
  | _, [] => true
  | i, m :: ms => (atD 0 w i &&& ~~~ word m) == 0 && bodyOk w (i + 1) ms

/-- QFE_SETK, QFE_REPLAY, QFE_LOOP and QFE_MARK take effect at fetch (R231). -/
def atFetch (w : List Word) : Bool := hEng w == 0 && decide (8 ≤ hOp w ∧ hOp w ≤ 0x0B)

/-! #### G registers in body fields (R212) -/

/-- Whether GFLD selects a field of the command. -/
def gfldOk (w : List Word) : Bool :=
  let g := hGfld w
  match kop w with
  | (1, 0x00) => g == 3
  | (1, 0x01) => decide (g ≤ 2)
  | (1, 0x02) => decide (1 ≤ g ∧ g ≤ 3)
  | (2, _) => decide (g ≤ 1) || (g == 2 && (wf w 4 63 61 == 1 || wf w 4 63 61 == 2)) ||
      (g == 3 && (wf w 5 63 61 == 1 || wf w 5 63 61 == 2))
  | (4, 0x00) => decide (g ≤ 1) || (g == 2 && wf w 6 27 26 != 2) || (g == 3 && wf w 6 25 24 != 2)
  | (4, 0x03) => g == 0 || g == 1 || g == 3
  | (4, 0x04) => decide (g ≤ 3)
  | _ => false

/-! #### Field values (R213–R217, R228–R233) -/

/-- The largest FUNC of each VE opcode (R215); VE_SLICE and VE_XCOMB check theirs at the VE. -/
def veFuncMax (op : Nat) : Nat :=
  match op with
  | 0 => 0x1B | 1 => 6 | 3 => 5 | 4 => 1 | 5 => 63 | 7 => 63 | _ => 0

/-- How many sources a VE command reads (R215) (log 41, DEDUCED). -/
def veSources (op func : Nat) : Nat :=
  match op with
  | 0 => if func = 0x03 ∨ func = 0x1A then 3
         else if func = 6 ∨ func = 7 ∨ (0x0F ≤ func ∧ func ≤ 0x19) then 1 else 2
  | 1 => 2 | 2 => 1 | 3 => 1 | 4 => 1 | 5 => 2 | 6 => 1 | 7 => 3 | _ => 0

/-- A VE command's layout rules that are encoding errors (R215): functions, kinds, masks. -/
def veBad (w : List Word) : Bool :=
  let op := hOp w
  let func := wf w 3 63 58
  let dk := wf w 4 63 61
  decide (func > veFuncMax op) || !(dk == 1 || dk == 2 || dk == 3) ||
    (List.range (veSources op func)).any (fun i => wf w (5 + i) 63 61 == 0) ||
    (wf w 3 38 38 == 1 && dk == 3) || (op == 0 && func == 0x1A && wf w 7 63 61 != 1) || (op == 1 && dk != 1) ||
    (op == 8 && (dk != 3 || wf w 3 31 0 != 0))

/-- SE_OP and SE_SETP operand selectors (R216). -/
def seBad (w : List Word) : Bool :=
  let func := wf w 3 63 58
  let asel := wf w 3 47 46
  let bsel := wf w 3 39 38
  let a := wf w 3 45 40
  let b := wf w 3 37 32
  if hOp w = 1 ∧ func ≥ 6 then
    decide (func > 8) || asel != 0 || bsel != 0 || decide (a > 7) || decide (b > 7) || (func == 8 && b != 0)
  else decide (func > if hOp w = 0 then 0x14 else 8) || asel == 3 || bsel == 3 || (asel == 0 && decide (a > 15)) ||
    (bsel == 0 && decide (b > 15))

def highSet (w : List Word) (i : Nat) : Bool := wf w i 63 57 != 0

/-- Reduction element types (R217). -/
def reduceFmt (rfmt : Nat) : Bool := rfmt == 11 || rfmt == 9 || rfmt == 13 || rfmt == 14 || rfmt == 12

/-- DE_XFER's field values (R217, R287) (log 41, DEDUCED). -/
def xferBad (w : List Word) : Bool :=
  wf w 6 27 26 == 3 || wf w 6 25 24 == 3 || decide (wf w 6 23 20 > 3) || wf w 6 15 14 == 3 ||
    (wf w 6 23 20 != 0 && !reduceFmt (wf w 6 19 16)) ||
    (wf w 6 27 26 == 2 && highSet w 3) || (wf w 6 25 24 == 2 && highSet w 4)

/-- ESZ of a gather or a scatter: 4 to 4,096, a multiple of 4 (R218). -/
def elemBad (w : List Word) : Bool := decide (wf w 6 63 48 < 4 ∨ 4096 < wf w 6 63 48 ∨ wf w 6 63 48 % 4 ≠ 0)

/-- The valid target words of a loop (R232): each entry's unnamed bits are zero and a valid entry names a word 2–7. -/
def loopBad (w : List Word) : Bool :=
  [1, 2].any (fun i => (List.range 4).any (fun l =>
    let e := wf w i (16 * l + 15) (16 * l)
    nbits e 14 11 != 0 || nbits e 7 6 != 0 || (nbits e 15 15 == 1 && decide (nbits e 10 8 < 2))))

/-- Field values that make an encoding error (R213–R218, R564) (log 41, DEDUCED). -/
def valuesBad (w : List Word) : Bool :=
  match kop w with
  | (0, 0x08) => wf w 3 9 8 == 0 || decide (wf w 3 5 0 + wf w 3 9 8 > 64)
  | (0, 0x09) => decide (wf w 5 46 40 > 64)
  | (0, 0x0A) => loopBad w
  | (1, 0x00) => decide (wf w 3 63 61 > 4)
  | (1, 0x01) => decide (wf w 3 63 61 > 4)
  | (2, _) => veBad w
  | (3, 0x00) => seBad w
  | (3, 0x01) => seBad w
  | (3, 0x02) => wf w 3 61 61 == 1 && highSet w 4
  | (3, 0x03) => wf w 3 61 61 == 1 && highSet w 4
  | (3, 0x04) => decide (wf w 3 63 58 > 9) || highSet w 4
  | (3, 0x05) => wf w 3 63 62 == 3
  | (3, 0x06) => highSet w 4
  | (4, 0x00) => xferBad w
  | (4, 0x01) => elemBad w || highSet w 3
  | (4, 0x02) => elemBad w || decide (wf w 6 23 20 > 3) || (wf w 6 23 20 != 0 && !reduceFmt (wf w 6 19 16)) || highSet w 3
  | (4, 0x06) => wf w 4 31 16 == 0 || highSet w 3
  | (4, 0x07) => highSet w 3
  | (4, 0x08) => highSet w 3
  | _ => false

/-- Whether a VE command has an immediate operand. -/
def veImm (w : List Word) : Bool := hEng w == 2 && [4, 5, 6, 7].any (fun i => wf w i 63 61 == 4)

/-- Word 2 (R211, R214): a semaphore address, a VE command's immediate, loop targets, or zero. -/
def word2Bad (w : List Word) : Bool :=
  if kop w = (0, 0x0A) then false
  else if veImm w then hMsk w != 0
  else if hMsk w ≠ 0 then wf w 2 63 57 != 0
  else hEng w != 2 && atD 0 w 2 != 0

/-- Number of words marked for patching. -/
def patchCount (w : List Word) : Nat := ((List.range 7).filter (fun j => nbits (hPatch w) j j == 1)).length

/-- An encoding error of a command as patched (R564); `seg` says it was fetched from a segment (R230) (log 41, DEDUCED). -/
def encodingBad (w : List Word) (seg : Bool) : Bool :=
  match bodyMask w with
  | none => true
  | some ms =>
    wf w 0 19 0 != 0 || !bodyOk w 3 ms || word2Bad w ||
      (atFetch w && (wf w 0 55 0 != 0 || (hOp w != 0x0A && atD 0 w 1 != 0))) ||
      (hGv w && !gfldOk w) || decide (hPk w + patchCount w > 64) || valuesBad w ||
      (seg && (kop w == (0, 0x09) || kop w == (0, 0x0B) || kop w == (3, 0x05)))

/-- Patching (R229): each marked word, from word 1 on, grows by the next parameter register. -/
def patchWords (k : Nat → Word) (w : List Word) : List Word :=
  let step := fun (acc : List Word × Nat) j =>
    if nbits (hPatch w) j j = 1 then (modAt (fun x => x + k acc.2) acc.1 (j + 1), acc.2 + 1) else acc
  (foldN 7 (w, hPk w) step).1

/-- The body field a G register replaces: GFLD and the value, when GV = 1. -/
def gsel (gv : Option (Nat × Nat)) (code dflt : Nat) : Nat :=
  match gv with
  | some (g, v) => if g = code then v else dflt
  | none => dflt

end Sys2Proof.Machine
end

