-- ==== Sys2Proof/Machine/CoreOps.lean ====
section
/-! DEFINITION. The storage of an accelerator core: its record, group state, scratchpad and accumulator memory
(R113, R181, R190), credits for writes from outside (R193–R200), bank gating (R201), the merging buffer (R76, R77), L1
with side buffer and prefetch (R71–R82). -/

namespace Sys2Proof.Machine

/-! #### Records -/

def Tree.reset : Tree := ⟨[], [], [], [], []⟩

def getCore (hw : Hw) (c : Nat) : Core := mget (fun _ => Core.reset) hw.cores c
def setCore (hw : Hw) (c : Nat) (v : Core) : Hw := { hw with cores := mput (fun _ => Core.reset) hw.cores c v }
def modCore (hw : Hw) (c : Nat) (f : Core → Core) : Hw := setCore hw c (f (getCore hw c))
def getTree (hw : Hw) (d : Nat) : Tree := mget (fun _ => Tree.reset) hw.trees d
def setTree (hw : Hw) (d : Nat) (v : Tree) : Hw := { hw with trees := mput (fun _ => Tree.reset) hw.trees d v }

def getQueue (hw : Hw) (c q : Nat) : Queue := mget (fun _ => Queue.reset) (getCore hw c).queues q
def setQueue (hw : Hw) (c q : Nat) (v : Queue) : Hw :=
  modCore hw c (fun t => { t with queues := mput (fun _ => Queue.reset) t.queues q v })

def putCmd (cs : List Cmd) (m : Cmd) : List Cmd := cs.map (fun x => if x.id = m.id then m else x)
def setCmd (hw : Hw) (c : Nat) (m : Cmd) : Hw := modCore hw c (fun t => { t with cmds := putCmd t.cmds m })
def dropCmd (hw : Hw) (c id : Nat) : Hw := modCore hw c (fun t => { t with cmds := t.cmds.filter (fun x => x.id != id) })
def findCmd (hw : Hw) (c id : Nat) : Option Cmd := (getCore hw c).cmds.find? (fun x => x.id == id)

/-! #### Groups (R2, R85, R94) -/

/-- The stored state of a group: a PWR_STATE, or 4 while it is OFF and no wake has happened since reset. -/
def groupRaw (hw : Hw) (g : Nat) : Nat := mget (fun _ => 4) hw.groups g
/-- PWR_STATE: 0 ON, 1 GATING, 2 OFF, 3 WAKING; OFF until boot step 5 wakes the group. -/
def groupState (hw : Hw) (g : Nat) : Nat := if groupRaw hw g = 4 then 2 else groupRaw hw g
def setGroup (hw : Hw) (g s : Nat) : Hw := { hw with groups := mput (fun _ => 4) hw.groups g s }

/-- Whether a core's half is fenced (R505, R526). -/
def coreFenced (hw : Hw) (c : Nat) : Bool := hw.fenced.getLsbD (c / 256)

/-- A core whose window is implemented: its group enabled, the core not retired (R55, R94). -/
def corePresent (hw : Hw) (c : Nat) : Bool :=
  decide (c < 512) && groupPresent hw (c / 8) && !rbit hw (Reg.cgStatus (c / 8)) (8 + c % 8)

/-- Commands under way go on while the group is ON or GATING (R86). -/
def coreAlive (hw : Hw) (c : Nat) : Bool := corePresent hw c && decide (groupState hw (c / 8) ≤ 1)

/-- Whether a core starts commands: alive, not halted (R92), not fenced (R505). -/
def coreStarts (hw : Hw) (c : Nat) : Bool :=
  coreAlive hw c && !rbit hw (Reg.coreCtrl c) 0 && !coreFenced hw c

/-- Whether a core fetches: it starts commands and its group is ON, which a group in GATING is not (R86). -/
def coreFetches (hw : Hw) (c : Nat) : Bool := coreStarts hw c && groupState hw (c / 8) == 0

def engAgent (c : Nat) : Agent := .engine (Fin.ofNat 512 c)

/-! #### Scratchpad and accumulator storage -/

def spadSize : Nat := 0x600000
def accSize : Nat := 0x100000
def bankOf (off : Nat) : Nat := off / 0x20000

def bankGated (hw : Hw) (c off : Nat) : Bool := rbit hw (Reg.spcBankOff c) (bankOf off)

/-- Whether every byte lies in the scratchpad. -/
def spadIn (off n : Nat) : Bool := decide (off + n ≤ spadSize)

/-- Whether the run touches a gated bank. -/
def touchesGated (hw : Hw) (c off n : Nat) : Bool :=
  (List.range (bankOf (off + n - 1) + 1 - bankOf off)).any (fun i => rbit hw (Reg.spcBankOff c) (bankOf off + i))

def rdMem (m : FMap Byte) (a n : Nat) : List Byte := (List.range n).map (fun i => mget memDefault m (a + i))

/-- Units of `u` bytes that a run touches. -/
def unitsOf (u a n : Nat) : List Nat := if n = 0 then [] else (List.range ((a + n - 1) / u + 1 - a / u)).map (· + a / u)

/-- Poison marks after a write (R521): a poisoned write marks what it touches, a plain one clears what it covers. -/
def markUnits (u : Nat) (m : FMap Bool) (a n : Nat) (poison : Bool) : FMap Bool :=
  (unitsOf u a n).foldl (fun b i =>
    if poison then mput (fun _ => false) b i true
    else if a ≤ u * i ∧ u * i + u ≤ a + n then mput (fun _ => false) b i false else b) m

def anyBad (u : Nat) (m : FMap Bool) (a n : Nat) : Bool := (unitsOf u a n).any (fun i => mget (fun _ => false) m i)

/-! #### Bit errors in a core's storage (R116, R190, R518) -/

/-- The mark of a cell: 0 good, 1 a bit error that SECDED corrects, 2 one that it does not. -/
def flipOf (m : FMap Nat) (i : Nat) : Nat := mget (fun _ => 0) m i

/-- A write of `n` bytes from `a` replaces the cells of `u` bytes that it covers, check bits and all. -/
def flipClear (u : Nat) (m : FMap Nat) (a n : Nat) : FMap Nat :=
  m.filter (fun e => !(decide (a ≤ u * e.1 ∧ u * e.1 + u ≤ a + n)))

/-- One scratchpad word with a bit error is read (R190): corrected and counted, or marked as poisoned (log 102, DESIGN CHOICE). -/
def spadFound (hw : Hw) (c i : Nat) : Hw :=
  let k := flipOf (getCore hw c).spadFlip i
  let hw1 := modCore hw c (fun t => { t with spadFlip := mput (fun _ => 0) t.spadFlip i 0,
                                             spadBad := if k = 2 then mput (fun _ => false) t.spadBad i true else t.spadBad })
  if k = 0 then hw
  else if k = 1 then ras (radd hw1 (Reg.spcCeCnt c) 1) (c / 128) clsCE 0x03 1 c 0xFFF 0 0 (coreWin c + 8 * i)
  else ras hw1 (c / 128) clsUE 0x03 2 c 0xFFF 0 0 (coreWin c + 8 * i)

/-- A read of scratchpad bytes meets the bit errors that stand there. -/
def spadScan (hw : Hw) (c off n : Nat) : Hw :=
  if (getCore hw c).spadFlip = [] then hw else (unitsOf 8 off n).foldl (fun h i => spadFound h c i) hw

/-- One accumulator entry with a bit error is read (R116) (log 102, DESIGN CHOICE). -/
def accFound (hw : Hw) (c i : Nat) : Hw :=
  let k := flipOf (getCore hw c).accFlip i
  let hw1 := modCore hw c (fun t => { t with accFlip := mput (fun _ => 0) t.accFlip i 0,
                                             accBad := if k = 2 then mput (fun _ => false) t.accBad i true else t.accBad })
  if k = 0 then hw
  else if k = 1 then ras (radd hw1 (Reg.meAccCeCnt c) 1) (c / 128) clsCE 0x02 1 c 0xFFF 0 0 (coreWin c + 0x800000 + 4 * i)
  else ras (ror hw1 (Reg.meErr c) 2) (c / 128) clsUE 0x02 2 c 0xFFF 0 0 (coreWin c + 0x800000 + 4 * i)

def accScan (hw : Hw) (c off n : Nat) : Hw :=
  if (getCore hw c).accFlip = [] then hw else (unitsOf 4 off n).foldl (fun h i => accFound h c i) hw

/-- Read scratchpad bytes of a core: bytes and poison. -/
def spadGet (hw : Hw) (c off n : Nat) : List Byte × Bool :=
  let t := getCore hw c
  (rdMem t.spad off n, anyBad 8 t.spadBad off n)

/-- Write scratchpad bytes of a core; the word at either end is read first where it is written in part (R190). -/
def spadPut (hw : Hw) (c off : Nat) (bs : List Byte) (poison : Bool) : Hw :=
  let head := if bs ≠ [] ∧ off % 8 ≠ 0 then spadScan hw c off 1 else hw
  let ends := if bs ≠ [] ∧ (off + bs.length) % 8 ≠ 0 then spadScan head c (off + bs.length - 1) 1 else head
  modCore ends c (fun t => { t with spad := putBytes t.spad off bs, spadBad := markUnits 8 t.spadBad off bs.length poison,
                                    spadFlip := flipClear 8 t.spadFlip off bs.length })

def accGet (hw : Hw) (c off n : Nat) : List Byte × Bool :=
  let t := getCore hw c
  (rdMem t.acc off n, anyBad 4 t.accBad off n)

def accPut (hw : Hw) (c off : Nat) (bs : List Byte) (poison : Bool) : Hw :=
  modCore hw c (fun t => { t with acc := putBytes t.acc off bs, accBad := markUnits 4 t.accBad off bs.length poison,
                                  accFlip := flipClear 4 t.accFlip off bs.length })

/-! #### Tile writes (R255, R269–R271) -/

/-- A part of a tile write into the core's own memories appears. -/
def landPart (c : Nat) (hw : Hw) (x : LatePart) : Hw :=
  if x.kind = 0 then spadPut hw c x.addr x.data x.poison else accPut hw c x.addr x.data x.poison

/-- A part of the same command that writes some of the same bytes is still to appear: the later part does not pass it. -/
def behind (hw : Hw) (c : Nat) (x : LatePart) : Bool :=
  (getCore hw c).late.any (fun y => y.cmd == x.cmd && y.kind == x.kind &&
    decide (x.addr < y.addr + y.data.length ∧ y.addr < x.addr + x.data.length))

/-- A part that appears later stands behind the earlier ones (log 98, DESIGN CHOICE). -/
def addLate (hw : Hw) (c : Nat) (x : LatePart) : Hw := modCore hw c (fun t => { t with late := t.late ++ [x] })

/-- Whether a part appears later than the step that writes it: the spec leaves that open for a whole granule. A part of one
comes later, with the granule's other parts, so that no reader sees the granule mixed (R269, R270) (log 98, DESIGN CHOICE). -/
def comesLate (hw : Hw) (c : Nat) (x : LatePart) : Bool × Hw :=
  if x.data.length < 64 then (true, hw)
  else let r := draw hw; (bit r.1 0 || behind hw c x, r.2)

/-- Cut a run at 64-byte lines. -/
def cutLines : Nat → Nat → Nat → List (Nat × Nat)
  | 0, _, _ => []
  | fuel + 1, a, n => if n = 0 then [] else let k := min n (64 - a % 64); (a, k) :: cutLines fuel (a + k) (n - k)

/-- Bytes cut at 64-byte granules. -/
def cutGran : Nat → Nat → List Byte → List (Nat × List Byte)
  | 0, _, _ => []
  | fuel + 1, a, bs =>
    if bs = [] then [] else let k := min bs.length (64 - a % 64); (a, bs.take k) :: cutGran fuel (a + k) (bs.drop k)

/-- Bytes of a command's output written to its core's scratchpad (kind 0) or accumulator (1): at once where they are no part of
a tile, else granule by granule, each now or later (log 98, DESIGN CHOICE). -/
def tilePut (c id : Nat) (tile : Bool) (kind : Nat) (hw : Hw) (addr : Nat) (bs : List Byte) (poison : Bool) : Hw :=
  let part := fun (a : Nat) (l : List Byte) => (⟨id, kind, a, l, poison, 0, 0, 0, 0, false⟩ : LatePart)
  if !tile then landPart c hw (part addr bs)
  else (cutGran (bs.length / 64 + 2) addr bs).foldl (fun h x =>
    let p := part x.1 x.2
    let r := comesLate h c p
    if r.1 then addLate r.2 c p else landPart c r.2 p) hw

/-- Parts that `p` names, of commands' writes into the core's own memories, appear. -/
def landWhere (c : Nat) (p : LatePart → Bool) (hw : Hw) : Hw :=
  let mine := fun x : LatePart => x.kind != 2 && p x
  let l := (getCore hw c).late
  if l.any mine then
    modCore ((l.filter mine).foldl (landPart c) hw) c (fun t => { t with late := t.late.filter (fun x => !mine x) })
  else hw

/-- Whether a part was written by a command of the engine, and of the queue where one is named. -/
def lateOf (hw : Hw) (c eng : Nat) (q : Option Nat) (x : LatePart) : Bool :=
  match findCmd hw c x.cmd with
  | some m => hEng m.w == eng && q.all (fun n => m.q == n)
  | none => false

/-! #### Credits (R193–R200) -/

structure Slot where
  state : Nat
  any   : Bool
  pkg   : Nat
  agent : Nat
  len   : Nat
  off   : Nat
  deriving DecidableEq, Repr

/-- A slot as its register lays it out (R204); length and offset in bytes. -/
def slotOf (v : Word) : Slot :=
  ⟨bits v 63 62, bit v 61, bits v 59 48, bits v 47 36, 64 * bits v 35 21, 64 * bits v 16 0⟩

def getSlot (hw : Hw) (c n : Nat) : Slot := slotOf (rget hw (Reg.spcCredit c n))

/-- The slots that are POSTED or HELD. -/
def outSlots (hw : Hw) (c : Nat) : List Slot := ((List.range 64).map (getSlot hw c)).filter (fun s => s.state != 0)

/-- Banks a slot is outstanding against (R194, R204) (log 46, DEDUCED). -/
def bankHeld (hw : Hw) (c b : Nat) : Bool :=
  (outSlots hw c).any (fun s => decide (bankOf s.off ≤ b ∧ b ≤ bankOf (s.off + s.len - 1)))

def bankHoldMask (hw : Hw) (c : Nat) : Nat :=
  (List.range 48).foldl (fun m b => if bankHeld hw c b then m + 2 ^ b else m) 0

/-- The SPC_ERR bits of a refused post (R196); 0 when the post takes effect (log 102, DESIGN CHOICE). -/
def postErr (hw : Hw) (c n : Nat) (s : Slot) : Nat :=
  let range : Bool := decide (s.len = 0 ∨ s.len > 0x100000 ∨ s.off + s.len > spadSize)
  b2n ((getSlot hw c n).state != 0)
  + 2 * b2n ((List.range 64).any (fun i => i != n && (getSlot hw c i).state != 0 &&
      decide ((getSlot hw c i).off < s.off + s.len ∧ s.off < (getSlot hw c i).off + (getSlot hw c i).len)))
  + 4 * b2n range
  + 8 * b2n ((List.range 48).any (fun b => decide (bankOf s.off ≤ b ∧ b ≤ bankOf (s.off + s.len - 1)) &&
      (rbit hw (Reg.spcBankOff c) b || rbit hw (Reg.spcBankGate c) b)))
  + 16 * b2n (groupState hw (c / 8) != 0)

/-- A violation (R198, R200): counted, recorded, logged. -/
def spcViolation (hw : Hw) (c cause pkg agent off : Nat) : Hw :=
  let e := word (2 ^ 63 + cause * 2 ^ 60 + pkg % 4096 * 2 ^ 48 + agent % 4096 * 2 ^ 36 + off % 2 ^ 23)
  let hw1 := (logPush (radd hw (Reg.spcViolCnt c) 1) (Reg.spcViolLog c) 16 (e, 0)).2
  ras hw1 (c / 128) clsRESP 0x03 7 c agent 0 pkg (coreWin c + off)

/-- A take request at the SPC (R197): granted with the slot's new value, or refused with the slot's state alone. -/
def creditTake (hw : Hw) (c n pkg agent : Nat) : Hw × Word :=
  let v := rget hw (Reg.spcCredit c n)
  let s := slotOf v
  if s.state = 1 ∧ (s.any = true ∨ (s.pkg = pkg ∧ s.agent = agent)) then
    let v1 := setBits (setBits (setBits (setBit v 61 false) 63 62 2) 59 48 pkg) 47 36 agent
    (rset hw (Reg.spcCredit c n) v1, v1)
  else (hw, word (s.state * 2 ^ 62))

/-- Whether a take's reply grants it. -/
def takeGranted (v : Word) : Bool := bits v 35 21 != 0

/-- An END at the SPC (R198). -/
def creditEnd (hw : Hw) (c n pkg agent : Nat) : Hw :=
  let s := getSlot hw c n
  if s.state = 2 ∧ (s.any = true ∨ (s.pkg = pkg ∧ s.agent = agent)) then rset hw (Reg.spcCredit c n) 0
  else spcViolation hw c 4 pkg agent s.off

/-- How a write from outside ends: landed, dropped as a violation, or refused with a cause of the error response. -/
inductive SpadRes
  | ok
  | violation
  | refused (cause : Nat)
  deriving DecidableEq, Repr

/-- An agent that sends DE bursts (R53): a DE of this package, or one of another. -/
def sendsBursts : Agent → Bool
  | .engine _ => true
  | .remote _ _ => true
  | _ => false

/-- Sizes and alignments R53 accepts of an agent. R53 names bursts of 64 to 256 bytes and no step between them: they are
multiples of 64 bytes, as its alignment is (log 81, DESIGN CHOICE). -/
def spadAccess (ag : Agent) (off n : Nat) : Bool :=
  (decide (n = 1 ∨ n = 2 ∨ n = 4 ∨ n = 8) && decide (off % n = 0)) ||
    (sendsBursts ag && decide (64 ≤ n ∧ n ≤ 256 ∧ n % 64 = 0 ∧ off % 64 = 0))

/-- The scratchpad has served an access from outside the core, which its counters of conflicts may show (R15, R204). -/
def spadServed (hw : Hw) (c : Nat) : Hw := modCore hw c (fun t => { t with begun := mmod (fun _ => 0) t.begun 5 (· + 1) })

/-- A scratchpad write from outside the core (R53, R55, R193, R200, R202). -/
def spadWriteByP (hw : Hw) (ag : Agent) (c off : Nat) (bs : List Byte) (poison : Bool) : Hw × SpadRes :=
  let pkg := agentPkg ag
  let code := agentCode ag
  let n := bs.length
  if !corePresent hw c then (hw, .refused 5)
  else if !spadAccess ag off n then (hw, .refused 6)
  else if touchesGated hw c off n || decide (groupState hw (c / 8) ≥ 2) then (spcViolation hw c 2 pkg code off, .violation)
  else
    let mine := (outSlots hw c).filter (fun s => s.state == 2 && (s.any || (s.pkg == pkg && s.agent == code)) &&
      decide (s.off ≤ off ∧ off < s.off + s.len))
    match mine with
    | [] => (spcViolation hw c 1 pkg code off, .violation)
    | s :: _ => if off + n ≤ s.off + s.len then (spadPut (spadServed hw c) c off bs poison, .ok)
                else (spcViolation hw c 3 pkg code off, .violation)

def spadWriteBy (hw : Hw) (ag : Agent) (c off : Nat) (bs : List Byte) : Hw × SpadRes := spadWriteByP hw ag c off bs false

/-- Whether a read from outside the core is served (R52, R55, R202); it is not where the error response answers. -/
def spadReadOk (hw : Hw) (ag : Agent) (c off n : Nat) : Bool :=
  corePresent hw c && spadAccess ag off n && spadIn off n && !touchesGated hw c off n && decide (groupState hw (c / 8) ≤ 1)

def accReadOk (hw : Hw) (ag : Agent) (c off n : Nat) : Bool :=
  corePresent hw c && spadAccess ag off n && decide (off + n ≤ accSize) && decide (groupState hw (c / 8) ≤ 1)

/-- Scratchpad bytes read, with the bit errors the read meets. -/
def spadRead (hw : Hw) (c off n : Nat) : Hw × List Byte × Bool := let h := spadScan hw c off n; (h, spadGet h c off n)

def accRead (hw : Hw) (c off n : Nat) : Hw × List Byte × Bool := let h := accScan hw c off n; (h, accGet h c off n)

/-- A scratchpad read from outside the core: none for the error response. -/
def spadReadBy (hw : Hw) (ag : Agent) (c off n : Nat) : Option (Hw × List Byte × Bool) :=
  if spadReadOk hw ag c off n then some (spadRead (spadServed hw c) c off n) else none

def accReadBy (hw : Hw) (ag : Agent) (c off n : Nat) : Option (Hw × List Byte × Bool) :=
  if accReadOk hw ag c off n then some (accRead hw c off n) else none

/-- Cut a run into accesses R53 accepts: bursts of up to 256 bytes where aligned to 64, aligned powers of two else (log
81, DESIGN CHOICE). -/
def cutSpad : Nat → Nat → Nat → List (Nat × Nat)
  | 0, _, _ => []
  | fuel + 1, off, n =>
    if n = 0 then []
    else
      let k := if off % 64 = 0 ∧ 64 ≤ n then min 256 (n / 64 * 64)
        else if off % 8 = 0 ∧ 8 ≤ n then 8 else if off % 4 = 0 ∧ 4 ≤ n then 4 else if off % 2 = 0 ∧ 2 ≤ n then 2 else 1
      (off, k) :: cutSpad fuel (off + k) (n - k)

/-! #### The merging buffer (R76, R77, R170) -/

/-- The contexts that the queues of a core are bound to (R221), those that are OFF among them (log 82, DEDUCED). -/
def coreCtxs (hw : Hw) (c : Nat) : List Nat := ((List.range 8).map (fun q => rbits hw (Reg.qfeQCtx c q) 15 0)).dedup

/-- A parity error found in an entry (R83): the contexts it is fatal to are marked, their entries are discarded and
never written, the event is recorded. A context tag that is bad is fatal to every context that QFE_Q_CTX of a queue of the core
names, as each queue is bound to the context there (R221) (log 82, DEDUCED). -/
def mbParity (hw : Hw) (c : Nat) (e : MbEnt) : Hw :=
  let t := getCore hw c
  let ctxs := if e.par = 1 then [e.ctx] else coreCtxs hw c
  let hw1 := setCore hw c { t with mb := t.mb.filter (fun x => x.gran != e.gran && !ctxs.contains x.ctx),
                                   killed := t.killed ++ ctxs }
  let hw2 := rsetN hw1 (Reg.coreMbErr c) (2 ^ 63 + (if e.par = 1 then e.ctx % 65536 else 2 ^ 62))
  ctxs.foldl (fun h x => ras h (c / 128) clsCTX 0x01 4 c 0xFFF x 0 0) hw2

/-- An entry drains to the point of coherence (R77), unless its parity is bad. -/
def mbDrain (hw : Hw) (c : Nat) (e : MbEnt) : Option Hw :=
  if e.par ≠ 0 then some (mbParity hw c e)
  else match pocWrite hw (engAgent c) e.gran e.mask e.data e.poison 0 0 with
  | none => none
  | some hw1 =>
    let hw2 := modCore hw1 c (fun t => { t with mb := t.mb.filter (fun x => x.gran != e.gran) })
    some (if e.mask = fullMask then rinc hw2 (Reg.l1MbDrainCnt c) 63 32 1 else rinc hw2 (Reg.l1MbDrainCnt c) 31 0 1)

/-- Drain several entries in their order. -/
def mbDrainAll (hw : Hw) (c : Nat) : List MbEnt → Option Hw
  | [] => some hw
  | e :: es =>
    if (getCore hw c).mb.any (fun x => x.gran == e.gran) then
      match mbDrain hw c e with
      | none => none
      | some hw1 => mbDrainAll hw1 c es
    else mbDrainAll hw c es

/-- Drain the entries that hold bytes of a run (R74, R75). -/
def mbDrainFor (hw : Hw) (c pa n : Nat) : Option Hw :=
  mbDrainAll hw c ((getCore hw c).mb.filter (fun e =>
    let lo := max pa (64 * e.gran)
    let hi := min (pa + n) (64 * e.gran + 64)
    decide (lo < hi) && (e.mask &&& lineMask (lo - 64 * e.gran) (hi - lo)) != 0))

/-- A store of the bytes a mask names in one granule (R76, R269): into the entry of its granule and context, or a new
one. A store of the whole granule leaves no poison in it (R521). An entry that is full drains (R77): its write reaches the home
at once or, for a granule of a tile, whose granules appear in any order (R255, R270), later, which is free (log 98, DESIGN
CHOICE). -/
def mbStoreM (hw : Hw) (c ctx g : Nat) (mask : BitVec 64) (data : List Byte) (poison : Bool) (tile : Bool := false) : Option Hw :=
  let mb := (getCore hw c).mb
  let cleared := match mb.find? (fun e => e.gran == g) with
    | some e => if e.ctx = ctx ∧ e.mask ≠ fullMask then some hw else mbDrain hw c e
    | none => if mb.length < 16 then some hw else match mb with
      | e :: _ => mbDrain hw c e
      | [] => some hw
  match cleared with
  | none => none
  | some hw1 =>
    let old := ((getCore hw1 c).mb.find? (fun e => e.gran == g)).getD ⟨g, ctx, 0, List.replicate 64 0, false, 0⟩
    let e : MbEnt := { old with mask := old.mask ||| mask, data := mergeBytes mask 0 old.data data,
                                poison := poison || (old.poison && mask != fullMask) }
    let hw2 := modCore hw1 c (fun t =>
      if t.mb.any (fun x => x.gran == g) then { t with mb := t.mb.map (fun x => if x.gran = g then e else x) }
      else { t with mb := t.mb ++ [e] })
    if e.mask ≠ fullMask then some hw2
    else if tile then let r := draw hw2; some (if bit r.1 0 then (mbDrain r.2 c e).getD r.2 else r.2)
    else mbDrain hw2 c e

/-- The bytes of a granule with a run at an offset, zeros elsewhere. -/
def granBytes (off : Nat) (bs : List Byte) : List Byte := splice (List.replicate 64 0) off bs

/-- Copies of the masked bytes of a granule in an L1 line. -/
def lineUpdate (l : L1Line) (g : Nat) (mask : BitVec 64) (data : List Byte) : L1Line :=
  if l.line = g / 2 then
    if g % 2 = 0 then { l with s0 := l.s0.map (fun d => mergeBytes mask 0 d data) }
    else { l with s1 := l.s1.map (fun d => mergeBytes mask 0 d data) }
  else l

/-! #### Parity of L1 (R81, R82) -/

/-- The ways that are not disabled (R82). -/
def l1Ways (hw : Hw) (c : Nat) : List Nat := (List.range 8).filter (fun i => !rbit hw (Reg.l1WayDis c) i)

/-- A line with a parity error is invalidated and counted; a way is disabled at its fourth error since cold reset, which is a
degradation (R82, R516). -/
def l1Bad (hw : Hw) (c : Nat) (l : L1Line) (inL1 : Bool) : Hw :=
  let hw1 := ras (radd hw (Reg.l1ParCnt c) 1) (c / 128) clsCE 0x01 1 c 0xFFF 0 0 (128 * l.line)
  if inL1 then
    let n := mget (fun _ => 0) (getCore hw1 c).wayErr l.way + 1
    let off : Bool := decide (4 ≤ n)
    let hw2 := modCore hw1 c (fun t => { t with
      wayErr := mput (fun _ => 0) t.wayErr l.way n,
      l1 := t.l1.filter (fun x => x.line != l.line && !(off && x.way == l.way)) })
    if off then ras (ror hw2 (Reg.l1WayDis c) (2 ^ l.way)) (c / 128) clsDEG 0x01 9 c 0xFFF 0 0 0 else hw2
  else modCore hw1 c (fun t => { t with side := t.side.filter (fun x => x.line != l.line) })

/-- A lookup of a line meets the parity errors it reads: the tags of the line's set and of the side buffer (`par` 2), the
data of the line itself (`par` 1) unless only tags are read. -/
def l1Check (hw : Hw) (c line : Nat) (tagsOnly : Bool) : Hw :=
  let t := getCore hw c
  let data := fun l : L1Line => !tagsOnly && l.par == 1 && l.line == line
  let bad1 := t.l1.filter (fun l => data l || (l.par == 2 && l.line % 128 == line % 128))
  let bad2 := t.side.filter (fun l => data l || l.par == 2)
  bad2.foldl (fun h l => l1Bad h c l false) (bad1.foldl (fun h l => l1Bad h c l true) hw)

/-- A store of an engine into one granule of tier 0 or tier 1: copies in L1 and the side buffer are updated. R71 does not
say whether a store that hits counts as a use for replacement: it leaves the order as it is (log 93, DESIGN CHOICE). -/
def l1StoreM (hw : Hw) (c ctx g : Nat) (mask : BitVec 64) (data : List Byte) (poison : Bool) (tile : Bool := false) : Option Hw :=
  mbStoreM (modCore (l1Check hw c (g / 2) true) c (fun t =>
    { t with l1 := t.l1.map (fun l => lineUpdate l g mask data)
             side := t.side.map (fun l => lineUpdate l g mask data) })) c ctx g mask data poison tile

/-- A store of a run into tier 0 or tier 1, granule by granule. -/
def l1Store : Nat → Hw → Nat → Nat → Nat → List Byte → Bool → Option Hw
  | 0, hw, _, _, _, _, _ => some hw
  | fuel + 1, hw, c, ctx, pa, bs, poison =>
    if bs = [] then some hw
    else
      let k := min bs.length (64 - pa % 64)
      match l1StoreM hw c ctx (pa / 64) (lineMask (pa % 64) k) (granBytes (pa % 64) (bs.take k)) poison with
      | none => none
      | some hw2 => l1Store fuel hw2 c ctx (pa + k) (bs.drop k) poison

/-- A DE write invalidates copies of its line in the core's own L1 and side buffer (R257). -/
def l1Drop (hw : Hw) (c pa n : Nat) : Hw :=
  let out := fun l : L1Line => decide (l.line < pa / 128 ∨ (pa + n - 1) / 128 < l.line)
  modCore hw c (fun t => { t with l1 := t.l1.filter out, side := t.side.filter out })

/-- An acquire at DIE scope or wider (R78): lines go, refills and prefetches in flight install nothing. -/
def l1Invalidate (hw : Hw) (c : Nat) : Hw :=
  modCore hw c (fun t => { t with l1 := [], side := [], pf := [],
                                  refills := t.refills.map (fun r => { r with install := false }) })

/-! #### L1 lookups and refills (R71–R75) -/

/-- Put a line into L1, most recently used: in a way of its set that is free, else in place of the least recently used
(R71). -/
def l1Put (ways : List Nat) (l1 : List L1Line) (l : L1Line) : List L1Line :=
  let rest := l1.filter (fun x => x.line != l.line)
  let set := rest.filter (fun x => x.line % 128 == l.line % 128)
  match ways.find? (fun w => !set.any (fun x => x.way == w)) with
  | some w => { l with way := w } :: rest
  | none => match set.getLast? with
    | some v => { l with way := v.way } :: rest.filter (fun x => x.line != v.line)
    | none => rest

def sectorOf (l : L1Line) (sec : Nat) : Option (List Byte) := if sec % 2 = 0 then l.s0 else l.s1

/-- The sector of an address in L1, else in the side buffer; the flag says it is L1's. With all ways disabled every load
goes to the point of coherence (R82). -/
def l1Find (hw : Hw) (c : Nat) (sec : Nat) : Option (List Byte × Bool) :=
  let t := getCore hw c
  if l1Ways hw c = [] then none
  else match (t.l1.find? (fun l => l.line == sec / 2)).bind (fun l => sectorOf l sec) with
  | some d => some (d, true)
  | none => ((t.side.find? (fun l => l.line == sec / 2)).bind (fun l => sectorOf l sec)).map (fun d => (d, false))

/-- A hit makes the line most recently used; a side-buffer line moves into L1 (R80). -/
def l1Touch (hw : Hw) (c line : Nat) : Hw :=
  let ways := l1Ways hw c
  modCore hw c (fun t =>
    match t.l1.find? (fun l => l.line == line) with
    | some l => { t with l1 := l :: t.l1.filter (fun x => x.line != line) }
    | none => match t.side.find? (fun l => l.line == line) with
      | some l => { t with l1 := l1Put ways t.l1 l, side := t.side.filter (fun x => x.line != line) }
      | none => t)

/-- Bytes the core has stored and not drained stand over what memory returns (R74, R80). -/
def mbOver (hw : Hw) (c gran : Nat) (data : List Byte) : List Byte :=
  match (getCore hw c).mb.find? (fun e => e.gran == gran) with
  | some e => mergeBytes e.mask 0 data e.data
  | none => data

/-- Both sectors of a line read at the point of coherence. -/
def lineRead (hw : Hw) (c line : Nat) : Option (Hw × L1Line × Bool × Bool) :=
  match pocRead hw (engAgent c) (2 * line) false with
  | none => none
  | some (hw1, d0, p0) =>
    match pocRead hw1 (engAgent c) (2 * line + 1) false with
    | none => none
    | some (hw2, d1, p1) =>
      some (hw2, ⟨line, 0, 0, some (mbOver hw2 c (2 * line) d0), some (mbOver hw2 c (2 * line + 1) d1)⟩, p0, p1)

/-- A prefetched line arrives (R80): into the side buffer, in place of its oldest line when full. -/
def pfArrive (hw : Hw) (c line : Nat) : Option Hw :=
  match lineRead hw c line with
  | none => none
  | some (hw1, l, p0, p1) =>
    some (modCore hw1 c (fun t =>
      let pf := t.pf.filter (fun x => x != line)
      if p0 || p1 || t.l1.any (fun x => x.line == line) then { t with pf := pf }
      else
        let rest := t.side.filter (fun x => x.line != line)
        { t with pf := pf, side := l :: (if rest.length < 16 then rest else rest.take 15) }))

/-- The lines a stream requests: up to 8 ahead of its latest demand, never past its page, none it already has (R80). -/
def pfWanted (t : Core) (k : Tracker) : List Nat :=
  let all := (List.range 8).filterMap (fun i => if k.up then some (k.last + 1 + i)
    else if i < k.last then some (k.last - 1 - i) else none)
  all.filter (fun x => decide (k.base ≤ x ∧ x < k.base + k.lines) &&
    (if k.up then decide (k.ahead < x) else decide (x < k.ahead)) && !t.pf.contains x &&
    !(t.side.any (fun l => l.line == x)) && !(t.l1.any (fun l => l.line == x)))

/-- A stream after a demand access whose furthest line is `last`: it requests lines ahead while PF_EN is 1. -/
def pfRun (hw : Hw) (c : Nat) (k : Tracker) (olds : List Tracker) : Hw :=
  let on := rbit hw (Reg.l1Ctrl c) 0
  let want := if on then pfWanted (getCore hw c) k else []
  let far := want.foldl (fun m x => if k.up then max m x else min m x) k.ahead
  let hw1 := modCore hw c (fun t => { t with trackers := { k with ahead := far } :: olds, pf := t.pf ++ want })
  radd hw1 (Reg.l1PfIssueCnt c) want.length

/-- A translated page as the trackers see it: its first line, its number of lines, the first line of its virtual addresses. -/
abbrev PageLines := Nat × Nat × Nat

/-- Whether a demand access that begins at `first` continues a stream (R80 steps 2 and 3). The adjacent line of another page is
the next one in the program's, virtual, addresses (log 93, DESIGN CHOICE). -/
def continues (k : Tracker) (eng ctx first : Nat) (p : PageLines) (missed : Bool) : Bool :=
  let v := p.2.2 + (first - p.1)
  let vlast := k.vbase + (k.last - k.base)
  k.eng == eng && k.ctx == ctx &&
    (if k.base = p.1 then
      (if k.up then decide (k.last ≤ first ∧ first ≤ max k.ahead k.last + 1)
       else decide (first ≤ k.last ∧ min k.ahead k.last ≤ first + 1))
     else missed && (if k.up then decide (v = vlast + 1) else decide (v + 1 = vlast)))

/-- Train the trackers on a demand access of an engine (R80): the lines of one access, rising, the lines that missed,
the translated page. -/
def pfTrain (hw : Hw) (c eng ctx : Nat) (lines missed : List Nat) (p : PageLines) : Hw :=
  let t := getCore hw c
  let base := p.1
  let first := lines.headD 0
  let last := lines.getLastD first
  match t.trackers.find? (fun k => continues k eng ctx (if k.up then first else last) p (missed != [])) with
  | some k =>
    let edge := if k.up then last else first
    pfRun hw c { k with last := edge, base := base, lines := p.2.1, vbase := p.2.2, ahead := if k.base = base then
      (if k.up then max k.ahead edge else min k.ahead edge) else edge } (t.trackers.filter (fun x => x != k))
  | none =>
    match missed with
    | [] => hw
    | m :: _ =>
      let prev := (t.missed.find? (fun e => e.1 == eng)).map (·.2)
      let hw1 := modCore hw c (fun t => { t with missed := (eng, missed.getLastD m) :: t.missed.filter (fun e => e.1 != eng) })
      let near := fun x : Nat => decide (base ≤ x ∧ x < base + p.2.1)
      let dir : Option Bool :=
        if missed.length ≥ 2 then some true
        else match prev with
          | some p => if near p && p + 1 == m then some true else if near p && m + 1 == p then some false else none
          | none => none
      match dir with
      | some up =>
        let edge := if up then last else first
        pfRun hw1 c ⟨eng, ctx, up, edge, edge, base, p.2.1, p.2.2⟩ (t.trackers.take 7)
      | none => hw1

/-- A demand access of the VE to the sectors `secs`, of at most two lines of one 256-byte block, served from L1, the side
buffer, a prefetch under way, or the point of coherence (R73, R80): a hit where the sectors it needs are valid (R71).
Answers whether a line it read was poisoned. -/
def l1Access (hw : Hw) (c eng ctx : Nat) (secs : List Nat) (p : PageLines) : Option (Hw × List Nat) :=
  let lines := (secs.map (· / 2)).dedup
  let serve := fun (acc : Option (Hw × List Nat × List Nat)) (line : Nat) =>
    acc.bind (fun a =>
      let hw0 := l1Check a.1 c line false
      let t := getCore hw0 c
      let ways := l1Ways hw0 c
      let need := fun l : L1Line => l.line == line &&
        (secs.filter (fun s => s / 2 == line)).all (fun s => (sectorOf l s).isSome)
      if t.l1.any need then some (l1Touch (radd hw0 (Reg.l1HitCnt c) 1) c line, a.2.1, a.2.2)
      else
        let filled := if ways != [] && t.pf.contains line && !(t.side.any need) then pfArrive hw0 c line else some hw0
        filled.bind (fun h =>
          if ways != [] && (getCore h c).side.any need then
            some (l1Touch (radd h (Reg.l1PfHitCnt c) 1) c line, a.2.1, a.2.2)
          else (lineRead h c line).map (fun r =>
            let h1 := radd r.1 (Reg.l1MissCnt c) 1
            let bad := r.2.2.1 || r.2.2.2
            (if bad then h1 else modCore h1 c (fun t => { t with l1 := l1Put ways t.l1 r.2.1 }),
              a.2.1 ++ [line], if bad then a.2.2 ++ [line] else a.2.2))))
  (lines.foldl serve (some (hw, [], []))).map (fun r => (pfTrain r.1 c eng ctx lines r.2.1 p, r.2.2))

end Sys2Proof.Machine
end

