-- ==== Sys2Proof/Machine/Xlat.lean ====
section
/-! DEFINITION. Address translation of the accelerator cores: extents of a command (R207), contexts and page tables
(R285–R290), the ATU (R293), the die walkers (R294), faults (R297–R300), translating again after a bump (R304). -/

namespace Sys2Proof.Machine

def vaMod : Nat := 2 ^ 57

/-! #### Operand extents (R207, R214, R217, R218) -/

/-- Bytes of a row of `n` elements of a format: padded to whole bytes, an MX row in the memory layout (R131, R133). -/
def rowBytes (code n : Nat) : Nat :=
  if fmtMX code then (n + 31) / 32 * (4 * fmtBits code + 1) else (n * fmtBits code + 7) / 8

/-- Lowest address and length of rows of `len` bytes, `stride` (signed) apart. -/
def spanOf (base len rows : Nat) (stride : Int) : Nat × Nat :=
  let far : Int := stride * ((rows : Int) - 1)
  let lo : Int := (base : Int) + min 0 far
  ((lo % (vaMod : Int)).toNat, far.natAbs + len)

/-- Bytes a memory operand of a VE command covers: operand 0 is D. -/
def veOperandBytes (w : List Word) (i : Nat) : Nat :=
  let op := hOp w
  let count := wf w 3 31 16 + 1
  let rows := wf w 3 15 0 + 1
  let func := wf w 3 63 58
  let fmt := if i = 0 then wf w 3 57 54 else if i = 1 then wf w 3 53 50 else if i = 2 then wf w 3 49 46 else wf w 3 45 42
  if i = 0 then
    if op = 8 then 128
    else if op = 3 then (if fmtMX fmt then rowBytes fmt rows else rows * rowBytes fmt 1)
    else if op = 4 then 4 * (if func = 0 then rows else count)
    else if op = 5 then func * rows * count
    else if op = 6 then 8 * rows * count
    else if op = 7 then 8 * rows * count
    else rows * rowBytes fmt count
  else if op = 5 ∧ i = 2 then 4 * (if Config.sliceByColumn (wf w 3 63 0) then count else rows)
  else if op = 7 then (if i = 1 then func * rows * count * 8 else if i = 2 then 4 * rows else 4 * count)
  else if op = 6 then 4 * rows * count
  else rows * rowBytes fmt count

/-- The memory operands of a command: first address, length, whether it writes (R290). Of SE_LD and SE_ST it is the page
of the base that is translated, whatever the offset (R174). -/
def extents (w : List Word) : List (Nat × Nat × Bool) :=
  let msem := if hMsk w = 0 then [] else [(hMsem w, 8, hMsk w != 1)]
  let se := fun (a n : Nat) (wr : Bool) => [(a % vaMod, n, wr)]
  let body : List (Nat × Nat × Bool) := match kop w with
    | (2, _) => (List.range 4).filterMap (fun i =>
        if wf w (4 + i) 63 61 = 3 then some (wf w (4 + i) 56 0, veOperandBytes w i, i == 0) else none)
    | (3, 0x02) => if wf w 3 61 61 = 1 then se (wf w 4 63 0) 1 false else []
    | (3, 0x03) => if wf w 3 61 61 = 1 then se (wf w 4 63 0) 1 true else []
    | (3, 0x04) => se (wf w 4 63 0) (if wf w 3 57 57 = 1 then 8 else 4) true
    | (3, 0x06) => se (wf w 4 63 0) 128 true
    | (4, 0x00) =>
      let len := wf w 6 63 44 + 1
      let rows := wf w 6 43 28 + 1
      let codec := wf w 6 15 14
      (if wf w 6 27 26 = 2 then
        (if codec = 1 then [(wf w 3 63 0, 1, false)]
         else let r := spanOf (wf w 3 63 0) len rows (toInt 32 (wf w 5 63 32)); [(r.1, r.2, false)]) else []) ++
      (if wf w 6 25 24 = 2 then
        (if codec = 2 then [(wf w 4 63 0, 1, true)]
         else let r := spanOf (wf w 4 63 0) len rows (toInt 32 (wf w 5 31 0)); [(r.1, r.2, true)]) else [])
    | (4, 0x01) => [(wf w 3 63 0, wf w 4 63 0, false)]
    | (4, 0x02) => [(wf w 3 63 0, wf w 4 63 0, true)]
    | (4, 0x06) => [(wf w 3 63 0, 1, true)]
    | (4, 0x07) => [(wf w 3 63 0, wf w 4 63 0, true)]
    | (4, 0x08) => [(wf w 3 63 0, wf w 4 63 0, false)]
    | _ => []
  (msem ++ body).filter (fun e => e.2.1 != 0)

/-! #### Page-table walks (R285–R292) -/

/-- How a walk ends: cause (0 for success), level, the stopping entry's address (none for a context fault), the entry
as read, the page, ABORT_ON_FAULT of the context. -/
structure WalkOut where
  cause : Nat
  level : Nat
  key   : Option Nat
  entry : Word
  page  : Option Page
  aof   : Bool
  deriving DecidableEq, Repr

/-- A reader of entries: `n` bytes from an address and their poison; none while the line cannot be read now. -/
abbrev Reader := Hw → Nat → Nat → Option (Hw × List Byte × Bool)

def levelShift (level : Nat) : Nat := if level = 3 then 44 else if level = 2 then 30 else if level = 1 then 21 else 12
def levelBits (level : Nat) : Nat := if level = 3 then 13 else if level = 2 then 14 else 9
def tableLog2 (level : Nat) : Nat := if level = 3 then 16 else if level = 2 then 17 else 12

/-- log2 of the page a leaf maps (R287). -/
def leafLog2 (level : Nat) (e : Word) : Nat := if level = 0 then (if bit e 4 then 16 else 12) else levelShift level

/-- A malformed entry (R288, R289). -/
def malformed (level : Nat) (e : Word) : Bool :=
  let leaf := bit e 1
  let addr := 4096 * bits e 63 12
  bits e 11 5 != 0 || (leaf && level == 3) || (!leaf && level == 0) || (bit e 4 && !(level == 0 && leaf)) ||
    (bit e 3 && !bit e 2) ||
    (if leaf then addr % 2 ^ leafLog2 level e != 0
     else addr / 2 ^ 52 != 0 || !inTier (addr % 2 ^ 52) || addr % 2 ^ tableLog2 (level - 1) != 0)

/-- Descend from a table at a level (R287, R288). -/
def walkGo (rd : Reader) (note : Hw → Nat → Word → Hw) (va : Nat) (aof : Bool) : Nat → Hw → Nat → Option (Hw × WalkOut)
  | 0, hw, _ => some (hw, ⟨4, 0, none, 0, none, aof⟩)
  | n + 1, hw, table =>
    let level := n
    let at_ := table + 8 * (va / 2 ^ levelShift level % 2 ^ levelBits level)
    match rd hw at_ 8 with
      | none => none
      | some (hw1, bs, bad) =>
        let e := word (leNat bs)
        if bad then some (hw1, ⟨6, level, some at_, 0, none, aof⟩)
        else if !bit e 0 then some (hw1, ⟨1, level, some at_, e, none, aof⟩)
        else if malformed level e then some (hw1, ⟨4, level, some at_, e, none, aof⟩)
        else if bit e 1 then
          let k := leafLog2 level e
          some (hw1, ⟨0, level, some at_, e,
            some ⟨va / 2 ^ k * 2 ^ k, k, 4096 * bits e 63 12, bit e 2, bit e 3, level, at_, e, aof⟩, aof⟩)
        else walkGo rd note va aof n (note hw1 at_ e) (4096 * bits e 51 12)

/-- A whole walk (R285, R286): the context entry, then the levels. -/
def walkWith (rd : Reader) (note : Hw → Nat → Word → Hw) (hw : Hw) (ctx va : Nat) : Option (Hw × WalkOut) :=
  let r := rget hw (Reg.wlkCtxBase 0)
  let at_ := 4096 * bits r 51 12 + 32 * ctx
  if ctx ≥ 2 ^ bits r 4 0 then some (hw, ⟨5, 3, none, 0, none, false⟩)
  else match rd hw at_ 32 with
    | none => none
    | some (hw1, bs, bad) =>
      let e := word (leNat (bs.take 8))
      if bad then some (hw1, ⟨6, 3, none, 0, none, false⟩)
      else if !bit e 0 || bits e 15 2 != 0 || bits e 63 52 != 0 || (bs.drop 8).any (fun b => b != 0) then
        some (hw1, ⟨5, 3, none, 0, none, false⟩)
      else walkGo rd note va (bit e 1) 4 (note hw1 at_ e) (65536 * bits e 51 16)

/-- The coherent value of bytes of a line without serving a request: a hart's dirty copy stands before memory. -/
def peek : Reader := fun hw a n =>
  let line := a / 64
  if !inTier a then some (hw, [], true) else
  let own := match filtGet hw line with
    | some (.owned (.hart h)) => match wbufLine (getHart hw h) line with
      | some w => some w
      | none => hartLine (getHart hw h) line
    | _ => none
  match own with
  | some l => some (hw, slice l.data (a % 64) n, l.poison)
  | none => some (hw, readBytes hw a n, linePoison hw line)

/-- The size of the page at an address, or of what a stopping entry governs, for counting (R207, R298). -/
def regionLog2 (o : WalkOut) : Nat :=
  match o.page with
  | some p => p.log2
  | none => match o.key with
    | none => 57
    | some _ => if o.level = 0 ∧ bit o.entry 0 then leafLog2 0 o.entry else levelShift o.level

/-- A lookup in the walker cache drops the entries of its set whose parity is bad (R295, R310). -/
def walkParity (hw : Hw) (d a : Nat) : Hw :=
  let t := getTree hw d
  let hit := t.par.filter (fun x => x.1 / 8 % 1024 == a / 8 % 1024)
  if hit = [] then hw
  else
    let hw1 := setTree hw d { t with cache := t.cache.filter (fun e => !hit.contains (e.1, e.2.1)),
                                     par := t.par.filter (fun x => !hit.contains x) }
    hit.foldl (fun h x => ras h d clsCE 0x04 1 0xFFF 0xFFF 0 0 x.1) (ror hw1 (Reg.wlkErr d) 1)

/-- The walker's reads (R292, R294): from its cache, else at the point of coherence; the error response of a range that
is no tier, or of a fenced half, ends the walk as poison does (R297) (log 44, DEDUCED). A context entry in the cache has
been read whole, with nothing in its words 1 to 3. -/
def walkRead (d ctx : Nat) : Reader := fun hw0 a n =>
  let hw := walkParity hw0 d a
  let t := getTree hw d
  match t.cache.find? (fun e => e.1 == a && e.2.1 == ctx) with
  | some e =>
    let hw1 := setTree hw d { t with cache := e :: t.cache.filter (fun x => x != e) }
    some (radd hw1 (Reg.wlkCacheHitCnt d) 1, leBytes 8 e.2.2.toNat ++ List.replicate (n - 8) 0, false)
  | none =>
    let ag : Agent := .walker (Fin.ofNat 6 d)
    if !inTier a then
      let r := match locate a with
        | .hole (some x) => (x, 5)
        | .hole none => (d, 5)
        | _ => (d, 7)
      some (errorResponse hw r.1 r.2 ag ctx a, [], true)
    else if fencedHome hw ag a then some (errorResponse hw (homeDie hw a) 7 ag ctx a, [], true)
    else match pocRead hw ag (a / 64) false with
    | none => none
    | some (hw1, bs, p) => some (radd hw1 (Reg.wlkReadCnt d) 1, slice bs (a % 64) n, p)

/-- Valid context entries and table pointers enter the cache, 8 ways × 1,024 sets (R294). -/
def walkNote (d ctx : Nat) (hw : Hw) (a : Nat) (e : Word) : Hw :=
  let t := getTree hw d
  if t.cache.any (fun x => x.1 == a && x.2.1 == ctx) then hw
  else
    let set := t.cache.filter (fun x => x.1 / 8 % 1024 == a / 8 % 1024)
    let keep := if set.length < 8 then t.cache else match set.getLast? with
      | some v => t.cache.filter (fun x => x != v)
      | none => t.cache
    setTree hw d { t with cache := (a, ctx, e) :: keep, par := t.par.filter (fun x => keep.any (fun k => (k.1, k.2.1) == x)) }

/-! #### The ATU (R293) -/

def ctxOf (hw : Hw) (c q : Nat) : Nat := rbits hw (Reg.qfeQCtx c q) 15 0

def inPage (p : Page) (va : Nat) : Bool := decide (p.va ≤ va ∧ va < p.va + 2 ^ p.log2)

def atuFind (t : Core) (ctx va : Nat) : Option AtuEnt := t.atu.find? (fun e => e.ctx == ctx && inPage e.page va)

def atuSet (p : Page) : Nat := p.va / 2 ^ p.log2 % 256

/-- A lookup drops the entries of the sets it probes whose parity is bad (R295). -/
def atuParity (hw : Hw) (c va : Nat) : Hw :=
  let hit := fun e : AtuEnt => e.par && atuSet e.page == va / 2 ^ e.page.log2 % 256
  match (getCore hw c).atu.filter hit with
  | [] => hw
  | es => es.foldl (fun h _ => ras h (c / 128) clsCE 0x04 1 c 0xFFF 0 0 0)
      (modCore hw c (fun t => { t with atu := t.atu.filter (fun e => !hit e) }))

/-- Insert a page, most recently used, replacing the least recently used of a full set. -/
def atuPut (t : Core) (e : AtuEnt) : Core :=
  let rest := t.atu.filter (fun x => !(x.ctx == e.ctx && x.page.va == e.page.va && x.page.log2 == e.page.log2))
  let set := rest.filter (fun x => atuSet x.page == atuSet e.page)
  let keep := if set.length < 8 then rest else match set.getLast? with
    | some v => rest.filter (fun x => x != v)
    | none => rest
  { t with atu := e :: keep }

def atuTouch (t : Core) (e : AtuEnt) : Core := { t with atu := e :: t.atu.filter (fun x => x != e) }

/-- Entries of a context that overlap a range go (R304). -/
def atuDrop (t : Core) (ctx lo hi : Nat) : Core :=
  { t with atu := t.atu.filter (fun e => !(e.ctx == ctx && decide (e.page.va < hi ∧ lo < e.page.va + 2 ^ e.page.log2))) }

/-- Pages of an extent counted up to 17 (R207): by the ATU, else by the tables as they stand. -/
def countPages (hw : Hw) (c ctx : Nat) : Nat → Nat → Nat → Nat
  | 0, _, _ => 0
  | fuel + 1, va, left =>
    if left = 0 then 0
    else
      let k := match atuFind (getCore hw c) ctx (va % vaMod) with
        | some e => e.page.log2
        | none => match walkWith peek (fun h _ _ => h) hw ctx (va % vaMod) with
          | some (_, o) => regionLog2 o
          | none => 12
      let step := 2 ^ k - va % 2 ^ k
      1 + countPages hw c ctx fuel (va + step) (left - step)

def tooManyPages (hw : Hw) (c : Nat) (m : Cmd) : Bool :=
  (extents m.w).any (fun e => decide (e.2.1 + 8190 ≥ 17 * 4096) &&
    decide (countPages hw c (ctxOf hw c m.q) 17 e.1 e.2.1 > 16))

/-! #### Translating a command (R205, R207) -/

/-- How far a translation comes: complete; a page the ATU lacks; a page without the permission. -/
inductive XRes
  | done
  | miss (va : Nat) (write : Bool)
  | denied (p : Page) (va : Nat) (write : Bool)
  deriving DecidableEq, Repr

/-- Translate the pages of one extent from an address on: pages the command already holds first, then the ATU. -/
def xlatExtent (c ctx : Nat) (write : Bool) : Nat → Hw → Cmd → Nat → Nat → Hw × Cmd × XRes
  | 0, hw, m, _, _ => (hw, m, .done)
  | fuel + 1, hw, m, va, left =>
    if left = 0 then (hw, m, .done)
    else
      let a := va % vaMod
      let got := m.pages.find? (fun p => inPage p a)
      let hw0 := if got.isSome then hw else atuParity hw c a
      let r : Option (Hw × Cmd × Page) := match got with
        | some p => some (hw0, m, p)
        | none => match atuFind (getCore hw0 c) ctx a with
          | some e => some (radd (modCore hw0 c (fun t => atuTouch t e)) (Reg.atuHitCnt c) 1,
                            { m with pages := m.pages ++ [e.page] }, e.page)
          | none => none
      match r with
      | none => (hw0, m, .miss a write)
      | some (hw1, m1, p) =>
        if (if write then p.w else p.r) then
          let step := 2 ^ p.log2 - a % 2 ^ p.log2
          xlatExtent c ctx write fuel hw1 m1 (va + step) (left - step)
        else (hw1, m1, .denied p a write)

def xlatAll (c ctx : Nat) : List (Nat × Nat × Bool) → Hw → Cmd → Hw × Cmd × XRes
  | [], hw, m => (hw, m, .done)
  | e :: es, hw, m =>
    match xlatExtent c ctx e.2.2 17 hw m e.1 e.2.1 with
    | (hw1, m1, .done) => xlatAll c ctx es hw1 m1
    | r => r

/-! #### Faults (R297–R299) -/

def slotGet (t : Core) (n : Nat) : Option FltSlot := mget (fun _ => none) t.slots n
def slotSet (hw : Hw) (c n : Nat) (v : Option FltSlot) : Hw :=
  modCore hw c (fun t => { t with slots := mput (fun _ => none) t.slots n v })

/-- The write bit and read bit of ACC. -/
def accBit (write : Bool) : Nat := if write then 2 else 1

/-- A requester's fault (R286, R298): aborted at once under ABORT_ON_FAULT, joined to the pending fault of its context
and stopping entry, put into a free slot, or left waiting for one. -/
def takeFault (hw : Hw) (c : Nat) (m : Cmd) (ctx cause level : Nat) (key : Option Nat) (entry : Word) (va : Nat)
    (write aof : Bool) : Hw × Cmd :=
  let t := getCore hw c
  let hit := (List.range 8).find? (fun n => match slotGet t n with
    | some s => s.ctx == ctx && s.key == key
    | none => false)
  if aof then (radd hw (Reg.atuFltCnt c) 1, { m with pre := some stXlatAbort, old := false, walking := false })
  else match hit with
    | some n => match slotGet t n with
      | some s =>
        (radd (slotSet hw c n (some { s with
            acc := s.acc ||| accBit write, reqs := s.reqs ++ [m.id],
            qmask := s.qmask ||| 2 ^ m.q, emask := s.emask ||| 2 ^ hEng m.w })) (Reg.atuJoinCnt c) 1,
          { m with walking := false })
      | none => (hw, m)
    | none =>
      match (List.range 8).find? (fun n => (slotGet t n).isNone) with
      | some n =>
        let s : FltSlot := ⟨ctx, key, cause, level, accBit write, t.fltSeq + 1, va,
          if cause ≥ 5 then 0 else entry, m.index, [m.id], 2 ^ m.q, 2 ^ hEng m.w, false⟩
        (radd (modCore (slotSet hw c n (some s)) c (fun t => { t with fltSeq := t.fltSeq + 1 })) (Reg.atuFltCnt c) 1,
          { m with walking := false })
      | none => (modCore hw c (fun t => { t with slotWait := t.slotWait ++ [m.id] }), { m with walking := false })

/-- Whether a requester is held by a fault, joined or waiting for a slot. -/
def faulted (t : Core) (id : Nat) : Bool :=
  t.slotWait.contains id || (List.range 8).any (fun n => match slotGet t n with
    | some s => s.reqs.contains id
    | none => false)

/-- Whether the walk for one address answers a request for another (R294): they have the same level-0, level-1 or level-2
entry; a core's further misses on a page wait for its one reply (R293). -/
def covers (o : WalkOut) (va at_ : Nat) (sameCore : Bool) : Bool :=
  va / 4096 == at_ / 4096 || (decide (o.level ≤ 2) && o.key.isSome && va / 2 ^ levelShift o.level == at_ / 2 ^ levelShift o.level) ||
    (sameCore && match o.page with
      | some p => inPage p at_
      | none => false)

/-- A walk asked of the die's walker: one request for a page from a core (R293). It shares a walk under way where the
tables as they stand say so, and starts one else; a walk counts when its request comes, as the 64 places show only in
timing (log 68, DEDUCED). -/
def askWalk (hw : Hw) (c : Nat) (m : Cmd) (ctx va : Nat) (write : Bool) : Hw :=
  let d := c / 128
  let t := getTree hw d
  let out := (walkWith peek (fun h _ _ => h) hw ctx va).map (fun x => x.2)
  let with_ := fun r : WalkReq => r.ctx == ctx && match out with
    | some o => covers o va r.va (r.core == c)
    | none => r.va / 4096 == va / 4096
  let samePage := fun r : WalkReq => r.core == c && r.ctx == ctx && (r.va / 4096 == va / 4096 || (match out with
    | some o => o.page.any (fun p => inPage p r.va)
    | none => false))
  let hw1 := setTree hw d { t with walks := t.walks ++ [⟨c, m.id, ctx, va, write⟩] }
  let hw2 := if t.walks.any samePage then hw1 else radd hw1 (Reg.atuMissCnt c) 1
  if t.walks.any with_ then hw2 else radd hw2 (Reg.wlkWalkCnt d) 1

/-- Carry a command's translation as far as it goes: complete (true), or a walk asked for, or a fault. -/
def translate (hw : Hw) (c : Nat) (m : Cmd) : Hw × Cmd × Bool :=
  let ctx := ctxOf hw c m.q
  match m.pre with
  | some _ => (hw, { m with old := false, walking := false }, true)
  | none =>
    match xlatAll c ctx (extents m.w) hw m with
    | (hw1, m1, .done) => (hw1, { m1 with old := false, walking := false }, true)
    | (hw1, m1, .miss va wr) => (askWalk hw1 c m1 ctx va wr, { m1 with walking := true }, false)
    | (hw1, m1, .denied p va wr) =>
      let hw2 := modCore hw1 c (fun t => { t with atu := t.atu.filter (fun e => !(e.ctx == ctx && e.page == p)) })
      let r := takeFault hw2 c m1 ctx (if wr then 3 else 2) p.level (some p.leaf) p.entry va wr p.aof
      (r.1, { r.2 with pages := r.2.pages.filter (fun x => x != p) }, r.2.pre.isSome)

/-- Start a stored command's translation over (R300, R304). -/
def translateAgain (hw : Hw) (c id : Nat) : Hw :=
  match findCmd hw c id with
  | none => hw
  | some m =>
    let hw0 := if m.old then radd hw (Reg.atuRetransCnt c) 1 else hw
    let r := translate hw0 c { m with pages := [] }
    setCmd r.1 c r.2.1

/-- A queue's old commands in an engine's FIFO translate again one after the other (R298, R304): one that waits for a
walk or a fault holds back those behind it. -/
def fifoGo (c q eng : Nat) : Nat → Hw → Hw
  | 0, hw => hw
  | n + 1, hw =>
    let t := getCore hw c
    match t.cmds.find? (fun m => m.stage == .fifo && m.old && m.q == q && hEng m.w == eng) with
    | none => hw
    | some m => if m.walking || faulted t m.id then hw else fifoGo c q eng n (translateAgain hw c m.id)

/-- The same for every queue and engine of a core. -/
def fifoAll (hw : Hw) (c : Nat) : Hw :=
  if (getCore hw c).cmds.any (fun m => m.stage == .fifo && m.old) then
    foldN 32 hw (fun h i => fifoGo c (i / 4) (1 + i % 4) 256 h)
  else hw

/-- A slot is free again; the record of its fault is still to be written where the ring is enabled and has not taken it
(R299). -/
def slotFree (hw : Hw) (c n : Nat) (s : FltSlot) : Hw :=
  let hw1 := slotSet hw c n none
  if !s.recorded && rbit hw (Reg.atuFltBase c) 7 then modCore hw1 c (fun t => { t with fltLate := t.fltLate ++ [(n, s)] }) else hw1

/-- Requesters that wait for a slot translate again when one frees (R298). -/
def wakeWaiters (hw : Hw) (c : Nat) : Hw :=
  let ws := (getCore hw c).slotWait
  fifoAll (ws.foldl (fun h id => translateAgain h c id) (modCore hw c (fun t => { t with slotWait := [] }))) c

/-- A requester leaves every fault and walk (R301): slots left without one free themselves. -/
def forget (hw : Hw) (c id : Nat) : Hw :=
  let d := c / 128
  let t := getTree hw d
  let hw0 := setTree hw d { t with walks := t.walks.filter (fun r => !(r.core == c && r.cmd == id)) }
  let hw1 := modCore hw0 c (fun t => { t with slotWait := t.slotWait.filter (fun x => x != id),
                                              late := t.late.filter (fun x => x.cmd != id) })
  let held := (List.range 8).any (fun n => match slotGet (getCore hw1 c) n with
    | some s => s.reqs.contains id && s.reqs.length == 1
    | none => false)
  let q := ((findCmd hw c id).map (·.q)).getD 8
  let hw2 := foldN 8 hw1 (fun h n => match slotGet (getCore h c) n with
    | some s => if s.reqs.contains id then
        let rest := s.reqs.filter (fun x => x != id)
        if rest = [] then slotFree h c n s
        else slotSet h c n (some { s with reqs := rest, qmask := if rest.any (fun x => ((findCmd hw c x).map (·.q)) == some q)
          then s.qmask else s.qmask &&& (255 - 2 ^ q) })
      else h
    | none => h)
  if held then wakeWaiters hw2 c else hw2

/-! #### Looking addresses up in a command's translations (R207) -/

/-- The physical address, package field included, of a virtual address a command holds a translation for. -/
def paOf (m : Cmd) (va : Nat) : Option Nat :=
  (m.pages.find? (fun p => inPage p (va % vaMod))).map (fun p => p.pa + (va % vaMod - p.va))

/-- A physical address with this package's own identifier is local (R51). -/
def pkgOf (hw : Hw) (pa : Nat) : Nat :=
  let p := pa / 2 ^ 52 % 4096
  if p = hw.img.pkgId.toNat then 0 else p
def localOf (pa : Nat) : Nat := pa % 2 ^ 52

end Sys2Proof.Machine
end

