-- ==== Sys2Proof/Machine/FabOps.lean ====
section
/-! DEFINITION. Sending fabric messages (R431, R435–R440) and requests through a downstream port, and reaching every
range a DE may read or write (R60, R67, R217): tiers, scratchpads, accumulators, port windows, other packages. -/

namespace Sys2Proof.Machine

/-! #### Fabric messages -/

/-- The four words of a message's header slot, each field at its bits (R436). -/
def hdrWords (op : Nat) (h : FabHdr) : List Nat :=
  [op * 2 ^ 59 + h.vc.toNat * 2 ^ 57 + h.dst.toNat * 2 ^ 44 + h.src.toNat * 2 ^ 32 + h.agent.toNat * 2 ^ 20 + h.tag.toNat,
   h.addr.toNat,
   h.lenM1.toNat * 2 ^ 56 + h.rop.toNat * 2 ^ 52 + h.rfmt.toNat * 2 ^ 48 + h.func.toNat * 2 ^ 44 + h.hint.toNat * 2 ^ 42 +
     h.htgt.toNat * 2 ^ 30 + h.status.toNat,
   h.opnd.toNat]

/-- The bytes of a message: the header slot, the slots of its data, the slot with CMP of a compare and swap (R436, R437);
words and data lie little-endian in their slots (log 55, DEDUCED). -/
def fabBytes (op : Nat) (h : FabHdr) (data : List Byte) : List Byte :=
  (hdrWords op h).flatMap (leBytes 8) ++ data ++ List.replicate ((32 - data.length % 32) % 32) 0 ++
    (if op = 0x03 ∧ h.func = 9 then List.replicate 8 0 ++ leBytes 8 h.cmp.toNat ++ List.replicate 16 0 else [])

/-- The 32-byte slots of a message (R436). -/
def fabSlots (op : Nat) (h : FabHdr) (data : List Byte) : Nat := (fabBytes op h data).length / 32

/-- A message leaves by a port, in flits and against the slots of its channel (R420, R436, R438). A request is delivered with
its last flit; a forwarded one is remembered until that is acknowledged (R443) (log 55, DEDUCED). -/
def fabOut (hw : Hw) (p op : Nat) (h : FabHdr) (data : List Byte) (req : Option FabReq) : Hw :=
  let slots := fabSlots op h data
  let hw1 := flitsOut hw p slots
  let t := getPort hw1 p
  let last := (t.txNext + 65535) % 65536
  let passing := if req.isNone ∧ op < 0x10 then t.transit ++ [(last, h)] else t.transit
  let hw2 := setPort hw1 p { t with vcUsed := mmod (fun _ => 0) t.vcUsed h.vc.toNat (· + slots), transit := passing }
  let hw3 := { hw2 with sent := hw2.sent ++ [.fab p op h data] }
  match req with
  | some r => { hw3 with pkg := { hw3.pkg with fabReqs := hw3.pkg.fabReqs ++ [{ r with port := p, seq := last }] } }
  | none => hw3

/-- A message finds no room at a port: in the replay buffer, whose lack stalls the port (R421), or in its virtual channel,
which stalls that channel only (R438); a channel with nothing outstanding takes any message (log 55, DEDUCED). -/
def portFull (hw : Hw) (p vc slots : Nat) : Bool :=
  let t := getPort hw p
  let used := mget (fun _ => 0) t.vcUsed vc
  decide (1024 < t.unacked + (slots + 7) / 8) || (used != 0 && decide (Config.vcCredits vc < used + slots))

/-- A request of a DE: of no signal (no command), no semaphore wait and no SE_AMO. -/
def ofDe (cmd : Nat) (dest : ReqDest) : Bool :=
  cmd != 0 && (match dest with | .sem => false | .greg _ _ => false | _ => true)

/-- The DE of a core has as many fabric requests outstanding as it tracks, those that wait at their source for a port or their
pace among them (R440) (log 55, DEDUCED). -/
def trackersFull (hw : Hw) (c : Nat) : Bool :=
  let mine := fun r : FabReq => r.core == c && ofDe r.cmd r.dest
  decide (2048 ≤ hw.pkg.fabReqs.countP mine + hw.pkg.held.countP (fun m => m.level != 101 && m.req.any mine))

/-- Hold a message at its source: at a pacing level (R435), at 100 while every port of its route is in REPAIR or its
port or its channel is stalled, at 101 while its DE tracks as many requests as it can (R440). -/
def fabHold (hw : Hw) (level op : Nat) (h : FabHdr) (data : List Byte) (req : Option FabReq) : Hw :=
  { hw with pkg := { hw.pkg with held := hw.pkg.held ++ [⟨level, op, h, data, req⟩] } }

def bucketDefault : Nat → Nat := fun _ => 65536

/-- The tokens of a level's bucket as a message comes: how many have come back since the last one is free (R435) (log 55,
DEDUCED). -/
def bucketNow (hw : Hw) (level : Nat) : Nat × Hw :=
  let t := mget bucketDefault hw.pkg.tokens level
  if 65536 ≤ t then (t, hw) else let r := draw hw; (t + r.1.toNat % (65537 - t), r.2)

/-- Send a message (R431, R435): false when a request has no route; a response without one is dropped (R433) (log 55,
DEDUCED). -/
def fabSend (hw : Hw) (op : Nat) (h : FabHdr) (data : List Byte) (req : Option FabReq) : Hw × Bool :=
  let r := routeOf hw h.dst.toNat
  let a := hw.pkg.primary
  if r.kind ≤ 1 then
    if op ≥ 0x10 then (radd hw (Reg.pcpFabDropCnt a) 1, true) else (hw, false)
  else
    let paced : Bool := r.kind == 4 && hw.img.pace
    let now := if paced then bucketNow hw r.level else (0, hw)
    if paced && decide (now.1 < data.length) then
      (radd (fabHold now.2 r.level op h data req) (Reg.pcpFabPaceCnt a) 1, true)
    else
      let hw1 := if paced then
          { now.2 with pkg := { now.2.pkg with tokens := mput bucketDefault now.2.pkg.tokens r.level (now.1 - data.length) } } else hw
      match choosePort hw1 r h.agent.toNat h.dst.toNat h.addr.toNat with
      | some p =>
        if portFull hw1 p h.vc.toNat (fabSlots op h data) then (fabHold hw1 100 op h data req, true)
        else (fabOut hw1 p op h data req, true)
      | none => (fabHold hw1 100 op h data req, true)

def noHdr : FabHdr := ⟨0, 0, 0, 0, 0, 0, 0, 0, 0, 0, 0, 0, 0, 0, 0, false⟩

/-- The next tag that no request of the package carries, outstanding or held (R437). -/
def freeTag (hw : Hw) : Nat :=
  let used := hw.pkg.fabReqs.map (·.tag) ++ hw.pkg.held.filterMap (fun m => m.req.map (·.tag))
  (((List.range (used.length + 1)).map (fun i => (hw.pkg.nextTag + i) % 2 ^ 20)).find? (fun t => !used.contains t)).getD hw.pkg.nextTag

/-- A request of core `c` to an address of another package: opcode, address, bytes it touches, the rest of its header,
data, where its answer goes. False when there is no route. -/
def fabRequest (hw : Hw) (c cmd op pa len : Nat) (h : FabHdr) (data : List Byte) (dest : ReqDest) : Hw × Bool :=
  let tag := freeTag hw
  let dst := pkgOf hw pa
  let h1 : FabHdr :=
    { h with
      vc := 0
      dst := BitVec.ofNat 12 dst
      src := hw.img.pkgId
      agent := BitVec.ofNat 12 c
      tag := BitVec.ofNat 20 tag
      addr := BitVec.ofNat 52 (localOf pa)
      lenM1 := BitVec.ofNat 8 (len - 1) }
  let r : FabReq := ⟨tag, op, dst, localOf pa, 0, 0, false, c, cmd, dest, len⟩
  let hw1 := { hw with pkg := { hw.pkg with nextTag := (tag + 1) % 2 ^ 20 } }
  if ofDe cmd dest && trackersFull hw c && decide (1 < (routeOf hw dst).kind) then (fabHold hw1 101 op h1 data (some r), true)
  else fabSend hw1 op h1 data (some r)

/-- Cut a run at 256-byte blocks (R436). -/
def cutBlocks : Nat → Nat → Nat → List (Nat × Nat)
  | 0, _, _ => []
  | fuel + 1, a, n =>
    if n = 0 then [] else let k := min n (256 - a % 256); (a, k) :: cutBlocks fuel (a + k) (n - k)

/-! #### A command's running status -/

/-- The first failure of a command's requests gives its status (R440); a dropped write's stands before that of poison,
which is no failure of a request (R200). -/
def failCmd (m : Cmd) (st : Nat) : Cmd :=
  if m.status = 0 ∨ (st = stCreditViolation ∧ m.status = stData) then { m with status := st } else m

/-- A write of a command has been dropped: it issues no more, and those that still wait at this package are not sent
(R200). -/
def dropWrite (hw : Hw) (c : Nat) (m : Cmd) : Hw × Cmd :=
  let mine := fun x : Held => (x.op == 0x01 || x.op == 0x04) && x.req.any (fun r => r.core == c && r.cmd == m.id)
  let lost := hw.pkg.held.filter mine
  ({ hw with pkg := { hw.pkg with held := hw.pkg.held.filter (fun x => !mine x) } },
    { failCmd m stCreditViolation with
      dropped := true
      out := m.out - lost.length
      info := m.info - (lost.map (fun x => x.data.length)).sum })

/-- One fabric request of a command: outstanding, or failed at once for want of a route. -/
def cmdRequest (hw : Hw) (c : Nat) (m : Cmd) (op pa len : Nat) (h : FabHdr) (data : List Byte) (dest : ReqDest) : Hw × Cmd :=
  let r := fabRequest hw c m.id op pa len h data dest
  if r.2 then (r.1, { m with out := m.out + 1 })
  else (radd r.1 (Reg.pcpFabUnreachCnt hw.pkg.primary) 1, failCmd m stUnreachable)

/-! #### Downstream ports -/


/-- Whether a downstream link carries requests: a mode trained, no DPC (R464, R468). -/
def cxdUp (hw : Hw) (a : Nat) : Bool := rbits hw (Reg.cxdStatus a) 41 40 != 0 && !rbit hw (Reg.cxdStatus a) 33

/-- The root port's own configuration header, which answers with the link down too (R452) (log 76, DEDUCED). -/
def ownHeader (off : Nat) : Bool := decide (off < 0x1000)

/-- A non-posted read at a downstream port (R463). -/
def dsRead (hw : Hw) (a addr len : Nat) (who : DsWho) : Hw :=
  let t := getAcelo hw a
  let hw1 := setAcelo hw a { t with out := t.out ++ [⟨t.nextTag, addr, who⟩], nextTag := t.nextTag + 1 }
  { hw1 with sent := hw1.sent ++ [.tlp a false addr len [] false] }

/-- A write of the root port's own header may program its sizes (R453) and release DPC (R465): its layout is that of PCIe 6.x
and not given, so whether it does is open (log 76, DEDUCED). -/
def headerWritten (hw : Hw) (a : Nat) : Hw :=
  let r := draw hw
  let hw1 := setAcelo r.2 a { getAcelo r.2 a with prog := hw.fresh + 1 }
  if bit r.1 0 then rfield hw1 (Reg.cxdStatus a) 33 33 0 else hw1

/-- A non-posted write at a downstream port: a configuration access of the ECAM range (R58, R463). -/
def dsWrite (hw : Hw) (a addr : Nat) (bs : List Byte) (who : DsWho) : Hw :=
  let t := getAcelo hw a
  let hw1 := setAcelo hw a { t with out := t.out ++ [⟨t.nextTag, addr, who⟩], nextTag := t.nextTag + 1 }
  let hw2 := { hw1 with sent := hw1.sent ++ [.tlp a true addr bs.length bs false] }
  if ownHeader (addr % 0x040000000000) then headerWritten hw2 a else hw2

/-- A posted write at a downstream port, with its Relaxed Ordering attribute (R457). -/
def dsPost (hw : Hw) (a addr : Nat) (bs : List Byte) (ro : Bool) : Hw :=
  { hw with sent := hw.sent ++ [.tlp a true addr bs.length bs ro] }

/-- Where a piece of an answer goes: so many bytes after the place of the whole. -/
def destAt (off : Nat) : ReqDest → ReqDest
  | .put kind addr rop rfmt hint htgt => .put kind (addr + off) rop rfmt hint htgt
  | d => d

/-- The sizes programmed at port `p`, to which a DE cuts what it writes and what it reads: 128 bytes, or so many that a block
of 256 stands whole (R453); the configuration register is not laid out, so which of the two is free, and stays until the
header is written again (log 76, DEDUCED). -/
def dsCut (hw : Hw) (p : Nat) (read : Bool) (a n : Nat) : List (Nat × Nat) :=
  let k := 128 - a % 128
  if Config.portSmall (getAcelo hw p).prog read ∧ k < n then [(a, k), (a + k, n - k)] else [(a, n)]

/-- A posted write of a command: the first of one with REL = 1, and a queue's first after a QFE_FENCE, carry RO = 0
(R457). -/
def enginePost (c a : Nat) (hw : Hw) (m : Cmd) (addr : Nat) (bs : List Byte) : Hw × Cmd :=
  let t := getQueue hw c m.q
  let ordered : Bool := (hRel m.w && !m.posted) || t.ordNext
  (dsPost (setQueue hw c m.q { t with ordNext := false }) a addr bs !ordered, { m with posted := true })

/-! #### Reductions (R385) -/

/-- How a DE's write reaches its destination: reduction and its format, hint, element of a scatter; `seq` numbers the write of
an adapter it is (R458). -/
structure WrHow where
  rop  : Nat
  rfmt : Nat
  hint : Nat
  htgt : Nat
  roe  : Bool
  seq  : Nat

/-- A reduction line by line, with its hint (R389), on the Roe path where `roe` says so (R334); whether poison met it. -/
def reduceN (how : WrHow) (ag : Agent) (roe : Bool) : Nat → Hw → Nat → List Byte → Option (Hw × Bool)
  | 0, hw, _, _ => some (hw, false)
  | fuel + 1, hw, a, bs =>
    if bs = [] then some (hw, false)
    else
      let k := min bs.length (64 - a % 64)
      let data := List.replicate (a % 64) 0 ++ bs.take k
      let op : AtomOp := .reduce how.rop how.rfmt (lineMask (a % 64) k)
      match pocServe hw { mkReq .atomic ag (a / 64) with
          op := some op, data := data, hint := how.hint, htgt := how.htgt, roe := roe } with
      | none => none
      | some r => (reduceN how ag roe fuel r.hw (a + k) (bs.drop k)).map (fun x => (x.1, x.2 || r.poison))

/-- Bytes written to a tier at the point of coherence, on the Roe path where `roe` says so (R334). -/
def tierWrite : Nat → Hw → Agent → Nat → List Byte → Bool → Nat → Nat → Bool → Option Hw
  | 0, hw, _, _, _, _, _, _, _ => some hw
  | fuel + 1, hw, ag, a, bs, poison, hint, htgt, roe =>
    if bs = [] then some hw
    else
      let k := min bs.length (64 - a % 64)
      let data := List.replicate (a % 64) 0 ++ bs.take k
      let mask := lineMask (a % 64) k
      match pocServe hw { mkReq (if mask = fullMask then .wrFull else .wrPartial) ag (a / 64) with
          mask := mask, data := data, poison := poison, hint := hint, htgt := htgt, roe := roe } with
      | none => none
      | some r => tierWrite fuel r.hw ag (a + k) (bs.drop k) poison hint htgt roe

/-- Bytes read from a tier at the point of coherence, with the hint of a prefetch (R389). -/
def tierRead (hint htgt : Nat) : Nat → Hw → Agent → Nat → Nat → Bool → Option (Hw × List Byte × Bool)
  | 0, hw, _, _, _, _ => some (hw, [], false)
  | fuel + 1, hw, ag, a, n, roe =>
    if n = 0 then some (hw, [], false)
    else
      let k := min n (64 - a % 64)
      match pocServe hw { mkReq .rdOnce ag (a / 64) with hint := hint, htgt := htgt, roe := roe } with
      | none => none
      | some r => match tierRead hint htgt fuel r.hw ag (a + k) (n - k) roe with
        | none => none
        | some (hw2, rest, p) => some (hw2, slice r.old (a % 64) k ++ rest, r.poison || p)

/-- Whether a request takes the Roe path: tier 0, one aligned 32-byte half (R334). -/
def roePath (hw : Hw) (pa n : Nat) : Bool :=
  featureOn hw 5 && decide (pa < 0x00C000000000 ∧ pa / 32 = (pa + n - 1) / 32)

/-- A consumed poison's record on the consumer's die (R521) (log 69, DEDUCED). -/
def poisonUsed (hw : Hw) (c unit ctx pa : Nat) : Hw := ras hw (c / 128) clsUE unit 3 c c ctx 0 (localOf pa)

/-- The die that answers for an address: the one that owns its range, or the requester's own (R64) (log 100, DESIGN CHOICE). -/
def dieOfAddr (hw : Hw) (a : Nat) (ag : Agent) : Nat :=
  match locate a with
  | .tier0 | .tier1 => homeDie hw a
  | .spad c _ => c / 128
  | .acc c _ => c / 128
  | .reg (.core c _) _ => c / 128
  | .reg (.die d _) _ => d
  | .imsic h _ _ => 4 + h / 36
  | .port p _ => 4 + p
  | .pkgReg _ => 4 + hw.pkg.primary
  | .hole (some d) => d
  | .hole none => dieOfAgent ag

/-- A local address names nothing (R55, R56, R59, R64) (log 89, DESIGN CHOICE). -/
def unimplemented (hw : Hw) (a : Nat) : Bool :=
  match locate a with
  | .hole _ => true
  | .spad t _ | .acc t _ => !corePresent hw t
  | .reg (.core t s) off => !corePresent hw t || (findRow (rowsOf (.core t s)) (off - off % 8)).isNone
  | .reg (.die d b) off => (b == 4 && modElsewhere d off) || (findRow (rowsOf (.die d b)) (off - off % 8)).isNone
  | _ => false

/-- The cause of a refused access: where several hold, an unimplemented address (5) comes before a size (6), and both before
an atomic operation on a range without them (8) and a refusal (7) (R63) (log 89, DESIGN CHOICE). -/
def accessCause (hw : Hw) (a k : Nat) : Nat := if unimplemented hw a then 5 else k

/-- An access the local map refuses: the record and ADDRESS_ERROR. -/
def dmaRefused (hw : Hw) (c : Nat) (m : Cmd) (pa cause : Nat) : Hw × Cmd :=
  (errorResponse hw (dieOfAddr hw (localOf pa) (engAgent c)) cause (engAgent c) (ctxOf hw c m.q) (localOf pa), failCmd m stAddress)

/-- Pieces read one after the other; none where one is refused. -/
def readPieces (rd : Hw → Nat → Nat → Option (Hw × List Byte × Bool)) : List (Nat × Nat) → Hw → Option (Hw × List Byte × Bool)
  | [], hw => some (hw, [], false)
  | (o, k) :: ps, hw =>
    match rd hw o k with
    | none => none
    | some (hw1, bs, p) => (readPieces rd ps hw1).map (fun r => (r.1, bs ++ r.2.1, p || r.2.2))

/-- Scratchpad pieces written from outside their core, up to the first that is dropped (R200). -/
def spadPieces (ag : Agent) (t : Nat) (poison : Bool) : List (Nat × Nat) → Hw → List Byte → Hw × SpadRes
  | [], hw, _ => (hw, .ok)
  | (o, k) :: ps, hw, bs =>
    match spadWriteByP hw ag t o (bs.take k) poison with
    | (hw1, .ok) => spadPieces ag t poison ps hw1 (bs.drop k)
    | r => r

/-! #### DE accesses to memory addresses (R60, R217, R523) -/

/-- A core's access to another die waits while the mesh holds it at its source (R30). -/
def dmaHeld (hw : Hw) (c a : Nat) : Bool := meshHeld hw (c / 128) (dieOfAddr hw a (engAgent c)) a

/-- A DE write of bytes within one aligned 256-byte block of a local range. None while the line cannot be served. -/
def dmaWriteLocal (hw : Hw) (c : Nat) (m : Cmd) (pa : Nat) (bs : List Byte) (poison : Bool) (how : WrHow) : Option (Hw × Cmd) :=
  let a := localOf pa
  let n := bs.length
  let ag := engAgent c
  if dmaHeld hw c a then none else match locate a with
  | .tier0 | .tier1 =>
    if fencedHome hw ag a then some (dmaRefused hw c m pa 7)
    else if how.rop ≠ 0 ∧ !poison then
      match reduceN how ag (how.roe && roePath hw a n) 8 hw a bs with
      | none => none
      | some (hw1, bad) =>
        if bad then some (poisonUsed (l1Drop hw1 c a n) c 0x01 (ctxOf hw c m.q) a, failCmd m stData)
        else some (l1Drop hw1 c a n, m)
    else match tierWrite 8 hw ag a bs poison how.hint how.htgt (how.roe && roePath hw a n) with
      | none => none
      | some hw1 => some (l1Drop hw1 c a n, m)
  | .spad t off =>
    if how.rop ≠ 0 then some (dmaRefused hw c m pa (accessCause hw a 8))
    else if t = c then
      if touchesGated hw c off n then some (hw, failCmd m stAddress) else some (spadPut hw c off bs poison, m)
    else match spadPieces ag t poison (cutSpad 300 off n) hw bs with
      | (hw1, .ok) => some (hw1, m)
      | (hw1, .violation) => some (dropWrite hw1 c m)
      | (hw1, .refused cause) => some (dmaRefused hw1 c m pa cause)
  | .acc t off =>
    if t = c ∧ how.rop = 0 then some (accPut hw c off bs poison, m)
    else some (dmaRefused hw c m pa (accessCause hw a (if how.rop = 0 then 7 else 8)))
  | .port p off =>
    if how.rop ≠ 0 then some (dmaRefused hw c m pa 8)
    else if poison then some (hw, failCmd m stData)
    else if !(cxdUp hw p || ownHeader off) then some (dmaRefused hw c m pa 5)
    else
      some ((dsCut hw p false a n).foldl (fun x k =>
        let part := slice bs (k.1 - a) k.2
        if off < 0x10000000 then
          (dsWrite x.1 p k.1 part (.engine ⟨0, 0x01, 0, k.1, 0, 0, true, c, m.id, .none, 0⟩), { x.2 with out := x.2.out + 1 })
        else enginePost c p x.1 x.2 k.1 part) (hw, m))
  | _ => some (dmaRefused hw c m pa (accessCause hw a (if how.rop = 0 then 7 else 8)))

/-- A DE write of a run: block by block, to this package or over the fabric; poison never leaves the package (R523);
nothing follows a dropped write (R200). -/
def dmaWrite (c : Nat) (poison : Bool) (how : WrHow) : List (Nat × Nat) → Hw → Cmd → List Byte → Option (Hw × Cmd)
  | [], hw, m, _ => some (hw, m)
  | (pa, k) :: ps, hw, m, bs =>
    let part := bs.take k
    if m.dropped then some (hw, m)
    else if pkgOf hw pa ≠ 0 then
      if poison then dmaWrite c poison how ps hw (failCmd m stData) (bs.drop k)
      else
        let h : FabHdr :=
          { noHdr with
            rop := BitVec.ofNat 4 how.rop
            rfmt := BitVec.ofNat 4 how.rfmt
            hint := BitVec.ofNat 2 how.hint
            htgt := BitVec.ofNat 12 how.htgt
            elem := how.roe }
        let r := cmdRequest hw c m (if how.rop = 0 then 0x01 else 0x04) pa k h part .none
        dmaWrite c poison how ps r.1 r.2 (bs.drop k)
    else match dmaWriteLocal hw c m pa part poison how with
      | none => none
      | some r => dmaWrite c poison how ps r.1 r.2 (bs.drop k)

/-- A DE read within one aligned 256-byte block of a local range: bytes and poison, or nothing where the bytes come
later or the read failed. -/
def dmaReadLocal (hw : Hw) (c : Nat) (m : Cmd) (pa n : Nat) (roe : Bool) (dest : ReqDest) :
    Option (Hw × Cmd × Option (List Byte × Bool)) :=
  let a := localOf pa
  let fail := fun cause => let r := dmaRefused hw c m pa cause; some (r.1, r.2, none)
  if dmaHeld hw c a then none else match locate a with
  | .tier0 | .tier1 =>
    if fencedHome hw (engAgent c) a then fail 7
    else match tierRead 0 0 8 hw (engAgent c) a n (roe && roePath hw a n) with
    | none => none
    | some (hw1, bs, p) => some (hw1, m, some (bs, p))
  | .spad t off =>
    if t = c then
      (if touchesGated hw c off n then some (hw, failCmd m stAddress, none)
       else let r := spadRead hw c off n; some (r.1, m, some r.2))
    else match readPieces (fun h o k => spadReadBy h (engAgent c) t o k) (cutSpad 300 off n) hw with
      | none => fail (accessCause hw a 7)
      | some r => some (r.1, m, some r.2)
  | .acc t off =>
    if t = c then let r := accRead hw c off n; some (r.1, m, some r.2)
    else match readPieces (fun h o k => accReadBy h (engAgent c) t o k) (cutSpad 300 off n) hw with
      | none => fail (accessCause hw a 7)
      | some r => some (r.1, m, some r.2)
  | .port p off =>
    if cxdUp hw p || ownHeader off then
      let r := (dsCut hw p true a n).foldl (fun x k =>
        (dsRead x.1 p k.1 k.2 (.engine ⟨0, 0x02, 0, k.1, 0, 0, true, c, m.id, destAt (k.1 - a) dest, k.2⟩),
          { x.2 with out := x.2.out + 1 })) (hw, m)
      some (r.1, r.2, none)
    else fail 5
  | _ => fail (accessCause hw a 7)

/-- Bytes of a codec transfer's streams, by command and offset. -/
def stageBytes (hw : Hw) (c id off : Nat) (bs : List (Byte × Bool)) : Hw :=
  let put := fun f : FMap (Option (Byte × Bool)) =>
    (bs.zipIdx).foldl (fun f b => mput (fun _ => none) f (id * 2 ^ 33 + off + b.2) (some b.1)) f
  modCore hw c (fun t => { t with staged := put t.staged })

/-- How a DE cuts a run of a memory address: at 256-byte blocks (R436), and in a core's scratchpad or accumulator into
accesses that R53 accepts (R217). -/
def cutMem (a n : Nat) : List (Nat × Nat) :=
  (cutBlocks (n / 256 + 2) a n).flatMap (fun b => match locate (localOf b.1) with
    | .spad _ off => (cutSpad 300 off b.2).map (fun x => (b.1 + (x.1 - off), x.2))
    | .acc _ off => (cutSpad 300 off b.2).map (fun x => (b.1 + (x.1 - off), x.2))
    | _ => [b])

/-- A read of a local or remote block; one of another core's memory in another package is cut as a local one is, into
accesses that R53 accepts (log 81, DESIGN CHOICE). -/
def dmaRead (hw : Hw) (c : Nat) (m : Cmd) (pa n : Nat) (roe : Bool) (dest : ReqDest) :
    Option (Hw × Cmd × Option (List Byte × Bool)) :=
  if pkgOf hw pa ≠ 0 then
    let r := (cutMem pa n).foldl (fun x p => cmdRequest x.1 c x.2 0x02 p.1 p.2 { noHdr with elem := roe } [] (destAt (p.1 - pa) dest)) (hw, m)
    some (r.1, r.2, none)
  else dmaReadLocal hw c m pa n roe dest

/-- Whether a run at a virtual address lies in the core's own scratchpad window and touches a gated bank (R202). -/
def ownGated (hw : Hw) (c : Nat) (m : Cmd) (va n : Nat) : Bool :=
  (cutBlocks (n / 256 + 2) va n).any (fun b => match paOf m b.1 with
    | some pa => pkgOf hw pa == 0 && (match locate (localOf pa) with
      | .spad t off => t == c && touchesGated hw c off b.2
      | _ => false)
    | none => false)

/-- Write bytes at a transfer's destination: kind 0 its own scratchpad, 1 its own accumulator, 2 a physical address, 3
the codec's staging. -/
def dmaPut (hw : Hw) (c : Nat) (m : Cmd) (kind addr : Nat) (bs : List Byte) (poison : Bool) (how : WrHow) : Option (Hw × Cmd) :=
  if kind = 3 then some (stageBytes hw c m.id addr (bs.map (fun b => (b, poison))), m)
  else if kind = 0 then
    (if touchesGated hw c addr bs.length then some (hw, failCmd m stAddress) else some (spadPut hw c addr bs poison, m))
  else if kind = 1 then some (accPut hw c addr bs poison, m)
  else dmaWrite c poison how (cutMem addr bs.length) hw m bs

/-! #### Answers of fabric and downstream requests (R439, R440, R563) -/

/-- A semaphore signal to another package that was not applied (R563). -/
def signalLost (hw : Hw) (r : FabReq) (addr : Nat) : Hw :=
  ras hw (r.core / 128) clsRESP 0x01 15 r.core r.core 0 r.dst addr

/-- A store into the home queues where it cannot be served at once; how many requests wait there. `who` is the command
that has them outstanding (R70, R261). -/
def postWrites (ag : Agent) (poison : Bool) (how : WrHow) (who : Option (Nat × Nat)) : Nat → Hw → Nat → List Byte → Hw × Nat
  | 0, hw, _, _ => (hw, 0)
  | fuel + 1, hw, a, bs =>
    if bs = [] then (hw, 0)
    else
      let k := min bs.length (64 - a % 64)
      let data := List.replicate (a % 64) 0 ++ bs.take k
      let mask := lineMask (a % 64) k
      let req : HReq := if how.rop ≠ 0 then
          { mkReq .atomic ag (a / 64) with
            op := some (.reduce how.rop how.rfmt mask), data := data, hint := how.hint, htgt := how.htgt }
        else { mkReq (if mask = fullMask then .wrFull else .wrPartial) ag (a / 64) with
          mask := mask, data := data, poison := poison, hint := how.hint, htgt := how.htgt, seq := how.seq }
      let x := match pocServe hw req with
        | some r => (r.hw, 0)
        | none => (homeArrive hw { req with who := who }, 1)
      let y := postWrites ag poison how who fuel x.1 (a + k) (bs.drop k)
      (y.1, x.2 + y.2)

/-- Data goes to its place; a tier line that cannot be served at once takes it from its queue, and the command waits until its
home has answered (R70). -/
def putArrived (hw : Hw) (c : Nat) (m : Cmd) (kind addr : Nat) (bs : List Byte) (poison : Bool) (how : WrHow) : Hw × Cmd :=
  let m1 := if kind = 3 then m else { m with info := (m.info + bs.length) % 2 ^ 32 }
  match dmaPut hw c m1 kind addr bs poison how with
  | some r => r
  | none =>
    let r := postWrites (engAgent c) poison how (some (c, m.id)) (bs.length / 64 + 2) hw (localOf addr) bs
    (l1Drop r.1 c (localOf addr) bs.length, { m1 with out := m1.out + r.2 })

/-- The address lies in a port's window. -/
def isPortAddr (a : Nat) : Bool :=
  match locate a with
  | .port _ _ => true
  | _ => false

/-- Data that arrives for a transfer: a granule that it brings whole goes to its place, a part of one appears with the granule's
other parts, which other answers bring (R269, R270) (log 98, DESIGN CHOICE). -/
def arrivePut (hw : Hw) (c : Nat) (m : Cmd) (kind addr : Nat) (bs : List Byte) (poison : Bool) (how : WrHow) : Hw × Cmd :=
  if kind = 3 ∨ (kind = 2 ∧ (pkgOf hw addr ≠ 0 ∨ isPortAddr (localOf addr) = true)) then putArrived hw c m kind addr bs poison how
  else (cutGran (bs.length / 64 + 2) addr bs).foldl (fun y x =>
    if x.2.length < 64 then
      (addLate y.1 c ⟨m.id, kind, x.1, x.2, poison, how.rop, how.rfmt, how.hint, how.htgt, how.roe⟩,
        if kind = 2 then y.2 else { y.2 with info := (y.2.info + x.2.length) % 2 ^ 32 })
    else putArrived y.1 c y.2 kind x.1 x.2 poison how) (hw, m)

/-- The index word of a G register a load or an atomic writes, its value extended (R175). -/
def setG (hw : Hw) (c q n : Nat) (v : Word) : Hw := rset hw (Reg.seG c (16 * q + n)) v

/-- A take or an END that failed is not waited for. -/
def workAfterFail : Work → Work
  | .ending => .none
  | .take _ _ _ => .none
  | w => w

/-- A request of a command ends: data and old value reach their place, the first failure its status, the command has
one request less outstanding. A request of no command is a semaphore signal. -/
def fabFinish (hw : Hw) (r : FabReq) (status : Nat) (data : List Byte) (old : Word) : Hw :=
  let hw0 := if status = stUnreachable then radd hw (Reg.pcpFabUnreachCnt hw.pkg.primary) 1 else hw
  match findCmd hw0 r.core r.cmd with
  | none => if r.cmd = 0 ∧ status ≠ 0 then signalLost hw0 r r.addr else hw0
  | some m =>
    let m0 := { m with out := m.out - 1 }
    if r.dest = .sem then
      let m1 := if status = 0 then { m with seen := some (word (leNat data)) }
                else if status = stData then { m with seenBad := true } else { m with pre := some status }
      setCmd hw0 r.core m1
    else if status ≠ 0 then
      let m1 := { m0 with work := workAfterFail m0.work, info := if r.op = 0x01 ∨ r.op = 0x04 then m0.info - r.len else m0.info }
      let hw1 := if status = stData then poisonUsed hw0 r.core 0x01 (ctxOf hw r.core m.q) 0 else hw0
      let x := if status = stCreditViolation then dropWrite hw1 r.core m1 else (hw1, failCmd m1 status)
      setCmd x.1 r.core x.2
    else match r.dest with
      | .put kind addr rop rfmt hint htgt =>
        let x := arrivePut hw0 r.core m0 kind addr data false ⟨rop, rfmt, hint, htgt, false, 0⟩
        setCmd x.1 r.core x.2
      | .greg n size =>
        let v := if r.op = 0x03 then word (ofInt 64 (toInt (8 * size) old.toNat)) else old
        setCmd (setG hw0 r.core m.q n v) r.core m0
      | .take =>
        setCmd hw0 r.core (if takeGranted old then { m0 with work := .none }
          else match m0.work with
            | .take left pa _ => { m0 with work := .take (left - 1) pa false }
            | _ => m0)
      | .ending => setCmd hw0 r.core { m0 with work := .none }
      | _ => setCmd hw0 r.core m0

/-- A downstream completion that carries poison (R522, R523): the destination is poisoned, a destination in another
package is left unchanged. -/
def fabPoisoned (hw : Hw) (r : FabReq) (data : List Byte) : Hw :=
  match findCmd hw r.core r.cmd with
  | none => hw
  | some m =>
    let m0 := failCmd { m with out := m.out - 1 } stData
    let hw1 := poisonUsed hw r.core 0x01 (ctxOf hw r.core m.q) 0
    match r.dest with
    | .put kind addr rop rfmt hint htgt =>
      let x := arrivePut hw1 r.core m0 kind addr data true ⟨rop, rfmt, hint, htgt, false, 0⟩
      setCmd x.1 r.core x.2
    | _ => setCmd hw1 r.core m0

/-- The header of a response to a request: to its sender, with the same tag; its ADDR is an address there (R436). -/
def replyHdr (hw : Hw) (h : FabHdr) (status : Nat) (opnd : Word) : FabHdr :=
  { h with
    vc := 2
    dst := h.src
    src := hw.img.pkgId
    status := BitVec.ofNat 4 status
    opnd := opnd
    addr := Config.replyAddr h.tag.toNat
    elem := false }

/-- A forwarded request goes no further: its sender gets ERR NOROUTE (R433, R443, R444). -/
def noRoute (hw : Hw) (h : FabHdr) : Hw := (fabSend hw 0x14 (replyHdr hw h 3 0) [] none).1

/-- Send a message; without a route a request of this package ends, and a forwarded one is answered. -/
def fabEmit (hw : Hw) (op : Nat) (h : FabHdr) (data : List Byte) (req : Option FabReq) : Hw :=
  match fabSend hw op h data req, req with
  | (hw1, false), some r => fabFinish hw1 r stUnreachable [] 0
  | (hw1, false), none => noRoute hw1 h
  | (hw1, true), _ => hw1

/-- A held message can choose again (R443): it waits for a port and one of its route takes it, its DE tracks one request
less, its route is gone, or it waits for its pace and its route is no longer UP (log 55, DEDUCED). -/
def heldGoes (hw : Hw) (m : Held) : Bool :=
  let r := routeOf hw m.hdr.dst.toNat
  if r.kind < 2 then true
  else if m.level = 101 then (match m.req with | some q => !trackersFull hw q.core | none => true)
  else (m.level == 100 || r.kind != 4) &&
    (match choosePort hw r m.hdr.agent.toNat m.hdr.dst.toNat m.hdr.addr.toNat with
     | some p => !portFull hw p m.hdr.vc.toNat (fabSlots m.op m.hdr m.data)
     | none => false)

/-- Messages held while their ports were in REPAIR, or whose route changed, are sent again, oldest first. -/
def retryHeld : Nat → Hw → Hw
  | 0, hw => hw
  | n + 1, hw =>
    match hw.pkg.held.find? (heldGoes hw) with
    | none => hw
    | some m =>
      retryHeld n (fabEmit { hw with pkg := { hw.pkg with held := hw.pkg.held.filter (fun x => x != m) } } m.op m.hdr m.data m.req)

/-- FUNC of an atomic as SE_AMO and the fabric name it (R216). -/
def amoFn : Nat → Option AtomFn
  | 0 => some .add | 1 => some .swap | 2 => some .and | 3 => some .or | 4 => some .xor
  | 5 => some .minS | 6 => some .maxS | 7 => some .minU | 8 => some .maxU | 9 => some .cas
  | _ => none


end Sys2Proof.Machine
end

