-- ==== Sys2Proof/Machine/Pipeline.lean ====
section
/-! DEFINITION. The life of a command at its engine (R205 steps 5 and 6): waits, predicates, acquires and starts (R68,
R176, R222–R224, R263), retirement with signals, releases, records and queue stops (R70, R226, R234, R262, R282, R563). -/

namespace Sys2Proof.Machine

/-! #### Logs and stops of a queue -/

/-- An entry of QFE_ERR_LOG (R236). -/
def qfeLog (hw : Hw) (c cause q v : Nat) : Hw :=
  (logPush hw (Reg.qfeErrLog c) 16 (word (2 ^ 63 + cause % 16 * 2 ^ 59 + q % 8 * 2 ^ 32 + v % 2 ^ 32), 0)).2

/-- A command stops its queue (R235, R236): it is recorded and the interrupt raised. A queue that is STOPPED already keeps its
first error; the record of a queue that has run since is of a stop that RESTART or a disabling has handled. -/
def stopQueue (hw : Hw) (c q eng st inst index : Nat) (code : Option Nat) : Hw :=
  let t := getQueue hw c q
  if t.st ≠ 1 then hw
  else
    let hw1 := setQueue hw c q { t with st := 2 }
    let hw2 := rsetN hw1 (Reg.qfeQErr c q) (2 ^ 63 + eng % 8 * 2 ^ 60 + st % 256 * 2 ^ 52 + inst % 65536 * 2 ^ 32 + index % 2 ^ 32)
    let hw3 := rsetN hw2 (Reg.qfeQStopCode c q) (match code with
      | some k => 2 ^ 63 + k
      | none => 0)
    message hw3 (c / 128) (Reg.qfeMsiAddr c) ((rget hw (Reg.qfeMsiData c)).toNat + q)

/-! #### Doorbells (R87, R220) -/

/-- A group starts to wake (R88): its ramp is requested (log 101, DESIGN CHOICE). -/
def startWake (hw : Hw) (g : Nat) : Hw :=
  { setGroup (rfield hw (Reg.cgPwrCtrl g) 0 0 0) g 3 with ramps := hw.ramps ++ [512 + g] }

/-- Work that reaches a group in GATING or OFF (R87) (log 101, DESIGN CHOICE). -/
def groupRung (hw : Hw) (g : Nat) : Hw :=
  if groupState hw g = 1 then setGroup (rfield hw (Reg.cgPwrCtrl g) 0 0 0) g 0
  else if groupState hw g = 2 ∧ rbit hw (Reg.cgPwrCtrl g) 1 then startWake hw g
  else hw

/-- A doorbell for a present core's queue (R220) (log 101, DESIGN CHOICE). -/
def ringDoorbell (hw : Hw) (c q new : Nat) : Hw :=
  let t := getQueue hw c q
  let head := (rget hw (Reg.qfeQHead c q)).toNat
  let tail := (rget hw (Reg.qfeQTail c q)).toNat
  let d := fun x : Nat => (x + 2 ^ 32 - head) % 2 ^ 32
  if t.st = 0 then qfeLog hw c 2 q new
  else if d new > 2 ^ rbits hw (Reg.qfeQCtrl c q) 12 8 then qfeLog hw c 1 q new
  else groupRung (if d new ≤ d tail then hw else rsetN hw (Reg.qfeQTail c q) new) (c / 8)

/-! #### Signals (R222, R223, R279, R563) -/

/-- A local signal: ADD saturates and is logged, SET writes (R222). -/
def localSignal (hw : Hw) (c q : Nat) (w : List Word) : Hw :=
  let ls := hLs w
  if !ls.1 then hw
  else
    let n := ls.2.2.1
    let old := (rget hw (Reg.qfeLsem c n)).toNat
    if ls.2.1 then rsetN hw (Reg.qfeLsem c n) ls.2.2.2
    else if old + ls.2.2.2 > 0xFFFFFFFF then qfeLog (rsetN hw (Reg.qfeLsem c n) 0xFFFFFFFF) c 4 q n
    else rsetN hw (Reg.qfeLsem c n) (old + ls.2.2.2)

/-- An ADD enters a node of a combining tree, merging with one to the same word (R279) (log 53, DESIGN CHOICE). -/
def treeAdd (hw : Hw) (d node : Nat) (a : TreeAdd) : Hw :=
  let t := getTree hw d
  let l := mget (fun _ => []) t.nodes node
  let l1 := match l.find? (fun x => x.addr == a.addr) with
    | some x => l.map (fun y => if y.addr = a.addr then { y with sum := (x.sum + a.sum) % 2 ^ 64, core := if x.core = a.core then x.core else none } else y)
    | none => l ++ [a]
  setTree hw d { t with nodes := mput (fun _ => []) t.nodes node l1 }


/-- The memory address of a command's semaphore passes the check of R223. -/
def semOk (hw : Hw) (pa : Nat) : Bool := pa % 8 == 0 && (pkgOf hw pa != 0 || inTier (localOf pa))

/-- Memory operands of the body, without the semaphore. -/
def bodyExtents (w : List Word) : List (Nat × Nat × Bool) := (extents w).drop (if hMsk w = 0 then 0 else 1)

/-- Engines whose memory operands stay in this package (R209) (log 47, DEDUCED). -/
def localOnly (w : List Word) : Bool :=
  hEng w == 2 || kop w == (3, 0x02) || kop w == (3, 0x03) || kop w == (3, 0x06)

/-- An operand in another package where R209 refuses it (log 47, DEDUCED). -/
def farOperand (hw : Hw) (m : Cmd) : Bool :=
  localOnly m.w && (bodyExtents m.w).any (fun e => m.pages.any (fun p =>
    decide (p.va < e.1 + e.2.1 ∧ e.1 < p.va + 2 ^ p.log2) && pkgOf hw p.pa != 0))

/-- The address checks made once the translation is complete (R209, R223) (log 47, DEDUCED). -/
def checkedAddr (hw : Hw) (m : Cmd) : Cmd :=
  let sem : Bool := hMsk m.w != 0 && (match paOf m (hMsem m.w) with
    | some pa => !semOk hw pa
    | none => true)
  if m.pre.isNone && (sem || farOperand hw m) then { m with pre := some stAddress } else m

/-- A memory-semaphore signal (R223): ADD through the die's tree, WRITE to the home, either over the fabric to another
package (log 53, DESIGN CHOICE). -/
def memSignal (hw : Hw) (c : Nat) (m : Cmd) : Hw :=
  if hMsk m.w < 2 then hw
  else match paOf m (hMsem m.w) with
    | none => hw
    | some pa =>
      if !semOk hw pa then hw
      else if pkgOf hw pa ≠ 0 then
        let h : FabHdr := { noHdr with opnd := word (hMv m.w) }
        let r := fabRequest hw c 0 (if hMsk m.w = 2 then 0x05 else 0x06) pa 8 h [] .none
        if r.2 then r.1
        else signalLost (radd r.1 (Reg.pcpFabUnreachCnt hw.pkg.primary) 1)
          ⟨0, 0, pkgOf hw pa, localOf pa, 0, 0, false, c, 0, .none, 8⟩ (localOf pa)
      else if hMsk m.w = 2 then
        treeAdd (radd hw (Reg.semInCnt (c / 128)) 1) (c / 128) (c % 128 / 8) ⟨localOf pa, hMv m.w, some c⟩
      else if linePoison hw (localOf pa / 64) then signalPoisoned hw (localOf pa) c
      else
        let a := localOf pa
        let req : HReq := { mkReq .atomic (engAgent c) (a / 64) with
          op := some (.amo .swap 8 (a % 64) (word (hMv m.w)) 0), roe := roePath hw a 8, who := some (c, 0) }
        match pocServe hw req with
        | some r => if r.poison then signalPoisoned r.hw a c else r.hw
        | none => homeArrive hw req

/-- Signal actions of a command, in order (R262): local, memory, doorbell of a QFE_RING. -/
def signals (hw : Hw) (c : Nat) (m : Cmd) : Hw :=
  let hw1 := memSignal (localSignal hw c m.q m.w) c m
  if kop m.w = (0, 0x02) ∧ m.status = 0 then
    let f := wf m.w 3 11 0
    let old := (rget hw1 (Reg.qfeQTail (f / 8) (f % 8))).toNat
    ringDoorbell hw1 (f / 8) (f % 8) (if wf m.w 3 16 16 = 1 then (old + wf m.w 4 31 0) % 2 ^ 32 else wf m.w 4 31 0)
  else hw1

/-! #### Completion (R70, R226, R234) -/

def cqOn (hw : Hw) (c q : Nat) : Bool := rbit hw (Reg.qfeQCq c q) 7

/-- Whether a command writes a record. -/
def wantsRec (hw : Hw) (c : Nat) (m : Cmd) : Bool := hCrec m.w && cqOn hw c m.q && !atFetch m.w

/-- A completion record without its PHASE (R226). -/
def recOf (m : Cmd) : Rec :=
  ⟨hEng m.w, m.q,
   word (hEng m.w * 2 ^ 60 + m.status % 256 * 2 ^ 52 + m.inst % 65536 * 2 ^ 32 + m.index % 2 ^ 32),
   word (m.rep % 2 ^ 32 * 2 ^ 32 + m.info % 2 ^ 32), hCint m.w⟩

/-- Whether the signals of a command with its status are performed (R224). -/
def signalsRun (m : Cmd) : Bool := (!isError m.status || hSigerr m.w) && !atFetch m.w

/-- A held partition change applies when no core of the group has a command in flight (R90). -/
def partApply (hw : Hw) (g : Nat) : Hw :=
  let busy : Bool := (List.range 8).any (fun i => (getCore hw (8 * g + i)).cmds.any (fun m => m.stage != .fetching))
  if rbit hw (Reg.cgPart g) 8 ∧ !busy then rsetN hw (Reg.cgPart g) (mget (fun _ => 0) hw.parts g) else hw

/-- A queue that was told to go OFF does so once nothing of it is left (R221). -/
def closeQueue (hw : Hw) (c q : Nat) : Hw :=
  let t := getQueue hw c q
  if t.st = 3 ∧ !(getCore hw c).cmds.any (fun m => m.q == q) then setQueue hw c q { t with st := 0 } else hw

/-- A stream leaves its sub-array: counted where it ran (R105, R126). One that a context kill takes out of the array
counts as retired too: R126 counts streams retired and R83 does not say whether a discarded one is (log 87, DESIGN
CHOICE). -/
def meLeave (hw : Hw) (c : Nat) (m : Cmd) : Hw :=
  if hEng m.w ≠ 1 then hw
  else
    let me := (getCore hw c).me
    let mine := me.subs.flatMap (fun e => e.2.inside.filter (fun x => x.cmd == m.id))
    let hw1 := mine.foldl (fun h x => radd (radd h (Reg.meStreamCnt c) 1) (Reg.meMacCnt c) (x.m * x.k * x.n)) hw
    let left := fun a : SubArr =>
      { a with inside := a.inside.filter (fun x => x.cmd != m.id),
               assigned := if a.assigned.any (fun x => x.cmd == m.id) then none else a.assigned }
    modCore hw1 c (fun t =>
      { t with me := { t.me with subs := foldN 4 t.me.subs (fun ss i => mmod (fun _ => SubArr.reset) ss i left) } })

/-- A command completes: signals, record, stop of its queue; it is no longer in flight. An SE_BR resolved when it started;
one that completed without starting is resolved now, a later one fetched since is not (R177) (log 103, DESIGN CHOICE). -/
def retireCmd (hw : Hw) (c : Nat) (m : Cmd) : Hw :=
  let hw0 := meLeave hw c m
  let hw1 := if signalsRun m then signals hw0 c m else hw0
  let hw2 := if wantsRec hw c m then modCore hw1 c (fun t => { t with recs := t.recs ++ [recOf m] }) else hw1
  let hw3 := radd (dropCmd (forget hw2 c m.id) c m.id) (Reg.coreCmdRetCnt c) 1
  let hw4 := if hEng m.w = 3 ∧ m.status ≠ stAborted then radd hw3 (Reg.seOpCnt c) 1 else hw3
  let stop : Bool := m.status == stStopped || m.status == 0x20 ||
    (stopsOnErr m.status && rbit hw (Reg.qfeQCtrl c m.q) 1)
  let hw5 := if stop then
      stopQueue hw4 c m.q (hEng m.w) m.status m.inst m.index
        (if m.status = stStopped then some (wf m.w 3 7 0) else none)
    else hw4
  let later : Bool := (getCore hw5 c).cmds.any (fun x => x.q == m.q && kop x.w == (3, 0x05) && x.stage != .fetching)
  let hw6 := if kop m.w = (3, 0x05) ∧ !later then setQueue hw5 c m.q { getQueue hw5 c m.q with br := false } else hw5
  partApply (closeQueue hw6 c m.q) (c / 8)

/-- Whether a command has not started. -/
def unstarted (m : Cmd) : Bool :=
  match m.stage with
  | .fetching | .bad | .window | .fifo => true
  | _ => false

/-- A command whose work is done. -/
def doneCmd (m : Cmd) (st : Nat) : Cmd := { m with stage := .done, status := st }

/-- Whether a command's signals are performed as a release (R225, R262). -/
def releases (m : Cmd) : Bool := hRel m.w || kop m.w == (0, 0x01) || kop m.w == (0, 0x02)

/-- Records an engine has buffered or reserved (R282). -/
def recsUsed (hw : Hw) (c eng : Nat) : Nat :=
  ((getCore hw c).recs.filter (fun r => r.eng == eng)).length +
    ((getCore hw c).cmds.filter (fun m => hEng m.w == eng && m.resv)).length

/-- The record of a command has its entry (R282), or it writes none. -/
def recRoom (hw : Hw) (c : Nat) (m : Cmd) : Bool := !wantsRec hw c m || m.resv || decide (recsUsed hw c (hEng m.w) < 16)

/-- A command that never started completes with a status: it leaves its faults and walks and retires as any other, with
its release and in a free record entry (R262, R282, R301). One with an encoding error keeps its place and takes the status
along. -/
def endUnstarted (hw : Hw) (c : Nat) (m : Cmd) (st : Nat) : Hw :=
  setCmd (forget hw c m.id) c { m with
    stage := if m.stage = .bad then .bad else .done, status := st, old := false, walking := false,
    unrun := m.unrun || unstarted m }

/-- Every unstarted command of a queue completes with ABORTED; one still at its slot is unfetched and only forgotten
(R208, R235). -/
def abortAll (hw : Hw) (c q : Nat) : Hw :=
  ((getCore hw c).cmds.filter (fun m => m.q == q && unstarted m)).foldl
    (fun h m => if m.stage = .fetching then dropCmd (forget h c m.id) c m.id else endUnstarted h c m stAborted) hw

/-- A command of a killed context is discarded (R83, R524): what it has outstanding is answered in vain; its signals, which
SIGERR lets it perform, wait for its release, its record for an entry. -/
def discardCmd (hw : Hw) (c : Nat) (m : Cmd) : Hw :=
  if (unstarted m ∨ m.stage = .done) ∧ wantsRec hw c m ∧ !m.resv then endUnstarted hw c m 0x20
  else if releases m ∧ signalsRun { m with status := 0x20 } then
    let hw1 := meLeave (forget hw c m.id) c m
    modCore hw1 c (fun t => { t with nextId := t.nextId + 1, cmds := t.cmds.map (fun x => if x.id = m.id then
      { m with id := t.nextId + 1, status := 0x20, out := 0, work := .none, stage := .releasing (t.mb.map (·.gran)) } else x) })
  else retireCmd hw c { m with status := 0x20 }

/-- A command of a killed context (R83, R325, R524): discarded; one still at its slot is only forgotten; a DE_MIGRATE that
has started ends with ABORTED, once the page it is moving is moved (log 43, DEDUCED). -/
def killCmd (hw : Hw) (c : Nat) (m : Cmd) : Hw :=
  if m.stage = .fetching then dropCmd (forget hw c m.id) c m.id
  else if kop m.w = (4, 0x07) ∧ !unstarted m then
    setCmd hw c (if m.work = .migEntry then { doneCmd m stAborted with work := .none }
      else { m with status := stAborted, left := [] })
  else match m.stage with
    | .releasing _ => setCmd hw c { m with status := 0x20 }
    | _ => discardCmd hw c m

/-- A queue of a killed context stops; its commands are discarded (R83, R524) (log 43, DEDUCED). -/
def killQueue (hw : Hw) (c q : Nat) : Hw :=
  let hw1 := ((getCore hw c).cmds.filter (fun m => m.q == q)).foldl (fun h m => killCmd h c m) hw
  let hw2 := setQueue hw1 c q { getQueue hw1 c q with replay := none, loop := none, br := false }
  stopQueue hw2 c q 0 0x20 0 (getQueue hw2 c q).pos none

/-- The effects of R83 on one core for one context (log 43, DEDUCED). -/
def killContext (hw : Hw) (c ctx : Nat) : Hw :=
  let hw1 := modCore hw c (fun t => { t with mb := t.mb.filter (fun e => e.ctx != ctx) })
  foldN 8 hw1 (fun h q => if ctxOf hw c q = ctx ∧ (getQueue hw c q).st ≠ 0 then killQueue h c q else h)

/-- Contexts marked killed while a row ran. -/
def killPass (c : Nat) (r : Hw × Answer) : Hw × Answer :=
  let ks := (getCore r.1 c).killed
  if ks = [] then r
  else (ks.foldl (fun h x => killContext h c x) (modCore r.1 c (fun t => { t with killed := [] })), r.2)

/-! #### Starting (R68, R176, R222–R225, R263) -/

/-- The wait on a local semaphore is met. -/
def localMet (hw : Hw) (c : Nat) (w : List Word) : Bool :=
  let lw := hLw w
  !lw.1 || decide (lw.2.2.2 ≤ (rget hw (Reg.qfeLsem c lw.2.2.1)).toNat)

/-- The memory wait is met by the value last read (R223). -/
def memMet (m : Cmd) : Bool :=
  hMsk m.w != 1 || (match m.seen with
    | some v => decide (toInt 32 (v.toNat % 2 ^ 32 + 2 ^ 32 - hMv m.w) ≥ 0)
    | none => false)

/-- The oldest command of a queue for an engine that has not started; QFE commands stand in the window (R225). -/
def headCmd (hw : Hw) (c q eng : Nat) : Option Cmd :=
  match (getCore hw c).cmds.find? (fun m => m.q == q && hEng m.w == eng && unstarted m && m.stage != .bad) with
  | some m => if m.stage = (if eng = 0 then .window else .fifo) then some m else none
  | none => none

/-- An earlier QFE_FENCE of the queue holds the command back (R225) (log 44, DEDUCED). -/
def fencedBack (hw : Hw) (c : Nat) (m : Cmd) : Bool :=
  ((getCore hw c).cmds.takeWhile (fun x => x.id != m.id)).any (fun x => x.q == m.q && kop x.w == (0, 0x01) && x.stage != .bad)

/-- The SE starts a command only after its queue's previous one has retired (R173). -/
def seBusy (hw : Hw) (c q : Nat) : Bool :=
  (getCore hw c).cmds.any (fun m => m.q == q && hEng m.w == 3 && !unstarted m)

/-- Predicate `p` of a queue (R172). -/
def predOf (hw : Hw) (c q p : Nat) : Bool := p == 0 || rbit hw (Reg.sePred c q) p

/-- The G register a header names, with its field code (R178). -/
def gvOf (hw : Hw) (c : Nat) (m : Cmd) : Option (Nat × Nat) :=
  if hGv m.w then some (hGfld m.w, (rget hw (Reg.seG c (16 * m.q + hGreg m.w))).toNat) else none

/-- Whether the head command of a queue may leave its place: its queue runs, nothing holds it back. -/
def mayStart (hw : Hw) (c : Nat) (m : Cmd) : Bool :=
  coreStarts hw c && (getQueue hw c m.q).st == 1 && !m.old && !m.walking && !faulted (getCore hw c) m.id &&
    !fencedBack hw c m && !(hEng m.w == 3 && seBusy hw c m.q) && recRoom hw c m

/-- Nothing holds a head command back any more: a status fixed at fetch, or waits that are met. -/
def ready (hw : Hw) (c : Nat) (m : Cmd) : Bool :=
  mayStart hw c m && ((checkedAddr hw m).pre.isSome || m.seenBad || (localMet hw c m.w && memMet m))

/-- The predicate of a command skips it (R176). -/
def skips (hw : Hw) (c : Nat) (m : Cmd) : Bool := hPen m.w && (predOf hw c m.q (hPred m.w) != hPpol m.w)

/-- A ready command leaves its place now: it completes without work, or its engine can take it up. One that the engine
cannot take up yet (a tile register or a sub-array in use, R101, R106) holds back its own queue alone. -/
def canLeave (hw : Hw) (c : Nat) (can : Hw → Cmd → Bool) (m : Cmd) : Bool :=
  ready hw c m && ((checkedAddr hw m).pre.isSome || m.seenBad || skips hw c m || can hw m)

/-- The queue whose turn it is at an engine (R68): after the queue it served last, the next one whose oldest command can
leave. The QFE's own commands enter no FIFO and take no turns. -/
def turnOf (hw : Hw) (c eng : Nat) (can : Hw → Cmd → Bool) : Option Nat :=
  let last := mget (fun _ => 7) (getCore hw c).served eng
  ((List.range 8).map (fun i => (last + 1 + i) % 8)).find? (fun q => match headCmd hw c q eng with
    | some m => canLeave hw c can m
    | none => false)

/-- An engine takes up a queue's command. -/
def takeTurn (hw : Hw) (c q eng : Nat) : Hw :=
  modCore hw c (fun t => { t with served := mput (fun _ => 7) t.served eng q, begun := mmod (fun _ => 0) t.begun eng (· + 1) })

/-- A bit error in the storage of a command that its engine takes (R518): corrected with a record, or fatal to the context of
its queue. -/
def storedCmd (hw : Hw) (c : Nat) (m : Cmd) : Hw × Cmd :=
  let m1 := { m with flip := 0 }
  if m.flip = 0 then (hw, m)
  else if m.flip = 1 then (ras hw (c / 128) clsCE 0x01 1 c c 0 0 0, m1)
  else
    let x := ctxOf hw c m.q
    (ras (modCore hw c (fun t => { t with killed := t.killed ++ [x] })) (c / 128) clsCTX 0x01 4 c c x 0 0, { m1 with pre := some 0x20 })

/-- The QFE's own commands wait for no engine. -/
def qfeCan (_ : Hw) (_ : Cmd) : Bool := true

/-- The moment a command starts (R205 step 5): the status it completes with at once, or none when it runs. A status
fixed at fetch comes first; then the waits, the subtraction, the acquire (R263), the predicate. What the VE's earlier
commands of the queue write has appeared by then (R163). -/
def beginCmd (hw : Hw) (c q eng op : Nat) (can : Hw → Cmd → Bool) : Option (Hw × Cmd × Option Nat) :=
  match headCmd hw c q eng with
  | none => none
  | some m0 =>
    if hOp m0.w ≠ op ∨ !ready hw c m0 ∨ (eng ≠ 0 ∧ turnOf hw c eng can ≠ some q) then none
    else
      let sc := storedCmd (takeTurn (if eng = 2 then landWhere c (lateOf hw c 2 (some q)) hw else hw) c q eng) c m0
      let hw0 := sc.1
      let m := sc.2
      let m1 := { checkedAddr hw0 m with resv := wantsRec hw0 c m }
      match m1.pre with
      | some st => some (hw0, m1, some st)
      | none =>
        if m.seenBad then some (poisonUsed hw0 c 0x01 (ctxOf hw c q) ((paOf m (hMsem m.w)).getD 0), m1, some stData)
        else
          let lw := hLw m.w
          let hw1 := if lw.1 && lw.2.1 then
              rsetN hw0 (Reg.qfeLsem c lw.2.2.1) ((rget hw0 (Reg.qfeLsem c lw.2.2.1)).toNat - lw.2.2.2) else hw0
          let hw2 := if hAcq m.w && hScope m.w != 0 then l1Invalidate hw1 c else hw1
          if skips hw c m then some (hw2, m1, some stSkipped)
          else some (hw2, m1, none)

/-- An engine row: the head command starts and does its work. `can` says of any command of the engine whether the engine can
take it up, `body` answers none while this one cannot be carried out. -/
def engineRow (c q eng op : Nat) (can : Hw → Cmd → Bool) (body : Hw → Cmd → Option (Hw × Cmd)) (hw : Hw) : Hw × Answer :=
  killPass c <| match beginCmd hw c q eng op can with
  | none => (hw, .notEnabled)
  | some (hw1, m, some st) => did (setCmd hw1 c { m with stage := .done, status := st })
  | some (hw1, m, none) =>
    match body hw1 m with
    | none => (hw, .notEnabled)
    | some (hw2, m2) => did (setCmd hw2 c m2)

/-- A command that waits for outstanding requests or a later step (log 42, DESIGN CHOICE). -/
def runCmd (m : Cmd) (w : Work) : Cmd := { m with stage := .started, work := w }

/-- A queue and an engine of a core stand in a place: the row's oldest command there. -/
def oldest (hw : Hw) (c q eng : Nat) (p : Cmd → Bool) : Option Cmd :=
  (getCore hw c).cmds.find? (fun m => m.q == q && hEng m.w == eng && p m)

/-- Whether the work of a command is done: nothing outstanding. -/
def workDone (m : Cmd) : Bool :=
  match m.stage with
  | .done => m.out == 0
  | .started => m.out == 0 && m.work == .none
  | _ => false

/-- A credit END a DE_XFER still owes (R198): its slot and target core's address, once its writes are acknowledged. -/
def owesEnd (m : Cmd) : Bool :=
  kop m.w == (4, 0x00) && wf m.w 6 13 13 == 1 && (m.status == 0 || m.status == stData) && m.pre.isNone &&
    m.stage == .started

/-- Another transfer of the queue that names the slot and came earlier is still under way (R198). -/
def slotBusy (hw : Hw) (c : Nat) (m : Cmd) : Bool :=
  ((getCore hw c).cmds.takeWhile (fun x => x.id != m.id)).any (fun x => x.q == m.q && kop x.w == (4, 0x00) &&
    wf x.w 6 12 7 == wf m.w 6 12 7 && !unstarted x)

/-- The END of a transfer's slot, here or over the fabric (log 42, DESIGN CHOICE). -/
def sendEnd (hw : Hw) (c : Nat) (m : Cmd) : Hw × Cmd :=
  match paOf m (wf m.w 4 63 0) with
  | none => (hw, { m with stage := .done })
  | some pa =>
    let slot := wf m.w 6 12 7
    if pkgOf hw pa ≠ 0 then
      let r := cmdRequest hw c m 0x08 pa 8 { noHdr with opnd := word slot } [] .ending
      (r.1, { r.2 with stage := .done })
    else match locate (localOf pa) with
      | .spad t _ => (creditEnd hw t slot 0 c, { m with stage := .done })
      | _ => (hw, { m with stage := .done })

/-- The END of a transfer's slot waits while the mesh holds it (R30). -/
def endHeld (hw : Hw) (c : Nat) (m : Cmd) : Bool :=
  match paOf m (wf m.w 4 63 0) with
  | some pa => pkgOf hw pa == 0 && dmaHeld hw c (localOf pa)
  | none => false

/-- The doorbell of a QFE_RING waits while the mesh holds it (R30). -/
def ringHeld (hw : Hw) (c : Nat) (m : Cmd) : Bool :=
  let t := wf m.w 3 11 0 / 8
  kop m.w == (0, 0x02) && m.status == 0 && meshHeld hw (c / 128) (t / 128) (coreBlk t 0x1010)

/-- One part of a command's tile write appears; at an address its write may fail as any other of the command (R200, R440). -/
def landOne (c : Nat) (x : LatePart) (y : Hw × Cmd) : Option (Hw × Cmd) :=
  if y.2.dropped then some y
  else if x.kind ≠ 2 then some (landPart c y.1 x, y.2)
  else (dmaWrite c x.poison ⟨x.rop, x.rfmt, x.hint, x.htgt, x.roe, 0⟩ [(x.addr, x.data.length)] y.1 { y.2 with status := 0 } x.data).map
    (fun z => (z.1, { failCmd { z.2 with status := y.2.status } z.2.status with
      info := if z.2.status = 0 then (z.2.info + x.data.length) % 2 ^ 32 else z.2.info }))

/-- All parts of a command's tile writes appear before it retires (R258, R269–R272); none while one cannot be served (log
98, DESIGN CHOICE). -/
def landLate (hw : Hw) (c : Nat) (m : Cmd) : Option (Hw × Cmd) :=
  let mine := (getCore hw c).late.filter (fun x => x.cmd == m.id)
  if mine = [] then some (hw, m)
  else (mine.foldl (fun acc x => acc.bind (landOne c x)) (some (hw, m))).map (fun y =>
    (modCore y.1 c (fun t => { t with late := t.late.filter (fun x => x.cmd != m.id) }), y.2))

/-- COMMAND_RETIRE: the work is done and has appeared; the END of a credit, then the signals at once or the start of a
release. -/
def retireRow (c q eng : Nat) (hwOld : Hw) : Hw × Answer :=
  if !coreAlive hwOld c then (hwOld, .notEnabled)
  else match (oldest hwOld c q eng (fun m => workDone m && recRoom hwOld c m)).bind (landLate hwOld c) with
  | none => (hwOld, .notEnabled)
  | some (hw, m) =>
    if owesEnd m then
      if slotBusy hw c m || endHeld hw c m then (hwOld, .notEnabled)
      else let r := sendEnd hw c m; did (setCmd r.1 c r.2)
    else if kop m.w = (0, 0x01) ∧ (getCore hw c).cmds.any (fun x => x.q == q && decide (x.id < m.id)) then (hwOld, .notEnabled)
    else if releases m then
      did (setCmd (meLeave hw c m) c { m with stage := .releasing ((getCore hw c).mb.map (·.gran)), resv := wantsRec hw c m })
    else did (retireCmd hw c m)

/-- The drain of a release met an entry whose bad parity kills the command's own context (R83). -/
def lostIn (hw : Hw) (c : Nat) (m : Cmd) : Bool := (getCore hw c).killed.contains (ctxOf hw c m.q)

/-- A command whose release has drained: it completes as it ended, or is discarded with its context (R83, R262). -/
def afterDrain (hw : Hw) (c : Nat) (m : Cmd) : Cmd := if lostIn hw c m then { m with status := 0x20 } else m

/-- RELEASE_COMPLETE (R262): the entries present at the release's start are drained, then the signals follow. -/
def releaseRow (c q eng : Nat) (hw : Hw) : Hw × Answer :=
  match oldest hw c q eng (fun m => match m.stage with | .releasing _ => true | _ => false) with
  | none => (hw, .notEnabled)
  | some m =>
    let left := match m.stage with
      | .releasing l => l
      | _ => []
    if ringHeld hw c m then (hw, .notEnabled)
    else match mbDrainAll hw c ((getCore hw c).mb.filter (fun e => left.contains e.gran)) with
    | none => (hw, .notEnabled)
    | some hw1 => did (retireCmd hw1 c (afterDrain hw1 c m))

/-- RECORD_WRITE (R226, R227): the oldest record of a queue enters its ring once there is room, then its interrupt. -/
def recordRow (c q : Nat) (hw : Hw) : Hw × Answer :=
  match (getCore hw c).recs.find? (fun r => r.q == q) with
  | none => (hw, .notEnabled)
  | some r =>
    let cq := rget hw (Reg.qfeQCq c q)
    let tail := (rget hw (Reg.qfeQCqTail c q)).toNat % 2 ^ 32
    let phase := rbits hw (Reg.qfeQCqTail c q) 32 32
    let head := rbits hw (Reg.qfeQCqHead c q) 31 0
    let n := 2 ^ bits cq 4 0
    if !bit cq 7 ∨ (tail + 2 ^ 32 - head) % 2 ^ 32 ≥ n then (hw, .notEnabled)
    else
      let a := 256 * bits cq 51 8 + 16 * (tail % n)
      match pocWriteN 2 hw (engAgent c) a (leBytes 8 (r.w0.toNat + phase * 2 ^ 63) ++ leBytes 8 r.w1.toNat) false 0 0 with
      | none => (hw, .notEnabled)
      | some hw1 =>
        let next := (tail + 1) % 2 ^ 32
        let hw2 := rsetN hw1 (Reg.qfeQCqTail c q) (next + (if next % n = 0 then 1 - phase else phase) * 2 ^ 32)
        let hw3 := modCore hw2 c (fun t => { t with recs := t.recs.erase r })
        did (if r.cint then message hw3 (c / 128) (Reg.qfeMsiAddr c) ((rget hw (Reg.qfeMsiData c)).toNat + q) else hw3)

/-! #### Memory waits (R223, R224) -/

/-- A command's semaphore word has been read. -/
def semSeen (m : Cmd) (a : Nat) (line : List Byte) (poison : Bool) : Cmd :=
  { m with seen := some (word (leNat (slice line (a % 64) 8))), seenBad := poison }

/-- A read of a waited semaphore waits at its home: one request for each QFE and line. -/
def semAsk (hw : Hw) (c line : Nat) : Hw :=
  let h := getHome hw line
  let mine := fun r : HReq => r.watch && r.agent == engAgent c
  if h.queue.any mine || h.busy.any (fun t => mine t.req) then hw
  else homeArrive hw { mkReq .rdOnce (engAgent c) line with watch := true }

/-- The data of such a read comes back: every command of the core that waits on the line has its word. -/
def semArrives (hw : Hw) (c line : Nat) (data : List Byte) (poison : Bool) : Hw :=
  modCore hw c (fun t => { t with cmds := t.cmds.map (fun m =>
    match (if unstarted m && hMsk m.w == 1 && m.pre.isNone then paOf m (hMsem m.w) else none) with
    | some pa => if pkgOf hw pa = 0 ∧ localOf pa / 64 = line then semSeen m (localOf pa) data poison else m
    | none => m) })

/-- The QFE reads a waited semaphore: at the point of coherence with a watch, or over the fabric. While the line is blocked the
read waits there like any request (R381, R388). -/
def semRead (hw : Hw) (c : Nat) (m : Cmd) : Hw :=
  match paOf m (hMsem m.w) with
  | none => hw
  | some pa =>
    if hMsk m.w ≠ 1 ∨ !semOk hw pa then hw
    else if pkgOf hw pa ≠ 0 then
      let r := fabRequest hw c m.id 0x02 pa 8 noHdr [] .sem
      if r.2 then r.1 else setCmd (radd r.1 (Reg.pcpFabUnreachCnt hw.pkg.primary) 1) c { m with pre := some stUnreachable }
    else match pocRead hw (engAgent c) (localOf pa / 64) true with
      | none => semAsk hw c (localOf pa / 64)
      | some (hw1, bs, p) => setCmd hw1 c (semSeen m (localOf pa) bs p)

end Sys2Proof.Machine
end

