-- ==== Sys2Proof/Machine/Qfe.lean ====
section
/-! DEFINITION. The queue fetch engine: fetch from rings, segments and loop nests with patching, checks and translation
(R205–R209, R228–R233, R564), issue, and the registers that ring, enable, restart and close queues (R220, R221, R226,
R235, R566). -/

namespace Sys2Proof.Machine

/-! #### Checks of a fetched command -/

/-- A command that uses a feature of R241 that is absent. -/
def usesAbsent (on : Nat → Bool) (w : List Word) : Bool :=
  let k := kop w
  let off := fun i => !on i
  let mx := fun f => f == 3 || f == 4
  (off 0 && ((k == (1, 0x00) && wf w 3 54 54 == 1) || (k == (1, 0x01) && wf w 3 50 50 == 1))) ||
  (off 1 && (k == (1, 0x00) || k == (1, 0x01)) && wf w 3 63 61 == 3) ||
  (off 2 && hEng w == 2 && decide (4 ≤ hOp w ∧ hOp w ≤ 7)) ||
  (off 3 && ((k == (1, 0x00) && mx (wf w 3 58 55)) || (k == (1, 0x01) && (mx (wf w 3 58 55) || mx (wf w 3 54 51))) ||
    (k == (1, 0x02) && mx (wf w 3 58 55)))) ||
  (off 4 && k == (4, 0x00) && wf w 6 15 14 != 0) ||
  (off 6 && (k == (4, 0x00) || k == (4, 0x01) || k == (4, 0x02) || k == (4, 0x08)) && wf w 7 63 62 == 3) ||
  (off 7 && (k == (4, 0x00) || k == (4, 0x02)) && wf w 6 23 20 != 0)

/-- A command that uses a feature whose bit of R241 is 0 (log 5, DESIGN CHOICE). -/
def featureBad (hw : Hw) (w : List Word) : Bool := usesAbsent (featureOn hw) w

/-! #### Where the next command comes from -/

/-- The next command of a queue: slot address, place for records, whether it stands in a segment. -/
structure Src where
  addr  : Nat
  index : Nat
  inst  : Nat
  rep   : Nat
  seg   : Bool
  deriving DecidableEq, Repr

def ringSlot (hw : Hw) (c q pos : Nat) : Nat :=
  4096 * rbits hw (Reg.qfeQRing c q) 51 12 + 64 * (pos % 2 ^ rbits hw (Reg.qfeQCtrl c q) 12 8)

/-- The slot fetched next; none when nothing is left to fetch. -/
def nextSrc (hw : Hw) (c q : Nat) : Option Src :=
  let t := getQueue hw c q
  match t.replay with
  | some r => some ⟨r.seg + 64 * r.pos, r.index, r.pos, r.rep, true⟩
  | none => if t.pos = (rget hw (Reg.qfeQTail c q)).toNat then none else some ⟨ringSlot hw c q t.pos, t.pos, 0, 0, false⟩

/-- HEAD follows the fetch position unless it is pinned (R219, R231). -/
def setPos (hw : Hw) (c q pos : Nat) : Hw :=
  let t := getQueue hw c q
  let hw1 := setQueue hw c q { t with pos := pos % 2 ^ 32 }
  if t.pinned then hw1 else rsetN hw1 (Reg.qfeQHead c q) (pos % 2 ^ 32)

/-- A slot has been fetched: on to the next; a replay that has fetched its last command retires (R230). -/
def advance (hw : Hw) (c q : Nat) : Hw :=
  let t := getQueue hw c q
  match t.replay with
  | none => setPos hw c q (t.pos + 1)
  | some r =>
    if r.pos + 1 < r.len then setQueue hw c q { t with replay := some { r with pos := r.pos + 1 } }
    else if r.rep + 1 < r.reps then
      setQueue hw c q { t with replay := some { r with pos := 0, rep := r.rep + 1, loaded := false } }
    else setPos (setQueue hw c q { t with replay := none }) c q (t.pos + 1)

/-- A replay that ends early: the rest is discarded and HEAD moves past it. -/
def endReplay (hw : Hw) (c q : Nat) : Hw :=
  let t := getQueue hw c q
  match t.replay with
  | some _ => setPos (setQueue hw c q { t with replay := none, loop := none }) c q (t.pos + 1)
  | none => hw

/-- A command is read and gets its serial number. -/
def accept (hw : Hw) (c : Nat) (m : Cmd) : Hw :=
  modCore hw c (fun t => { t with cmds := t.cmds ++ [m], nextId := t.nextId + 1 })

/-- Entries of an engine's FIFO (R66). -/
def fifoSize (eng : Nat) : Nat := if eng = 1 then 256 else if eng = 2 then 512 else if eng = 3 then 256 else 1024

def fifoUsed (hw : Hw) (c eng : Nat) : Nat :=
  ((getCore hw c).cmds.filter (fun m => hEng m.w == eng && m.stage != .fetching && m.stage != .bad &&
    m.stage != .window)).length

/-- Commands in the issue window: those that wait there, encoding errors, the QFE's own until they retire (R66, R236), and those
ended there that no FIFO has held (R235). -/
def windowUsed (hw : Hw) (c : Nat) : Nat :=
  (getCore hw c).cmds.countP (fun m => m.stage == .window || m.stage == .bad || (hEng m.w == 0 && m.stage != .fetching)) +
  ([1, 2, 3, 4].map (fun e => fifoUsed hw c e - fifoSize e)).sum

/-- Whether a command goes past a full window into its engine's FIFO: the FIFO has room and no earlier command of its queue
waits for it (R66, R205 step 4). -/
def passes (hw : Hw) (c : Nat) (m : Cmd) : Bool :=
  hEng m.w != 0 && m.stage != .bad && decide (fifoUsed hw c (hEng m.w) < fifoSize (hEng m.w)) &&
    !(getCore hw c).cmds.any (fun x => x.q == m.q && hEng x.w == hEng m.w && x.stage == .window)

/-- Whether a command can be fetched: the window or, past it, its engine's FIFO has room (R66). -/
def hasRoom (hw : Hw) (c : Nat) (m : Cmd) : Bool := decide (windowUsed hw c < 1024) || passes hw c m

/-- A new command. -/
def newCmd (hw : Hw) (c q : Nat) (w : List Word) (kA kB : Word) (index inst rep : Nat) : Cmd :=
  ⟨(getCore hw c).nextId + 1, q, w, kA, kB, index % 2 ^ 32, inst, rep % 2 ^ 32, .fetching, [], false, false, none, none, false,
   false, 0, 0, 0, .none, [], false, false, 0, false⟩

/-- A translated command is fetched: it enters the window, or a FIFO past a full window; one that stays in the window for
good, and one in a FIFO, reads its semaphore. -/
def toWindow (hw : Hw) (c : Nat) (m : Cmd) : Hw :=
  let full : Bool := decide (1024 ≤ windowUsed hw c)
  let m1 := { checkedAddr hw m with stage := if full then .fifo else .window }
  let hw1 := radd (setCmd hw c m1) (Reg.qfeFetchCnt c) 1
  let hw2 := if kop m.w = (3, 0x05) then setQueue hw1 c m.q { getQueue hw1 c m.q with br := true } else hw1
  if (hEng m.w = 0 ∨ full) ∧ hMsk m.w = 1 ∧ m1.pre.isNone then semRead hw2 c m1 else hw2

/-- Translate a command just read, which `move` then takes off its slot when it is complete: none while it has no room
(R66). -/
def placeCmd (hw : Hw) (c : Nat) (m : Cmd) (move : Hw → Hw) : Option Hw :=
  let m0 := if m.pre.isNone && tooManyPages hw c m then { m with pre := some stAddress } else m
  let r := translate hw c m0
  let hw1 := setCmd r.1 c r.2.1
  if !r.2.2 then some hw1
  else if hasRoom hw1 c r.2.1 then some (move (toWindow hw1 c r.2.1)) else none

/-- An executable command, patched, goes on: an encoding error waits in the window, any other is translated. -/
def takeCmd (hw : Hw) (c : Nat) (m : Cmd) (seg : Bool) (move : Hw → Hw) : Option Hw :=
  if encodingBad m.w seg || featureBad hw m.w then
    (if hasRoom hw c { m with stage := .bad } then
      some (move (radd (accept hw c { m with stage := .bad }) (Reg.qfeFetchCnt c) 1)) else none)
  else placeCmd (accept hw c m) c m move

/-- The parameter registers a slot's command uses: those of its patches, those an SE command names (R216, R229). -/
def kUsed (raw w : List Word) (patches : Bool) : List Nat :=
  (if patches then (List.range (patchCount raw)).map (hPk raw + ·) else []) ++
    (if hEng w = 3 ∧ hOp w ≤ 1 then (if wf w 3 47 46 = 2 then [wf w 3 45 40] else []) ++
      (if wf w 3 39 38 = 2 then [wf w 3 37 32] else []) else [])

/-- Bit errors in the parameter registers a command uses (R518): corrected with a record, or fatal to the context of the
queue; whether the command goes on. -/
def kCheck (hw : Hw) (c q : Nat) (ks : List Nat) : Hw × Bool :=
  let found := fun v : Nat => ks.filter (fun i => flipOf (getQueue hw c q).kFlip i == v)
  let t := getQueue hw c q
  let x := ctxOf hw c q
  if t.kFlip = [] then (hw, true)
  else
    let hw1 := setQueue hw c q { t with kFlip := t.kFlip.filter (fun e => !ks.contains e.1) }
    let hw2 := (found 1).foldl (fun h _ => ras h (c / 128) clsCE 0x01 1 c c 0 0 0) hw1
    if found 2 = [] then (hw2, true) else (killContext (ras hw2 (c / 128) clsCTX 0x01 4 c c x 0 0) c x, false)

/-- The parameter operands of an SE command (R216). -/
def kOperands (t : Queue) (w : List Word) : Word × Word :=
  let k := fun i => mget (fun _ => (0 : Word)) t.k i
  if hEng w = 3 ∧ hOp w ≤ 1 then
    (if wf w 3 47 46 = 2 then k (wf w 3 45 40) else 0, if wf w 3 39 38 = 2 then k (wf w 3 37 32) else 0)
  else (0, 0)

/-! #### Commands that take effect at fetch (R228–R233) -/

/-- Parameter registers are written, check bits and all. -/
def setK (t : Queue) (vs : List Word) (first : Nat) : Queue :=
  { t with k := (vs.zipIdx first).foldl (fun k e => mput (fun _ => (0 : Word)) k e.2 e.1) t.k,
           kFlip := t.kFlip.filter (fun e => !decide (first ≤ e.1 ∧ e.1 < first + vs.length)) }

/-- QFE_SETK, QFE_MARK, QFE_LOOP or QFE_REPLAY at the fetch position. -/
def atFetchEffect (hw : Hw) (c q : Nat) (w : List Word) (src : Src) : Hw :=
  let t := getQueue hw c q
  match hOp w with
  | 0x08 =>
    advance (setQueue hw c q (setK t ((w.drop 4).take (wf w 3 9 8)) (wf w 3 5 0))) c q
  | 0x0B =>
    let hw1 := advance (setQueue hw c q { t with pinned := false }) c q
    setQueue hw1 c q { getQueue hw1 c q with pinned := wf w 3 0 0 == 1 }
  | 0x0A => advance (setQueue hw c q { t with loop := some ⟨src.index, src.inst, w, [], 0, 0, 0, 0, 0⟩ }) c q
  | _ =>
    let seg := 64 * wf w 3 51 6
    let len := wf w 5 63 48 + 1
    let pset := 8 * wf w 4 51 3
    let pcnt := wf w 5 46 40
    let reps := wf w 5 31 0 + 1
    if !inTierRange seg (64 * len) || (pcnt != 0 && !inTierRange pset (reps * pcnt * 8)) then
      stopQueue (advance hw c q) c q 0 stAddress src.inst src.index none
    else setQueue (rsetN hw (Reg.qfeQRep c q) 0) c q
      { t with replay := some ⟨src.index, seg, pset, len, pcnt, reps, 0, 0, false⟩ }

/-! #### Loop nests -/

def loopCount (w : List Word) (l : Nat) : Nat := wf w 3 (16 * l + 15) (16 * l) + 1

/-- The increment of an entry of word 1 or 2 for the levels' indices (R232). -/
def loopAdd (w : List Word) (table : Nat) (i : Nat → Nat) (body : List Word) : List Word :=
  foldN 4 body (fun b l =>
    let e := wf w table (16 * l + 15) (16 * l)
    let inc := if table = 1 then wf w (4 + l) 63 32 else wf w (4 + l) 31 0
    if nbits e 15 15 = 1 then
      modAt (fun x => x + BitVec.ofInt 64 (toInt 32 inc * (i l : Int) * (2 ^ nbits e 5 0 : Nat))) b (nbits e 10 8)
    else b)

/-- The body of instance n. -/
def loopBody (n : LoopNest) : List Word :=
  let c := loopCount n.w
  let i := fun l => if l = 0 then n.next % c 0 else if l = 1 then n.next / c 0 % c 1
    else if l = 2 then n.next / (c 0 * c 1) % c 2 else n.next / (c 0 * c 1 * c 2)
  loopAdd n.w 2 i (loopAdd n.w 1 i n.body)

def loopTotal (n : LoopNest) : Nat := loopCount n.w 0 * loopCount n.w 1 * loopCount n.w 2 * loopCount n.w 3

/-- An instance has been fetched. -/
def loopMove (c q : Nat) (hw : Hw) : Hw :=
  let t := getQueue hw c q
  match t.loop with
  | none => hw
  | some n => setQueue hw c q { t with loop := if n.next + 1 < loopTotal n then some { n with next := n.next + 1 } else none }

/-- Fetch the next instance of a nest. -/
def fetchInstance (hw : Hw) (c q : Nat) (n : LoopNest) : Option Hw :=
  let m := newCmd hw c q (loopBody n) n.kA n.kB n.bodyIndex n.bodyInst n.next
  takeCmd hw c m false (loopMove c q)

/-! #### One fetch -/

def wordsOf (bs : List Byte) : List Word := (List.range 8).map (fun i => word (leNat (slice bs (8 * i) 8)))

/-- Load the parameter set of a repetition (R228, R230): none while memory cannot be read, false when poisoned. -/
def loadSet (hw : Hw) (c q : Nat) (r : Replay) : Option (Hw × Bool) :=
  let done := fun h (vs : List Word) =>
    let t := getQueue h c q
    setQueue (rsetN h (Reg.qfeQRep c q) (r.rep % 2 ^ 32)) c q { setK t vs 0 with replay := some { r with loaded := true } }
  let at_ := r.pset + r.rep * r.pcnt * 8
  if r.pcnt = 0 then some (done hw [], true)
  else if fencedHome hw (engAgent c) at_ then
    some (stopQueue (endReplay (errorResponse hw (homeDie hw at_) 7 (engAgent c) (ctxOf hw c q) at_) c q) c q 0 stAddress 0 r.index none, false)
  else match pocReadN 10 hw (engAgent c) (r.pset + r.rep * r.pcnt * 8) (r.pcnt * 8) with
    | none => none
    | some (hw1, bs, bad) =>
      if bad then
        some (stopQueue (endReplay (poisonUsed hw1 c 0x01 (ctxOf hw c q) r.pset) c q) c q 0 stData 0 r.index none, false)
      else some (done hw1 ((List.range r.pcnt).map (fun i => word (leNat (slice bs (8 * i) 8)))), true)

/-- A slot that could not be read whole completes with a status and stops its queue; the rest of a replay is discarded
(log 44, DEDUCED). -/
def lostSlot (hw1 : Hw) (c q : Nat) (src : Src) (status : Nat) : Hw :=
  let hw2 := if src.seg then endReplay hw1 c q else advance hw1 c q
  let hw3 := setQueue hw2 c q { getQueue hw2 c q with loop := none }
  stopQueue (radd hw3 (Reg.qfeFetchCnt c) 1) c q 0 status src.inst src.index none

/-- A slot read with poison (R522): DATA_ERROR (log 42, DESIGN CHOICE). -/
def poisonedSlot (hw : Hw) (c q : Nat) (src : Src) : Hw :=
  lostSlot (poisonUsed hw c 0x01 (ctxOf hw c q) src.addr) c q src stData

/-- A slot whose home is in a fenced half: the error response completes it with ADDRESS_ERROR (R63, R505). -/
def refusedSlot (hw : Hw) (c q : Nat) (src : Src) : Hw :=
  lostSlot (errorResponse hw (homeDie hw src.addr) 7 (engAgent c) (ctxOf hw c q) src.addr) c q src stAddress

/-- The slot after a QFE_LOOP becomes its body; a command it may not expand makes the QFE_LOOP an encoding error and
is left to be fetched on its own (R233), where its patches count; `hw0` is the hardware before it was patched. -/
def takeBody (hw hw0 : Hw) (c q : Nat) (n : LoopNest) (raw w : List Word) (t : Queue) (src : Src) : Option Hw :=
  if 1 ≤ hEng raw ∧ hEng raw ≤ 4 ∧ kop raw ≠ (3, 0x05) then
    let k := kOperands t w
    some (advance (setQueue hw c q
      { t with loop := some { n with body := w, kA := k.1, kB := k.2, bodyIndex := src.index, bodyInst := src.inst } }) c q)
  else
    let m := { newCmd hw c q n.w 0 0 n.index n.inst 0 with stage := .bad }
    if hasRoom hw c m then some (accept (setQueue hw0 c q { t with loop := none }) c m) else none

/-- A slot's eight words, read and patched (R205, R229) (log 42, DESIGN CHOICE). -/
def takeSlot (hw0 : Hw) (c q : Nat) (src : Src) (raw : List Word) : Option Hw :=
  let patches : Bool := !atFetch raw && decide (hPk raw + patchCount raw ≤ 64)
  let ck := kCheck hw0 c q (kUsed raw raw patches)
  let hw := ck.1
  let t := getQueue hw c q
  let w := if patches then patchWords (mget (fun _ => 0) t.k) raw else raw
  let hw1 := if patches then radd hw (Reg.qfePatchCnt c) (patchCount raw) else hw
  if !ck.2 then some hw
  else match t.loop with
  | some n => takeBody hw1 hw c q n raw w t src
  | none =>
    if atFetch raw ∧ !encodingBad raw src.seg then
      some (radd (atFetchEffect hw c q raw src) (Reg.qfeFetchCnt c) 1)
    else
      let k := kOperands t w
      let m := newCmd hw1 c q w k.1 k.2 src.index src.inst src.rep
      takeCmd hw1 c m src.seg (fun h => advance h c q)

/-- A command waits for its translation: for a walk, or with a fault. -/
def xlatWaits (t : Core) (m : Cmd) : Bool := m.walking || faulted t m.id

/-- A command that waits in the window for its translation stops its queue's translation at fetch (R298). -/
def windowWaits (hw : Hw) (c q : Nat) : Bool :=
  let t := getCore hw c
  t.cmds.any (fun m => m.q == q && m.stage == .window && xlatWaits t m)

/-- A queue that may fetch: its core fetches, it runs, no branch is unresolved (R177), no fault holds it (R298). -/
def mayFetch (hw : Hw) (c q : Nat) : Bool :=
  let t := getQueue hw c q
  coreFetches hw c && t.st == 1 && !t.br && !windowWaits hw c q

/-- A command in the window may be translated again: no other command of its queue waits for its translation before the
FIFOs, none of its engine's in the FIFO (R298). -/
def mayRetranslate (hw : Hw) (c q eng : Nat) : Bool :=
  let t := getCore hw c
  !t.cmds.any (fun m => m.q == q && xlatWaits t m &&
    (m.stage == .fetching || m.stage == .window || (m.stage == .fifo && hEng m.w == eng)))

/-- The queue's command that is being translated. -/
def fetchingCmd (hw : Hw) (c q : Nat) : Option Cmd :=
  (getCore hw c).cmds.find? (fun m => m.q == q && m.stage == .fetching)

/-- Read and take the next slot, a repetition's parameters first. -/
def fetchSlot (hw : Hw) (c q : Nat) : Option Hw :=
  match nextSrc hw c q with
  | none => none
  | some src =>
    let loaded : Option (Hw × Bool) := match (getQueue hw c q).replay with
      | some r => if r.loaded then some (hw, true) else loadSet hw c q r
      | none => some (hw, true)
    match loaded with
    | none => none
    | some (hw1, false) => some hw1
    | some (hw1, true) =>
      if fencedHome hw1 (engAgent c) src.addr then some (refusedSlot hw1 c q src)
      else match pocRead hw1 (engAgent c) (src.addr / 64) false with
      | none => none
      | some (hw2, bs, bad) => if bad then some (poisonedSlot hw2 c q src) else takeSlot hw2 c q src (wordsOf bs)

/-- The answer of a row that has gone on, or cannot. -/
def didOr (hw : Hw) (r : Option Hw) : Hw × Answer :=
  match r with
  | some h => did h
  | none => (hw, .notEnabled)

/-- COMMAND_FETCH: a command held at fetch goes on once its page is there, else a nest's next instance, else the next
slot. -/
def fetchRow (c q : Nat) (hw : Hw) : Hw × Answer :=
  if !mayFetch hw c q then (hw, .notEnabled)
  else match fetchingCmd hw c q with
  | some m =>
    if m.walking || faulted (getCore hw c) m.id then (hw, .notEnabled)
    else didOr hw (placeCmd hw c m (fun h => match (getQueue h c q).loop with
      | some n => if n.body = [] then advance h c q else loopMove c q h
      | none => advance h c q))
  | none =>
    match (getQueue hw c q).loop with
    | some n =>
      didOr hw (if n.body = [] then fetchSlot hw c q else fetchInstance hw c q n)
    | none => didOr hw (fetchSlot hw c q)

/-- COMMAND_ISSUE: the queue's oldest command in the window for an engine enters that engine's FIFO; an old one is
translated first (R205, R304). A QFE command has no FIFO: an old one is translated again where it stands. -/
def issueRow (c q eng : Nat) (hw : Hw) : Hw × Answer :=
  match (getCore hw c).cmds.find? (fun m => m.q == q && hEng m.w == eng && m.stage == .window) with
  | none => (hw, .notEnabled)
  | some m =>
    if (eng = 0 ∧ !m.old) ∨ !coreStarts hw c ∨ (getQueue hw c q).st ≠ 1 ∨ m.walking ∨ faulted (getCore hw c) m.id ∨
        (m.old && !mayRetranslate hw c q eng) ∨ (!m.old && decide (fifoUsed hw c eng ≥ fifoSize eng)) then (hw, .notEnabled)
    else
      let r := if m.old then
          (let x := translate (radd hw (Reg.atuRetransCnt c) 1) c { m with pages := [] }
           (x.1, if x.2.2 then checkedAddr x.1 x.2.1 else x.2.1, x.2.2)) else (hw, m, true)
      if !r.2.2 || (eng != 0 && decide (fifoUsed hw c eng ≥ fifoSize eng)) then did (setCmd r.1 c r.2.1)
      else
        let m1 := { r.2.1 with stage := if eng = 0 then .window else .fifo }
        let hw1 := setCmd r.1 c m1
        did (if hMsk m.w = 1 ∧ m1.pre.isNone then semRead hw1 c m1 else hw1)

/-- Whether an encoding error may complete: its queue runs and its core starts commands, or something else has ended it. -/
def badEnds (hw : Hw) (c q : Nat) (m : Cmd) : Bool :=
  m.stage == .bad && recRoom hw c m &&
    (if m.status = 0 then coreStarts hw c && (getQueue hw c q).st == 1 else coreAlive hw c)

/-- The oldest unstarted command of a queue is an encoding error and completes (R564), its signals as a release where it
asks for one (R262). -/
def badRow (c q : Nat) (hw : Hw) : Hw × Answer :=
  match (getCore hw c).cmds.find? (fun m => decide (m.q = q) && unstarted m) with
  | some m =>
    if badEnds hw c q m then
      let m1 := { m with status := if m.status = 0 then stEncoding else m.status }
      didOr hw ((if releases m && signalsRun m1 then mbDrainAll hw c (getCore hw c).mb else some hw).map (fun h =>
        retireCmd h c (afterDrain h c m1)))
    else (hw, .notEnabled)
  | none => (hw, .notEnabled)

/-! #### Queue registers (R220, R221, R226, R235, R566) -/

/-- A register write to a core's block: the whole window of an absent core is unimplemented (R55). -/
def coreRegWrite (by_ : Agent) (c addr : Nat) (f : Hw → Hw × Answer) (hw : Hw) : Hw × Answer :=
  if corePresent hw c then regWriteBy by_ (c / 128) addr f hw
  else writeRefused hw (c / 128) 5 by_ addr

/-- The check of R566: aligned to its size, wholly in one tier. -/
def ringFits (base size : Nat) : Bool := base % size == 0 && inTierRange base size

/-- A write to QFE_DB_QUEUE. -/
def dbQueueWrite (c : Nat) (v : Word) (hw : Hw) : Hw × Answer := did (ringDoorbell hw c (bits v 34 32) (bits v 31 0))

/-- A refused configuration write (R221). -/
def cfgRefused (hw : Hw) (c q : Nat) (v : Word) : Hw := qfeLog hw c 3 q (bits v 31 0)

/-- A queue comes into RUN (R221, R302): HEAD and TAIL are 0, and nothing that the loader placed before counts any more. -/
def enableQueue (hw : Hw) (c q : Nat) : Hw :=
  let hw1 := setQueue hw c q { Queue.reset with st := 1 }
  let hw2 := rsetN (rsetN (rsetN hw1 (Reg.qfeQHead c q) 0) (Reg.qfeQTail c q) 0) (Reg.atuQEpoch c q) 0
  { hw2 with placed := mput (fun _ => 0) hw2.placed (8 * c + q) 0 }

/-- A RUN queue with nothing to fetch and nothing in flight. -/
def queueIdle (hw : Hw) (c q : Nat) : Bool :=
  let t := getQueue hw c q
  rget hw (Reg.qfeQHead c q) == rget hw (Reg.qfeQTail c q) && t.replay.isNone && t.loop.isNone &&
    !(getCore hw c).cmds.any (fun m => m.q == q)

/-- ABORT (R235): unstarted commands complete with ABORTED, the rest of nests and replays is discarded. -/
def abortQueue (hw : Hw) (c q : Nat) : Hw :=
  let hw1 := abortAll hw c q
  let tail := (rget hw1 (Reg.qfeQTail c q)).toNat
  rsetN (setQueue hw1 c q { getQueue hw1 c q with pos := tail, pinned := false, replay := none, loop := none, br := false })
    (Reg.qfeQHead c q) tail

/-- A write to QFE_Q_CTRL_q (log 42, DESIGN CHOICE). -/
def qCtrlWrite (c q : Nat) (v : Word) (hw : Hw) : Hw × Answer :=
  let t := getQueue hw c q
  let size := bits v 12 8
  let new := size * 256 + bits v 1 0
  if t.st = 0 then
    if size < 6 ∨ 16 < size ∨ (bit v 0 ∧ !ringFits (4096 * rbits hw (Reg.qfeQRing c q) 51 12) (64 * 2 ^ size)) then
      did (cfgRefused hw c q v)
    else
      let hw1 := rsetN hw (Reg.qfeQCtrl c q) new
      did (if bit v 0 then enableQueue hw1 c q else hw1)
  else if size ≠ rbits hw (Reg.qfeQCtrl c q) 12 8 then did (cfgRefused hw c q v)
  else if bit v 0 then did (rsetN hw (Reg.qfeQCtrl c q) (if t.st = 3 then new - 1 else new))
  else if t.st = 1 then
    if queueIdle hw c q then did (setQueue (rsetN hw (Reg.qfeQCtrl c q) new) c q { t with st := 0 })
    else did (cfgRefused hw c q v)
  else
    let hw1 := abortQueue (rsetN hw (Reg.qfeQCtrl c q) new) c q
    did (closeQueue (setQueue hw1 c q { getQueue hw1 c q with st := 3 }) c q)

/-- A write to QFE_Q_RING_q or QFE_Q_CTX_q, accepted while the queue is OFF. -/
def qOffWrite (c q addr mask : Nat) (v : Word) (hw : Hw) : Hw × Answer :=
  if (getQueue hw c q).st = 0 then did (rset hw addr (v &&& word mask)) else did (cfgRefused hw c q v)

/-- A write to QFE_Q_CQ_q. -/
def qCqWrite (c q : Nat) (v : Word) (hw : Hw) : Hw × Answer :=
  let lg := bits v 4 0
  if (getQueue hw c q).st ≠ 0 ∨ (bit v 7 ∧ (lg < 4 ∨ 16 < lg ∨ !ringFits (256 * bits v 51 8) (16 * 2 ^ lg))) then
    did (cfgRefused hw c q v)
  else
    let hw1 := rsetN hw (Reg.qfeQCq c q) (256 * bits v 51 8 + 128 * bits v 7 7 + lg)
    did (if bit v 7 then rsetN (rsetN hw1 (Reg.qfeQCqHead c q) 0) (Reg.qfeQCqTail c q) (2 ^ 32) else hw1)

/-- A write to QFE_Q_RESTART_q (R235). -/
def qRestartWrite (c q : Nat) (v : Word) (hw : Hw) : Hw × Answer :=
  let t := getQueue hw c q
  let act := bits v 1 0
  let clear := fun h : Hw => rsetN (rsetN h (Reg.qfeQErr c q) 0) (Reg.qfeQStopCode c q) 0
  if act = 0 ∨ act = 3 ∨ t.st ≠ 2 then did (qfeLog hw c 5 q (bits v 31 0))
  else if act = 1 then
    if rbits hw (Reg.qfeQErr c q) 59 52 = 0x20 then did hw
    else did (clear (setQueue hw c q { t with st := 1 }))
  else
    let hw1 := abortQueue hw c q
    did (clear (setQueue hw1 c q { getQueue hw1 c q with st := 1 }))

end Sys2Proof.Machine
end

