-- ==== Sys2Proof/Machine/AtuFaults.lean ====
section
/-! DEFINITION. Walks that end (R294), fault records and RESUME (R298–R301), the context base (R308), INVALIDATE
(R302–R307), and the combining trees of memory-semaphore signals (R279, R280). -/

namespace Sys2Proof.Machine

/-! #### Walks (R294, R297, R298) -/

/-- A page a migration holds waits for it (R323) (log 68, DEDUCED). -/
def migrating (hw : Hw) (ctx : Nat) (o : WalkOut) : Bool :=
  match o.page with
  | some p => hw.migs.any (fun e => e.ctx == ctx && e.page.va == p.va && e.page.log2 == p.log2)
  | none => false


/-- The reply of a walk at a core: the page enters its ATU and the command goes on, or the fault is taken. -/
def walkReply (hw : Hw) (o : WalkOut) (r : WalkReq) : Hw :=
  match findCmd hw r.core r.cmd with
  | none => hw
  | some m =>
    match o.page with
    | some p =>
      let hw1 := modCore hw r.core (fun t => atuPut t ⟨r.ctx, p, false⟩)
      let x := translate hw1 r.core { m with pages := m.pages ++ [p], walking := false }
      fifoAll (setCmd x.1 r.core x.2.1) r.core
    | none =>
      let x := takeFault hw r.core m r.ctx o.cause o.level o.key o.entry r.va r.write o.aof
      fifoAll (setCmd x.1 r.core x.2) r.core

/-- WALK_COMPLETE: a walk of a context for an address ends; every request its outcome covers is answered (log 68, DEDUCED). -/
def walkRow (d ctx va : Nat) (hw : Hw) : Hw × Answer :=
  if !(getTree hw d).walks.any (fun r => r.ctx == ctx && r.va == va) then (hw, .notEnabled)
  else match walkWith (walkRead d ctx) (walkNote d ctx) hw ctx va with
  | none => (hw, .notEnabled)
  | some (hw1, o) =>
    if migrating hw ctx o then (hw, .notEnabled)
    else
      let t := getTree hw1 d
      let cores := (t.walks.filter (fun r => r.ctx == ctx && r.va == va)).map (·.core)
      let hit := fun r : WalkReq => r.ctx == ctx && covers o va r.va (cores.contains r.core)
      let hw2 := setTree hw1 d { t with walks := t.walks.filter (fun r => !hit r) }
      did ((t.walks.filter hit).foldl (fun h r => walkReply h o r) hw2)

/-! #### Fault records (R299) -/

/-- Word 0 of a record, or of ATU_FLT_PEND_n without its low half (R299, R309). -/
def faultWord0 (c slot : Nat) (f : FltSlot) : Nat :=
  f.cause * 2 ^ 60 + f.level * 2 ^ 58 + f.acc * 2 ^ 56 + slot * 2 ^ 48 + f.qmask * 2 ^ 40 + f.emask * 2 ^ 32 +
    c * 2 ^ 16 + f.ctx

/-- The fault that gets the next record: the lowest number without one, pending or not (R299). -/
def nextRecord (t : Core) : Option (Nat × FltSlot) :=
  let fs := t.fltLate ++ (List.range 8).filterMap (fun n => match slotGet t n with
    | some f => if f.recorded then none else some (n, f)
    | none => none)
  fs.find? (fun e => fs.all (fun x => decide (e.2.seq ≤ x.2.seq)))

/-- The record of a fault is written. -/
def recordDone (hw : Hw) (c n : Nat) (f : FltSlot) : Hw :=
  if (getCore hw c).fltLate.contains (n, f) then modCore hw c (fun t => { t with fltLate := t.fltLate.filter (fun e => e != (n, f)) })
  else slotSet hw c n (some { f with recorded := true })

/-- FAULT_RECORD_WRITE. R309 sets ATU_FLT_TAIL to 0 with its PHASE, and R299 writes records of the first pass with PHASE 1: a
record carries the other value of the register's PHASE (log 52, DEDUCED). -/
def faultRecordRow (c : Nat) (hw : Hw) : Hw × Answer :=
  match nextRecord (getCore hw c) with
  | none => (hw, .notEnabled)
  | some (n, f) =>
    let base := rget hw (Reg.atuFltBase c)
    let size := 2 ^ bits base 4 0
    let tail := rbits hw (Reg.atuFltTail c) 31 0
    let phase := rbits hw (Reg.atuFltTail c) 32 32
    let head := rbits hw (Reg.atuFltHead c) 31 0
    if !bit base 7 ∨ (tail + 2 ^ 32 - head) % 2 ^ 32 ≥ size ∨ coreAlive hw c = false then (hw, .notEnabled)
    else
      let bs := leBytes 8 ((1 - phase) * 2 ^ 63 + faultWord0 c n f) ++ leBytes 8 f.va ++ leBytes 8 f.entry.toNat ++
        leBytes 8 (f.seq % 2 ^ 32 * 2 ^ 32 + f.index % 2 ^ 32)
      match pocWriteN 2 hw (engAgent c) (4096 * bits base 51 12 + 32 * (tail % size)) bs false 0 0 with
      | none => (hw, .notEnabled)
      | some hw1 =>
        let next := (tail + 1) % 2 ^ 32
        let hw2 := rsetN hw1 (Reg.atuFltTail c) (next + (if next % size = 0 then 1 - phase else phase) * 2 ^ 32)
        did (message (recordDone hw2 c n f) (c / 128) (Reg.atuMsiAddr c)
          (rget hw (Reg.atuMsiData c)).toNat)

/-! #### RESUME and the ring (R300, R309) -/

def atuLog (hw : Hw) (c cause slot : Nat) : Hw :=
  (logPush hw (Reg.atuErrLog c) 16 (word (2 ^ 63 + cause * 2 ^ 60 + slot), 0)).2

/-- Commands of a resumed fault complete with TRANSLATION_ABORT. -/
def abortReqs (hw : Hw) (c : Nat) (ids : List Nat) : Hw :=
  modCore hw c (fun t => { t with cmds := t.cmds.map (fun m =>
    if ids.contains m.id then { m with pre := some stXlatAbort, old := false, walking := false } else m) })

/-- A write to ATU_FLT_RESUME. -/
def fltResumeWrite (c : Nat) (v : Word) (hw : Hw) : Hw × Answer :=
  let n := bits v 2 0
  let act := bits v 9 8
  if act = 0 ∨ act = 3 then did (atuLog hw c 4 n)
  else match slotGet (getCore hw c) n with
  | none => did (atuLog hw c 1 n)
  | some f =>
    if f.seq % 65536 ≠ bits v 31 16 then did (atuLog hw c 2 n)
    else
      let hw1 := slotFree hw c n f
      let hw2 := if act = 1 then f.reqs.foldl (fun h id => translateAgain h c id) hw1 else abortReqs hw1 c f.reqs
      did (fifoAll (wakeWaiters hw2 c) c)

/-- A write to ATU_FLT_BASE (R309, R566) (log 42, DESIGN CHOICE) (log 52, DEDUCED). -/
def fltBaseWrite (c : Nat) (v : Word) (hw : Hw) : Hw × Answer :=
  let cur := rget hw (Reg.atuFltBase c)
  let new := 4096 * bits v 51 12 + 128 * bits v 7 7 + bits v 4 0
  let lg := bits v 4 0
  let moved : Bool := bits v 51 12 != bits cur 51 12 || lg != bits cur 4 0
  let fits : Bool := decide (4 ≤ lg ∧ lg ≤ 12) && ringFits (4096 * bits v 51 12) (32 * 2 ^ lg)
  if (bit cur 7 && moved) || (bit v 7 && !fits) then did (atuLog hw c 3 0)
  else
    let hw1 := rsetN hw (Reg.atuFltBase c) new
    did (if bit v 7 && !bit cur 7 then rsetN (rsetN hw1 (Reg.atuFltHead c) 0) (Reg.atuFltTail c) 0 else hw1)

/-! #### The context base and INVALIDATE (R303–R308) -/

/-- A register write to a block that only the compute dies have. -/
def computeRegWrite (by_ : Agent) (d addr : Nat) (f : Hw → Hw × Answer) (hw : Hw) : Hw × Answer :=
  if d < 4 then regWriteBy by_ d addr f hw else writeRefused hw d 5 by_ addr

/-- Whether any queue of the package is not OFF. -/
def anyQueueOn (hw : Hw) : Bool := hw.cores.any (fun e => e.2.queues.any (fun x => x.2.st != 0))

/-- A write to WLK_CTX_BASE of die d. -/
def ctxBaseWrite (d : Nat) (v : Word) (hw : Hw) : Hw × Answer :=
  let lg := bits v 4 0
  if anyQueueOn hw ∨ 16 < lg ∨ !ringFits (4096 * bits v 51 12) (32 * 2 ^ lg) then did (ror hw (Reg.wlkErr d) 2)
  else did (foldN 4 hw (fun h x => rsetN h (Reg.wlkCtxBase x) (4096 * bits v 51 12 + lg)))

/-- A write to WLK_INV_DONE_ADDR. -/
def doneAddrWrite (d : Nat) (v : Word) (hw : Hw) : Hw × Answer :=
  if bit v 0 ∧ !inTierRange (8 * bits v 51 3) 8 then did (ror hw (Reg.wlkErr d) 8)
  else did (rsetN hw (Reg.wlkInvDoneAddr d) (8 * bits v 51 3 + bits v 0 0))

/-- The cores that take part in an INVALIDATE. -/
def presentCores (hw : Hw) : List Nat := (List.range 512).filter (corePresent hw)

/-- A write to WLK_INV_REQ submits a request (R303). -/
def invReqWrite (d : Nat) (v : Word) (hw : Hw) : Hw × Answer :=
  let t := getTree hw d
  if t.invs.length ≥ 16 then did (ror hw (Reg.wlkErr d) 4)
  else
    let seq := (rbits hw (Reg.wlkInvSeq d) 63 32 + 1) % 2 ^ 32
    let size := 2 ^ (12 + min 45 (rbits hw (Reg.wlkInvVa d) 5 0))
    let lo := 4096 * rbits hw (Reg.wlkInvVa d) 56 12 / size * size
    let cs := presentCores hw
    did (setTree (rfield hw (Reg.wlkInvSeq d) 63 32 seq) d
      { t with invs := t.invs ++ [⟨seq, bits v 15 0, lo, lo + size, bit v 32, cs, cs, []⟩] })

/-- The bump of a context at a core (R304 steps 1 and 2): overlapping ATU entries go, epochs of the context's queues
rise, fetched unstarted commands become old and those in a FIFO translate again at once; a walk under way starts over, so
that a command keeps no page from before the bump. -/
def bumpCore (hw : Hw) (c ctx lo hi : Nat) : Hw :=
  let d := c / 128
  let t := getTree hw d
  let hw1 := setTree hw d { t with cache := t.cache.filter (fun e => e.2.1 != ctx), par := t.par.filter (fun x => x.2 != ctx) }
  let hw2 := modCore hw1 c (fun t => atuDrop t ctx lo hi)
  let qs := (List.range 8).filter (fun q => ctxOf hw c q == ctx)
  let hw3 := qs.foldl (fun h q => rsetN h (Reg.atuQEpoch c q) ((rbits h (Reg.atuQEpoch c q) 31 0 + 1) % 2 ^ 32)) hw2
  let aged := modCore hw3 c (fun t => { t with cmds := t.cmds.map (fun m =>
    if qs.contains m.q then
      match m.stage with
      | .fetching => { m with pages := [] }
      | .window => { m with old := true, pages := [] }
      | .fifo => { m with old := true, pages := [] }
      | _ => m
    else m) })
  fifoAll aged c

/-- Started commands of a context that hold a page of the range. -/
def startedIn (hw : Hw) (c ctx lo hi : Nat) : List (Nat × Nat) :=
  ((getCore hw c).cmds.filter (fun m => !unstarted m && ctxOf hw c m.q == ctx &&
    m.pages.any (fun p => decide (p.va < hi ∧ lo < p.va + 2 ^ p.log2)))).map (fun m => (c, m.id))

def modInv (hw : Hw) (d seq : Nat) (f : InvReq → InvReq) : Hw :=
  let t := getTree hw d
  setTree hw d { t with invs := t.invs.map (fun r => if r.seq = seq then f r else r) }

def findInv (hw : Hw) (d seq : Nat) : Option InvReq := (getTree hw d).invs.find? (fun r => r.seq == seq)

def invLo (r : InvReq) : Nat := if r.all then 0 else r.lo

/-- The end of the range an INVALIDATE names (log 42, DESIGN CHOICE). -/
def invHi (r : InvReq) : Nat := if r.all then vaMod else r.hi

/-- Whether a core has nothing left to drain for a request (R304 step 3, R307). -/
def drained (hw : Hw) (c : Nat) (r : InvReq) : Bool :=
  r.waits.all (fun w => w.1 != c || (findCmd hw c w.2).isNone)

/-! #### Combining trees (R279, R280) -/

/-- The parent of a node: groups 0–15 under quadrants 16–19, these under the root 20 (log 53, DESIGN CHOICE). -/
def nodeParent (n : Nat) : Nat := if n < 16 then 16 + n / 4 else 20

/-- An ADD leaves the root: one atomic add at the word's home; a poisoned word is left unchanged (R563), and an ADD from
outside a fenced half to a home in it gets the error response (R505) (log 44, DEDUCED). -/
def treeOut (hw : Hw) (d : Nat) (a : TreeAdd) : Hw :=
  let x := draw (radd hw (Reg.semOutCnt d) 1)
  let lat := max (rbits hw (Reg.semMaxlat d) 15 0) (x.1.toNat % 57)
  let hw1 := rsetN x.2 (Reg.semMaxlat d) lat
  let from_ := engAgent (a.core.getD (128 * d))
  if fencedHome hw from_ a.addr then errorResponse hw1 (homeDie hw a.addr) 7 from_ 0 a.addr
  else if linePoison hw1 (a.addr / 64) then signalPoisoned hw1 a.addr (a.core.getD 0xFFF)
  else
    let req : HReq := { mkReq .atomic (engAgent (a.core.getD (128 * d))) (a.addr / 64) with
      op := some (.amo .add 8 (a.addr % 64) (word a.sum) 0), roe := roePath hw a.addr 8, who := some (a.core.getD 0xFFF, 0) }
    match pocServe hw1 req with
    | some r => if r.poison then signalPoisoned r.hw a.addr (a.core.getD 0xFFF) else r.hw
    | none => homeArrive hw1 req

end Sys2Proof.Machine
end

