-- ==== Sys2Proof/Machine/HartBar.lean ====
section
/-! DEFINITION. A hart's barriers and stop (R360, R361, R364): what the completion of its last buffered store or its last
outstanding access brings about. -/

namespace Sys2Proof.Machine

/-- The stores in a buffer, without the marks that order them. -/
def sbStores (t : Hart) : List SbEnt := t.sb.filter (fun e => e.kind != .orderMark)

/-- A hart has a load outstanding. What follows it and could not be taken back, a store, an AMO or a cache-block operation,
waits for it, as its exception would be precise (R363) (log 37, DEDUCED). -/
def loadsOut (t : Hart) : Bool := t.ioLoad.isSome || !t.loads.isEmpty

/-- A hart has a load, an AMO or a cbo.zero outstanding. -/
def hartLoads (t : Hart) : Bool := loadsOut t || t.miss.any (fun m => m.2 == .amo || m.2 == .zero)

/-- The store buffer is drained and every earlier load has returned. -/
def hartDrained (t : Hart) : Bool := sbStores t == [] && !hartLoads t

/-- Every line a stopping hart holds goes home (R364): M by WrBack, E by Evict, S without a message. -/
def hartFlush (hw : Hw) (h : HartId) : Hw := (getHart hw h).lines.foldl (fun w e => hartEvict w h e.1) hw

/-- A waiting barrier whose condition holds completes (R361); a stop goes on to write back, and ends with the last Comp
(R364). TLV.DB issues its store (R368) (log 40, DEDUCED). -/
def barSettle (hw : Hw) (h : HartId) : Hw :=
  let t := getHart hw h
  let t0 := if sbStores t = [] then { t with sb := [] } else t
  if !hartDrained t0 then hw
  else match t0.bar with
  | none => hw
  | some (.io _ _) => hw
  | some (.tlvDb a v) =>
    let kind : SbKind := match locate a with
      | .port _ _ => .nonPosted
      | _ => .register
    setHart hw h { t0 with bar := none, sb := [⟨kind, a, 8, 0, leBytes 8 v.toNat, none, false⟩] }
  | some (.stop pd) =>
    let hw1 := hartFlush (setHart hw h t0) h
    let t1 := getHart hw1 h
    if t1.wbuf = [] ∧ t1.lines = [] ∧ t1.miss = [] then
      setHart hw1 h { t1 with bar := none, stopped := true, off := t1.off || pd, icache := [], dcache := [], flipI := [], flipD := [], resv := none, start := none }
    else hw1
  | some _ => setHart hw h { t0 with bar := none }

/-- A synchronous exception of a hart (R360, R363): what stands in its store buffer drains before the first instruction of
the handler; of the barriers only a stop outlasts it (log 66, DESIGN CHOICE). -/
def trapped (h : HartId) (r : Hw × Answer) : Hw × Answer :=
  let enter :=
    let t := getHart r.1 h
    match t.bar with
    | some (.stop _) => r
    | _ => (barSettle (setHart r.1 h { t with bar := some .handler }) h, r.2)
  match r.2 with
  | .values vs => if vs.contains none then enter else r
  | .loadFault => enter
  | .storeFault => enter
  | .illegal => enter
  | _ => r

end Sys2Proof.Machine
end

