-- ==== Sys2Proof/Machine/HartOps.lean ====
section
/-! DEFINITION. Hart records shared by the rows that end a hart's access: the bus-error log and its interrupt bit
(R362), a store that completes or fails (R359, R361), the cluster's status (R371). -/

namespace Sys2Proof.Machine

/-- The store-buffer entry that waits for a completion. -/
def sbTagged (t : Hart) (tag : Nat) : Option SbEnt := t.sb.find? (fun e => e.tag == some tag)

/-- Order marks with nothing before them have done their work. -/
def dropMarks : List SbEnt → List SbEnt
  | [] => []
  | e :: es => if e.kind = .orderMark then dropMarks es else e :: es

/-- A non-posted store's completion has come. -/
def hartStoreDone (hw : Hw) (h tag : Nat) : Hw :=
  let t := getHart hw h
  barSettle (setHart hw h { t with sb := dropMarks (t.sb.filter (fun e => e.tag != some tag)) }) (Fin.ofNat 72 h)

/-- A non-posted store has failed: it leaves the buffer and is logged. -/
def hartStoreFailed (hw : Hw) (h tag cause : Nat) : Hw :=
  match sbTagged (getHart hw h) tag with
  | some e => hartBerr (hartStoreDone hw h tag) h cause e.addr
  | none => hw

/-- HCL_STATUS of a cluster (R371): cores that are powered down, cores in a barrier on a non-posted store. -/
def hclStatus (hw : Hw) (k : Nat) : Word :=
  word ((List.range 12).foldl (fun v i =>
    let t := getHart hw (12 * k + i)
    v + 2 ^ i * b2n (t.bar.isSome && t.sb.any (fun e => e.kind == .nonPosted || e.kind == .register))
      + 2 ^ (16 + i) * b2n t.off) 0)

/-- HCL_BERR_LOG read to empty clears mip bit 35 and the overflow bit (R362, R371). -/
def berrPop (hw : Hw) (by_ : Agent) (h : Nat) : (Word × Word) × Hw :=
  let r := logPop hw by_ (berrLog h)
  if logGet r.2 (berrLog h) = [] then
    (r.1, setHart (rclr r.2 (Reg.hclBerrOvf (hartCl h)) (2 ^ hartIdx h)) h
      { getHart r.2 h with mip35 := false })
  else r

end Sys2Proof.Machine
end

