-- ==== Sys2Proof/Machine/Scalar.lean ====
section
/-! DEFINITION. The scalar engine (R172–R177, R213, R216): integer operations, predicates, narrow loads and stores, atomics,
branches, zero lines, the clock counter; and the L1 refill that ends a missing load (R73). -/

namespace Sys2Proof.Machine

/-! #### Registers and operands -/

def getG (hw : Hw) (c q n : Nat) : Word := rget hw (Reg.seG c (16 * q + n))

/-- An operand of SE_OP and SE_SETP (R216): a G register, the immediate, a parameter register read at fetch. -/
def seOperand (hw : Hw) (c : Nat) (m : Cmd) (sel n : Nat) (k : Word) : Word :=
  if sel = 0 then getG hw c m.q n else if sel = 1 then atD 0 m.w 4 else k

def seA (hw : Hw) (c : Nat) (m : Cmd) : Word := seOperand hw c m (wf m.w 3 47 46) (wf m.w 3 45 40) m.kA

def seB (hw : Hw) (c : Nat) (m : Cmd) : Word := seOperand hw c m (wf m.w 3 39 38) (wf m.w 3 37 32) m.kB

/-- Signed division (R165): toward zero; by zero all ones; the one overflow wraps. -/
def sdivW (a b : Word) : Word := if b = 0 then word (2 ^ 64 - 1) else BitVec.ofInt 64 (Int.tdiv a.toInt b.toInt)

/-- Signed remainder: the dividend's sign, the dividend itself by zero. -/
def sremW (a b : Word) : Word := if b = 0 then a else BitVec.ofInt 64 (Int.tmod a.toInt b.toInt)

/-- The operations of SE_OP (R173, R216). -/
def seAlu (func : Nat) (p : Bool) (a b : Word) : Word :=
  let n := b.toNat % 64
  match func with
  | 0x00 => a + b
  | 0x01 => a - b
  | 0x02 => a &&& b
  | 0x03 => a ||| b
  | 0x04 => a ^^^ b
  | 0x05 => a <<< n
  | 0x06 => a >>> n
  | 0x07 => BitVec.sshiftRight a n
  | 0x08 => if a.toInt ≤ b.toInt then a else b
  | 0x09 => if a.toInt ≥ b.toInt then a else b
  | 0x0A => if a.toNat ≤ b.toNat then a else b
  | 0x0B => if a.toNat ≥ b.toNat then a else b
  | 0x0C => if p then a else b
  | 0x0D => a * b
  | 0x0E => BitVec.ofInt 64 (a.toInt * b.toInt / (2 ^ 64 : Nat))
  | 0x0F => word (a.toNat * b.toNat / 2 ^ 64)
  | 0x10 => sdivW a b
  | 0x11 => if b = 0 then word (2 ^ 64 - 1) else word (a.toNat / b.toNat)
  | 0x12 => sremW a b
  | 0x13 => if b = 0 then a else word (a.toNat % b.toNat)
  | _ => a

/-- SE_OP. -/
def seOpBody (c : Nat) (hw : Hw) (m : Cmd) : Option (Hw × Cmd) :=
  let v := seAlu (wf m.w 3 63 58) (predOf hw c m.q (wf m.w 3 31 29)) (seA hw c m) (seB hw c m)
  some (setG hw c m.q (wf m.w 3 51 48) v, doneCmd m stSuccess)

/-- The comparisons and combinations of SE_SETP (R216). -/
def seTest (hw : Hw) (c : Nat) (m : Cmd) : Bool :=
  let a := seA hw c m
  let b := seB hw c m
  let pa := predOf hw c m.q (wf m.w 3 45 40)
  let pb := predOf hw c m.q (wf m.w 3 37 32)
  match wf m.w 3 63 58 with
  | 0 => a == b
  | 1 => a != b
  | 2 => decide (a.toInt < b.toInt)
  | 3 => decide (a.toNat < b.toNat)
  | 4 => decide (a.toInt ≥ b.toInt)
  | 5 => decide (a.toNat ≥ b.toNat)
  | 6 => pa && pb
  | 7 => pa || pb
  | _ => !pa

/-- A predicate is written; P0 always reads 1 (R172). -/
def setPred (hw : Hw) (c q p : Nat) (v : Bool) : Hw := if p = 0 then hw else rfield hw (Reg.sePred c q) p p (b2n v)

def seSetpBody (c : Nat) (hw : Hw) (m : Cmd) : Option (Hw × Cmd) :=
  some (setPred hw c m.q (wf m.w 3 50 48) (seTest hw c m), doneCmd m stSuccess)

/-! #### Loads and stores (R72–R77, R174) -/

/-- BASE + OFF + G[OG] (R174, R216). -/
def seAddr (hw : Hw) (c : Nat) (m : Cmd) : Nat :=
  let g : Word := if wf m.w 3 47 47 = 1 then getG hw c m.q (wf m.w 3 46 43) else 0
  (atD 0 m.w 4 + BitVec.ofInt 64 (toInt 32 (wf m.w 3 31 0)) + g).toNat

/-- The physical address of a memory access: aligned and within the page of its base, which the fetch translated (R174). -/
def sePhys (hw : Hw) (c : Nat) (m : Cmd) (size : Nat) : Option Nat :=
  let va := seAddr hw c m
  match m.pages.find? (fun p => inPage p (wf m.w 4 63 0 % vaMod)) with
  | some p => if va % size = 0 ∧ inPage p va then some (p.pa + (va - p.va)) else none
  | none => none

/-- An SE or VE access that names neither tier nor another core's scratchpad or accumulator (R67, R72). -/
def outOfReach (hw : Hw) (c : Nat) (pa : Nat) : Bool :=
  match locate (localOf pa) with
  | .tier0 | .tier1 => false
  | .spad t _ => t == c
  | .acc t _ => t == c
  | .hole _ => false
  | _ => true
  || pkgOf hw pa != 0

/-- A loaded value in its register (R213). -/
def loadReg (m : Cmd) (bs : List Byte) : Word :=
  let n := bs.length
  if wf m.w 3 60 60 = 1 then word (ofInt 64 (toInt (8 * n) (leNat bs))) else word (leNat bs)

/-- A load ends with its bytes: poison writes no G register (R522). -/
def loadEnd (hw : Hw) (c : Nat) (m : Cmd) (bs : List Byte) (bad : Bool) (pa : Nat) : Hw × Cmd :=
  if bad then (poisonUsed hw c 0x01 (ctxOf hw c m.q) pa, doneCmd m stData)
  else (setG hw c m.q (wf m.w 3 51 48) (loadReg m bs), doneCmd m stSuccess)

/-- The page of an access, for the stream trackers. -/
def pageLines (m : Cmd) (pa : Nat) : PageLines :=
  match m.pages.find? (fun p => decide (p.pa ≤ pa ∧ pa < p.pa + 2 ^ p.log2)) with
  | some p => (localOf p.pa / 128, 2 ^ p.log2 / 128, p.va / 128)
  | none => (pa / 128, 1, pa / 128)

/-- A load from a tier through L1 (R73–R75, R80): at once from L1 or the side buffer, a prefetched line in place of a
miss; else the line is fetched and the load waits for its sector. It joins a fetch of the line under way, unless an acquire
has come since that began (R78). -/
def seLoadTier (hw : Hw) (c : Nat) (m : Cmd) (pa size : Nat) : Option (Hw × Cmd) :=
  let a := localOf pa
  let line := a / 128
  match mbDrainFor hw c a size with
  | none => none
  | some hwd =>
    let hw0 := if hVol m.w then hwd else l1Check hwd c line false
    if hVol m.w then
      (pocRead hw0 (engAgent c) (a / 64) false).map (fun r => loadEnd r.1 c m (slice r.2.1 (a % 64) size) r.2.2 a)
    else
      let t := getCore hw0 c
      let filled := if l1Ways hw0 c != [] && (l1Find hw0 c (a / 64)).isNone && t.pf.contains line then pfArrive hw0 c line
        else some hw0
      filled.map (fun h =>
        match l1Find h c (a / 64) with
        | some (d, inL1) =>
          let h1 := l1Touch (radd h (if inL1 then Reg.l1HitCnt c else Reg.l1PfHitCnt c) 1) c line
          loadEnd (pfTrain h1 c 3 (ctxOf hw c m.q) [line] [] (pageLines m pa)) c m (slice d (a % 64) size) false a
        | none =>
          let joins := fun r : Refill => r.line == line && r.install && r.sectors.contains (a / 64)
          let open_ : Bool := (getCore h c).refills.any joins
          let h1 := if open_ then modCore h c (fun t =>
              { t with refills := t.refills.map (fun r => if joins r then { r with loads := r.loads ++ [m.id] } else r) })
            else radd (modCore h c (fun t =>
              { t with refills := t.refills ++ [⟨line, [a / 64, 4 * line + 1 - a / 64], true, [m.id]⟩] })) (Reg.l1MissCnt c) 1
          (pfTrain h1 c 3 (ctxOf hw c m.q) [line] (if open_ then [] else [line]) (pageLines m pa), runCmd m (.load pa)))

/-- An access outside the tiers, in a range of another core (R72). -/
def seLoadFar (hw : Hw) (c : Nat) (m : Cmd) (pa size : Nat) : Option (Hw × Cmd) :=
  if outOfReach hw c pa then
    let r := dmaRefused hw c m pa (accessCause hw (localOf pa) 7)
    some (r.1, { r.2 with stage := .done })
  else match dmaReadLocal hw c m pa size false .none with
  | none => none
  | some (hw1, m1, some (bs, bad)) => some (loadEnd hw1 c m1 bs bad (localOf pa))
  | some (hw1, m1, none) => some (hw1, { m1 with stage := .done })

/-- An address that a core reaches in a tier. -/
def isTier (hw : Hw) (c pa : Nat) : Bool := inTier (localOf pa) && !fencedHome hw (engAgent c) (localOf pa)

/-- SE_LD. -/
def seLdBody (c : Nat) (hw : Hw) (m : Cmd) : Option (Hw × Cmd) :=
  let size := 2 ^ wf m.w 3 63 62
  if wf m.w 3 61 61 = 0 then
    let off := seAddr hw c m
    if off % size ≠ 0 ∨ !spadIn off size ∨ touchesGated hw c off size then some (hw, doneCmd m stAddress)
    else let r := spadRead hw c off size; some (loadEnd r.1 c m r.2.1 r.2.2 (coreWin c + off))
  else match sePhys hw c m size with
  | none => some (hw, doneCmd m stAddress)
  | some pa => if isTier hw c pa then seLoadTier hw c m pa size else seLoadFar hw c m pa size

/-- SE_ST. -/
def seStBody (c : Nat) (hw : Hw) (m : Cmd) : Option (Hw × Cmd) :=
  let size := 2 ^ wf m.w 3 63 62
  let bs := leBytes size (getG hw c m.q (wf m.w 3 51 48)).toNat
  if wf m.w 3 61 61 = 0 then
    let off := seAddr hw c m
    if off % size ≠ 0 ∨ !spadIn off size ∨ touchesGated hw c off size then some (hw, doneCmd m stAddress)
    else some (spadPut hw c off bs false, doneCmd m stSuccess)
  else match sePhys hw c m size with
  | none => some (hw, doneCmd m stAddress)
  | some pa =>
    if isTier hw c pa then (l1Store 2 hw c (ctxOf hw c m.q) (localOf pa) bs false).map (fun h => (h, doneCmd m stSuccess))
    else if outOfReach hw c pa then
      let r := dmaRefused hw c m pa (accessCause hw (localOf pa) 7)
      some (r.1, { r.2 with stage := .done })
    else (dmaWriteLocal hw c m pa bs false ⟨0, 0, 0, 0, false, 0⟩).map (fun r => (r.1, { r.2 with stage := .done }))

/-- SE_ZLINE (R79). -/
def seZlineBody (c : Nat) (hw : Hw) (m : Cmd) : Option (Hw × Cmd) :=
  match paOf m (wf m.w 4 63 0) with
  | some pa =>
    if pa % 128 ≠ 0 ∨ pkgOf hw pa ≠ 0 ∨ !isTier hw c pa then some (hw, doneCmd m stAddress)
    else (l1Store 2 hw c (ctxOf hw c m.q) (localOf pa) (List.replicate 128 0) false).map (fun h => (h, doneCmd m stSuccess))
  | none => some (hw, doneCmd m stAddress)

/-- SE_AMO (R175): at the home of its bytes, here or in another package (log 89, DESIGN CHOICE). -/
def seAmoGo (c : Nat) (hw : Hw) (m : Cmd) : Option (Hw × Cmd) :=
  let size := if wf m.w 3 57 57 = 1 then 8 else 4
  let func := wf m.w 3 63 58
  let gd := wf m.w 3 51 48
  let opnd := getG hw c m.q (wf m.w 3 47 44)
  let cmp := getG hw c m.q (wf m.w 3 43 40)
  let refuse := fun pa cause => let r := dmaRefused hw c m pa cause; some (r.1, { r.2 with stage := .done })
  match paOf m (wf m.w 4 63 0) with
  | none => some (hw, doneCmd m stAddress)
  | some pa =>
    if pkgOf hw pa = 0 ∧ dmaHeld hw c (localOf pa) = true then none
    else if pkgOf hw pa = 0 ∧ unimplemented hw (localOf pa) = true then refuse pa 5
    else if pa % size ≠ 0 then refuse pa 6
    else if pkgOf hw pa ≠ 0 then
      let h : FabHdr := { noHdr with func := BitVec.ofNat 4 func, opnd := opnd, cmp := cmp }
      let r := cmdRequest hw c m 0x03 pa size h [] (.greg gd size)
      some (r.1, { r.2 with stage := .started })
    else match locate (localOf pa), amoFn func with
    | .tier0, some fn | .tier1, some fn =>
      let a := localOf pa
      match mbDrainFor hw c a size with
      | none => none
      | some hw0 =>
        let req : HReq := { mkReq .atomic (engAgent c) (a / 64) with
          op := some (.amo fn size (a % 64) opnd cmp), roe := roePath hw0 a size && featureOn hw0 5 }
        (pocServe hw0 req).map (fun r =>
          if r.poison then (poisonUsed r.hw c 0x01 (ctxOf hw c m.q) a, doneCmd m stData)
          else
            let old := leNat (slice r.old (a % 64) size)
            (setG r.hw c m.q gd (word (ofInt 64 (toInt (8 * size) old))), doneCmd m stSuccess))
    | _, _ => refuse pa 8

/-- SE_AMO; with REL = 1 its atomic follows the drain of the merging buffer (R262), which kills its context where it meets
an entry with bad parity (R83). -/
def seAmoBody (c : Nat) (hw : Hw) (m : Cmd) : Option (Hw × Cmd) :=
  (if hRel m.w then mbDrainAll hw c (getCore hw c).mb else some hw).bind (fun h =>
    if lostIn h c m then some (h, doneCmd m 0x20) else seAmoGo c h m)

/-! #### Branches (R177, R231) -/

/-- Whether a branch target is one R231 allows. -/
def targetOk (hw : Hw) (c q index target : Nat) : Bool :=
  let tail := (rget hw (Reg.qfeQTail c q)).toNat
  let head := (rget hw (Reg.qfeQHead c q)).toNat
  let d := fun x y : Nat => (x + 2 ^ 32 - y) % 2 ^ 32
  (decide (1 ≤ d target index ∧ d target index ≤ d tail index)) ||
    ((getQueue hw c q).pinned && decide (d target head ≤ d tail head))

/-- SE_BR: the condition, the decrement, the new fetch position (log 42, DESIGN CHOICE). -/
def seBrBody (c : Nat) (hw : Hw) (m : Cmd) : Option (Hw × Cmd) :=
  let q := m.q
  let cond := wf m.w 3 63 62
  let g := wf m.w 3 51 48
  let n := getG hw c q g - 1
  let hw1 := if cond = 2 then setG hw c q g n else hw
  let taken := if cond = 2 then n != 0 else predOf hw c q (wf m.w 3 61 59) == (cond == 0)
  let target := (((m.index : Int) + toInt 24 (wf m.w 3 23 0)) % (2 ^ 32 : Nat)).toNat
  let resolved := fun h : Hw => setQueue h c q { getQueue h c q with br := false }
  if !taken then some (resolved hw1, doneCmd m stSuccess)
  else if targetOk hw c q m.index target then
    some (resolved (setPos (radd hw1 (Reg.seBrCnt c) 1) c q target), doneCmd m stSuccess)
  else some (resolved hw1, doneCmd m stOperand)

/-! #### The clock counter (R43, R213) -/

/-- A counter of time at a moment: it has advanced by some amount since it was last looked at, and never falls (R43,
R47) (log 3, DESIGN CHOICE). -/
def clockNow (hw : Hw) (a : Nat) : Hw × Word :=
  let x := draw hw
  let v := word (min (2 ^ 64 - 1) ((rget hw a).toNat + x.1.toNat))
  (rset x.2 a v, v)

def seRdcntBody (c : Nat) (hw : Hw) (m : Cmd) : Option (Hw × Cmd) :=
  let r := clockNow hw (Reg.clkAclkCnt (c / 128) (c % 128 / 8))
  some (setG r.1 c m.q (wf m.w 3 51 48) r.2, doneCmd m stSuccess)

/-! #### Refills and prefetches (R73, R78, R80) -/

/-- A sector of a refill arrives: installed in L1 unless poisoned or overtaken by an acquire; the loads that wait for
its bytes end. -/
def refillRow (c addr : Nat) (hw : Hw) : Hw × Answer :=
  let sec := addr / 64
  let t := getCore hw c
  match t.refills.find? (fun r => r.sectors.head? == some sec) with
  | none => (hw, .notEnabled)
  | some r =>
    match pocRead hw (engAgent c) sec false with
    | none => (hw, .notEnabled)
    | some (hw1, d, bad) =>
      let kept := t.refills.filter (fun x => x != r)
      let rest := if r.sectors.tail = [] then kept else { r with sectors := r.sectors.tail } :: kept
      let line := sec / 2
      let fill := fun l : L1Line => if sec % 2 = 0 then { l with s0 := some (mbOver hw1 c sec d) }
        else { l with s1 := some (mbOver hw1 c sec d) }
      let place := fun l1 : List L1Line => if l1.any (fun l => l.line == line) then
          l1.map (fun l => if l.line = line then fill l else l)
        else l1Put (l1Ways hw1 c) l1 (fill ⟨line, 0, 0, none, none⟩)
      let hw2 := modCore hw1 c (fun t => { t with refills := rest, l1 := if r.install && !bad then place t.l1 else t.l1 })
      let waits := (getCore hw2 c).cmds.filter (fun m => match m.work with
        | .load pa => r.loads.contains m.id && localOf pa / 64 == sec
        | _ => false)
      did (waits.foldl (fun h m =>
        let a := match m.work with
          | .load pa => localOf pa
          | _ => 0
        let x := loadEnd h c { m with work := .none } (slice d (a % 64) (2 ^ wf m.w 3 63 62)) bad a
        setCmd x.1 c x.2) hw2)

/-- The engine can take a command up now. -/
def seCan (c : Nat) (hw : Hw) (m : Cmd) : Bool :=
  match hOp m.w with
  | 0 => (seOpBody c hw m).isSome
  | 1 => (seSetpBody c hw m).isSome
  | 2 => (seLdBody c hw m).isSome
  | 3 => (seStBody c hw m).isSome
  | 4 => (seAmoBody c hw m).isSome
  | 5 => (seBrBody c hw m).isSome
  | 6 => (seZlineBody c hw m).isSome
  | _ => (seRdcntBody c hw m).isSome

end Sys2Proof.Machine
end

