-- ==== Sys2Proof/Machine/Transc.lean ====
section
/-! DEFINITION. The functions the spec bounds in units in the last place without giving their exact results (R166): an
approximation to 2^-200 of the exact value fixes which FP32 results lie within the bound; which of them the part
returns is a free value. -/

namespace Sys2Proof.Machine

/-- The functions of R166 that are not correctly rounded. -/
inductive TFn
  | recip | rsqrt | exp2 | log2 | exp | log | sin | cos | tanh | sigmoid
  deriving DecidableEq, Repr

def TFn.code : TFn → Nat
  | .recip => 0 | .rsqrt => 1 | .exp2 => 2 | .log2 => 3 | .exp => 4 | .log => 5 | .sin => 6 | .cos => 7
  | .tanh => 8 | .sigmoid => 9

/-- The bound in ulp of FP32 (R166): 1 for every function with an 8- or 16-bit source or destination. -/
def TFn.ulps (narrow : Bool) : TFn → Nat
  | .recip => 1 | .rsqrt => 1 | .exp2 => 1 | .log2 => 1 | _ => if narrow then 1 else 2

/-- Fixed point with 256 fraction bits. -/
def fxOne : Nat := 2 ^ 256
def fxLn2 : Nat := 80260960185991308862233904206310070533990667611589946606122867505419956976171
def fxPi : Nat := 363771576891766324280234942777729862653393377328392429958772151117938894466185

/-- A finite value in fixed point, cut toward −∞. -/
def toFx (neg : Bool) (m : Nat) (e : Int) : Int :=
  let k := e + 256
  let v : Int := if k ≥ 0 then ((m * 2 ^ k.toNat : Nat) : Int) else ((m / 2 ^ (-k).toNat : Nat) : Int)
  if neg then -v else v

/-- Σ x^i / i! for |x| < 1 in fixed point. -/
def fxExp : Nat → Nat → Int → Int → Int → Int
  | 0, _, _, _, acc => acc
  | n + 1, i, x, t, acc =>
    let t' := t * x / (fxOne : Int) / (i : Int)
    fxExp n (i + 1) x t' (acc + t')

/-- e^x as a dyadic value; x in fixed point. -/
def dyExp (x : Int) : XNum :=
  let n := x / (fxLn2 : Int)
  if n > 4000 then .fin false 1 4000
  else if n < -4000 then .fin false 1 (-4000)
  else
    let r := x - n * (fxLn2 : Int)
    .fin false (fxExp 80 1 r (fxOne : Int) (fxOne : Int)).toNat (n - 256)

/-- Σ z^(2j+1) / (2j+1) in fixed point. -/
def fxAtanh : Nat → Nat → Int → Int → Int → Int
  | 0, _, _, _, acc => acc
  | n + 1, i, z2, t, acc =>
    let t' := t * z2 / (fxOne : Int)
    fxAtanh n (i + 2) z2 t' (acc + t' / (i : Int))

/-- ln of m × 2^e, m ≠ 0, in fixed point. -/
def fxLog (m : Nat) (e : Int) : Int :=
  let k := Nat.log2 m
  let t : Int := ((m * fxOne / 2 ^ k : Nat) : Int)
  let z := (t - fxOne) * (fxOne : Int) / (t + fxOne)
  let s := fxAtanh 90 3 (z * z / (fxOne : Int)) z z
  (e + k) * (fxLn2 : Int) + 2 * s

/-- Σ (−1)^j x^(2j+i0) / (2j+i0)! in fixed point. -/
def fxTrig : Nat → Nat → Int → Int → Int → Int
  | 0, _, _, _, acc => acc
  | n + 1, i, x2, t, acc =>
    let t' := -(t * x2 / (fxOne : Int) / ((i * (i + 1) : Nat) : Int))
    fxTrig n (i + 2) x2 t' (acc + t')

/-- x reduced into −π … π. -/
def fxReduce (x : Int) : Int :=
  let p := 2 * (fxPi : Int)
  let r := x % p
  if r > (fxPi : Int) then r - p else r

def fxSin (x : Int) : Int := let r := fxReduce x; fxTrig 60 2 (r * r / (fxOne : Int)) r r
def fxCos (x : Int) : Int := let r := fxReduce x; fxTrig 60 1 (r * r / (fxOne : Int)) (fxOne : Int) (fxOne : Int)

/-- A fixed-point value as a dyadic one. -/
def ofFx (v : Int) : XNum := .fin (decide (v < 0)) v.natAbs (-256)

/-- The approximation of a function at a finite non-special point (log 4, DESIGN CHOICE; log 20, DESIGN CHOICE). -/
def tapprox (fn : TFn) (neg : Bool) (m : Nat) (e : Int) : XNum :=
  let x := toFx neg m e
  match fn with
  | .recip => (ndiv (.fin false 1 0) (.fin neg m e)).1
  | .rsqrt => (ndiv (.fin false 1 0) (nsqrt (.fin neg m e)).1).1
  | .exp => if e + (Nat.log2 m : Int) > 20 then .fin false 1 (if neg then -4000 else 4000) else dyExp x
  | .exp2 => if e + (Nat.log2 m : Int) > 20 then .fin false 1 (if neg then -4000 else 4000)
             else dyExp (x * (fxLn2 : Int) / (fxOne : Int))
  | .log => ofFx (fxLog m e)
  | .log2 => ofFx (fxLog m e * (fxOne : Int) / (fxLn2 : Int))
  | .sin => if e + (Nat.log2 m : Int) < -60 then .fin neg m e else ofFx (fxSin x)
  | .cos => ofFx (fxCos x)
  | .tanh =>
    if e + (Nat.log2 m : Int) < -60 then .fin neg m e
    else if e + (Nat.log2 m : Int) > 10 then .fin neg 1 0
    else let y := dyExp (2 * x)
         (ndiv (nadd y (.fin true 1 0)).1 (nadd y (.fin false 1 0)).1).1
  | .sigmoid =>
    if e + (Nat.log2 m : Int) > 20 then (if neg then .fin false 1 (-4000) else .fin false 1 0)
    else (ndiv (.fin false 1 0) (nadd (dyExp (-x)) (.fin false 1 0)).1).1

/-- Results the spec gives exactly (R166): the special points, zeros, infinities and NaNs of IEEE 754. -/
def tspecial (fn : TFn) (x : XNum) : Option (XNum × Flags) :=
  match fn, x with
  | _, .nan => some (.nan, 0)
  | .recip, .inf s => some (.fin s 0 0, 0)
  | .recip, .fin s 0 _ => some (.inf s, flDZ)
  | .rsqrt, .inf s => some (if s then (.nan, flNV) else (.fin false 0 0, 0))
  | .rsqrt, .fin s 0 _ => some (.inf s, flDZ)
  | .rsqrt, .fin true _ _ => some (.nan, flNV)
  | .exp, .inf s => some (if s then .fin false 0 0 else .inf false, 0)
  | .exp2, .inf s => some (if s then .fin false 0 0 else .inf false, 0)
  | .exp, .fin _ 0 _ => some (.fin false 1 0, 0)
  | .exp2, .fin _ 0 _ => some (.fin false 1 0, 0)
  | .log, .inf s => some (if s then (.nan, flNV) else (.inf false, 0))
  | .log2, .inf s => some (if s then (.nan, flNV) else (.inf false, 0))
  | .log, .fin _ 0 _ => some (.inf true, flDZ)
  | .log2, .fin _ 0 _ => some (.inf true, flDZ)
  | .log, .fin s m e => if s then some (.nan, flNV)
      else if ncmp (.fin s m e) (.fin false 1 0) = .eq then some (.fin false 0 0, 0) else none
  | .log2, .fin s m e => if s then some (.nan, flNV)
      else if ncmp (.fin s m e) (.fin false 1 0) = .eq then some (.fin false 0 0, 0) else none
  | .sin, .inf _ => some (.nan, flNV)
  | .cos, .inf _ => some (.nan, flNV)
  | .sin, .fin s 0 _ => some (.fin s 0 0, 0)
  | .tanh, .inf s => some (.fin s 1 0, 0)
  | .tanh, .fin s 0 _ => some (.fin s 0 0, 0)
  | .sigmoid, .inf s => some (if s then .fin false 0 0 else .fin false 1 0, 0)
  | _, _ => none

/-- Whether |w − x| is at most `n` units at weight 2^q (log 20, DESIGN CHOICE). -/
def within (w x : XNum) (n : Nat) (q : Int) : Bool :=
  match (nadd w (nneg x)).1 with
  | .fin _ m e => if m = 0 then true else ncmp (.fin false m e) (.fin false n q) != .gt
  | _ => false

/-- Whether a value is a function's exact result at a non-special point, which raises no flag (R169). -/
def texact (fn : TFn) (x r : XNum) : Bool :=
  let one : XNum := .fin false 1 0
  let log2Of := fun (p : XNum) (k : XNum) => match k with
    | .fin s m e => decide (e + (Nat.log2 m : Int) ≤ 10) && (let n := toFx s m e
        decide (n % (fxOne : Int) = 0) && ncmp (.fin s m e) (ofFx n) == .eq && ncmp p (.fin false 1 (n / (fxOne : Int))) == .eq)
    | _ => false
  match fn with
  | .recip => ncmp (nmul x r).1 one == .eq
  | .rsqrt => ncmp (nmul (nmul r r).1 x).1 one == .eq
  | .exp2 => log2Of r x
  | .log2 => log2Of x r
  | .cos => ncmp x (.fin false 0 0) == .eq && ncmp r one == .eq
  | .sigmoid => ncmp x (.fin false 0 0) == .eq && ncmp r (.fin false 1 (-1)) == .eq
  | _ => false

/-- A function in FP32 (R166): the special points exactly, otherwise a free FP32 value within the bound, the same for
the same function and operand (R143) (log 20, DESIGN CHOICE). A magnitude beyond FP32 is left to the destination's
rounding, which overflows under its RM and SAT (R146, R165); an inexact result raises NX, and UF is judged where the result
is written (R169). -/
def tfun (fn : TFn) (narrow : Bool) (x : XNum) : XNum × Flags :=
  match tspecial fn x with
  | some r => r
  | none =>
    match x with
    | .fin s m e =>
      let a := tapprox fn s m e
      let near := fenc f32 rne a
      let far : Bool := (fn == .sin || fn == .cos) && decide (ncmp (.fin false m e) (.fin false 1 16) = .gt)
      let q : Int := match a with
        | .fin _ am ae => if am = 0 then -149 else max (leadExp am ae - 23) (-149)
        | _ => -149
      let cand := (Config.freeFn fn.code (fenc f64 rne x).1).toNat % 2 ^ 32
      let w := fdec f32 cand
      let ok : Bool := if far then within w a 1 (-22) && (ncmp (nabs w) (.fin false 1 0) != .gt)
                       else within w a (fn.ulps narrow) q
      if near.2 ≥ flOF then (a, flNX)
      else
        let r := if ok then cand else near.1
        (fdec f32 r, if texact fn x (fdec f32 r) then 0 else flNX)
    | v => (v, 0)

end Sys2Proof.Machine
end

