-- ==== Sys2Proof/Machine/VeOperands.lean ====
section
/-! DEFINITION. Operands of the vector engine (R131–R137, R162, R167, R170, R178, R214): reading sources with their
poison, masks, quantizing into MX, writing destinations. -/

namespace Sys2Proof.Machine

/-- How a part of a VE command ends: it cannot be carried out now, it completes the command with a status, or it goes
on with a value. -/
inductive VOut (α : Type)
  | wait
  | stop (hw : Hw) (st : Nat)
  | ok (hw : Hw) (a : α)

def VOut.bind {α β : Type} (x : VOut α) (f : Hw → α → VOut β) : VOut β :=
  match x with
  | .wait => .wait
  | .stop hw st => .stop hw st
  | .ok hw a => f hw a

/-- An element read: its bits, its value, whether its unit was poisoned. -/
structure El where
  raw : Nat
  x   : XNum
  bad : Bool
  deriving DecidableEq, Repr

/-- Bytes read with the poison of their units. -/
abbrev PBytes := List (Byte × Bool)

def anyPoison (bs : PBytes) : Bool := bs.any (·.2)

/-- The poison of the bytes that hold `w` bits from bit `b` on. -/
def bitsPoison (bs : PBytes) (b w : Nat) : Bool := anyPoison ((bs.take ((b + w + 7) / 8)).drop (b / 8))

/-! #### Packing (R131) -/

/-- Bytes of a packing group and the elements it holds. -/
def groupBytes (w : Nat) : Nat := if w % 8 = 0 then w / 8 else if w = 6 then 3 else 1

/-- The packed elements of width w, with their poison. -/
def unpack (w : Nat) : Nat → Nat → PBytes → List (Nat × Bool)
  | 0, _, _ => []
  | fuel + 1, n, bs =>
    if n = 0 then []
    else
      let cb := groupBytes w
      let k := min n (8 * cb / w)
      let v := leNat ((bs.take cb).map (·.1))
      (List.range k).map (fun i => (v / 2 ^ (w * i) % 2 ^ w, bitsPoison bs (w * i) w)) ++ unpack w fuel (n - k) (bs.drop cb)

/-- Elements in place: bits and poison, none where a mask leaves the old bits. -/
abbrev OutRow := List (Option (Nat × Bool))

/-- Bytes to write, none for bytes left as they are. -/
abbrev OutBytes := List (Option (Byte × Bool))

/-- A group of sub-byte elements as a byte over the old one. -/
def packSub (w : Nat) (es : OutRow) (old : Byte) : Option (Byte × Bool) :=
  if es.any (·.isSome) then
    let v := (es.zipIdx).foldl (fun a e => a + (match e.1 with
      | some x => x.1 % 2 ^ w
      | none => old.toNat / 2 ^ (w * e.2) % 2 ^ w) * 2 ^ (w * e.2)) 0
    some (BitVec.ofNat 8 v, es.any (fun e => match e with | some x => x.2 | none => false))
  else none

/-- Pack a row: whole bytes per element, or several elements per byte over the bytes that stand there. -/
def packRow (w : Nat) : Nat → OutRow → List Byte → OutBytes
  | 0, _, _ => []
  | fuel + 1, es, old =>
    if es = [] then []
    else if w % 8 = 0 then
      (match es.headD none with
        | some x => (leBytes (w / 8) x.1).map (fun b => some (b, x.2))
        | none => List.replicate (w / 8) none) ++ packRow w fuel es.tail []
    else packSub w (es.take (8 / w)) (old.headD 0) :: packRow w fuel (es.drop (8 / w)) old.tail

/-! #### MX vectors in the memory layout (R132, R133, R137) -/

/-- The scale of an element: 0xFF makes it NaN. -/
def scaled (x : XNum) (scale : Nat) : XNum := if scale = 255 then .nan else nscale x ((scale : Int) - 127)

/-- The elements of an MX vector: its blocks' data, then their scales, in segments of 32 blocks. -/
def unpackMx (code : Nat) : Nat → Nat → PBytes → List El
  | 0, _, _ => []
  | fuel + 1, nb, bs =>
    if nb = 0 then []
    else
      let w := fmtBits code
      let r := min nb 32
      let scales := (bs.drop (r * 4 * w)).take r
      let seg := (List.range r).flatMap (fun j =>
        let sc := scales.getD j (0, false)
        (unpack w 64 32 ((bs.drop (j * 4 * w)).take (4 * w))).map (fun e =>
          ⟨e.1, scaled (ndec code e.1) sc.1.toNat, e.2 || sc.2⟩))
      seg ++ unpackMx code fuel (nb - r) (bs.drop (r * (4 * w + 1)))

/-- The elements of a row of a format. -/
def unpackRow (code n : Nat) (bs : PBytes) : List El :=
  if fmtMX code then unpackMx code (n / 1024 + 1) (n / 32) bs
  else (unpack (fmtBits code) n n bs).map (fun e => ⟨e.1, ndec code e.1, e.2⟩)

/-- The largest exponent of an MX element type (R137). -/
def mxEmax (code : Nat) : Int := if code = 7 then 8 else if code = 8 then 15 else if code = 4 then 4 else 2

def isInf : XNum → Bool
  | .inf _ => true
  | _ => false

/-- A finite non-zero value's leading exponent. -/
def leadOf : XNum → Option Int
  | .fin _ m e => if m = 0 then none else some (leadExp m e)
  | _ => none

/-- Quantize a block of 32 values (R137): scale, elements, flags; `rds` are the elements' rounding parameters (log 48,
DEDUCED). -/
def mxQuant (code : Nat) (xs : List XNum) (rds : List Rnd) : Nat × List Nat × Flags :=
  let blank := fun f : Flags => (0xFF, xs.map (fun _ => 0), f)
  if xs.any nisNan then blank 0
  else if xs.any isInf && code != 8 then blank flNV
  else
    let leads := xs.filterMap leadOf
    let X : Nat := match leads with
      | [] => 0
      | l :: ls => (max 0 (min 254 (ls.foldl max l - mxEmax code + 127))).toNat
    let es := (xs.zip rds).map (fun p =>
      match elemOf code, p.1 with
      | .flt f, .inf s => (fenc f p.2 (.inf s))
      | .flt f, x => fenc f { p.2 with sat := true } (nscale x (127 - (X : Int)))
      | _, _ => (0, 0))
    (X, es.map (·.1), es.foldl (fun a e => a ||| e.2) 0)

/-- The data of a block: its 32 elements packed (R131). -/
def mxBlock (code : Nat) (es : List Nat) : List Byte := leBytes (4 * fmtBits code)
  ((es.zipIdx).foldl (fun a e => a + e.1 * 2 ^ (fmtBits code * e.2)) 0)

/-- A block that a bit operation writes (R165): the raw bits of its elements under a free scale, which R165 does not state
(log 84, DESIGN CHOICE). -/
def mxRawBlock (code : Nat) (es : List Nat) : Nat × List Nat × Flags :=
  ((Config.freeFn 32 (leNat (mxBlock code es))).toNat % 256, es, 0)

/-- A row of blocks of 32 values in the memory layout (R133 with S = 32), a block's data and scale poisoned where one of
its values is (R170). R215 names the layouts of R133 to R135 for a VE operand and no field that picks one: the model
lays the blocks of a row along COUNT in the memory layout (log 83, DESIGN CHOICE). -/
def mxRow {α : Type} (code : Nat) (quant : List α → List Rnd → Nat × List Nat × Flags) :
    Nat → List (α × Bool) → List Rnd → PBytes × Flags
  | 0, _, _ => ([], 0)
  | fuel + 1, xs, rds =>
    if xs.isEmpty then ([], 0)
    else
      let seg := xs.take 1024
      let qs := (List.range (seg.length / 32)).map (fun j =>
        let b := (seg.drop (32 * j)).take 32
        (quant (b.map (·.1)) ((rds.drop (32 * j)).take 32), b.any (·.2)))
      let rest := mxRow code quant fuel (xs.drop 1024) (rds.drop 1024)
      (qs.flatMap (fun q => (mxBlock code q.1.2.1).map (fun b => (b, q.2))) ++
        qs.map (fun q => (BitVec.ofNat 8 q.1.1, q.2)) ++ rest.1, (qs.foldl (fun a q => a ||| q.1.2.2) 0) ||| rest.2)

/-! #### Storage reads -/

/-- Scratchpad bytes with the poison of their words. -/
def spadBytes (hw : Hw) (c off n : Nat) : PBytes :=
  let t := getCore hw c
  (List.range n).map (fun i => (mget memDefault t.spad (off + i), mget (fun _ => false) t.spadBad ((off + i) / 8)))

/-- Accumulator bytes with the poison of their entries. -/
def accBytes (hw : Hw) (c off n : Nat) : PBytes :=
  let t := getCore hw c
  (List.range n).map (fun i => (mget memDefault t.acc (off + i), mget (fun _ => false) t.accBad ((off + i) / 4)))

/-- Rows of scratchpad bytes, with the bit errors their reads meet (R190). -/
def spadRows (hw : Hw) (c base stride rows n : Nat) : Hw × List PBytes :=
  let h := foldN rows hw (fun h r => spadScan h c (base + r * stride) n)
  (h, (List.range rows).map (fun r => spadBytes h c (base + r * stride) n))

/-- Rows of accumulator bytes, with the bit errors their reads meet (R116). -/
def accRows (hw : Hw) (c base stride rows n : Nat) : Hw × List PBytes :=
  let h := foldN rows hw (fun h r => accScan h c (base + r * stride) n)
  (h, (List.range rows).map (fun r => accBytes h c (base + r * stride) n))

/-- One access of a memory operand within a 256-byte block: through L1 for a tier, or in another core (R72–R75). -/
def veLoadBlock (hw : Hw) (c : Nat) (m : Cmd) (va n : Nat) : VOut PBytes :=
  match paOf m va with
  | none => .stop hw stAddress
  | some pa =>
    let a := localOf pa
    if isTier hw c pa && pkgOf hw pa == 0 then
      match mbDrainFor hw c a n with
      | none => .wait
      | some hw0 =>
        let secs := (List.range ((a + n - 1) / 64 + 1 - a / 64)).map (· + a / 64)
        if hVol m.w then
          let r := secs.foldl (fun (acc : Option (Hw × PBytes)) s => acc.bind (fun x =>
            (pocRead x.1 (engAgent c) s false).map (fun y => (y.1, x.2 ++ y.2.1.map (fun b => (b, y.2.2)))))) (some (hw0, []))
          match r with
          | none => .wait
          | some (hw1, bs) => .ok hw1 ((bs.drop (a % 64)).take n)
        else
          match l1Access hw0 c 2 (ctxOf hw c m.q) secs (pageLines m pa) with
          | none => .wait
          | some (hw1, badLines) =>
            let bs := secs.flatMap (fun s =>
              let bad : Bool := badLines.contains (s / 2) && linePoison hw1 s
              let d := match l1Find hw1 c s with
                | some r => r.1
                | none => lineData hw1 s
              d.map (fun b => (b, bad)))
            .ok hw1 ((bs.drop (a % 64)).take n)
    else if outOfReach hw c pa then
      let r := dmaRefused hw c m pa (accessCause hw (localOf pa) 7)
      .stop r.1 r.2.status
    else match dmaReadLocal hw c m pa n false .none with
    | none => .wait
    | some (hw1, _, some (bs, bad)) => .ok hw1 (bs.map (fun b => (b, bad)))
    | some (hw1, m1, none) => .stop hw1 m1.status

/-- A contiguous memory operand, block by block. -/
def veLoad (c : Nat) (m : Cmd) : List (Nat × Nat) → Hw → VOut PBytes
  | [], hw => .ok hw []
  | (va, k) :: ps, hw =>
    (veLoadBlock hw c m va k).bind (fun hw1 bs => (veLoad c m ps hw1).bind (fun hw2 rest => .ok hw2 (bs ++ rest)))

def blocksOf (va n : Nat) : List (Nat × Nat) := cutBlocks (n / 256 + 2) va n

/-! #### Fields that a G register may replace (R178, R212) -/

/-- COUNT and ROWS of a command; none for a value outside 1 to 65,536. -/
def veCount (gv : Option (Nat × Nat)) (w : List Word) : Nat := gsel gv 0 (wf w 3 31 16 + 1)
def veRows (gv : Option (Nat × Nat)) (w : List Word) : Nat := gsel gv 1 (wf w 3 15 0 + 1)
def sizesOk (count rows : Nat) : Bool := decide (1 ≤ count ∧ count ≤ 65536 ∧ 1 ≤ rows ∧ rows ≤ 65536)

/-- The scratchpad address or accumulator row of operand i: 0 is D. -/
def veAddr (gv : Option (Nat × Nat)) (w : List Word) (i : Nat) : Nat :=
  let own := if wf w (4 + i) 63 61 = 1 then wf w (4 + i) 22 0 else wf w (4 + i) 10 0
  if i = 0 then gsel gv 2 own else if i = 1 then gsel gv 3 own else own

def veStride (w : List Word) (i : Nat) : Nat := wf w (4 + i) 60 37

/-- The format a source is read in: the accumulator is read as INT32 or FP32 (R114, R162). -/
def effFmt (w : List Word) (i code : Nat) : Nat :=
  if wf w (4 + i) 63 61 = 2 then (if fmtInt code then 13 else 11) else code

/-- Bytes to which an element is aligned. -/
def alignOf (code : Nat) : Nat := if fmtBits code < 8 then 1 else fmtBits code / 8

/-- The checks of a scratchpad operand: alignment (R162), range (R67), gated banks (R202). -/
def spadCheck (hw : Hw) (c base stride rows rb align : Nat) : Nat :=
  if base % align ≠ 0 ∨ (1 < rows ∧ stride % align ≠ 0) then stOperand
  else if base + (rows - 1) * stride + rb > spadSize then stAddress
  else if (List.range rows).any (fun r => rb != 0 && touchesGated hw c (base + r * stride) rb) then stAddress
  else 0

/-- The first poisoned byte of rows of bytes at an address and stride (log 69, DEDUCED). -/
def firstBad (base stride : Nat) (rows : List PBytes) : Option Nat :=
  (rows.zipIdx).findSome? (fun r => (r.1.zipIdx).findSome? (fun b => if b.1.2 then some (base + r.2 * stride + b.2) else none))

/-- What a source gives: its rows, the address of the first poisoned unit read. -/
abbrev SrcRows := List (List El) × Option Nat

/-- Read source i (1 to 3) of a command as `rows` rows of `count` elements of a format (R162). An immediate or G-register
source in an MX format has no block scale: its element is taken unscaled (log 84, DESIGN CHOICE) (log 95, DESIGN CHOICE). -/
def readSrc (hw : Hw) (c : Nat) (m : Cmd) (gv : Option (Nat × Nat)) (i code rows count : Nat) : VOut SrcRows :=
  let w := m.w
  let kind := wf w (4 + i) 63 61
  let eff := effFmt w i code
  let n := rowBytes eff count
  if kind = 4 ∨ kind = 5 then
    let v := (if kind = 4 then atD 0 w 2 else getG hw c m.q (wf w (4 + i) 3 0)).toNat % 2 ^ fmtBits code
    .ok hw (List.replicate rows (List.replicate count ⟨v, ndec code v, false⟩), none)
  else if kind = 2 then
    let row0 := veAddr gv w i
    let col0 := wf w (4 + i) 17 11
    if col0 + count > 128 ∨ row0 + rows > 2048 then .stop hw stOperand
    else
      let base := 512 * row0 + 4 * col0
      let bs := accRows hw c base 512 rows (4 * count)
      .ok bs.1 (bs.2.map (unpackRow eff count), (firstBad base 512 bs.2).map (fun o => coreWin c + 0x800000 + o))
  else if fmtMX eff ∧ count % 32 ≠ 0 then .stop hw stOperand
  else if kind = 1 then
    let base := veAddr gv w i
    let st := spadCheck hw c base (veStride w i) rows n (alignOf eff)
    if st ≠ 0 then .stop hw st
    else
      let bs := spadRows hw c base (veStride w i) rows n
      .ok bs.1 (bs.2.map (unpackRow eff count), (firstBad base (veStride w i) bs.2).map (coreWin c + ·))
  else
    let va := wf w (4 + i) 56 0
    (veLoad c m (blocksOf va (rows * n)) hw).bind (fun hw1 bs =>
      let rs := (List.range rows).map (fun r => (bs.drop (r * n)).take n)
      .ok hw1 (rs.map (unpackRow eff count), (firstBad va n rs).bind (fun v => (paOf m v).map localOf)))

/-- Mask rows (R167): bit and poison of each element. -/
def readMask (hw : Hw) (c base stride rows count : Nat) : VOut (List (List (Nat × Bool)) × Option Nat) :=
  let n := (count + 7) / 8
  let st := spadCheck hw c base stride rows n 1
  if st ≠ 0 then .stop hw st
  else
    let bs := spadRows hw c base stride rows n
    .ok bs.1 (bs.2.map (unpack 1 count count), (firstBad base stride bs.2).map (coreWin c + ·))

/-- The destination's mask when MASK_V = 1; every element is written without one. -/
def readDMask (hw : Hw) (c : Nat) (m : Cmd) (rows cols count : Nat) : VOut (List (List (Nat × Bool)) × Option Nat) :=
  if wf m.w 3 38 38 = 1 then
    readMask hw c (512 * wf m.w 4 36 23) ((count + 7) / 8) rows cols
  else .ok hw (List.replicate rows (List.replicate cols (1, false)), none)

/-! #### Destinations -/

/-- The checks of a destination of `rows` rows of `cols` elements of width `wbits` (R162, R215). A VE_RED whose destination has
an MX format has one value per row, no multiple of 32: it ends with OPERAND_ERROR, which R168 does not state (log 95, DESIGN
CHOICE). -/
def destCheck (hw : Hw) (c : Nat) (m : Cmd) (gv : Option (Nat × Nat)) (fmt wbits rows cols : Nat) : Nat :=
  let kind := wf m.w 4 63 61
  if fmtMX fmt && (kind == 2 || wf m.w 3 38 38 == 1 || cols % 32 != 0) then stOperand
  else if kind = 2 then
    if (fmt ≠ 11 ∧ fmt ≠ 13) ∨ wf m.w 4 17 11 + cols > 128 ∨ veAddr gv m.w 0 + rows > 2048 then stOperand else 0
  else if kind = 1 then
    spadCheck hw c (veAddr gv m.w 0) (veStride m.w 0) rows
      (if fmtMX fmt then rowBytes fmt cols else (cols * wbits + 7) / 8) (if wbits < 8 then 1 else wbits / 8)
  else if ownGated hw c m (wf m.w 4 56 0) (rows * (if fmtMX fmt then rowBytes fmt cols else (cols * wbits + 7) / 8)) then
    stAddress
  else 0

/-- Runs of bytes with one poison state, with their offsets. -/
def runsGo : OutBytes → Nat → Option (Nat × List Byte × Bool) → List (Nat × List Byte × Bool)
  | [], _, none => []
  | [], _, some r => [(r.1, r.2.1.reverse, r.2.2)]
  | none :: bs, i, none => runsGo bs (i + 1) none
  | none :: bs, i, some r => (r.1, r.2.1.reverse, r.2.2) :: runsGo bs (i + 1) none
  | some b :: bs, i, none => runsGo bs (i + 1) (some (i, [b.1], b.2))
  | some b :: bs, i, some r =>
    if b.2 = r.2.2 then runsGo bs (i + 1) (some (r.1, b.1 :: r.2.1, r.2.2))
    else (r.1, r.2.1.reverse, r.2.2) :: runsGo bs (i + 1) (some (i, [b.1], b.2))

def runs (bs : OutBytes) : List (Nat × List Byte × Bool) := runsGo bs 0 none

/-- Write rows of bytes to a scratchpad or accumulator, `stride` apart. -/
def putRows (put : Hw → Nat → List Byte → Bool → Hw) (base stride : Nat) (rows : List OutBytes) (hw : Hw) : Hw :=
  (rows.zipIdx).foldl (fun h r => (runs r.1).foldl (fun h x => put h (base + r.2 * stride + x.1) x.2.1 x.2.2) h) hw

/-- The bytes a row of optional bytes writes, as a mask from an offset of a granule. -/
def outMask (off : Nat) (bs : OutBytes) : BitVec 64 :=
  BitVec.ofNat 64 ((bs.zipIdx).foldl (fun a b => a + (if b.1.isSome then 2 ^ (off + b.2) else 0)) 0)

/-- One store within a 64-byte granule of a memory destination: one write of the whole of it into tier 0 or tier 1 (R269),
poisoned where any byte of it is (R170). -/
def veStore1 (tile : Bool) (hw : Hw) (c : Nat) (m : Cmd) (va : Nat) (bs : OutBytes) : VOut Unit :=
  match paOf m va with
  | none => .stop hw stAddress
  | some pa =>
    if outMask 0 bs = 0#64 then .ok hw ()
    else if isTier hw c pa && pkgOf hw pa == 0 then
      let a := localOf pa
      match l1StoreM hw c (ctxOf hw c m.q) (a / 64) (outMask (a % 64) bs)
          (granBytes (a % 64) (bs.map (fun b => match b with | some x => x.1 | none => 0)))
          (bs.any (fun b => match b with | some x => x.2 | none => false)) tile with
      | none => .wait
      | some hw1 => .ok hw1 ()
    else if outOfReach hw c pa then
      let r := dmaRefused hw c m pa (accessCause hw (localOf pa) 7)
      .stop r.1 r.2.status
    else (runs bs).foldl (fun acc x => acc.bind (fun h _ =>
      match dmaWriteLocal h c m (pa + x.1) x.2.1 x.2.2 ⟨0, 0, 0, 0, false, 0⟩ with
      | none => .wait
      | some (hw1, m1) => if m1.status = 0 then .ok hw1 () else .stop hw1 m1.status)) (VOut.ok hw ())

/-- A contiguous memory destination, granule by granule; `tile` where there are several (R270). -/
def veStore (tile : Bool) (c : Nat) (m : Cmd) : Nat → Hw → Nat → OutBytes → VOut Unit
  | 0, hw, _, _ => .ok hw ()
  | fuel + 1, hw, va, bs =>
    if bs = [] then .ok hw ()
    else
      let k := min bs.length (64 - va % 64)
      (veStore1 tile hw c m va (bs.take k)).bind (fun h _ => veStore tile c m fuel h (va + k) (bs.drop k))

/-- The bytes of a row of elements of less than a byte that are written in part: the bits of masked elements, and those past the
row's end, stay (R162, R167). -/
def partBytes (wbits : Nat) (row : OutRow) : List Nat :=
  if 8 ≤ wbits then []
  else
    let per := 8 / wbits
    (List.range ((row.length * wbits + 7) / 8)).filter (fun i =>
      let es := (List.range per).map (fun j => (atD none row (i * per + j)).isSome)
      es.any id && !es.all id)

/-- A row packed over the scratchpad bytes that stand at `base`. A word of which bits stay is read first: its bit errors are
met, and its poison stays (R190, R521). -/
def packKept (hw : Hw) (c wbits base : Nat) (row : OutRow) : Hw × OutBytes :=
  let kept := partBytes wbits row
  let hw1 := kept.foldl (fun h i => spadScan h c (base + i) 1) hw
  let t := getCore hw1 c
  let bs := packRow wbits row.length row (rdMem t.spad base ((row.length * wbits + 7) / 8))
  (hw1, (bs.zipIdx).map (fun b => b.1.map (fun y =>
    (y.1, y.2 || (kept.any (fun i => (base + i) / 8 == (base + b.2) / 8) && anyBad 8 t.spadBad (base + b.2) 1)))))

/-- More than one granule of a core's own memory is written, which makes the output a tile (R270). -/
def tileOut (base rows n : Nat) : Bool := decide (1 < rows ∨ 64 < base % 64 + n)

/-- Write the destination's rows (R162, R167, R170, R214, R270). -/
def writeDest (hw : Hw) (c : Nat) (m : Cmd) (gv : Option (Nat × Nat)) (wbits : Nat) (rows : List OutRow) : VOut Unit :=
  let kind := wf m.w 4 63 61
  let n := fun r : OutRow => (r.length * wbits + 7) / 8
  let tile := fun base : Nat => tileOut base rows.length (n (atD [] rows 0))
  if kind = 2 then
    let base := 512 * veAddr gv m.w 0 + 4 * wf m.w 4 17 11
    .ok (putRows (tilePut c m.id (tile base) 1) base 512 (rows.map (fun r => packRow wbits r.length r [])) hw) ()
  else if kind = 1 then
    let base := veAddr gv m.w 0
    let stride := veStride m.w 0
    let packed := (rows.zipIdx).foldl (fun (x : Hw × List OutBytes) r =>
      let y := packKept x.1 c wbits (base + r.2 * stride) r.1
      (y.1, x.2 ++ [y.2])) (hw, [])
    .ok (putRows (tilePut c m.id (tile base) 0) base stride packed.2 packed.1) ()
  else
    let bs := rows.flatMap (fun r => packRow wbits r.length r [])
    veStore (tileOut (wf m.w 4 56 0) 1 bs.length) c m (bs.length / 64 + 2) hw (wf m.w 4 56 0) bs

/-- Write rows already laid out as bytes with their poison (MX rows). -/
def writeRaw (hw : Hw) (c : Nat) (m : Cmd) (gv : Option (Nat × Nat)) (rows : List PBytes) : VOut Unit :=
  let obs : List OutBytes := rows.map (fun r => r.map some)
  if wf m.w 4 63 61 = 1 then
    let base := veAddr gv m.w 0
    .ok (putRows (tilePut c m.id (tileOut base rows.length (atD [] rows 0).length) 0) base (veStride m.w 0) obs hw) ()
  else veStore (tileOut (wf m.w 4 56 0) 1 obs.flatten.length) c m (obs.flatten.length / 64 + 2) hw (wf m.w 4 56 0) obs.flatten

/-- How many elements a row set writes. -/
def writtenCount (rows : List OutRow) : Nat := (rows.map (fun r => (r.filter (·.isSome)).length)).sum

end Sys2Proof.Machine
end

