-- ==== Sys2Proof/Machine/Vector.lean ====
section
/-! DEFINITION. The vector engine (R161–R171, R215): element-wise operations, compares, conversions, reductions, the
exact-slice steps, zero lines. -/

namespace Sys2Proof.Machine

/-! #### Common parts of a VE command -/

def veFmtD (w : List Word) : Nat := wf w 3 57 54

/-- The format a source is read in: S0, S1 or S2 for 1, 2 or 3. -/
def veFmtS (w : List Word) (i : Nat) : Nat :=
  effFmt w i (if i = 1 then wf w 3 53 50 else if i = 2 then wf w 3 49 46 else wf w 3 45 42)

def veRm (w : List Word) : Nat := wf w 3 41 40

def veSat (w : List Word) : Bool := wf w 3 39 39 == 1

/-- The SEED: the low half of the G register SEEDG names (R214). -/
def veSeed (hw : Hw) (c : Nat) (m : Cmd) : Nat := (getG hw c m.q (wf m.w 3 35 32)).toNat % 2 ^ 32

/-- The rounding parameters of output element `idx` (R144, R145). -/
def veRnd (w : List Word) (seed idx : Nat) : Rnd :=
  ⟨veRm w, veSat w, if veRm w = 2 then srBits seed idx else 0⟩

/-- Read several sources, each with the format it is read in. -/
def readSrcs (c : Nat) (m : Cmd) (gv : Option (Nat × Nat)) (rows count : Nat) : List (Nat × Nat) → Hw → VOut (List SrcRows)
  | [], hw => .ok hw []
  | (i, code) :: is, hw =>
    (readSrc hw c m gv i code rows count).bind (fun hw1 r =>
      (readSrcs c m gv rows count is hw1).bind (fun hw2 rest => .ok hw2 (r :: rest)))

def El.zero : El := ⟨0, .fin false 0 0, false⟩

/-- Element j of row r of the n-th source read. -/
def srcAt (ss : List SrcRows) (n r j : Nat) : El := atD El.zero (atD [] (atD ([], none) ss n).1 r) j

/-- A bit of a mask with its poison. -/
def maskAt (ms : List (List (Nat × Bool))) (r j : Nat) : Nat × Bool := atD (1, false) (atD [] ms r) j

/-- An element's part of the result: written or not, its value, its flags, the operations it counts. -/
structure VeEl where
  out   : Option (Nat × Bool)
  x     : XNum
  flags : Flags
  flops : Nat

def VeEl.skip : VeEl := ⟨none, .fin false 0 0, 0, 0⟩

/-- A VE command's counters, flags and end (R169, R170, R179, R226): `bads` are the poisoned addresses its sources gave,
`acc` says whether one was an accumulator entry. -/
def veFinish (c : Nat) (m : Cmd) (cnt flops : Nat) (flags : Flags) (bads : List (Option Nat)) (acc : Bool)
    (w : VOut Unit) : Option (Hw × Cmd) :=
  match w with
  | .wait => none
  | .stop hw st => some (hw, doneCmd m st)
  | .ok hw _ =>
    let hw1 := radd (radd (ror hw (Reg.veFlags c m.q) flags) (Reg.veElemCnt c) cnt) (Reg.veFlopCnt c) flops
    let m1 := { m with info := cnt % 2 ^ 32 }
    match bads.filterMap id with
    | [] => some (hw1, doneCmd m1 stSuccess)
    | a :: _ => some (poisonUsed (if acc then ror hw1 (Reg.veErr c) 1 else hw1) c 0x01 (ctxOf hw c m.q) a, doneCmd m1 stData)

/-- Whether an accumulator source gave poison. -/
def accBadIn (w : List Word) (is : List Nat) (ss : List SrcRows) : Bool :=
  (is.zip ss).any (fun p => wf w (4 + p.1) 63 61 == 2 && p.2.2.isSome)

/-- A body whose check may end the command before anything is read. -/
def veChecked (hw : Hw) (m : Cmd) (st : Nat) (go : Unit → Option (Hw × Cmd)) : Option (Hw × Cmd) :=
  if st ≠ 0 then some (hw, doneCmd m st) else go ()

/-- Sum a field over rows of elements. -/
def sumEls (rows : List (List VeEl)) (f : VeEl → Nat) : Nat := (rows.map (fun r => (r.map f).sum)).sum

def orFlags (rows : List (List VeEl)) : Flags := rows.foldl (fun a r => r.foldl (fun b e => b ||| e.flags) a) 0

/-- Write computed rows and end the command. -/
def veEmit (hw : Hw) (c : Nat) (m : Cmd) (gv : Option (Nat × Nat)) (wbits : Nat) (rows : List (List VeEl))
    (bads : List (Option Nat)) (acc : Bool) : Option (Hw × Cmd) :=
  let outs := rows.map (fun r => r.map (·.out))
  veFinish c m (writtenCount outs) (sumEls rows (·.flops)) (orFlags rows) bads acc (writeDest hw c m gv wbits outs)

/-- Quantize computed rows into an MX destination and end the command (R137, R170): a block of it carries the poison of
any of its 32 elements, since all its bytes come of all of them. -/
def veEmitMx (hw : Hw) (c : Nat) (m : Cmd) (gv : Option (Nat × Nat)) (fmt seed count : Nat) (raw : Bool)
    (rows : List (List VeEl))
    (bads : List (Option Nat)) (acc : Bool) : Option (Hw × Cmd) :=
  let qs := (rows.zipIdx).map (fun r =>
    let rds := (List.range count).map (fun j => veRnd m.w seed (r.2 * count + j))
    if raw then mxRow fmt (fun es _ => mxRawBlock fmt es) (count / 1024 + 1) (r.1.map (fun e => e.out.getD (0, false))) rds
    else mxRow fmt (mxQuant fmt) (count / 1024 + 1) (r.1.map (fun e => (e.x, (e.out.getD (0, false)).2))) rds)
  veFinish c m (rows.length * count) (sumEls rows (·.flops)) (orFlags rows ||| qs.foldl (fun a q => a ||| q.2) 0) bads acc
    (writeRaw hw c m gv (qs.map (·.1)))

/-! #### VE_ELEM (R165, R166) -/

/-- An integer written: wrapped, or clamped under SAT (R165). -/
def intPut (n : Nat) (sat : Bool) (v : Int) : Nat :=
  if sat then (ienc n rne (numOfInt v)).1 else ofInt n v

/-- The exact value of an integer element. -/
def intOf (code raw : Nat) : Int := toInt (fmtBits code) raw

/-- Integer operations at their exact results; `n` is the operand width, `s` the raw bits of S1, of which a shift takes
its count (R165). A shift acts on the pattern of S0's width and is then written at the destination's width: R165 does not say
what a destination of another width takes (log 95, DESIGN CHOICE). -/
def intFn (func n s1 : Nat) (a b c : Int) : Int :=
  let s := s1 % n
  match func with
  | 0x00 => a + b
  | 0x01 => a - b
  | 0x02 => a * b
  | 0x03 => a * b + c
  | 0x04 => min a b
  | 0x05 => max a b
  | 0x06 => a.natAbs
  | 0x07 => -a
  | 0x08 => ((ofInt 64 a &&& ofInt 64 b : Nat) : Int)
  | 0x09 => ((ofInt 64 a ||| ofInt 64 b : Nat) : Int)
  | 0x0A => ((ofInt 64 a ^^^ ofInt 64 b : Nat) : Int)
  | 0x0B => ((ofInt n a * 2 ^ s : Nat) : Int)
  | 0x0C => ((ofInt n a / 2 ^ s : Nat) : Int)
  | 0x0D => a / ((2 ^ s : Nat) : Int)
  | 0x0E => if b = 0 then -1 else Int.tdiv a b
  | _ => if b = 0 then a else Int.tmod a b

/-- AND, OR, XOR and the shifts. -/
def isBitFn (func : Nat) : Bool := decide (0x08 ≤ func ∧ func ≤ 0x0D)

/-- Operations with an integer form. -/
def isIntFn (func : Nat) : Bool := decide (func ≤ 0x0E) || func == 0x1A || func == 0x1B

/-- The functions computed through FP32 (R166). -/
def transFn : Nat → Option TFn
  | 0x10 => some .recip | 0x11 => some .rsqrt | 0x12 => some .exp2 | 0x13 => some .log2 | 0x14 => some .exp
  | 0x15 => some .log | 0x16 => some .sin | 0x17 => some .cos | 0x18 => some .tanh | 0x19 => some .sigmoid
  | _ => none

/-- Float operations at their exact results (R165), the functions of R166 in FP32. -/
def fltFn (func : Nat) (narrow : Bool) (a b c : XNum) : XNum × Flags :=
  match func with
  | 0x00 => nadd a b
  | 0x01 => nadd a (nneg b)
  | 0x02 => nmul a b
  | 0x03 => nfma a b c
  | 0x04 => (nmin a b, 0)
  | 0x05 => (nmax a b, 0)
  | 0x06 => (nabs a, 0)
  | 0x07 => (nneg a, 0)
  | 0x0E => ndiv a b
  | 0x0F => nsqrt a
  | _ => match transFn func with
    | some fn => tfun fn narrow a
    | none => (a, 0)

/-- Operations that round, as VE_FLOP_CNT counts them (R179). -/
def flopsOf (func : Nat) : Nat :=
  if func = 0x03 then 2 else if func ≤ 0x02 ∨ (0x0E ≤ func ∧ func ≤ 0x19) then 1 else 0

/-- Bit operations on the raw bits of float elements: as integers of the width, wrapped (R165). -/
def rawFn (func n a b : Nat) : Nat := ofInt n (intFn func n b (toInt n a) (toInt n b) 0)

/-- The sources an element-wise command reads as elements. -/
def elemSrcs (func : Nat) : List Nat :=
  if func = 0x03 then [1, 2, 3] else if func = 0x06 ∨ func = 0x07 ∨ (0x0F ≤ func ∧ func ≤ 0x19) then [1] else [1, 2]

/-- The rules on formats and RM of VE_ELEM (R165, R166) (log 48, DEDUCED). A transcendental function with a 64-bit source or
destination ends with OPERAND_ERROR: R166 says only that FP64 has DIV and SQRT (log 95, DESIGN CHOICE). -/
def elemCheck (func fd : Nat) (codes : List Nat) (rm : Nat) : Nat :=
  let allInt := fmtInt fd && codes.all fmtInt
  let isInt := allInt && isIntFn func
  let all := fd :: codes
  let widest := codes.foldl (fun a x => max a (fmtBits x)) 0
  if func = 0x1B && !isInt then stOperand
  else if isBitFn func && !isInt && all.any (fun x => fmtBits x != fmtBits fd) then stOperand
  else if (transFn func).isSome && all.any (fun x => fmtBits x == 64) then stOperand
  else if !isBitFn func && (rm == 3 || (rm == 2 && decide (fmtBits fd ≥ widest))) then stOperand
  else 0

/-- The flags of a value written: those of its operation and of its rounding, and UF where the result is tiny in its float
format and the operation was inexact already (R169). -/
def putFlags (fd raw : Nat) (op enc : Flags) : Flags :=
  op ||| enc ||| (match elemOf fd with
    | .flt f => if op % 2 = 1 ∧ raw / 2 ^ f.mb % 2 ^ f.eb = 0 then flUF else 0
    | _ => 0)

/-- One element of VE_ELEM; `sel` is the mask bit of S2 for SEL. -/
def elemOne (func fd : Nat) (codes : List Nat) (sat : Bool) (rd : Rnd) (a b c : El) (sel : Nat × Bool) (mask : Nat × Bool) :
    VeEl :=
  if mask.1 = 0 then VeEl.skip
  else
    let allInt := fmtInt fd && codes.all fmtInt
    let isInt := allInt && isIntFn func
    let pick := if sel.1 = 1 then a else b
    let p := mask.2 || (if func = 0x1A then pick.bad || sel.2 else
      a.bad || (decide (codes.length ≥ 2) && b.bad) || (decide (codes.length = 3) && c.bad))
    if isBitFn func && !isInt then ⟨some (rawFn func (fmtBits fd) a.raw b.raw, p), .fin false 0 0, 0, 0⟩
    else if isInt then
      let code := fun i => atD 0 codes i
      let v := if func = 0x1A then (if sel.1 = 1 then intOf (code 0) a.raw else intOf (code 1) b.raw)
        else intFn func (fmtBits (code 0)) b.raw (intOf (code 0) a.raw) (intOf (code 1) b.raw) (intOf (code 2) c.raw)
      ⟨some (intPut (fmtBits fd) (sat && !isBitFn func) v, p), .fin false 0 0, 0, 0⟩
    else
      let narrow := (fd :: codes).any (fun k => decide (fmtBits k ≤ 16))
      let x := if func = 0x1A then (pick.x, 0) else fltFn func narrow a.x b.x c.x
      if fmtMX fd then ⟨some (0, p), x.1, x.2, flopsOf func⟩
      else
        let r := nenc fd rd x.1
        ⟨some (r.1, p), x.1, putFlags fd r.1 x.2 r.2, flopsOf func⟩

/-- SEL's mask in S2 (R167, R215); other functions take none. -/
def selMask (hw : Hw) (c : Nat) (w : List Word) (func rows count : Nat) : VOut (List (List (Nat × Bool)) × Option Nat) :=
  if func = 0x1A then readMask hw c (wf w 7 22 0) (wf w 7 60 37) rows count else .ok hw ([], none)

/-- VE_ELEM (R165–R167). The split of R152 runs as the three commands that R170 names for it: for an infinite value their
SUB gives ∞ − ∞ = NaN by R165, where R152's table has 0; for a NaN it gives a NaN, where R152 has 0 (log 85, DESIGN
CHOICE). -/
def veElemBody (c : Nat) (hw : Hw) (m : Cmd) : Option (Hw × Cmd) :=
  let gv := gvOf hw c m
  let count := veCount gv m.w
  let rows := veRows gv m.w
  let func := wf m.w 3 63 58
  let fd := veFmtD m.w
  let is := elemSrcs func
  let codes := is.map (veFmtS m.w)
  let seed := veSeed hw c m
  let st0 := if sizesOk count rows then elemCheck func fd codes (veRm m.w) else stOperand
  veChecked hw m (if st0 ≠ 0 then st0 else destCheck hw c m gv fd (fmtBits fd) rows count) fun _ =>
    match (readSrcs c m gv rows count (is.zip codes) hw).bind (fun hw1 ss =>
        (selMask hw1 c m.w func rows count).bind (fun hw2 sm =>
          (readDMask hw2 c m rows count count).bind (fun hw3 dm => .ok hw3 (ss, sm, dm)))) with
    | .wait => none
    | .stop hw1 st => some (hw1, doneCmd m st)
    | .ok hw1 (ss, sm, dm) =>
      let out := (List.range rows).map (fun r => (List.range count).map (fun j =>
        elemOne func fd codes (veSat m.w) (veRnd m.w seed (r * count + j)) (srcAt ss 0 r j) (srcAt ss 1 r j)
          (srcAt ss 2 r j) (maskAt sm.1 r j) (maskAt dm.1 r j)))
      let bads := ss.map (·.2) ++ [sm.2, dm.2]
      if fmtMX fd then veEmitMx hw1 c m gv fd seed count (isBitFn func) out bads (accBadIn m.w is ss)
      else veEmit hw1 c m gv (fmtBits fd) out bads (accBadIn m.w is ss)

/-! #### VE_CMP (R167) -/

/-- The predicates: false against a NaN but for NE and UNORD. -/
def cmpFn (func : Nat) (a b : XNum) : Bool :=
  if nisNan a || nisNan b then func == 1 || func == 6
  else match func, ncmp a b with
    | 0, .eq => true
    | 1, .lt => true
    | 1, .gt => true
    | 2, .lt => true
    | 3, .lt => true
    | 3, .eq => true
    | 4, .gt => true
    | 5, .gt => true
    | 5, .eq => true
    | _, _ => false

/-- One element of a compare; the ordered predicates raise NV on a NaN (log 48, DEDUCED). -/
def cmpOne (func : Nat) (a b : El) (mask : Nat × Bool) : VeEl :=
  if mask.1 = 0 then VeEl.skip
  else ⟨some (b2n (cmpFn func a.x b.x), a.bad || b.bad || mask.2), .fin false 0 0,
    if (nisNan a.x || nisNan b.x) && decide (2 ≤ func ∧ func ≤ 5) then flNV else 0, 0⟩

def veCmpBody (c : Nat) (hw : Hw) (m : Cmd) : Option (Hw × Cmd) :=
  let gv := gvOf hw c m
  let count := veCount gv m.w
  let rows := veRows gv m.w
  let ok := sizesOk count rows && veRm m.w != 3
  veChecked hw m (if ok then destCheck hw c m gv 1 1 rows count else stOperand) fun _ =>
    match (readSrcs c m gv rows count [(1, veFmtS m.w 1), (2, veFmtS m.w 2)] hw).bind (fun hw1 ss =>
        (readDMask hw1 c m rows count count).bind (fun hw2 dm => .ok hw2 (ss, dm))) with
    | .wait => none
    | .stop hw1 st => some (hw1, doneCmd m st)
    | .ok hw1 (ss, dm) =>
      let out := (List.range rows).map (fun r => (List.range count).map (fun j =>
        cmpOne (wf m.w 3 63 58) (srcAt ss 0 r j) (srcAt ss 1 r j) (maskAt dm.1 r j)))
      veEmit hw1 c m gv 1 out (ss.map (·.2) ++ [dm.2]) (accBadIn m.w [1, 2] ss)

/-! #### VE_CVT (R144–R147) -/

/-- One element converted; a conversion between integer formats raises no flag (log 48, DEDUCED). -/
def cvtOne (fd code : Nat) (rd : Rnd) (a : El) (mask : Nat × Bool) : VeEl :=
  if mask.1 = 0 then VeEl.skip
  else if fmtMX fd then ⟨some (0, a.bad || mask.2), a.x, 0, 0⟩
  else
    let r := nenc fd rd a.x
    ⟨some (r.1, a.bad || mask.2), a.x, if fmtInt fd && fmtInt code then 0 else r.2, 0⟩

def veCvtBody (c : Nat) (hw : Hw) (m : Cmd) : Option (Hw × Cmd) :=
  let gv := gvOf hw c m
  let count := veCount gv m.w
  let rows := veRows gv m.w
  let fd := veFmtD m.w
  let code := veFmtS m.w 1
  let seed := veSeed hw c m
  let st0 := if sizesOk count rows && veRm m.w != 3 then 0 else stOperand
  veChecked hw m (if st0 ≠ 0 then st0 else destCheck hw c m gv fd (fmtBits fd) rows count) fun _ =>
    match (readSrcs c m gv rows count [(1, code)] hw).bind (fun hw1 ss =>
        (readDMask hw1 c m rows count count).bind (fun hw2 dm => .ok hw2 (ss, dm))) with
    | .wait => none
    | .stop hw1 st => some (hw1, doneCmd m st)
    | .ok hw1 (ss, dm) =>
      let out := (List.range rows).map (fun r => (List.range count).map (fun j =>
        cvtOne fd code (veRnd m.w seed (r * count + j)) (srcAt ss 0 r j) (maskAt dm.1 r j)))
      let bads := ss.map (·.2) ++ [dm.2]
      if fmtMX fd then veEmitMx hw1 c m gv fd seed count false out bads (accBadIn m.w [1] ss)
      else veEmit hw1 c m gv (fmtBits fd) out bads (accBadIn m.w [1] ss)

/-! #### VE_RED (R168) -/

/-- A value rounded into the working format. -/
def workRound (f : FFmt) (x : XNum × Flags) : XNum × Flags :=
  let r := fenc f rne x.1
  (fdec f r.1, x.2 ||| r.2)

/-- One step of a lane: a sum, or a fused multiply-add of the square. -/
def laneStep (f : FFmt) (sq : Bool) (v : XNum) (lane : Option (XNum × Flags)) : Option (XNum × Flags) :=
  match lane with
  | none => some (workRound f (if sq then nmul v v else (v, 0)))
  | some a =>
    let x := if sq then nfma v v a.1 else nadd a.1 v
    some (workRound f (x.1, x.2 ||| a.2))

/-- Elements enter the lanes in index order. -/
def laneFill (f : FFmt) (sq : Bool) (n : Nat) : List XNum → Nat → List (Option (XNum × Flags)) → List (Option (XNum × Flags))
  | [], _, ls => ls
  | v :: vs, i, ls => laneFill f sq n vs (i + 1) (modAt (laneStep f sq v) ls (i % n))

/-- Two lanes combine; a lane no element entered contributes nothing. -/
def lanePair (f : FFmt) : Option (XNum × Flags) → Option (XNum × Flags) → Option (XNum × Flags)
  | some a, some b => let x := nadd a.1 b.1; some (workRound f (x.1, x.2 ||| a.2 ||| b.2))
  | some a, none => some a
  | none, b => b

/-- The fixed binary tree: lane l with lane l + L/2, and so on. -/
def laneTree (f : FFmt) : Nat → List (Option (XNum × Flags)) → Option (XNum × Flags)
  | 0, ls => ls.headD none
  | k + 1, ls => laneTree f k ((List.range (2 ^ k)).map (fun i => lanePair f (atD none ls i) (atD none ls (i + 2 ^ k))))

/-- SUM and SUMSQ of float elements. -/
def fltSum (code : Nat) (sq : Bool) (vs : List XNum) : XNum × Flags :=
  let k := if code = 12 then 5 else 6
  let f := if code = 12 then f64 else f32
  (laneTree f k (laneFill f sq (2 ^ k) vs 0 (List.replicate (2 ^ k) none))).getD (.fin false 0 0, 0)

/-- The index of the extreme: the lowest among equals, a NaN counting as the extreme. −0 and +0 are equal extremes: R168 does
not say whether they are ordered as R165 orders them for MIN and MAX (log 95, DESIGN CHOICE). -/
def argBest (mx : Bool) : List XNum → Nat → Option (Nat × XNum) → Nat
  | [], _, b => (b.map (·.1)).getD 0
  | v :: vs, i, none => if nisNan v then i else argBest mx vs (i + 1) (some (i, v))
  | v :: vs, i, some b =>
    if nisNan v then i
    else argBest mx vs (i + 1) (if ncmp v b.2 = (if mx then .gt else .lt) then some (i, v) else some b)

/-- A source element in the working format (R168): FP32 for a float source but FP64, which an MX value may overflow. -/
def redSource (code : Nat) (x : XNum) : XNum × Flags :=
  if fmtInt code || code = 12 then (x, 0) else workRound f32 (x, 0)

/-- A row reduced and written in the destination's format: code and flags (log 48, DEDUCED). -/
def redRow (func code fd : Nat) (sat : Bool) (rd : Rnd) (es : List El) : Nat × Flags :=
  let ws := es.map (fun e => redSource code e.x)
  let vs := ws.map (·.1)
  let fl := ws.foldl (fun a w => a ||| w.2) 0
  let flt := !(fmtInt code && fmtInt fd)
  let put := fun x : XNum × Flags => let r := nenc fd rd x.1; (r.1, if flt then fl ||| x.2 ||| r.2 else 0)
  if func ≥ 4 then put (.fin false (argBest (func == 4) vs 0 none) 0, 0)
  else if func ≥ 2 then
    put (vs.tail.foldl (if func = 2 then nmax else nmin) (vs.headD (.fin false 0 0)), 0)
  else if fmtInt code then
    let v := (es.map (fun e => let i := intOf code e.raw; if func = 1 then i * i else i)).sum
    if fmtInt fd then (intPut (fmtBits fd) sat v, 0) else put (numOfInt v, 0)
  else put (fltSum code (func == 1) vs)

/-- VE_RED (R168) (log 48, DEDUCED) (log 95, DESIGN CHOICE). -/
def veRedBody (c : Nat) (hw : Hw) (m : Cmd) : Option (Hw × Cmd) :=
  let gv := gvOf hw c m
  let count := veCount gv m.w
  let rows := veRows gv m.w
  let func := wf m.w 3 63 58
  let fd := veFmtD m.w
  let code := veFmtS m.w 1
  let seed := veSeed hw c m
  let st0 := if sizesOk count rows && veRm m.w != 3 then 0 else stOperand
  veChecked hw m (if st0 ≠ 0 then st0 else destCheck hw c m gv fd (fmtBits fd) rows 1) fun _ =>
    match (readSrcs c m gv rows count [(1, code)] hw).bind (fun hw1 ss =>
        (readDMask hw1 c m rows 1 count).bind (fun hw2 dm => .ok hw2 (ss, dm))) with
    | .wait => none
    | .stop hw1 st => some (hw1, doneCmd m st)
    | .ok hw1 (ss, dm) =>
      let out := (List.range rows).map (fun r =>
        let mask := maskAt dm.1 r 0
        if mask.1 = 0 then [VeEl.skip]
        else
          let es := atD [] (atD ([], none) ss 0).1 r
          let x := redRow func code fd (veSat m.w) (veRnd m.w seed r) es
          let flops := if fmtInt code then 0 else if func = 0 then count - 1 else if func = 1 then 2 * count - 1 else 0
          [⟨some (x.1, mask.2 || es.any (·.bad)), .fin false 0 0, x.2, flops⟩])
      veEmit hw1 c m gv (fmtBits fd) out (ss.map (·.2) ++ [dm.2]) (accBadIn m.w [1] ss)

/-! #### The exact-slice steps (R155–R159, R171) -/

/-- The exponent that marks a row or column with a NaN or an infinity. -/
def expoMark : Nat := 0x80000000

/-- The exponent of a row or column (R155). -/
def expoOf (xs : List XNum) : Nat :=
  if xs.any (fun x => nisNan x || isInf x) then expoMark
  else match xs.filterMap leadOf with
    | [] => 0
    | l :: ls => ofInt 32 (ls.foldl max l + 1)

/-- Column j of rows of elements. -/
def column (rs : List (List El)) (j : Nat) : List El := rs.map (fun r => atD El.zero r j)

/-- VE_EXPO (R171) (log 48, DEDUCED) (log 95, DESIGN CHOICE). -/
def veExpoBody (c : Nat) (hw : Hw) (m : Cmd) : Option (Hw × Cmd) :=
  let gv := gvOf hw c m
  let count := veCount gv m.w
  let rows := veRows gv m.w
  let byCol : Bool := wf m.w 3 63 58 == 1
  let n := if byCol then count else rows
  let isAcc : Bool := wf m.w 4 63 61 == 2
  let st := if isAcc then destCheck hw c m gv (veFmtD m.w) 32 n 1 else destCheck hw c m gv 13 32 1 n
  veChecked hw m (if sizesOk count rows && veRm m.w != 3 then st else stOperand) fun _ =>
    match (readSrcs c m gv rows count [(1, veFmtS m.w 1)] hw).bind (fun hw1 ss =>
        (if isAcc then readDMask hw1 c m n 1 n else readDMask hw1 c m 1 n n).bind (fun hw2 dm => .ok hw2 (ss, dm))) with
    | .wait => none
    | .stop hw1 st1 => some (hw1, doneCmd m st1)
    | .ok hw1 (ss, dm) =>
      let rs := (atD ([], none) ss 0).1
      let one := fun i =>
        let mask := if isAcc then maskAt dm.1 i 0 else maskAt dm.1 0 i
        let es := if byCol then column rs i else atD [] rs i
        if mask.1 = 0 then VeEl.skip
        else ⟨some (expoOf (es.map (·.x)), mask.2 || es.any (·.bad)), .fin false 0 0, 0, 0⟩
      let out := if isAcc then (List.range n).map (fun i => [one i]) else [(List.range n).map one]
      veEmit hw1 c m gv 32 out (ss.map (·.2) ++ [dm.2]) (accBadIn m.w [1] ss)

/-- A vector of n INT32 exponents: contiguous, or successive accumulator rows. -/
def readExpos (hw : Hw) (c : Nat) (m : Cmd) (gv : Option (Nat × Nat)) (i n : Nat) : VOut (List El × Option Nat) :=
  (if wf m.w (4 + i) 63 61 = 2 then readSrc hw c m gv i 13 n 1 else readSrc hw c m gv i 13 1 n).bind
    (fun hw1 r => .ok hw1 (r.1.flatten, r.2))

/-- Slices of a finite value against an exponent (R156), from slice t on; a slice outside INT8, which only an exponent
below R155's gives, is a free value. -/
def slicesOf (neg : Bool) : Nat → Nat → Nat → Int → List Nat
  | 0, _, _, _ => []
  | n + 1, t, mant, e =>
    let k := cutAt mant (e + 7) 0
    let v : Nat := if k.1 ≤ 127 then ofInt 8 (if neg then -(k.1 : Int) else k.1)
      else (Config.freeFn (16 + t) k.1).toNat % 256
    v :: slicesOf neg n (t + 1) k.2.1 (-(k.2.2 : Int))

/-- The slices of an element against its row's or column's exponent; zeros where that is marked (log 23, DESIGN CHOICE). -/
def sliceEl (s : Nat) (marked : Bool) (expo : Nat) (x : XNum) : List Nat :=
  match x with
  | .fin neg mant e =>
    if marked || expo == expoMark then List.replicate s 0 else slicesOf neg s 0 mant (e - toInt 32 expo)
  | _ => List.replicate s 0

/-- VE_SLICE with its exponents by column or by row (R171). -/
def veSliceRun (byCol : Bool) (c : Nat) (hw : Hw) (m : Cmd) : Option (Hw × Cmd) :=
  let gv := gvOf hw c m
  let count := veCount gv m.w
  let rows := veRows gv m.w
  let s := wf m.w 3 63 58
  let st0 := if sizesOk count rows && decide (4 ≤ s ∧ s ≤ 9) && wf m.w 4 63 61 != 2 && veRm m.w != 3 then 0 else stOperand
  veChecked hw m (if st0 ≠ 0 then st0 else destCheck hw c m gv 1 8 (s * rows) count) fun _ =>
    match (readSrcs c m gv rows count [(1, veFmtS m.w 1)] hw).bind (fun hw1 ss =>
        (readExpos hw1 c m gv 2 (if byCol then count else rows)).bind (fun hw2 ex =>
          (readDMask hw2 c m rows count count).bind (fun hw3 dm => .ok hw3 (ss, ex, dm)))) with
    | .wait => none
    | .stop hw1 st => some (hw1, doneCmd m st)
    | .ok hw1 (ss, ex, dm) =>
      let rs := (atD ([], none) ss 0).1
      let bad := fun es : List El => es.any (fun e => nisNan e.x || isInf e.x)
      let rowBad := rs.map bad
      let colBad := (List.range count).map (fun j => byCol && bad (column rs j))
      let out := (List.range (s * rows)).map (fun k => (List.range count).map (fun j =>
        let r := k % rows
        let mask := maskAt dm.1 r j
        let e := srcAt ss 0 r j
        let x := atD El.zero ex.1 (if byCol then j else r)
        if mask.1 = 0 then VeEl.skip
        else ⟨some (atD 0 (sliceEl s (if byCol then atD false colBad j else atD false rowBad r) x.raw e.x) (k / rows),
          e.bad || x.bad || mask.2), .fin false 0 0, 0, 0⟩))
      veEmit hw1 c m gv 8 out (ss.map (·.2) ++ [ex.2, dm.2])
        (accBadIn m.w [1] ss || (wf m.w 6 63 61 == 2 && ex.2.isSome))

/-- VE_SLICE (R171) (log 23, DESIGN CHOICE; log 48, DEDUCED). -/
def veSliceBody (c : Nat) (hw : Hw) (m : Cmd) : Option (Hw × Cmd) :=
  veSliceRun (Config.sliceByColumn (wf m.w 3 63 0)) c hw m

def veDaccBody (c : Nat) (hw : Hw) (m : Cmd) : Option (Hw × Cmd) :=
  let gv := gvOf hw c m
  let count := veCount gv m.w
  let rows := veRows gv m.w
  let st0 := if sizesOk count rows && wf m.w 4 63 61 != 2 && veRm m.w != 3 then 0 else stOperand
  veChecked hw m (if st0 ≠ 0 then st0 else destCheck hw c m gv 14 64 rows count) fun _ =>
    match (readSrcs c m gv rows count [(0, 14), (1, 13)] hw).bind (fun hw1 ss =>
        (readDMask hw1 c m rows count count).bind (fun hw2 dm => .ok hw2 (ss, dm))) with
    | .wait => none
    | .stop hw1 st => some (hw1, doneCmd m st)
    | .ok hw1 (ss, dm) =>
      let out := (List.range rows).map (fun r => (List.range count).map (fun j =>
        let mask := maskAt dm.1 r j
        let d := srcAt ss 0 r j
        let p := srcAt ss 1 r j
        if mask.1 = 0 then VeEl.skip
        else ⟨some (ofInt 64 (toInt 64 d.raw + toInt 32 p.raw), d.bad || p.bad || mask.2), .fin false 0 0, 0, 0⟩))
      veEmit hw1 c m gv 64 out (ss.map (·.2) ++ [dm.2]) (accBadIn m.w [0, 1] ss)

/-- Σ Dₙ × 2^(e + f − 7(n + 2)), exact (R158). -/
def xcombSum (base : Int) : List Int → Nat → XNum → XNum
  | [], _, acc => acc
  | d :: ds, n, acc => xcombSum base ds (n + 1) (nadd acc (nscale (numOfInt d) (base - 7 * ((n : Int) + 2)))).1

def veXcombBody (c : Nat) (hw : Hw) (m : Cmd) : Option (Hw × Cmd) :=
  let gv := gvOf hw c m
  let count := veCount gv m.w
  let rows := veRows gv m.w
  let s := wf m.w 3 63 58
  let st0 := if sizesOk count rows && decide (4 ≤ s ∧ s ≤ 9) && wf m.w 4 63 61 != 2 && veRm m.w != 3 then 0 else stOperand
  veChecked hw m (if st0 ≠ 0 then st0 else destCheck hw c m gv 12 64 rows count) fun _ =>
    match (readSrc hw c m gv 1 14 (s * rows) count).bind (fun hw1 ds =>
        (readExpos hw1 c m gv 2 rows).bind (fun hw2 re => (readExpos hw2 c m gv 3 count).bind (fun hw3 ce =>
          (readDMask hw3 c m rows count count).bind (fun hw4 dm => .ok hw4 (ds, re, ce, dm))))) with
    | .wait => none
    | .stop hw1 st => some (hw1, doneCmd m st)
    | .ok hw1 (ds, re, ce, dm) =>
      let out := (List.range rows).map (fun r => (List.range count).map (fun j =>
        let mask := maskAt dm.1 r j
        let es := (List.range s).map (fun n => atD El.zero (atD [] ds.1 (n * rows + r)) j)
        let e := atD El.zero re.1 r
        let f := atD El.zero ce.1 j
        let x := if e.raw = expoMark ∨ f.raw = expoMark then (fnan f64, 0)
          else fenc f64 rne (xcombSum (toInt 32 e.raw + toInt 32 f.raw) (es.map (fun d => intOf (effFmt m.w 1 14) d.raw)) 0 (.fin false 0 0))
        if mask.1 = 0 then VeEl.skip
        else ⟨some (x.1, es.any (·.bad) || e.bad || f.bad || mask.2), .fin false 0 0, x.2, 0⟩))
      veEmit hw1 c m gv 64 out [ds.2, re.2, ce.2, dm.2]
        ((wf m.w 5 63 61 == 2 && ds.2.isSome) || (wf m.w 6 63 61 == 2 && re.2.isSome) || (wf m.w 7 63 61 == 2 && ce.2.isSome))

/-! #### VE_ZLINE (R79) (log 48, DEDUCED) -/

/-- One line: a COUNT or ROWS that a G register gives must be 1, as the fields are (R178, R212, R215) (log 48, DEDUCED). -/
def veZlineBody (c : Nat) (hw : Hw) (m : Cmd) : Option (Hw × Cmd) :=
  let gv := gvOf hw c m
  if veCount gv m.w ≠ 1 ∨ veRows gv m.w ≠ 1 then some (hw, doneCmd m stOperand)
  else match paOf m (wf m.w 4 56 0) with
  | some pa =>
    if pa % 128 ≠ 0 ∨ pkgOf hw pa ≠ 0 ∨ !isTier hw c pa then some (hw, doneCmd m stAddress)
    else (l1Store 2 hw c (ctxOf hw c m.q) (localOf pa) (List.replicate 128 0) false).map (fun h =>
      (radd h (Reg.veElemCnt c) 1, doneCmd { m with info := 1 } stSuccess))
  | none => some (hw, doneCmd m stAddress)

/-- The engine can take a command up now; whichever way the scales of a slicing run (R213). -/
def veCan (c : Nat) (hw : Hw) (m : Cmd) : Bool :=
  match hOp m.w with
  | 0 => (veElemBody c hw m).isSome
  | 1 => (veCmpBody c hw m).isSome
  | 2 => (veCvtBody c hw m).isSome
  | 3 => (veRedBody c hw m).isSome
  | 4 => (veExpoBody c hw m).isSome
  | 5 => (veSliceRun true c hw m).isSome || (veSliceRun false c hw m).isSome
  | 6 => (veDaccBody c hw m).isSome
  | 7 => (veXcombBody c hw m).isSome
  | _ => (veZlineBody c hw m).isSome

end Sys2Proof.Machine
end

