-- ==== Sys2Proof/Machine/Matrix.lean ====
section
/-! DEFINITION. The matrix engine (R95–R126, R135, R138–R142, R148–R151, R565): shapes, tiles, streams, their sums, and
the idle policy HOLD. -/

namespace Sys2Proof.Machine

/-! #### Shapes and formats (R95, R97, R138) -/

/-- Sub-arrays of a shape: 0 FULL, 1 PAIR, 2 QUAD, 3 DEEP, 4 VEC. -/
def shapeSubs (shape : Nat) : Nat := if shape = 1 then 2 else if shape = 2 then 4 else 1

/-- K per tile for one K element per cell. -/
def shapeK (shape : Nat) : Nat := if shape = 2 then 64 else if shape = 3 then 256 else 128

def shapeN (shape : Nat) : Nat := if shape = 1 ∨ shape = 2 then 64 else 128

def shapeRows (shape : Nat) : Nat := if shape = 2 then 1024 else if shape = 4 then 1 else 2048

/-- First column of a sub-array, and the first and last accumulator row it reaches. -/
def subCol (shape s : Nat) : Nat := if shape = 1 ∨ shape = 2 then 64 * (s % 2) else 0

def subRow (shape s : Nat) : Nat := if shape = 2 then 1024 * (s / 2) else 0

def subEnd (shape s : Nat) : Nat := if shape = 2 then 1024 * (s / 2) + 1023 else 2047

/-- K elements per cell: two for the 4-bit formats. -/
def perCell (code : Nat) : Nat := if fmtBits code = 4 then 2 else 1

/-- Formats of R95. -/
def meFmt (code : Nat) : Bool := decide (code ≤ 10)

/-- The pairings of R138. -/
def mePaired (a b : Nat) : Bool :=
  let both := fun x y : Nat => (a == x || a == y) && (b == x || b == y)
  (a == b && (a == 0 || a == 1 || a == 2 || a == 9 || a == 10)) || both 5 6 || both 7 8 || both 3 4

def getSub (me : MeSt) (s : Nat) : SubArr := mget (fun _ => SubArr.reset) me.subs s

def setSub (me : MeSt) (s : Nat) (a : SubArr) : MeSt := { me with subs := mput (fun _ => SubArr.reset) me.subs s a }

def setMe (hw : Hw) (c : Nat) (me : MeSt) : Hw := modCore hw c (fun t => { t with me := me })

/-- No stream is in the array or assigned to it. -/
def meQuiet (me : MeSt) : Bool := me.subs.all (fun e => e.2.inside == [] && e.2.assigned.isNone)

/-- No stream is in the array. -/
def meEmpty (me : MeSt) : Bool := me.subs.all (fun e => e.2.inside == [])

/-- Whether a command that names a shape may start (R99). -/
def shapeReady (me : MeSt) (shape : Nat) : Bool := me.shape == shape || meQuiet me

/-- A change of shape clears every tile register. -/
def setShape (me : MeSt) (shape : Nat) : MeSt := if me.shape = shape then me else { me with shape := shape, subs := [] }

/-! #### Reading B (R135, R148–R150) -/

/-- The stored row that holds logical K row k of a dense operand. -/
def denseRow (mx : Bool) (k : Nat) : Nat := if mx then k + k / 32 else k

/-- The stored row that holds the i-th kept value of group g. -/
def sparseRow (mx : Bool) (r : Nat) : Nat := if mx then r + r / 16 else r

/-- The scale row of block j. -/
def scaleRow (sparse : Bool) (j : Nat) : Nat := if sparse then 17 * j + 16 else 33 * j + 32

/-- Stored rows of an operand of K logical rows, and bytes of a row's run. -/
def storedRows (mx sparse : Bool) (k : Nat) : Nat :=
  let n := if sparse then k / 2 else k
  if mx then n + k / 32 else n

/-- Whether a stored row of an MX operand holds scales (R135, R150). -/
def isScaleRow (sparse : Bool) (r : Nat) : Bool := if sparse then r % 17 == 16 else r % 33 == 32

/-- Bytes of a stored row's run: a scale row has one byte per column, a data row its packed values and, when sparse, its
index bits (R135, R149, R150). -/
def runBytes (code : Nat) (sparse : Bool) (n r : Nat) : Nat :=
  if fmtMX code && isScaleRow sparse r then n
  else (n * fmtBits code + 7) / 8 + (if sparse then (n + 3) / 4 else 0)

/-- The stored rows of a B operand, with the bit errors their reads meet (R190). -/
def readStored (hw : Hw) (c code : Nat) (sparse : Bool) (tk tn base stride : Nat) : Hw × List PBytes :=
  let rows := storedRows (fmtMX code) sparse tk
  let h := foldN rows hw (fun h r => spadScan h c (base + r * stride) (runBytes code sparse tn r))
  (h, (List.range rows).map (fun r => spadBytes h c (base + r * stride) (runBytes code sparse tn r)))

/-- The checks of a B operand's rows: range (R67), gated banks (R202). -/
def storedCheck (hw : Hw) (c code : Nat) (sparse : Bool) (tk tn base stride : Nat) : Nat :=
  if (List.range (storedRows (fmtMX code) sparse tk)).any (fun r =>
      !spadIn (base + r * stride) (runBytes code sparse tn r) ||
        touchesGated hw c (base + r * stride) (runBytes code sparse tn r)) then stAddress else 0

/-- The packed values of a stored row. -/
def rowVals (code n : Nat) (bs : PBytes) : List (Nat × Bool) := unpack (fmtBits code) n n bs

/-- The 2-bit indices of a sparse stored row, with their poison. -/
def rowIdx (code n : Nat) (bs : PBytes) : List (Nat × Bool) :=
  let ib := bs.drop ((n * fmtBits code + 7) / 8)
  (List.range n).map (fun j => let b := atD (0, false) ib (j / 4); (b.1.toNat / 4 ^ (j % 4) % 4, b.2))

/-- A B operand of its stored rows: its tile, and whether its sparse indices keep R148's order. -/
def readTile (code : Nat) (sparse : Bool) (tk tn : Nat) (bs : List PBytes) : Tile × Bool :=
  let mx := fmtMX code
  let row := fun r : Nat => atD [] bs r
  let scales := if mx then (List.range (tk / 32)).map (fun j => (row (scaleRow sparse j)).take tn) else []
  let badScale := (List.range tn).filter (fun n => scales.any (fun s => (atD (0, false) s n).2))
  let sc := scales.map (fun s => s.map (fun b => b.1.toNat))
  if sparse then
    let kept := (List.range (tk / 2)).map (fun r => let b := row (sparseRow mx r); (rowVals code tn b).zip (rowIdx code tn b))
    let at_ := fun r n : Nat => atD ((0, false), (0, false)) (atD [] kept r) n
    let ok := (List.range (tk / 4)).all (fun g => (List.range tn).all (fun n =>
      decide ((at_ (2 * g) n).2.1 < (at_ (2 * g + 1) n).2.1)))
    let cells := (List.range tk).map (fun k => (List.range tn).map (fun n =>
      let a := at_ (2 * (k / 4)) n
      let b := at_ (2 * (k / 4) + 1) n
      if a.2.1 = k % 4 then some a.1.1 else if b.2.1 = k % 4 then some b.1.1 else none))
    let bad := (List.range tn).filter (fun n => kept.any (fun r =>
      let e := atD ((0, false), (0, false)) r n
      e.1.2 || e.2.2))
    (⟨code, true, tk, tn, cells, sc, (bad ++ badScale).dedup, []⟩, ok)
  else
    let rows := (List.range tk).map (fun k => rowVals code tn (row (denseRow mx k)))
    let bad := (List.range tn).filter (fun n => rows.any (fun r => (atD (0, false) r n).2))
    (⟨code, false, tk, tn, rows.map (fun r => r.map (fun e => some e.1)), sc, (bad ++ badScale).dedup, []⟩, true)

/-- The elements of column n of a tile, scaled. -/
def tileCol (t : Tile) (n : Nat) : List (Option El) :=
  (t.cells.zipIdx).map (fun r => (atD none r.1 n).map (fun v =>
    ⟨v, if fmtMX t.fmt then scaled (ndec t.fmt v) (atD 0 (atD [] t.scales (r.2 / 32)) n) else ndec t.fmt v, false⟩))


/-! #### Sums (R139–R142) -/

/-- Float terms summed and rounded once (R140, R141). -/
def meSum (ts : List XNum) : Nat :=
  let neg := ts.any (fun t => t == .inf true)
  let pos := ts.any (fun t => t == .inf false)
  if ts.any nisNan || (neg && pos) then fnan f32
  else if neg || pos then (fenc f32 rne (.inf neg)).1
  else match ts.filterMap leadOf with
    | [] => 0
    | l :: ls =>
      let q := ls.foldl max l - 63
      let v : Int := (ts.map (fun t => match t with
        | .fin s m e => let k : Int := (cutAt m e q).1; if s then -k else k
        | _ => 0)).sum
      if v = 0 then 0 else (fenc f32 rne (.fin (decide (v < 0)) v.natAbs q)).1

/-- The element of a logical K that a sparse operand does not keep (R147, R149). -/
def droppedEl : El := ⟨0, .fin false 0 0, false⟩

/-- One accumulator entry: the products of an A row with a column over every logical K, those that a sparse operand does not
keep as zeros, and the old entry where ACC adds (R140). -/
def meEntry (fa fb : Nat) (as : List El) (bs : List (Option El)) (old : Option Nat) : Nat :=
  let ps := (as.zip bs).map (fun p => (p.1, p.2.getD droppedEl))
  if fmtInt fa then
    ofInt 32 ((ps.map (fun p => toInt (fmtBits fa) p.1.raw * toInt (fmtBits fb) p.2.raw)).sum +
      (match old with | some o => toInt 32 o | none => 0))
  else
    meSum (ps.map (fun p => (nmul p.1.x p.2.x).1) ++ (match old with | some o => [fdec f32 o] | none => []))

/-- Whether an entry's sum includes a product with a poisoned element (log 49, DEDUCED). -/
def entryBad (as : List El) (bs : List (Option El)) : Bool :=
  (as.zip bs).any (fun p => match p.2 with
    | some b => p.1.bad || b.bad
    | none => p.1.bad)

/-- The old entry and its poison. -/
def oldEntry (hw : Hw) (c row col : Nat) : Nat × Bool :=
  let r := accGet hw c (512 * row + 4 * col) 4
  (leNat r.1, r.2)

/-- A range of a core's accumulator as it stood in another state of the core. -/
def accBack (o t : Core) (a n : Nat) : Core :=
  { t with acc := putBytes t.acc a (rdMem o.acc a n)
           accBad := (unitsOf 4 a n).foldl (fun f u => mput (fun _ => false) f u (mget (fun _ => false) o.accBad u)) t.accBad
           accFlip := (unitsOf 4 a n).foldl (fun f u => mput (fun _ => 0) f u (flipOf o.accFlip u)) t.accFlip }

/-- A row's results appear granule by granule, each now or later (R115, R269, R270) (log 98, DESIGN CHOICE). -/
def rowShown (c id : Nat) (old hw : Hw) (a n : Nat) : Hw :=
  (cutLines (n / 64 + 2) a n).foldl (fun h g =>
    let parts := (runs ((accBytes h c g.1 g.2).map some)).map (fun y =>
      (⟨id, 1, g.1 + y.1, y.2.1, y.2.2, 0, 0, 0, 0, false⟩ : LatePart))
    let r := draw h
    if bit r.1 0 then parts.foldl (fun w x => addLate w c x) (modCore r.2 c (fun t => accBack (getCore old c) t g.1 g.2))
    else r.2) hw

/-- Write a row of entries, computed from their old values (R114, R116): the first poisoned entry it adds into. Where `id`
names the stream's command, this is the row's last write by it. -/
def meRow (id : Option Nat) (hw0 : Hw) (c row col0 n : Nat) (acc : Bool) (f : Nat → Option Nat → Nat × Bool) : Hw × Option Nat :=
  let hw := if acc then accScan hw0 c (512 * row + 4 * col0) (4 * n) else hw0
  let r := foldN n (hw, (none : Option Nat)) (fun a i =>
    let old := oldEntry hw c row (col0 + i)
    let v := f i (if acc then some old.1 else none)
    let o := 512 * row + 4 * (col0 + i)
    (accPut a.1 c o (leBytes 4 v.1) (v.2 || (acc && old.2)),
      if a.2.isNone && acc && old.2 then some (coreWin c + 0x800000 + o) else a.2))
  (match id with
   | some i => rowShown c i hw r.1 (512 * row + 4 * col0) (4 * n)
   | none => r.1, r.2)

/-! #### ME_LOADW (R101, R108, R110–R112, R151, R565) -/

/-- The parameters of a load: shape, sub-array, format, sparsity, K, N, address, stride. -/
def loadwCheck (w : List Word) (gv : Option (Nat × Nat)) : Nat :=
  let shape := wf w 3 63 61
  let code := wf w 3 58 55
  let sparse : Bool := wf w 3 54 54 == 1
  let tk := wf w 3 41 32 + 1
  let tn := wf w 3 22 16 + 1
  let b := gsel gv 3 (wf w 4 22 0)
  if shape > 3 ∨ wf w 3 60 59 ≥ shapeSubs shape ∨ !meFmt code ∨
      tk > shapeK shape * perCell code * (if sparse then 2 else 1) ∨ tn > shapeN shape ∨
      (sparse ∧ (shape ≠ 0 ∨ code = 9 ∨ code = 10 ∨ tk % 4 ≠ 0)) ∨ (fmtMX code ∧ tk % 32 ≠ 0) ∨
      b % 32 ≠ 0 ∨ wf w 4 54 32 % 32 ≠ 0 then stOperand else 0

/-- Whether ME_LOADW finds its registers free (R101, R108): a DEEP load waits for every loaded tile, any load for a DEEP
tile that no stream has taken. A load of another shape clears the registers (R99) and so waits for no tile of the shape
before: R101's wait for a stream of the tile is read as that of the same shape (log 86, DESIGN CHOICE). -/
def loadFree (me : MeSt) (shape s : Nat) : Bool :=
  if shape = 3 ∨ me.shape = 3 then meQuiet me && me.subs.all (fun e => e.2.shadow.isNone)
  else me.shape != shape || (getSub me s).shadow.isNone

/-- ME_LOADW (R101) (log 49, DEDUCED) (log 86, DESIGN CHOICE). A sparse load whose poisoned index bytes break R148's order
ends with R151's OPERAND_ERROR and loads nothing: R565 and R151 do not say which comes first (log 94, DESIGN CHOICE). -/
def meLoadwBody (c : Nat) (hw : Hw) (m : Cmd) : Option (Hw × Cmd) :=
  let gv := gvOf hw c m
  let shape := wf m.w 3 63 61
  let s := wf m.w 3 60 59
  let code := wf m.w 3 58 55
  let sparse : Bool := wf m.w 3 54 54 == 1
  let tk := wf m.w 3 41 32 + 1
  let tn := wf m.w 3 22 16 + 1
  let base := gsel gv 3 (wf m.w 4 22 0)
  let stride := wf m.w 4 54 32
  let me := (getCore hw c).me
  if !shapeReady me shape then none
  else if loadwCheck m.w gv ≠ 0 then some (hw, doneCmd m stOperand)
  else if !loadFree me shape s then none
  else
    let st := storedCheck hw c code sparse tk tn base stride
    if st ≠ 0 then some (hw, doneCmd m st)
    else
    let rs := readStored hw c code sparse tk tn base stride
    let t := readTile code sparse tk tn rs.2
    if !t.2 then some (rs.1, doneCmd m stOperand)
    else
      let me1 := setShape me shape
      let a1 := getSub me1 s
      let hw1 := setMe rs.1 c (setSub me1 s { a1 with shadow := some t.1, active := if shape = 3 then none else a1.active })
      match firstBad base stride rs.2 with
      | none => some (hw1, doneCmd m stSuccess)
      | some o => some (poisonUsed hw1 c 0x02 (ctxOf hw c m.q) (coreWin c + o), doneCmd m stData)

/-! #### Assigning a stream (R106, R112, R119) -/

/-- Under HOLD a stream that could enter an array that is idle or ramping down asks for a ramp-up (R119). -/
def askRamp (hw : Hw) (c : Nat) : Hw :=
  let me := (getCore hw c).me
  if rbit hw (Reg.mePolicy c) 0 ∧ (me.hold = 0 ∨ me.hold = 2) ∧ meEmpty me then
    { setMe hw c { me with hold := 3, granted := false } with ramps := hw.ramps ++ [c] }
  else hw

/-- A stream becomes the next of its sub-array. -/
def assign (hw : Hw) (c shape s : Nat) (st : Stream) : Hw :=
  let me := setShape (getCore hw c).me shape
  askRamp (setMe hw c (setSub me s { getSub me s with assigned := some st })) c

/-- ME_GEMM (R102) (log 49, DEDUCED). A command with an operand error and an address that R112 refuses ends with
OPERAND_ERROR: R112 names no order of the two, nor for ME_LOADW and ME_GEMV (log 94, DESIGN CHOICE). -/
def meGemmBody (c : Nat) (hw : Hw) (m : Cmd) : Option (Hw × Cmd) :=
  let gv := gvOf hw c m
  let shape := wf m.w 3 63 61
  let s := wf m.w 3 60 59
  let fa := wf m.w 3 58 55
  let fb := wf m.w 3 54 51
  let sparse : Bool := wf m.w 3 50 50 == 1
  let swap : Bool := wf m.w 3 48 48 == 1
  let rowsM := gsel gv 0 (wf m.w 3 42 32 + 1)
  let aAddr := gsel gv 1 (wf m.w 4 22 0)
  let aStride := wf m.w 4 54 32
  let row := gsel gv 2 (wf m.w 3 10 0)
  let me := (getCore hw c).me
  let a := getSub me s
  let tile := if me.shape = shape then (if swap then a.shadow else a.active) else none
  if !shapeReady me shape then none
  else if shape > 3 ∨ s ≥ shapeSubs shape then some (hw, doneCmd m stOperand)
  else if a.assigned.isSome then none
  else match tile with
  | none => some (hw, doneCmd m stOperand)
  | some t =>
    if !mePaired fa fb ∨ t.fmt ≠ fb ∨ t.sparse ≠ sparse ∨ rowsM = 0 ∨ rowsM > shapeRows shape ∨
        aAddr % 32 ≠ 0 ∨ aStride % 32 ≠ 0 ∨ row < subRow shape s ∨ row + rowsM - 1 > subEnd shape s ∨
        (shape = 3 ∧ t.tk ≤ 128 * perCell fb) then some (hw, doneCmd m stOperand)
    else
      let st := spadCheck hw c aAddr aStride rowsM (rowBytes fa t.tk) 1
      if st ≠ 0 then some (hw, doneCmd m st)
      else some (assign hw c shape s ⟨m.id, false, swap, wf m.w 3 49 49 == 1, fa, fb, sparse, rowsM, t.tk, t.tn, row,
        aAddr, aStride, 0, 0, []⟩, runCmd m .stream)

/-- ME_GEMV (R109) (log 94, DESIGN CHOICE). -/
def meGemvBody (c : Nat) (hw : Hw) (m : Cmd) : Option (Hw × Cmd) :=
  let gv := gvOf hw c m
  let code := wf m.w 3 58 55
  let tk := wf m.w 3 47 32 + 1
  let tn := wf m.w 5 47 32 + 1
  let row := gsel gv 2 (wf m.w 3 10 0)
  let xAddr := gsel gv 1 (wf m.w 5 22 0)
  let bAddr := gsel gv 3 (wf m.w 4 22 0)
  let bStride := wf m.w 4 54 32
  let me := (getCore hw c).me
  if !shapeReady me 4 then none
  else if me.shape = 4 ∧ (getSub me 0).assigned.isSome then none
  else if !meFmt code ∨ (fmtMX code ∧ tk % 32 ≠ 0) ∨ row + (tn + 127) / 128 - 1 > 2047 ∨ xAddr % 32 ≠ 0 ∨
      bAddr % 32 ≠ 0 ∨ bStride % 32 ≠ 0 then some (hw, doneCmd m stOperand)
  else
    let st := spadCheck hw c xAddr 0 1 (rowBytes code tk) 1
    let st2 := storedCheck hw c code false tk tn bAddr bStride
    if st ≠ 0 then some (hw, doneCmd m st)
    else if st2 ≠ 0 then some (hw, doneCmd m st2)
    else some (assign hw c 4 0 ⟨m.id, true, false, wf m.w 3 49 49 == 1, code, code, false, 1, tk, tn, row, xAddr, 0,
      bAddr, bStride, []⟩, runCmd m .stream)

/-- The engine can take a command up (R101, R106). -/
def meCan (c : Nat) (hw : Hw) (m : Cmd) : Bool :=
  match hOp m.w with
  | 0 => (meLoadwBody c hw m).isSome
  | 1 => (meGemmBody c hw m).isSome
  | _ => (meGemvBody c hw m).isSome

/-! #### A stream enters (R102–R104, R108, R109, R114, R139–R142, R565) -/

/-- Whether a stream may chain onto one that is in its sub-array (R104). -/
def chains (shape : Nat) (x y : Stream) : Bool :=
  decide (shape ≤ 2) && y.acc && x.fmtA == y.fmtA && x.fmtB == y.fmtB && x.sparse == y.sparse && !x.gemv && !y.gemv

/-- Whether an assigned stream may enter now. -/
def mayEnter (hw : Hw) (c s : Nat) (y : Stream) : Bool :=
  let me := (getCore hw c).me
  let a := getSub me s
  (a.inside == [] || a.inside.all (fun x => chains me.shape x y)) &&
    (me.shape != 3 || meEmpty me) && (!rbit hw (Reg.mePolicy c) 0 || me.hold == 1) &&
    (y.gemv || (if y.swap then a.shadow.isSome else a.active.isSome))

/-- What a parity error of a stream's tiles leaves behind (R125). -/
def statPar (hw : Hw) (c : Nat) (par : List Nat) : Hw :=
  if par = [] then hw else ras (ror hw (Reg.meErr c) 1) (c / 128) clsUE 0x02 2 c 0xFFF 0 0 0

/-- The rows of a GEMM stream, with the parity errors its tile has (R125): hardware, first poisoned accumulator entry it added into, whether an A row or the tile was
poisoned, the first poisoned address read. -/
def gemmRows (hw : Hw) (c s : Nat) (y : Stream) (t : Tile) : Hw × Option Nat × Bool × Option Nat :=
  let shape := (getCore hw c).me.shape
  let cols := (List.range t.tn).map (fun n => (tileCol t n, t.bad.contains n || t.par.contains n))
  let rs := spadRows hw c y.aAddr y.aStride y.m (rowBytes y.fmtA y.k)
  let r := foldN y.m (rs.1, none) (fun (acc : Hw × Option Nat) i =>
    let as := unpackRow y.fmtA y.k (atD [] rs.2 i)
    let x := meRow (some y.cmd) acc.1 c (y.accRow + i) (subCol shape s) t.tn y.acc (fun j old =>
      let col := atD ([], false) cols j
      (meEntry y.fmtA y.fmtB as col.1 old, col.2 || entryBad as col.1))
    (x.1, acc.2.or x.2))
  let fb := firstBad y.aAddr y.aStride rs.2
  (statPar r.1 c t.par, r.2, fb.isSome || t.bad != [] || t.par != [], fb.map (coreWin c + ·))

/-- A matrix–vector product: K tiles of 128 or 256 rows, each rounded into its entry, the first under ACC; the columns
whose tiles have a parity error are poisoned (R125). -/
def gemvRows (hw : Hw) (c : Nat) (y : Stream) : Hw × Option Nat × Bool × Option Nat :=
  let code := y.fmtB
  let ks := 128 * perCell code
  let kTiles := (y.k + ks - 1) / ks
  let xs := spadRows hw c y.aAddr 0 1 (rowBytes code y.k)
  let as := unpackRow code y.k (atD [] xs.2 0)
  let bs := readStored xs.1 c code false y.k y.n y.bAddr y.bStride
  let row := fun r : Nat => atD [] bs.2 r
  let bAll : List (List El) := (List.range y.k).map (fun k =>
    let vs := rowVals code y.n (row (denseRow (fmtMX code) k))
    let sc := if fmtMX code then row (scaleRow false (k / 32)) else []
    (vs.zipIdx).map (fun e =>
      let b := atD (0, false) sc e.2
      ⟨e.1.1, if fmtMX code then scaled (ndec code e.1.1) b.1.toNat else ndec code e.1.1, e.1.2 || b.2⟩))
  let one := fun (h : Hw) (j kt : Nat) =>
    let w := min 128 (y.n - 128 * j)
    let ak := (as.drop (kt * ks)).take ks
    let bk := (bAll.drop (kt * ks)).take ks
    meRow (if kt + 1 = kTiles then some y.cmd else none) h c (y.accRow + j) 0 w (y.acc || kt != 0) (fun i old =>
      let col := bk.map (fun r => some (atD El.zero r (128 * j + i)))
      (meEntry code code ak col old, entryBad ak col || y.par.contains (128 * j + i)))
  let r := foldN ((y.n + 127) / 128) (bs.1, none) (fun (acc : Hw × Option Nat) j =>
    foldN kTiles acc (fun (acc2 : Hw × Option Nat) kt =>
      let x := one acc2.1 j kt
      (x.1, acc2.2.or x.2)))
  let fx := firstBad y.aAddr 0 xs.2
  let fb := firstBad y.bAddr y.bStride bs.2
  (statPar r.1 c y.par, r.2, fx.isSome || fb.isSome || y.par != [], (fx.or fb).map (coreWin c + ·))

/-- A stream's first row enters; its results and its end follow, those of the streams before it have appeared (log 49, DEDUCED). A DEEP stream's tile stands in SHADOW
until it enters and in ACTIVE after, an ME_GEMV's tiles in neither: R126 does not say which bits of ME_STATUS the two
registers of R108 and the tiles of R109 show (log 94, DESIGN CHOICE). A stream that reads several poisoned
units writes one UE record of cause 3, with the first scratchpad address read, else the first accumulator entry (log 88,
DESIGN CHOICE). -/
def enterRow (c s : Nat) (hw : Hw) : Hw × Answer :=
  let me := (getCore hw c).me
  let a := getSub me s
  match a.assigned with
  | none => (hw, .notEnabled)
  | some y =>
    if !coreAlive hw c || !mayEnter hw c s y then (hw, .notEnabled)
    else match findCmd hw c y.cmd with
    | none => (hw, .notEnabled)
    | some m =>
      let tile := if y.swap then a.shadow else a.active
      let a1 : SubArr := { a with inside := a.inside ++ [y], assigned := none,
                                  active := if y.swap then a.shadow else a.active,
                                  shadow := if y.swap then none else a.shadow }
      let hw1 := setMe (landWhere c (lateOf hw c 1 none) hw) c (setSub me s a1)
      let r := if y.gemv then gemvRows hw1 c y else match tile with
        | some t => gemmRows hw1 c s y t
        | none => (hw1, none, false, none)
      let ctx := ctxOf hw c m.q
      let first := r.2.2.2.or r.2.1
      let hw2 := match first with
        | some o => poisonUsed r.1 c 0x02 ctx o
        | none => r.1
      did (setCmd hw2 c { m with work := .none, status := if r.2.2.1 || r.2.1.isSome then stData else stSuccess })

end Sys2Proof.Machine
end

