-- ==== Sys2Proof/Machine/Saiga.lean ====
section
/-! DEFINITION. Saiga compression (R327–R330): headers, directory entries, the plane codings, frames. -/

namespace Sys2Proof.Machine

/-- Bytes of a plane element of a format code (R328). -/
def planeWidth (code : Nat) : Nat :=
  if code = 9 ∨ code = 10 then 2 else if code = 0xB ∨ code = 0xD then 4 else if code = 0xC ∨ code = 0xE then 8 else 1

/-- Exponent and rest bits of a format code in EXPO mode (R329). -/
def expoShape : Nat → Option (Nat × Nat)
  | 5 => some (4, 4) | 6 => some (5, 3) | 9 => some (8, 8) | 0xA => some (5, 11) | 0xB => some (8, 24)
  | 0xC => some (11, 53) | _ => none

/-- A header (R327). -/
structure SHdr where
  mode    : Nat
  elem    : Nat
  nframes : Nat
  ubytes  : Nat
  sbytes  : Nat

/-- The header of a stream; none where a field breaks R327 to R329. -/
def saigaHdr (bs : List Byte) : Option SHdr :=
  let w := fun i => leNat ((bs.drop (8 * i)).take 8)
  let w0 := w 0
  let h : SHdr := ⟨nbits w0 51 48, nbits w0 43 40, nbits w0 31 0, w 1, w 2⟩
  if nbits w0 63 56 = 1 ∧ nbits w0 55 52 = 0 ∧ nbits w0 47 44 = 0 ∧ nbits w0 39 32 = 0 ∧
      h.nframes = (h.ubytes + 4095) / 4096 ∧ (h.mode = 1 ∨ (h.mode = 2 ∧ (expoShape h.elem).isSome)) ∧
      (bs.drop 24).all (fun b => b == 0) then some h else none

/-- Granules before the first frame. -/
def headGranules (nframes : Nat) : Nat := 1 + (nframes + 7) / 8

/-- Uncompressed bytes of frame f. -/
def frameBytes (h : SHdr) (f : Nat) : Nat := min 4096 (h.ubytes - 4096 * f)

/-- A directory entry: stored, granules, first granule; none where other bits are set. -/
def saigaDir (v : Nat) : Option (Bool × Nat × Nat) :=
  if nbits v 63 48 = 0 ∧ nbits v 46 46 = 0 then some (nbits v 47 47 == 1, nbits v 45 40 + 1, nbits v 39 0) else none

/-- Fields of w bits, element i at bit w × i. -/
def packBits (w : Nat) (vs : List Nat) : List Byte :=
  leBytes ((vs.length * w + 7) / 8) (vs.foldr (fun v a => v + a * 2 ^ w) 0)

def unpackBits (w n : Nat) (bs : List Byte) : List Nat :=
  let v := leNat bs
  (List.range n).map (fun i => v / 2 ^ (w * i) % 2 ^ w)

/-! #### Codings of a plane (R328): 0 RAW, 1 CONST, 2 DICT4, 3 DICT16 -/

/-- Bytes of a dictionary entry of w bits. -/
def entryBytes (w : Nat) : Nat := (w + 7) / 8

def codedSize (w n code : Nat) : Nat :=
  if code = 0 then (n * w + 7) / 8 else if code = 1 then entryBytes w
  else if code = 2 then 4 * entryBytes w + (n + 3) / 4 else 16 * entryBytes w + (n + 1) / 2

/-- The dictionary of values: the distinct ones ascending, then copies of the last (R330). -/
def dictOf (k : Nat) (vs : List Nat) : List Nat :=
  let ds := (vs.dedup).insertionSort (· ≤ ·)
  ds ++ List.replicate (k - ds.length) (ds.getLastD 0)

/-- The shortest coding that holds the values exactly; a tie goes to the lower code (R330) (log 51, DEDUCED). -/
def chooseCode (w : Nat) (vs : List Nat) : Nat :=
  let k := (vs.dedup).length
  let ok := [0] ++ (if k ≤ 1 then [1] else []) ++ (if k ≤ 4 then [2] else []) ++ (if k ≤ 16 then [3] else [])
  ok.foldl (fun b x => if codedSize w vs.length x < codedSize w vs.length b then x else b) 0

def encodePlane (w : Nat) (vs : List Nat) (code : Nat) : List Byte :=
  if code = 0 then packBits w vs
  else if code = 1 then leBytes (entryBytes w) (vs.headD 0)
  else
    let k := if code = 2 then 4 else 16
    let d := dictOf k vs
    d.flatMap (fun v => leBytes (entryBytes w) v) ++ packBits (if code = 2 then 2 else 4) (vs.map (fun v => d.idxOf v))

/-- Decode a plane of n values: the values and the bytes after it; none where an entry does not fit its field. -/
def decodePlane (w n code : Nat) (bs : List Byte) : Option (List Nat × List Byte) :=
  let size := codedSize w n code
  let body := bs.take size
  let e := entryBytes w
  let entry := fun i => leNat ((body.drop (e * i)).take e)
  if bs.length < size then none
  else if code = 0 then some (unpackBits w n body, bs.drop size)
  else if code = 1 then (if entry 0 < 2 ^ w then some (List.replicate n (entry 0), bs.drop size) else none)
  else
    let k := if code = 2 then 4 else 16
    let d := (List.range k).map entry
    if d.all (fun v => decide (v < 2 ^ w)) then
      some ((unpackBits (if code = 2 then 2 else 4) n (body.drop (e * k))).map (fun i => atD 0 d i), bs.drop size)
    else none

/-! #### Frames (R328–R330) -/

/-- Byte j of each element of w bytes. -/
def planeOf (w j : Nat) (bs : List Byte) : List Nat :=
  (List.range (bs.length / w)).map (fun i => (bs.getD (w * i + j) 0).toNat)

/-- The elements of w bytes as numbers. -/
def elemsOf (w : Nat) (bs : List Byte) : List Nat :=
  (List.range (bs.length / w)).map (fun i => leNat ((bs.drop (w * i)).take w))

/-- The exponent field and the rest of an element (R329). -/
def splitElem (e r v : Nat) : Nat × Nat :=
  let f := r - 1
  (v / 2 ^ f % 2 ^ e, v / 2 ^ (e + f) % 2 * 2 ^ f + v % 2 ^ f)
def joinElem (e r x y : Nat) : Nat :=
  let f := r - 1
  y / 2 ^ f * 2 ^ (e + f) + x * 2 ^ f + y % 2 ^ f

/-- Element bytes of a mode and format. -/
def saigaWidth (h : SHdr) : Nat :=
  if h.mode = 1 then planeWidth h.elem
  else match expoShape h.elem with
    | some (e, r) => (e + r) / 8
    | none => 1

/-- A frame coded, without its padding. -/
def encodeFrame (h : SHdr) (bs : List Byte) : List Byte :=
  match h.mode, expoShape h.elem with
  | 2, some (e, r) =>
    let ss := (elemsOf ((e + r) / 8) bs).map (splitElem e r)
    let code := chooseCode e (ss.map (·.1))
    BitVec.ofNat 8 code :: encodePlane e (ss.map (·.1)) code ++ packBits r (ss.map (·.2))
  | _, _ =>
    let w := planeWidth h.elem
    let ps := (List.range w).map (fun j => planeOf w j bs)
    let cs := ps.map (chooseCode 8)
    cs.map (BitVec.ofNat 8) ++ (ps.zip cs).flatMap (fun p => encodePlane 8 p.1 p.2)

/-- Decode the planes of a frame in order. -/
def decodePlanes (n : Nat) : List Byte → List Byte → Option (List (List Nat) × List Byte)
  | [], bs => some ([], bs)
  | d :: ds, bs =>
    if d.toNat > 3 then none
    else (decodePlane 8 n d.toNat bs).bind (fun p => (decodePlanes n ds p.2).map (fun q => (p.1 :: q.1, q.2)))

/-- What follows a coded frame: zeros up to the end of its granule. -/
def padOk (rest : List Byte) : Bool := decide (rest.length < 64) && rest.all (fun b => b == 0)

/-- A frame of F bytes from its granules; none where it does not expand to exactly F bytes. -/
def decodeFrame (h : SHdr) (stored : Bool) (F : Nat) (bs : List Byte) : Option (List Byte) :=
  if stored then (if F ≤ bs.length ∧ padOk (bs.drop F) then some (bs.take F) else none)
  else
    let w := saigaWidth h
    let n := F / w
    if F % w ≠ 0 then none
    else match h.mode, expoShape h.elem with
    | 2, some (e, r) =>
      match bs with
      | [] => none
      | d :: body =>
        if d.toNat > 3 then none
        else (decodePlane e n d.toNat body).bind (fun p =>
          (decodePlane r n 0 p.2).bind (fun q =>
            if padOk q.2 then some ((p.1.zip q.1).flatMap (fun x => leBytes w (joinElem e r x.1 x.2))) else none))
    | _, _ =>
      (decodePlanes n (bs.take w) (bs.drop w)).bind (fun p =>
        if bs.length ≥ w ∧ padOk p.2 then
          some ((List.range n).flatMap (fun i => p.1.map (fun pl => BitVec.ofNat 8 (atD 0 pl i)))) else none)

/-- A frame as it is stored: whether uncoded, its granules (R330). -/
def storeFrame (h : SHdr) (bs : List Byte) : Bool × List Byte :=
  let c := encodeFrame h bs
  let pad := fun x : List Byte => x ++ List.replicate ((64 - x.length % 64) % 64) 0
  if c.length > bs.length then (true, pad bs) else (false, pad c)

end Sys2Proof.Machine
end

