-- ==== Sys2Proof/Machine/Dma.lean ====
section
/-! DEFINITION. The DMA engine (R191, R192, R196–R198, R217, R218, R331, R332, R389): transfers, gathers and scatters,
fills and copies, credits, prefetches, the Saiga codec. -/

namespace Sys2Proof.Machine

/-! #### Bytes with poison -/

/-- Whether the unit of a local address is poisoned (R521). -/
def poisonAt (hw : Hw) (a : Nat) : Bool :=
  match locate a with
  | .tier0 => linePoison hw (a / 64)
  | .tier1 => linePoison hw (a / 64)
  | .spad t off => mget (fun _ => false) (getCore hw t).spadBad (off / 8)
  | .acc t off => mget (fun _ => false) (getCore hw t).accBad (off / 4)
  | _ => true

/-- A DE read within one aligned 256-byte block: bytes with the poison of their units, or nothing where they come later
or the read failed. -/
def readBlock (hw : Hw) (c : Nat) (m : Cmd) (pa n : Nat) (roe : Bool) (dest : ReqDest) : Option (Hw × Cmd × Option PBytes) :=
  (dmaRead hw c m pa n roe dest).map (fun r => (r.1, r.2.1, r.2.2.map (fun b =>
    (b.1.zipIdx).map (fun x => (x.1, b.2 && poisonAt r.1 (localOf pa + x.2))))))


/-- Poison spread over whole elements of a reduction. -/
def poisonByElem (el : Nat) (bs : PBytes) : PBytes :=
  if el ≤ 1 then bs
  else (bs.zipIdx).map (fun b => (b.1.1, ((bs.drop (b.2 / el * el)).take el).any (·.2)))

/-- The running state of a transfer: hardware, command, first poisoned address read, whether a dropped write has ended
it (R200), whether it writes a tile, more than one granule (R270). -/
structure Xfer where
  hw   : Hw
  m    : Cmd
  bad  : Option Nat
  stop : Bool
  tile : Bool

/-- Pieces of a tile write to addresses of this package, each now or later: what has appeared counts in INFO (log 98,
DESIGN CHOICE). -/
def tileWrite (c : Nat) (how : WrHow) (poison : Bool) : List (Nat × List Byte) → Hw × Cmd → Option (Hw × Cmd)
  | [], y => some y
  | (pa, bs) :: ps, y =>
    let x : LatePart := ⟨y.2.id, 2, pa, bs, poison, how.rop, how.rfmt, how.hint, how.htgt, how.roe⟩
    let r := comesLate y.1 c x
    if r.1 then tileWrite c how poison ps (addLate r.2 c x, y.2)
    else match landOne c x (r.2, y.2) with
      | none => none
      | some z => tileWrite c how poison ps z

/-- The requests that a run of another package's memory or of a port's window takes (R53, R436, R453). -/
def farPieces (hw : Hw) (pa n : Nat) : List (Nat × Nat) :=
  (cutMem pa n).flatMap (fun k => match locate (localOf pa) with
    | .port p _ => if pkgOf hw pa = 0 then dsCut hw p false k.1 k.2 else [k]
    | _ => [k])

/-- One request that leaves the package: not sent where any of its bytes is poisoned (R523); INFO counts what is sent; nothing
follows a dropped write (R200). -/
def farPut (c : Nat) (how : WrHow) (x : Xfer) (pa : Nat) (bs : PBytes) : Option Xfer :=
  if x.stop then some x
  else (dmaWrite c (anyPoison bs) how [(pa, bs.length)] x.hw { x.m with status := 0 } (bs.map (·.1))).map (fun z => { x with
    hw := z.1
    m := { failCmd { z.2 with status := x.m.status } z.2.status with
      info := if z.2.status = 0 then (z.2.info + bs.length) % 2 ^ 32 else z.2.info }
    stop := x.stop || z.2.dropped })

/-- Write bytes within one aligned 256-byte block at a physical address; INFO counts those sent or written. -/
def piecePut (c : Nat) (how : WrHow) (x : Xfer) (pa : Nat) (bs : PBytes) : Option Xfer :=
  let m0 : Cmd := { x.m with status := 0 }
  if pkgOf x.hw pa ≠ 0 ∨ isPortAddr (localOf pa) = true then
    (farPieces x.hw pa bs.length).foldl (fun acc k => acc.bind (fun y => farPut c how y k.1 ((bs.drop (k.1 - pa)).take k.2))) (some x)
  else if x.tile then
    ((runs (bs.map some)).foldl (fun acc y => acc.bind (tileWrite c how y.2.2 (cutGran 6 (pa + y.1) y.2.1))) (some (x.hw, x.m))).map
      (fun z => { x with hw := z.1, m := z.2, stop := x.stop || z.2.dropped })
  else
  let r := (runs (bs.map some)).foldl (fun acc y => acc.bind (fun z =>
      dmaWrite c y.2.2 how [(pa + y.1, y.2.1.length)] z.1 z.2 y.2.1)) (some (x.hw, m0))
  r.map (fun z => { x with
    hw := z.1
    m := { failCmd { z.2 with status := x.m.status } z.2.status with
      info := if z.2.status = 0 then (z.2.info + bs.length) % 2 ^ 32 else z.2.info }
    stop := x.stop || z.2.dropped })

/-- Write a run at a virtual address, block by block; `cut` further cuts it at Roe halves. -/
def runPut (c : Nat) (how : WrHow) : List (Nat × Nat) → Xfer → PBytes → Option Xfer
  | [], x, _ => some x
  | (va, k) :: ps, x, bs =>
    if x.stop then some x
    else match paOf x.m va with
    | none => runPut c how ps { x with m := failCmd x.m stAddress } (bs.drop k)
    | some pa => match piecePut c how x pa (bs.take k) with
      | none => none
      | some y => runPut c how ps y (bs.drop k)

/-- Put bytes at a transfer's destination: 0 scratchpad, 1 accumulator, 2 memory. -/
def xferPut (c : Nat) (how : WrHow) (kind addr : Nat) (x : Xfer) (bs : PBytes) : Option Xfer :=
  if kind = 2 then runPut c how (cutBlocks (bs.length / 256 + 2) addr bs.length) x bs
  else
    some { x with hw := (runs (bs.map some)).foldl (fun h y => tilePut c x.m.id x.tile kind h (addr + y.1) y.2.1 y.2.2) x.hw,
                  m := { x.m with info := (x.m.info + bs.length) % 2 ^ 32 } }

/-- Note the first poisoned byte read (log 69, DEDUCED). -/
def noteBad (x : Xfer) (base : Nat) (bs : PBytes) : Xfer :=
  match (bs.zipIdx).find? (fun b => b.1.2) with
  | some b => { x with bad := x.bad.or (some (base + b.2)), m := failCmd x.m stData }
  | none => x

/-- Cut a source run at 256-byte blocks and at the destination's pages. -/
def cutBoth : Nat → Nat → Nat → Nat → List (Nat × Nat × Nat)
  | 0, _, _, _ => []
  | fuel + 1, a, b, n =>
    if n = 0 then []
    else let k := min n (min (256 - a % 256) (4096 - b % 4096)); (a, b, k) :: cutBoth fuel (a + k) (b + k) (n - k)

/-- The source blocks of a row, each moved as it is read; what comes later goes to its own place. -/
def moveBlocks (c : Nat) (how : WrHow) (dk : Nat) : List (Nat × Nat × Nat) → Xfer → Option Xfer
  | [], x => some x
  | (va, dst, k) :: ps, x =>
    if x.stop then some x
    else
      let dpa := if dk = 2 then paOf x.m dst else some dst
      match paOf x.m va, dpa with
      | some pa, some dp =>
        match readBlock x.hw c x.m pa k false (.put dk dp how.rop how.rfmt how.hint how.htgt) with
        | none => none
        | some (hw1, m1, none) => moveBlocks c how dk ps { x with hw := hw1, m := m1 }
        | some (hw1, m1, some bs) =>
          let y := noteBad { x with hw := hw1, m := m1 } (localOf pa) bs
          match xferPut c how dk dst y (if how.rop = 0 then bs else poisonByElem (fmtBits how.rfmt / 8) bs) with
          | none => none
          | some z => moveBlocks c how dk ps z
      | _, _ => moveBlocks c how dk ps { x with m := failCmd x.m stAddress }

/-- One row. -/
def moveRow (c : Nat) (how : WrHow) (sk src dk dst len : Nat) (x : Xfer) : Option Xfer :=
  if x.stop then some x
  else if sk = 2 then moveBlocks c how dk (cutBoth (len / 128 + 4) src dst len) x
  else
    let r := if sk = 0 then spadRows x.hw c src 0 1 len else accRows x.hw c src 0 1 len
    let bs := atD [] r.2 0
    let y := noteBad { x with hw := r.1 } (coreWin c + (if sk = 0 then src else 0x800000 + src)) bs
    xferPut c how dk dst y (if how.rop = 0 then bs else poisonByElem (fmtBits how.rfmt / 8) bs)

/-- The end of a transfer's own work: one record for the poison it read. -/
def xferEnd (c : Nat) (x : Xfer) : Hw × Cmd :=
  let hw := match x.bad with
    | some a => poisonUsed x.hw c 0x01 (ctxOf x.hw c x.m.q) a
    | none => x.hw
  (hw, runCmd x.m .none)

/-! #### DE_XFER (R217) -/

/-- An address a signed stride away. -/
def strideAddr (base : Nat) (stride : Int) (r : Nat) (modulus : Nat) : Nat :=
  (((base : Int) + stride * (r : Int)) % (modulus : Int)).toNat

/-- Checks of a scratchpad or accumulator side: multiples of 8, range, gated banks. -/
def sideCheck (hw : Hw) (c kind base len rows : Nat) (stride : Int) : Nat :=
  if kind = 2 then 0
  else if base % 8 ≠ 0 ∨ len % 8 ≠ 0 ∨ stride % 8 ≠ 0 then stOperand
  else
    let far : Int := stride * ((rows : Int) - 1)
    let lo : Int := (base : Int) + min 0 far
    let hi : Int := (base : Int) + max 0 far + (len : Int)
    if lo < 0 ∨ hi > ((if kind = 0 then spadSize else accSize : Nat) : Int) then stAddress
    else if kind = 0 ∧ (List.range rows).any (fun r => touchesGated hw c (strideAddr base stride r spadSize) len) then stAddress
    else 0

def deHow (w : List Word) (rop rfmt : Nat) (roe : Bool) : WrHow := ⟨rop, rfmt, wf w 7 63 62, wf w 7 59 48, roe, 0⟩

/-- The start checks of a plain DE_XFER. -/
def xferCheck (hw : Hw) (c : Nat) (m : Cmd) (rows len src dst : Nat) : Nat :=
  let w := m.w
  let sk := wf w 6 27 26
  let dk := wf w 6 25 24
  let rop := wf w 6 23 20
  let el := fmtBits (wf w 6 19 16) / 8
  let ss := toInt 32 (wf w 5 63 32)
  let ds := toInt 32 (wf w 5 31 0)
  let endBad : Bool := wf w 6 13 13 == 1 && (dk != 2 || (match paOf m dst with
    | some pa => (match locate (localOf pa) with
      | .spad _ _ => false
      | _ => true)
    | none => true))
  if rows = 0 ∨ rows > 65536 ∨ len = 0 ∨ len > 2 ^ 20 ∨ endBad then stOperand
  else if rop ≠ 0 ∧ (dk ≠ 2 ∨ len % el ≠ 0 ∨ dst % el ≠ 0 ∨ (rows > 1 ∧ ds % (el : Int) ≠ 0)) then stOperand
  else
    let s1 := sideCheck hw c sk src len rows ss
    let s2 := sideCheck hw c dk dst len rows ds
    let own := fun (k base : Nat) (stride : Int) => k == 2 &&
      (List.range rows).any (fun r => ownGated hw c m (strideAddr base stride r (2 ^ 64)) len)
    if s1 = stOperand ∨ s2 = stOperand then stOperand
    else if s1 ≠ 0 then s1 else if s2 ≠ 0 then s2 else if own sk src ss || own dk dst ds then stAddress else 0

/-- A plain transfer, row by row; a row that reads where an earlier one writes finds what has appeared there until then
(R255) (log 98, DESIGN CHOICE). -/
def plainXfer (c : Nat) (hw : Hw) (m : Cmd) : Option (Hw × Cmd) :=
  let gv := gvOf hw c m
  let w := m.w
  let sk := wf w 6 27 26
  let dk := wf w 6 25 24
  let rows := gsel gv 0 (wf w 6 43 28 + 1)
  let len := gsel gv 1 (wf w 6 63 44 + 1)
  let src := gsel gv 2 (wf w 3 63 0)
  let dst := gsel gv 3 (wf w 4 63 0)
  let st := xferCheck hw c m rows len src dst
  let md := fun k : Nat => if k = 0 then spadSize else if k = 1 then accSize else 2 ^ 64
  if st ≠ 0 then some (hw, doneCmd m st)
  else
    let how := deHow w (wf w 6 23 20) (wf w 6 19 16) false
    (foldN rows (some ⟨hw, m, none, false, tileOut dst rows len⟩) (fun acc r => acc.bind (fun x =>
      moveRow c how sk (strideAddr src (toInt 32 (wf w 5 63 32)) r (md sk)) dk
        (strideAddr dst (toInt 32 (wf w 5 31 0)) r (md dk)) len x))).map (xferEnd c)

/-! #### The codec (R331, R332) -/

/-- Staged bytes of a stream; none where some are not there yet. -/
def stagedGet (hw : Hw) (c id off n : Nat) : Option PBytes :=
  let f := (getCore hw c).staged
  let bs := (List.range n).map (fun i => mget (fun _ => none) f (id * 2 ^ 33 + off + i))
  if bs.all (·.isSome) then some (bs.map (fun b => b.getD (0, false))) else none

def stagedDrop (hw : Hw) (c id : Nat) : Hw :=
  modCore hw c (fun t => { t with staged := t.staged.filter (fun e => e.1 / 2 ^ 33 != id) })

/-- What a codec transfer does next: read a run of a stream (offset, address, bytes), or end with a status after
writing runs at its destination. -/
inductive CodecStep
  | need (off va n : Nat)
  | finish (out : List (Nat × PBytes)) (st : Nat)

/-- The page the header lies in (log 51, DEDUCED). -/
def codecPage (m : Cmd) (va : Nat) : Option Page := m.pages.find? (fun p => inPage p va)

/-- Whether a run of a stream stays in its page. -/
def inStream (m : Cmd) (base off n : Nat) : Bool :=
  match codecPage m base with
  | some p => decide (base + off + n ≤ p.va + 2 ^ p.log2)
  | none => false

/-- The frames of an expansion, from f on, `left` bytes still to deliver. -/
def expandFrames (get : Nat → Nat → Option PBytes) (m : Cmd) (base : Nat) (h : SHdr) :
    Nat → Nat → Nat → Option Nat → Nat → List (Nat × PBytes) → CodecStep
  | 0, _, _, _, _, out => .finish out 0
  | fuel + 1, f, left, next, done, out =>
    if left = 0 then .finish out 0
    else
      let doff := 64 + 8 * f
      if !inStream m base doff 8 then .finish out stAddress
      else match get doff 8 with
      | none => .need doff (base + doff) 8
      | some db =>
        if anyPoison db then .finish out stData
        else match saigaDir (leNat (db.map (·.1))) with
        | none => .finish out stOperand
        | some (stored, ng, off) =>
          let F := frameBytes h f
          let first := headGranules h.nframes
          if off < first ∨ (f = 0 ∧ off ≠ first) ∨ next.any (fun e => e != off) ∨ 64 * (off + ng) > h.sbytes ∨
              (stored ∧ ng ≠ (F + 63) / 64) ∨ (f + 1 = h.nframes ∧ 64 * (off + ng) ≠ h.sbytes) then .finish out stOperand
          else if !inStream m base (64 * off) (64 * ng) then .finish out stAddress
          else match get (64 * off) (64 * ng) with
          | none => .need (64 * off) (base + 64 * off) (64 * ng)
          | some fb =>
            match decodeFrame h stored F (fb.map (·.1)) with
            | none => .finish out (if anyPoison fb then stData else stOperand)
            | some bytes =>
              let part := (bytes.take left).map (fun b => (b, anyPoison fb))
              expandFrames get m base h fuel (f + 1) (left - part.length) (some (off + ng)) (done + part.length)
                (out ++ [(done, part)])

/-- CODEC 1 (log 51, DEDUCED). -/
def expandStep (get : Nat → Nat → Option PBytes) (m : Cmd) (len src : Nat) : CodecStep :=
  let first := wf m.w 5 63 32
  if !inStream m src 0 64 then .finish [] stAddress
  else match get 0 64 with
  | none => .need 0 src 64
  | some hb =>
    if anyPoison hb then .finish [] stData
    else match saigaHdr (hb.map (·.1)) with
    | none => .finish [] stOperand
    | some h =>
      if h.sbytes % 64 ≠ 0 ∨ (len : Int) > (h.ubytes : Int) - 4096 * (first : Int) then .finish [] stOperand
      else expandFrames get m src h (len / 4096 + 2) first len none 0 []

/-- Frames of the source in order: directory words and stored bytes. -/
def compressFrames (h : SHdr) : Nat → Nat → PBytes → List Nat × List PBytes
  | 0, _, _ => ([], [])
  | fuel + 1, off, bs =>
    if bs = [] then ([], [])
    else
      let fr := bs.take 4096
      let s := storeFrame h (fr.map (·.1))
      let ng := s.2.length / 64
      let rest := compressFrames h fuel (off + ng) (bs.drop 4096)
      (((if s.1 then 2 ^ 47 else 0) + (ng - 1) * 2 ^ 40 + off) :: rest.1, s.2.map (fun b => (b, anyPoison fr)) :: rest.2)

/-- Where a codec transfer stages its source bytes, beside the header. -/
def srcStage : Nat := 2 ^ 32

/-- CODEC 2 (log 51, DEDUCED). -/
def compressStep (get : Nat → Nat → Option PBytes) (m : Cmd) (len src dst : Nat) : CodecStep :=
  if !inStream m dst 0 64 then .finish [] stAddress
  else match get 0 64 with
  | none => .need 0 dst 64
  | some hb =>
    if anyPoison hb then .finish [] stData
    else match saigaHdr (hb.map (·.1)) with
    | none => .finish [] stOperand
    | some h =>
      if len ≠ h.ubytes ∨ h.ubytes % saigaWidth h ≠ 0 then .finish [] stOperand
      else match get srcStage len with
      | none => .need srcStage src len
      | some bs =>
        let fs := compressFrames h (len / 4096 + 2) (headGranules h.nframes) bs
        let clean := fun l : List Byte => l.map (fun b => (b, false))
        let dir := clean (fs.1.flatMap (leBytes 8))
        let pad := clean (List.replicate (64 * (headGranules h.nframes - 1) - dir.length) 0)
        let body := fs.2.flatten
        let total := 64 * headGranules h.nframes + body.length
        if !inStream m dst 0 total then .finish [] stAddress
        else .finish [(64, dir ++ pad ++ body), (16, clean (leBytes 8 total))] 0

/-- Read a run for a codec transfer into its staging: at once in this package, else with its answers. -/
def stageRun (c : Nat) (off : Nat) : List (Nat × Nat) → Xfer → Option Xfer
  | [], x => some x
  | (va, k) :: ps, x =>
    match paOf x.m va with
    | none => some { x with m := failCmd x.m stAddress }
    | some pa =>
      match readBlock x.hw c x.m pa k false (.put 3 off 0 0 0 0) with
      | none => none
      | some (hw1, m1, none) => stageRun c (off + k) ps { x with hw := hw1, m := m1 }
      | some (hw1, m1, some bs) =>
        stageRun c (off + k) ps (noteBad { x with hw := stageBytes hw1 c x.m.id off bs, m := m1 } (localOf pa) bs)

/-- A source in the core's own scratchpad is staged whole. -/
def stageSpad (c off base n : Nat) (x : Xfer) : Xfer :=
  let r := spadRows x.hw c base 0 1 n
  let bs := atD [] r.2 0
  noteBad { x with hw := stageBytes r.1 c x.m.id off bs } (coreWin c + base) bs

/-- Run a codec transfer until it waits for bytes or ends (log 51, DEDUCED). -/
def codecRun (c : Nat) (len src dst : Nat) : Nat → Xfer → Option (Hw × Cmd)
  | 0, x => some (stagedDrop x.hw c x.m.id, doneCmd x.m stOperand)
  | fuel + 1, x =>
    let w := x.m.w
    let expand : Bool := wf w 6 15 14 == 1
    let get := stagedGet x.hw c x.m.id
    let stop := fun (st : Nat) (y : Xfer) =>
      let r := xferEnd c { y with m := failCmd y.m st }
      some (stagedDrop r.1 c x.m.id, r.2)
    if x.m.status ≠ 0 ∧ x.m.status ≠ stData then stop 0 x
    else match (if expand then expandStep get x.m len src else compressStep get x.m len src dst) with
    | .need off va n =>
      if off = srcStage ∧ !expand ∧ wf w 6 27 26 = 0 then
        (if touchesGated x.hw c va n then stop stAddress x else codecRun c len src dst fuel (stageSpad c off va n x))
      else match stageRun c off (cutBlocks (n / 256 + 2) va n) x with
      | none => none
      | some y => if y.m.out = 0 then codecRun c len src dst fuel y else some (y.hw, runCmd y.m (.codec len src dst))
    | .finish out st =>
      let dk := wf w 6 25 24
      let gated := out.any (fun o => if dk = 0 then touchesGated x.hw c (dst + o.1) o.2.length
        else ownGated x.hw c x.m (dst + o.1) o.2.length)
      if gated then stop stAddress x
      else match out.foldl (fun acc o => acc.bind (fun y => if y.stop then some y else
          xferPut c (deHow w 0 0 false) dk (dst + o.1) y o.2)) (some x) with
      | none => none
      | some y => stop st y

/-- DE_XFER with a codec. -/
def codecXfer (c : Nat) (hw : Hw) (m : Cmd) : Option (Hw × Cmd) :=
  let gv := gvOf hw c m
  let w := m.w
  let sk := wf w 6 27 26
  let dk := wf w 6 25 24
  let expand : Bool := wf w 6 15 14 == 1
  let rows := gsel gv 0 (wf w 6 43 28 + 1)
  let len := gsel gv 1 (wf w 6 63 44 + 1)
  let src := gsel gv 2 (wf w 3 63 0)
  let dst := gsel gv 3 (wf w 4 63 0)
  let kinds : Bool := if expand then sk == 2 && (dk == 0 || dk == 2) && src % 64 == 0
    else dk == 2 && (sk == 0 || sk == 2) && dst % 64 == 0
  let st := xferCheck hw c m rows len (if expand then 0 else src) (if expand ∨ wf w 6 13 13 = 1 then dst else 0)
  if !kinds ∨ rows ≠ 1 ∨ wf w 6 23 20 ≠ 0 then some (hw, doneCmd m stOperand)
  else if st ≠ 0 then some (hw, doneCmd m st)
  else codecRun c len src dst 2000 ⟨hw, m, none, false, true⟩

/-- DE_XFER (R217) (log 19, DEDUCED). -/
def deXferBody (c : Nat) (hw : Hw) (m : Cmd) : Option (Hw × Cmd) :=
  if wf m.w 6 15 14 = 0 then plainXfer c hw m else codecXfer c hw m

/-- A codec transfer goes on once the bytes it asked for are there. -/
def codecContinue (hw : Hw) (c id : Nat) : Hw :=
  match findCmd hw c id with
  | none => hw
  | some m =>
    match m.work with
    | .codec len src dst =>
      (match if m.out = 0 then codecRun c len src dst 2000 ⟨hw, m, none, false, true⟩ else none with
       | some r => setCmd r.1 c r.2
       | none => hw)
    | _ => hw

/-! #### DE_GATHER and DE_SCATTER (R218) -/

/-- Whether an element lies in tier 0, of this package or of another: tier 1 has no Roe path (R334). -/
def inTier0 (m : Cmd) (va : Nat) : Bool :=
  match paOf m va with
  | some pa => decide (localOf pa < 0x00C000000000)
  | none => false

/-- Cut an element at 256-byte blocks, or at 32-byte halves when it takes the Roe path (R334). -/
def elemPieces (m : Cmd) (roe : Bool) (va n : Nat) : List (Nat × Nat) :=
  if roe && inTier0 m va then
    let k := min n (32 - va % 32)
    if k < n then [(va, k), (va + k, n - k)] else [(va, n)]
  else cutBlocks (n / 256 + 2) va n

def gatherPieces (c : Nat) (roe : Bool) (loc : Nat) : List (Nat × Nat) → Xfer → Option Xfer
  | [], x => some x
  | (va, k) :: ps, x =>
    match paOf x.m va with
    | none => gatherPieces c roe (loc + k) ps { x with m := failCmd x.m stAddress }
    | some pa =>
      match readBlock x.hw c x.m pa k roe (.put 0 loc 0 0 0 0) with
      | none => none
      | some (hw1, m1, none) => gatherPieces c roe (loc + k) ps { x with hw := hw1, m := m1 }
      | some (hw1, m1, some bs) =>
        match xferPut c ⟨0, 0, 0, 0, false, 0⟩ 0 loc (noteBad { x with hw := hw1, m := m1 } (localOf pa) bs) bs with
        | none => none
        | some y => gatherPieces c roe (loc + k) ps y

/-- The checks of a gather or a scatter on its scratchpad side (log 50, DEDUCED). -/
def tableCheck (hw : Hw) (c : Nat) (w : List Word) (scatter : Bool) : Nat :=
  let esz := wf w 6 63 48
  let n := wf w 6 15 0 + 1
  let isz := if wf w 5 23 23 = 1 then 8 else 4
  let el := fmtBits (wf w 6 19 16) / 8
  let rop := wf w 6 23 20
  if scatter ∧ rop ≠ 0 ∧ (esz % el ≠ 0 ∨ wf w 3 63 0 % el ≠ 0) then stOperand
  else if wf w 5 54 32 + n * esz > spadSize ∨ wf w 5 22 0 + n * isz > spadSize then stAddress
  else if touchesGated hw c (wf w 5 54 32) (n * esz) ∨ touchesGated hw c (wf w 5 22 0) (n * isz) then stAddress else 0

/-- Index i of a gather or scatter: its bytes, and the offset of its element in the table. -/
def tableIndex (hw : Hw) (c : Nat) (w : List Word) (i : Nat) : PBytes × Int :=
  let isz := if wf w 5 23 23 = 1 then 8 else 4
  let ib := spadBytes hw c (wf w 5 22 0 + i * isz) isz
  (ib, toInt (8 * isz) (leNat (ib.map (·.1))) * ((wf w 6 63 48 : Nat) : Int))

/-- Whether an element's table offset lies in the table's extent. -/
def inTable (w : List Word) (off : Int) : Bool := decide (0 ≤ off ∧ off + ((wf w 6 63 48 : Nat) : Int) ≤ ((wf w 4 63 0 : Nat) : Int))

/-- Whether a table in the core's own scratchpad window has an element in a gated bank (R202). -/
def tableGated (hw : Hw) (c : Nat) (m : Cmd) : Bool :=
  (List.range (wf m.w 6 15 0 + 1)).any (fun i =>
    let t := tableIndex hw c m.w i
    inTable m.w t.2 && ownGated hw c m (wf m.w 3 63 0 + t.2.toNat) (wf m.w 6 63 48))

/-- One element of a gather or scatter: outside the table's extent it is not moved; nor where its index is poisoned (log
50, DEDUCED). -/
def tableElem (c : Nat) (scatter : Bool) (x0 : Xfer) (i : Nat) : Option Xfer :=
  let w := x0.m.w
  let esz := wf w 6 63 48
  let isz := if wf w 5 23 23 = 1 then 8 else 4
  let x := { x0 with hw := spadScan x0.hw c (wf w 5 22 0 + i * isz) isz }
  let ib := (tableIndex x.hw c w i).1
  let off := (tableIndex x.hw c w i).2
  let loc := wf w 5 54 32 + i * esz
  let roe : Bool := featureOn x.hw 5 && decide (esz ≤ 32)
  if x.stop then some x
  else if anyPoison ib then some (noteBad x (coreWin c + wf w 5 22 0 + i * isz) ib)
  else if !inTable w off then some { x with m := failCmd x.m stAddress }
  else
    let va := wf w 3 63 0 + off.toNat
    if scatter then
      let rop := wf w 6 23 20
      let rd := spadRows x.hw c loc 0 1 esz
      let bs := atD [] rd.2 0
      let y := noteBad { x with hw := rd.1 } (coreWin c + loc) bs
      runPut c (deHow w rop (wf w 6 19 16) roe) (elemPieces x.m roe va esz) y
        (if rop = 0 then bs else poisonByElem (fmtBits (wf w 6 19 16) / 8) bs)
    else gatherPieces c roe loc (elemPieces x.m roe va esz) x

def tableBody (c : Nat) (scatter : Bool) (hw : Hw) (m : Cmd) : Option (Hw × Cmd) :=
  let st := tableCheck hw c m.w scatter
  if st ≠ 0 then some (hw, doneCmd m st)
  else if tableGated hw c m then some (hw, doneCmd m stAddress)
  else (foldN (wf m.w 6 15 0 + 1) (some ⟨hw, m, none, false, decide (0 < wf m.w 6 15 0 ∨ 4 < wf m.w 6 63 48 ∨ wf m.w 3 63 0 % 4 ≠ 0)⟩) (fun acc i => acc.bind (fun x => tableElem c scatter x i))).map
    (xferEnd c)

/-! #### DE_FILL and DE_COPY (R191, R192) -/

/-- Whether rows of a parameter set stay in range and keep to multiples of 8. -/
def unitRange (base len rows : Nat) (stride : Int) : Bool :=
  let far : Int := stride * ((rows : Int) - 1)
  base % 8 == 0 && len % 8 == 0 && stride % 8 == 0 && decide (1 ≤ rows ∧ rows ≤ 65536 ∧ 1 ≤ len ∧
    0 ≤ (base : Int) + min 0 far ∧ (base : Int) + max 0 far + (len : Int) ≤ (spadSize : Int))

/-- Whether a range of rows touches a gated bank (R202) (log 50, DEDUCED). -/
def rowsGated (hw : Hw) (c base len rows : Nat) (stride : Int) : Bool :=
  (List.range rows).any (fun r => touchesGated hw c (strideAddr base stride r spadSize) len)

/-- DE_FILL (R191) (log 50, DEDUCED). -/
def deFillBody (c : Nat) (hw : Hw) (m : Cmd) : Option (Hw × Cmd) :=
  let gv := gvOf hw c m
  let w := m.w
  let rows := gsel gv 0 (wf w 6 43 28 + 1)
  let len := gsel gv 1 (wf w 6 63 44 + 1)
  let dst := gsel gv 3 (wf w 3 63 0)
  let ds := toInt 32 (wf w 5 31 0)
  if !unitRange dst len rows ds then some (hw, doneCmd m stOperand)
  else if rowsGated hw c dst len rows ds then some (hw, doneCmd m stAddress)
  else
    let row := (List.replicate (len / 8) (leBytes 8 (wf w 4 63 0))).flatten
    some (foldN rows hw (fun h r => tilePut c m.id (tileOut dst rows len) 0 h (strideAddr dst ds r spadSize) row false),
      doneCmd { m with info := rows * len % 2 ^ 32 } stSuccess)

/-- DE_COPY (R191, R192) (log 50, DEDUCED). -/
def deCopyBody (c : Nat) (hw : Hw) (m : Cmd) : Option (Hw × Cmd) :=
  let gv := gvOf hw c m
  let w := m.w
  let rows := gsel gv 0 (wf w 6 43 28 + 1)
  let len := gsel gv 1 (wf w 6 63 44 + 1)
  let src := gsel gv 2 (wf w 3 63 0)
  let dst := gsel gv 3 (wf w 4 63 0)
  let ss := toInt 32 (wf w 5 63 32)
  let ds := toInt 32 (wf w 5 31 0)
  let meet : Bool := (List.range rows).any (fun i => (List.range rows).any (fun j =>
    let a := strideAddr src ss i spadSize
    let b := strideAddr dst ds j spadSize
    decide (a < b + len ∧ b < a + len)))
  if !unitRange dst len rows ds ∨ !unitRange src len rows ss ∨ meet then some (hw, doneCmd m stOperand)
  else if rowsGated hw c dst len rows ds ∨ rowsGated hw c src len rows ss then some (hw, doneCmd m stAddress)
  else
    (foldN rows (some ⟨hw, m, none, false, tileOut dst rows len⟩) (fun acc r => acc.bind (fun x =>
      moveRow c ⟨0, 0, 0, 0, false, 0⟩ 0 (strideAddr src ss r spadSize) 0 (strideAddr dst ds r spadSize) len x))).map (xferEnd c)

/-! #### Credits (R196, R197) -/

def deCreditPostBody (c : Nat) (hw : Hw) (m : Cmd) : Option (Hw × Cmd) :=
  let n := wf m.w 3 5 0
  let v := setBits (atD 0 m.w 4) 63 62 1
  if postErr hw c n (slotOf v) ≠ 0 then some (hw, doneCmd m stCreditRefused)
  else some (rset hw (Reg.spcCredit c n) v, doneCmd m stSuccess)

/-- One take request of a command with `left` refusals to go; its OPND holds slot and tries as the command's word 4 does
(R436) (log 97, DESIGN CHOICE) (log 89, DESIGN CHOICE). -/
def takeOnce (hw : Hw) (c : Nat) (m : Cmd) (left pa : Nat) : Hw × Cmd :=
  let slot := wf m.w 4 5 0
  if pkgOf hw pa ≠ 0 then
    let r := cmdRequest hw c m 0x07 pa 8 { noHdr with opnd := word (left * 2 ^ 16 + slot) } [] .take
    (r.1, runCmd r.2 (if r.2.status = 0 then .take left pa true else .none))
  else match locate (localOf pa) with
  | .spad t _ =>
    if !corePresent hw t then let r := dmaRefused hw c m pa 5; (r.1, doneCmd r.2 stAddress)
    else
      let r := creditTake hw t slot 0 c
      if takeGranted r.2 then (r.1, doneCmd m stSuccess) else (r.1, runCmd m (.take (left - 1) pa false))
  | _ => let r := dmaRefused hw c m pa (accessCause hw (localOf pa) 7); (r.1, doneCmd r.2 stAddress)

def deCreditTakeBody (c : Nat) (hw : Hw) (m : Cmd) : Option (Hw × Cmd) :=
  match paOf m (wf m.w 3 63 0) with
  | none => some (hw, doneCmd m stAddress)
  | some pa => if pkgOf hw pa = 0 ∧ dmaHeld hw c (localOf pa) = true then none else some (takeOnce hw c m (wf m.w 4 31 16) pa)

/-- CREDIT_TAKE_RETRY: 512 ACLK after a refusal the request is sent again, or the command ends. -/
def takeRetryRow (c q : Nat) (hw : Hw) : Hw × Answer :=
  match oldest hw c q 4 (fun m => match m.work with
    | .take _ _ false => m.stage == .started
    | _ => false) with
  | none => (hw, .notEnabled)
  | some m =>
    match m.work with
    | .take left pa _ =>
      if left = 0 then did (setCmd hw c (doneCmd { m with work := .none } stCreditTimeout))
      else if pkgOf hw pa = 0 ∧ dmaHeld hw c (localOf pa) = true then (hw, .notEnabled)
      else let r := takeOnce hw c { m with work := .none } left pa; did (setCmd r.1 c r.2)
    | _ => (hw, .notEnabled)

/-! #### DE_PREFETCH (R389) -/

/-- Lines of this package's tiers read with a hint. -/
def prefetchTier (c hint htgt : Nat) : List (Nat × Nat) → Hw → Option Hw
  | [], hw => some hw
  | (a, _) :: ps, hw =>
    match pocServe hw { mkReq .rdOnce (engAgent c) (a / 64) with hint := hint, htgt := htgt } with
    | none => none
    | some r => prefetchTier c hint htgt ps r.hw

def prefetchRuns (c hint htgt : Nat) : List (Nat × Nat) → Hw → Cmd → Option (Hw × Cmd)
  | [], hw, m => some (hw, m)
  | (va, k) :: ps, hw, m =>
    match paOf m va with
    | none => prefetchRuns c hint htgt ps hw (failCmd m stAddress)
    | some pa =>
      if pkgOf hw pa ≠ 0 then
        let r := cmdRequest hw c m 0x02 pa k { noHdr with hint := BitVec.ofNat 2 hint, htgt := BitVec.ofNat 12 htgt } [] .none
        prefetchRuns c hint htgt ps r.1 r.2
      else if isTier hw c pa then
        match prefetchTier c hint htgt (cutLines 6 (localOf pa) k) hw with
        | none => none
        | some hw1 => prefetchRuns c hint htgt ps hw1 m
      else match dmaReadLocal hw c m pa k false .none with
        | none => none
        | some r => prefetchRuns c hint htgt ps r.1 r.2.1

/-- DE_PREFETCH (R389) (log 50, DEDUCED). -/
def dePrefetchBody (c : Nat) (hw : Hw) (m : Cmd) : Option (Hw × Cmd) :=
  let n := wf m.w 4 63 0
  (prefetchRuns c (wf m.w 7 63 62) (wf m.w 7 59 48) (cutBlocks (n / 256 + 2) (wf m.w 3 63 0) n) hw m).map
    (fun r => (r.1, runCmd r.2 .none))

end Sys2Proof.Machine
end

