-- ==== Sys2Proof/Machine/Migrate.lean ====
section
/-! DEFINITION. Page migration (R322–R326, R337): DE_MIGRATE and its steps, the pools and the return ring. -/

namespace Sys2Proof.Machine

/-! #### The command (R322) -/

def migUnit (w : List Word) : Nat := wf w 5 55 48

/-- The leaf pages of a command's range, in ascending address. -/
def migPages (m : Cmd) : List Page :=
  let a := wf m.w 3 63 0
  let n := wf m.w 4 63 0
  (m.pages.filter (fun p => decide (p.va < a + n ∧ a < p.va + 2 ^ p.log2))).insertionSort (fun x y => x.va ≤ y.va)

def migCheck (hw : Hw) (m : Cmd) : Nat :=
  let a := wf m.w 3 63 0
  let n := wf m.w 4 63 0
  let ps := migPages m
  if a % 4096 ≠ 0 ∨ n % 4096 ≠ 0 ∨ n = 0 ∨ wf m.w 5 63 63 = 1 ∨ migUnit m.w > 4 ∨ (migUnit m.w ≠ 0 ∧ tierL hw = 0) ∨
      !rbit hw (Reg.pcpMretBase hw.pkg.primary) 7 ∨
      ps.any (fun p => p.log2 == 30 || decide (p.va < a ∨ a + n < p.va + 2 ^ p.log2)) then stOperand
  else if ps.any (fun p => pkgOf hw p.pa != 0) then stAddress else 0

def deMigrateBody (hw : Hw) (m : Cmd) : Option (Hw × Cmd) :=
  let st := migCheck hw m
  if st ≠ 0 then some (hw, doneCmd m st) else some (hw, runCmd { m with left := migPages m } .migEntry)

/-- The engine can take a command up now. -/
def deCan (c : Nat) (hw : Hw) (m : Cmd) : Bool :=
  match hOp m.w with
  | 0 => (deXferBody c hw m).isSome
  | 1 => (tableBody c false hw m).isSome
  | 2 => (tableBody c true hw m).isSome
  | 3 => (deFillBody c hw m).isSome
  | 4 => (deCopyBody c hw m).isSome
  | 5 => (deCreditPostBody c hw m).isSome
  | 6 => (deCreditTakeBody c hw m).isSome
  | 7 => (deMigrateBody hw m).isSome
  | _ => (dePrefetchBody c hw m).isSome

/-! #### Step 1 and the bump (R323 steps 1 and 2) -/

/-- The page as its leaf stands now. -/
def freshPage (hw : Hw) (p : Page) : Page :=
  match peek hw p.leaf 8 with
  | some (_, bs, _) =>
    let e := word (leNat bs)
    if bs.length = 8 && bit e 0 && bit e 1 then { p with pa := 4096 * bits e 63 12, entry := e } else p
  | none => p

/-- The DE command of a queue that stands at a step of its migration. -/
def migAt (hw : Hw) (c q : Nat) (p : Work → Bool) : Option Cmd :=
  oldest hw c q 4 (fun m => p m.work && m.stage == .started)

/-- MIGRATE_ENTRY_TAKEN (R323) (log 19, DEDUCED). -/
def migEntryRow (c q : Nat) (hw : Hw) : Hw × Answer :=
  match migAt hw c q (fun w => w == .migEntry) with
  | none => (hw, .notEnabled)
  | some m =>
    match m.left with
    | [] => (hw, .notEnabled)
    | p :: rest =>
      let ctx := ctxOf hw c q
      if !coreAlive hw c || decide (hw.migs.length ≥ 16) || hw.migs.any (fun e => e.ctx == ctx &&
          decide (e.page.va < p.va + 2 ^ p.log2 ∧ p.va < e.page.va + 2 ^ e.page.log2)) then (hw, .notEnabled)
      else
        let hw1 := { hw with migs := hw.migs ++ [⟨c, m.id, ctx, freshPage hw p⟩] }
        let hw2 := (presentCores hw1).foldl (fun h x => bumpCore h x ctx p.va (p.va + 2 ^ p.log2)) hw1
        did (setCmd hw2 c { m with left := rest, work := .migBump })

/-! #### The pool (R323 step 3, R326) -/

/-- The migration entry of a command. -/
def migOf (hw : Hw) (c id : Nat) : Option MigEnt := hw.migs.find? (fun e => e.core == c && e.cmd == id)

def migFree (hw : Hw) (c id : Nat) : Hw := { hw with migs := hw.migs.filter (fun e => !(e.core == c && e.cmd == id)) }

/-- Whether a local address lies in the page as it stands before the move. -/
def inOldPage (p : Page) (a : Nat) : Bool := decide (localOf p.pa ≤ a ∧ a < localOf p.pa + 2 ^ p.log2)

/-- Whether a signal to the old page is still on its way: a combining tree holds an ADD to it, a home a signal (log 52,
DEDUCED). -/
def sigHeld (hw : Hw) (p : Page) : Bool :=
  hw.trees.any (fun t => t.2.nodes.any (fun n => n.2.any (fun a => inOldPage p a.addr))) ||
  hw.mem.homes.any (fun h => inOldPage p (64 * h.1) && h.2.queue.any (fun r => r.who.any (fun w => w.2 == 0)))

/-- Whether an access to the old page is still on its way (R324): a command of the context other than a DE_MIGRATE holds
a translation of it, or a signal to it has not arrived (log 52, DEDUCED). -/
def pageHeld (hw : Hw) (ctx : Nat) (p : Page) : Bool :=
  (presentCores hw).any (fun x => (getCore hw x).cmds.any (fun m => !unstarted m && ctxOf hw x m.q == ctx &&
    kop m.w != (4, 0x07) && m.pages.any (fun y => decide (y.va < p.va + 2 ^ p.log2 ∧ p.va < y.va + 2 ^ y.log2)))) ||
  sigHeld hw p

/-- A page of a DE_MIGRATE that lies in a page just moved is where the move has put it: its own signal goes there (R324). -/
def movedPage (p : Page) (dst : Nat) (y : Page) : Page :=
  if p.va ≤ y.va ∧ y.va + 2 ^ y.log2 ≤ p.va + 2 ^ p.log2 then { y with pa := dst + (y.va - p.va) } else y

/-- The DE_MIGRATEs of a context see the move of a page. -/
def pageMoved (ctx : Nat) (p : Page) (dst : Nat) (hw : Hw) : Hw :=
  (presentCores hw).foldl (fun h x => modCore h x (fun t => { t with cmds := t.cmds.map (fun m =>
    if kop m.w = (4, 0x07) ∧ ctxOf hw x m.q = ctx ∧ !unstarted m then { m with pages := m.pages.map (movedPage p dst) } else m) })) hw

/-- Every core drains its merging-buffer entries of the context. -/
def drainCtx (ctx : Nat) : List Nat → Hw → Option Hw
  | [], hw => some hw
  | c :: cs, hw =>
    match mbDrainAll hw c ((getCore hw c).mb.filter (fun e => e.ctx == ctx)) with
    | none => none
    | some hw1 => drainCtx ctx cs (modCore hw1 c (fun t => { t with trackers := t.trackers.filter (fun k => k.ctx != ctx) }))

def poolOf (w : List Word) (p : Page) : Nat := 3 * migUnit w + (if p.log2 = 12 then 0 else if p.log2 = 16 then 1 else 2)

/-- An entry of PCP_MIG_ERR_LOG. -/
def migLog (hw : Hw) (cause pool ctx c : Nat) : Hw :=
  (logPush hw (Reg.pcpMigErrLog hw.pkg.primary) 16
    (word (2 ^ 63 + cause * 2 ^ 60 + pool % 16 * 2 ^ 48 + ctx % 65536 * 2 ^ 32 + c % 512), 0)).2

/-- The command ends at a page it does not move. -/
def migStop (hw : Hw) (c : Nat) (m : Cmd) (st : Nat) : Hw :=
  setCmd (migFree hw c m.id) c { m with work := .none, left := [], status := if m.status = 0 then st else m.status }

/-- MIGRATE_BUMP_DONE (R323) (log 52, DEDUCED). -/
def migBumpRow (c q : Nat) (hw : Hw) : Hw × Answer :=
  killPass c <| match migAt hw c q (fun w => w == .migBump) with
  | none => (hw, .notEnabled)
  | some m =>
    match migOf hw c m.id with
    | none => (hw, .notEnabled)
    | some e =>
      if pageHeld hw e.ctx e.page then (hw, .notEnabled)
      else match drainCtx e.ctx (presentCores hw) hw with
      | none => (hw, .notEnabled)
      | some hw1 =>
        let a := hw.pkg.primary
        let p := poolOf m.w e.page
        let base := rget hw1 (Reg.pcpMpoolBase a p)
        let head := rbits hw1 (Reg.pcpMpoolHead a p) 31 0
        let tail := rbits hw1 (Reg.pcpMpoolTail a p) 31 0
        if !bit base 7 ∨ head = tail then did (migStop (migLog hw1 1 p e.ctx c) c m stOperand)
        else match pocReadN 2 hw1 (engAgent c) (4096 * bits base 51 12 + 8 * (head % 2 ^ bits base 4 0)) 8 with
        | none => (hw, .notEnabled)
        | some (hw2, bs, bad) =>
          let hw3 := rsetN hw2 (Reg.pcpMpoolHead a p) ((head + 1) % 2 ^ 32)
          let dst := leNat bs
          let size := 2 ^ e.page.log2
          if bad then did (migStop (poisonUsed hw3 c 0x01 e.ctx (4096 * bits base 51 12 + 8 * (head % 2 ^ bits base 4 0))) c m stData)
          else if dst % size ≠ 0 ∨ dst + size > 0x00C000000000 ∨ t0Region hw dst ≠ migUnit m.w then
            did (migStop (migLog hw3 2 p e.ctx c) c m stAddress)
          else did (setCmd hw3 c { m with work := .migCopy dst })

/-! #### The copy and the leaf (R323 steps 4 to 7) -/

/-- Copy lines at the point of coherence; poison goes with them, and copies of them in the core's own L1 go (R257). -/
def copyLines (c src dst : Nat) : Nat → Hw → Bool → Option (Hw × Bool)
  | 0, hw, bad => some (hw, bad)
  | n + 1, hw, bad =>
    match pocRead hw (engAgent c) (src / 64 + n) false with
    | none => none
    | some (hw1, bs, p) =>
      match pocWrite (l1Drop hw1 c (64 * (dst / 64 + n)) 64) (engAgent c) (dst / 64 + n) fullMask bs p 0 0 with
      | none => none
      | some hw2 => copyLines c src dst n hw2 (bad || p)

/-- Rewrite the address of one leaf entry. -/
def leafWrite (hw : Hw) (c at_ dst : Nat) : Option Hw :=
  match pocReadN 2 hw (engAgent c) at_ 8 with
  | none => none
  | some (hw1, bs, _) =>
    pocWriteN 2 (l1Drop hw1 c at_ 8) (engAgent c) at_ (leBytes 8 (dst / 4096 * 4096 + leNat bs % 4096)) false 0 0

def leafWrites (c dst : Nat) : List Nat → Hw → Option Hw
  | [], hw => some hw
  | a :: as, hw => (leafWrite hw c a dst).bind (leafWrites c dst as)

/-- The leaf entries of a page: sixteen for 64 KiB. -/
def leafAddrs (p : Page) : List Nat :=
  if p.log2 = 16 then (List.range 16).map (fun i => p.leaf / 128 * 128 + 8 * i) else [p.leaf]

/-- MIGRATE_COPY_DONE (R323 steps 4 to 6): the copy waits for a signal that another DE_MIGRATE has sent to the old page since
the bump (R324). -/
def migCopyRow (c q : Nat) (hw : Hw) : Hw × Answer :=
  match migAt hw c q (fun w => match w with | .migCopy _ => true | _ => false) with
  | none => (hw, .notEnabled)
  | some m =>
    match m.work, migOf hw c m.id with
    | .migCopy dst, some e =>
      let size := 2 ^ e.page.log2
      let src := localOf e.page.pa
      if sigHeld hw e.page then (hw, .notEnabled)
      else match copyLines c src dst (size / 64) hw false with
      | none => (hw, .notEnabled)
      | some (hw1, bad) =>
        match leafWrites c dst (leafAddrs e.page) hw1 with
        | none => (hw, .notEnabled)
        | some hw2 =>
          let hw3 := radd (migFree (pageMoved e.ctx e.page dst hw2) c m.id) (Reg.pcpMigPageCnt hw.pkg.primary) 1
          let hw4 := if bad then poisonUsed hw3 c 0x01 e.ctx src else hw3
          let z := if e.page.log2 = 12 then 0 else if e.page.log2 = 16 then 1 else 2
          let w0 := word (z * 2 ^ 61 + migUnit m.w % 256 * 2 ^ 48 + src / 4096 % 2 ^ 40)
          let w1 := word (e.ctx % 65536 * 2 ^ 48 + e.page.va / 4096 % 2 ^ 45)
          let m0 := { m with pages := m.pages.map (movedPage e.page dst) }
          let m1 := if bad then failCmd m0 stData else m0
          did (setCmd { hw4 with migRets := hw4.migRets ++ [⟨c, m.id, w0, w1⟩] } c
            { m1 with work := .migReturn, info := (m1.info + size) % 2 ^ 32 })
    | _, _ => (hw, .notEnabled)

/-- MIGRATE_RETURN_WRITE: the oldest return entry enters the ring once it has room; its command goes on. R337 sets TAIL
to 0 with its PHASE, R227 writes entries of the first pass with PHASE 1: an entry carries the other value of TAIL's PHASE
(log 52, DEDUCED). -/
def migReturnRow (hw : Hw) : Hw × Answer :=
  match hw.migRets with
  | [] => (hw, .notEnabled)
  | r :: rest =>
    let a := hw.pkg.primary
    let base := rget hw (Reg.pcpMretBase a)
    let n := 2 ^ bits base 4 0
    let tail := rbits hw (Reg.pcpMretTail a) 31 0
    let phase := rbits hw (Reg.pcpMretTail a) 32 32
    let head := rbits hw (Reg.pcpMretHead a) 31 0
    if !bit base 7 ∨ (tail + 2 ^ 32 - head) % 2 ^ 32 ≥ n then (hw, .notEnabled)
    else
      let bs := leBytes 8 (r.w0.toNat + (1 - phase) * 2 ^ 63) ++ leBytes 8 r.w1.toNat
      let at_ := 4096 * bits base 51 12 + 16 * (tail % n)
      match pocWriteN 2 (l1Drop hw r.core at_ 16) (engAgent r.core) at_ bs false 0 0 with
      | none => (hw, .notEnabled)
      | some hw1 =>
        let next := (tail + 1) % 2 ^ 32
        let hw2 := rsetN { hw1 with migRets := rest } (Reg.pcpMretTail a)
          (next + (if next % n = 0 then 1 - phase else phase) * 2 ^ 32)
        match findCmd hw2 r.core r.cmd with
        | some m => did (setCmd hw2 r.core { m with work := if m.left = [] then .none else .migEntry })
        | none => did hw2

/-! #### The rings' registers (R337, R566) -/

/-- A write to the base register of the return ring or of a pool: it changes only while EN is 0 or with the write that
sets EN, which is checked (R337, R566) (log 52, DEDUCED). -/
def ringBaseWrite (addr entry : Nat) (v : Word) (hw : Hw) : Hw × Bool :=
  let cur := rget hw addr
  let lg := bits v 4 0
  let new := 4096 * bits v 51 12 + 128 * bits v 7 7 + lg
  if bit cur 7 then (hw, false)
  else if bit v 7 ∧ !(decide (4 ≤ lg ∧ lg ≤ 16) && ringFits (4096 * bits v 51 12) (entry * 2 ^ lg)) then (hw, false)
  else (rsetN hw addr new, bit v 7)

/-- PCP_MRET_BASE (log 52, DEDUCED). -/
def mretWrite (a : Nat) (v : Word) (hw : Hw) : Hw × Answer :=
  let r := ringBaseWrite (Reg.pcpMretBase a) 16 v hw
  did (if r.2 then rsetN (rsetN r.1 (Reg.pcpMretHead a) 0) (Reg.pcpMretTail a) 0 else r.1)

/-- PCP_MPOOL_BASE_p (log 52, DEDUCED). -/
def mpoolWrite (a p : Nat) (v : Word) (hw : Hw) : Hw × Answer := did (ringBaseWrite (Reg.pcpMpoolBase a p) 8 v hw).1

/-- A register write in the package window, answered by the primary PCP's die (R58). -/
def pkgRegWrite (by_ : Agent) (addr : Nat → Nat) (f : Nat → Hw → Hw × Answer) (hw : Hw) : Hw × Answer :=
  let a := hw.pkg.primary
  regWriteBy by_ (4 + a) (addr a) (f a) hw

end Sys2Proof.Machine
end

