-- ==== Sys2Proof/Machine/Scratch.lean ====
section
/-! DEFINITION. The scratchpad's rows: takes, ENDs and writes that arrive from outside (R193–R200), credit slots posted
and freed by register writes (R196, R198), bank gating (R201–R203). -/

namespace Sys2Proof.Machine

/-- How a scratchpad write from outside ends for its initiator (R63, R200). -/
def spadWriteRow (by_ : Agent) (c off : Nat) (data : List Byte) (hw : Hw) : Hw × Answer :=
  match spadWriteBy hw by_ c off data with
  | (w, .ok) => did w
  | (w, .violation) => (match by_ with
    | .hart h => (hartBerr w h 3 (coreWin c + off), .discarded)
    | .upstream _ => (w, .discarded)
    | .adapter _ => (w, .discarded)
    | _ => (w, .busError))
  | (w, .refused cause) => writeRefused w (c / 128) cause by_ (coreWin c + off)

/-! #### Slots by register write (R196, R198) -/

/-- SPC_CREDIT_n: STATE = 0 frees the slot, 1 or 2 posts it or shows why not, 3 is refused. -/
def creditWrite (c n : Nat) (v : Word) (hw : Hw) : Hw × Answer :=
  let x := slotOf v
  if x.state = 0 then did (rset hw (Reg.spcCredit c n) 0)
  else if x.state = 3 then did (ror hw (Reg.spcErr c) 32)
  else
    let e := postErr hw c n x
    if e ≠ 0 then did (ror hw (Reg.spcErr c) e) else did (rset hw (Reg.spcCredit c n) (v &&& 0xEFFFFFFFFFE1FFFF#64))

/-! #### Bank gating (R201–R203) -/

/-- SPC_BANK_GATE: bits set request gating; a bit cleared wakes a gated bank or cancels the request. -/
def bankGateWrite (c : Nat) (v : Word) (hw : Hw) : Hw × Answer :=
  let old := rget hw (Reg.spcBankGate c)
  let new := v &&& 0xFFFFFFFFFFFF#64
  let woken := if groupState hw (c / 8) ≤ 1 then old &&& ~~~ new &&& rget hw (Reg.spcBankOff c) else 0
  did (modCore (rset hw (Reg.spcBankGate c) new) c (fun t => { t with waking := t.waking ||| woken.setWidth 48 }))

/-- SPC_BANK_PEND: requested and not complete, or waking. -/
def bankPend (hw : Hw) (c : Nat) : Word :=
  (rget hw (Reg.spcBankGate c) &&& ~~~ rget hw (Reg.spcBankOff c)) ||| (getCore hw c).waking.setWidth 64

/-- Whether `rows` rows, each of its length, touch bank `b`. -/
def rowsInBank (b base stride rows : Nat) (len : Nat → Nat) : Bool :=
  (List.range rows).any (fun r =>
    let a := (base + r * stride) % 2 ^ 23
    len r != 0 && decide (bankOf a ≤ b ∧ b ≤ bankOf (a + len r - 1)))

/-- An access to the bank is waiting or in progress: a stream that reads its rows there, data a request will put
there, by its own address or through the core's window, a part of a tile write still to appear there, the scratchpad side of a
codec transfer (log 46, DEDUCED). -/
def bankBusy (hw : Hw) (c b : Nat) : Bool :=
  let put := fun r : FabReq => match r.dest with
    | .put 0 a _ _ _ _ => r.core == c && rowsInBank b a 0 1 (fun _ => r.len)
    | .put 2 a _ _ _ _ => r.core == c && pkgOf hw a == 0 && (match locate (localOf a) with
      | .spad t off => t == c && rowsInBank b off 0 1 (fun _ => r.len)
      | _ => false)
    | _ => false
  (getCore hw c).me.subs.any (fun e => (e.2.assigned.toList ++ e.2.inside).any (fun y =>
    rowsInBank b y.aAddr y.aStride y.m (fun _ => rowBytes y.fmtA y.k) ||
    (y.gemv && rowsInBank b y.bAddr y.bStride (storedRows (fmtMX y.fmtB) false y.k) (runBytes y.fmtB false y.n)))) ||
  hw.pkg.fabReqs.any put || hw.pkg.held.any (fun x => x.req.any put) ||
  hw.acelos.any (fun e => e.2.out.any (fun r => match r.who with
    | .engine q => put q
    | _ => false)) ||
  (getCore hw c).late.any (fun x =>
    let at_ := fun a : Nat => rowsInBank b a 0 1 (fun _ => x.data.length)
    match x.kind with
    | 0 => at_ x.addr
    | 2 => (match locate (localOf x.addr) with
      | .spad t off => t == c && at_ off
      | _ => false)
    | _ => false) ||
  (getCore hw c).cmds.any (fun m => match m.work with
    | .codec len src dst => (wf m.w 6 27 26 == 0 && rowsInBank b src 0 1 (fun _ => len)) ||
        (wf m.w 6 25 24 == 0 && rowsInBank b dst 0 1 (fun _ => len))
    | _ => false)

/-- The bytes and poison marks of a bank. -/
def bankWipe (hw : Hw) (c b : Nat) : Hw :=
  modCore hw c (fun t =>
    { t with spad := t.spad.filter (fun e => bankOf e.1 != b),
             spadBad := t.spadBad.filter (fun e => bankOf (8 * e.1) != b),
             spadFlip := t.spadFlip.filter (fun e => bankOf (8 * e.1) != b) })

end Sys2Proof.Machine
end

