-- ==== Sys2Proof/Machine/Groups.lean ====
section
/-! DEFINITION. Core groups and the cores' own control (R85–R94): halting, powering a group down and up, partitions, what
CORE_STATUS and CG_STATUS show. -/

namespace Sys2Proof.Machine

/-- A command that has started and not retired. -/
def startedCmd (m : Cmd) : Bool :=
  match m.stage with
  | .started => true
  | .done | .releasing _ => !m.unrun
  | _ => false

/-- A command in flight (R66): fetched, not retired. -/
def inFlight (m : Cmd) : Bool := m.stage != .fetching

/-- CORE_STATUS.STATE (R92): 1 RUN, 2 IDLE, 3 HALTED, 4 GATED, 5 FENCED (log 45, DEDUCED). -/
def coreState (hw : Hw) (c : Nat) : Nat :=
  let t := getCore hw c
  if coreFenced hw c then 5
  else if groupState hw (c / 8) ≠ 0 then 4
  else if rbit hw (Reg.coreCtrl c) 0 then (if t.cmds.any startedCmd || t.mb != [] then 1 else 3)
  else if t.cmds.any inFlight then 1 else 2

/-- Whether an engine has a command (R91): for code 0, R91 does not say what makes the QFE busy: its own commands in
flight and slots being read (log 90, DESIGN CHOICE). -/
def engineBusy (hw : Hw) (c e : Nat) : Bool :=
  (getCore hw c).cmds.any (fun m => if e = 0 then m.stage == .fetching || (hEng m.w == 0 && inFlight m)
    else hEng m.w == e && startedCmd m)

/-- CORE_STATUS: its reset value until the core's group first wakes (R13, R91) (log 45, DEDUCED). -/
def coreStatusView (hw : Hw) (c : Nat) : Word :=
  let t := getCore hw c
  if groupRaw hw (c / 8) = 4 ∧ !coreFenced hw c then 2
  else word (t.cmds.countP inFlight % 4096 * 2 ^ 32 + b2n (t.mb == []) * 2 ^ 16 + b2n (engineBusy hw c 0) * 2 ^ 12 +
    b2n (engineBusy hw c 4) * 2 ^ 11 + b2n (engineBusy hw c 3) * 2 ^ 10 + b2n (engineBusy hw c 2) * 2 ^ 9 +
    b2n (engineBusy hw c 1) * 2 ^ 8 + coreState hw c)

/-! #### Halting (R92) -/

/-- Every entry of the merging buffer that its home can take now drains (R77); the rest follow. -/
def mbFlush (hw : Hw) (c : Nat) : Hw :=
  (getCore hw c).mb.foldl (fun h e =>
    if (getCore h c).mb.any (fun x => x.gran == e.gran) then (mbDrain h c e).getD h else h) hw

/-- CORE_CTRL: HALT = 1 stops fetch and starts, HALT = 0 resumes and clears the cause. -/
def coreCtrlWrite (c : Nat) (v : Word) (hw : Hw) : Hw × Answer :=
  let old := rbit hw (Reg.coreCtrl c) 0
  let hw1 := rsetN hw (Reg.coreCtrl c) (bits v 0 0)
  if bit v 0 then
    let hw2 := if !old && !coreFenced hw c then rsetN hw1 (Reg.coreHaltCause c) 1 else hw1
    killPass c (did (mbFlush hw2 c))
  else did (if coreFenced hw c then hw1 else rset hw1 (Reg.coreHaltCause c) 0)

/-! #### Power states (R85–R88, R119) -/

/-- A holding array of a group that powers down starts to ramp down, once it is quiet (R119). -/
def holdOff (hw : Hw) (g : Nat) : Hw :=
  foldN 8 hw (fun h i => modCore h (8 * g + i) (fun t =>
    if t.me.hold = 1 ∧ meQuiet t.me then { t with me := { t.me with hold := 2 } } else t))

/-- CG_PWR_CTRL (log 45, DEDUCED). -/
def cgPwrWrite (g : Nat) (v : Word) (hw : Hw) : Hw × Answer :=
  if !groupPresent hw g then did hw
  else
    let hw1 := rsetN hw (Reg.cgPwrCtrl g) (bits v 1 0)
    let st := groupState hw g
    if bit v 0 then did (if st = 0 then holdOff (setGroup hw1 g 1) g else hw1)
    else if st = 1 then did (setGroup hw1 g 0)
    else if st = 2 then did (startWake hw1 g)
    else did hw1

/-- A register of a core group's block. -/
def cgRegWrite (by_ : Agent) (g addr : Nat) (f : Hw → Hw × Answer) (hw : Hw) : Hw × Answer := regWriteBy by_ (g / 16) addr f hw

/-- A core that lets its group's power go: no command in flight, no credit outstanding, the array idle, its completion
and fault records written (R86 steps 2 and 4, R119, R299). -/
def coreQuiet (hw : Hw) (c : Nat) : Bool :=
  let t := getCore hw c
  !t.cmds.any inFlight && outSlots hw c == [] && t.me.hold == 0 && t.recs == [] &&
    ((nextRecord t).isNone || !rbit hw (Reg.atuFltBase c) 7)

/-- The merging buffers of cores drain (R77, R86 step 3): none while an entry's home cannot take it. -/
def mbDrainCores : List Nat → Hw → Option Hw
  | [], hw => some hw
  | c :: cs, hw => (mbDrainAll hw c (getCore hw c).mb).bind (mbDrainCores cs)

/-- What a core loses with its power (R86, R203): a slot still being read is read again after the wake. A partition change
that was held for its commands applies once the group has none (R90). -/
def coreOff (hw : Hw) (c : Nat) : Hw :=
  let hw1 := (getCore hw c).cmds.foldl (fun h m => forget h c m.id) hw
  let hw2 := modCore hw1 c (fun t =>
    { t with cmds := [], spad := [], spadBad := [], spadFlip := [], acc := [], accBad := [], accFlip := [], l1 := [],
             side := [], pf := [], refills := [], trackers := [], missed := [], atu := [], me := MeSt.reset, waking := 0,
             staged := [], late := [] })
  partApply (rsetN hw2 (Reg.spcBankOff c) (2 ^ 48 - 1)) (c / 8)

/-- Clear registers to their reset values. -/
def rclearAll (hw : Hw) (as : List Nat) : Hw := as.foldl (fun h a => rset h a (regDefault a)) hw

/-- The registers of a core that a group wake clears (R172, R179, R194, R203, R222). -/
def wakeRegs (c : Nat) : List Nat :=
  [Reg.spcBankOff c, Reg.spcBankGate c] ++ (List.range 64).map (Reg.spcCredit c) ++ (List.range 64).map (Reg.qfeLsem c) ++
    (List.range 128).map (Reg.seG c) ++ (List.range 64).map (Reg.sePred c) ++ (List.range 8).map (Reg.veFlags c)

/-- A core after its group's wake (R88, R99, R228). -/
def coreWake (hw : Hw) (c : Nat) : Hw :=
  rclearAll (modCore hw c (fun t =>
    { t with spad := [], spadBad := [], spadFlip := [], acc := [], accBad := [], accFlip := [], l1 := [], side := [],
             pf := [], refills := [], trackers := [], missed := [], atu := [], me := MeSt.reset, waking := 0,
             queues := foldN 8 t.queues (fun qs i => mmod (fun _ => Queue.reset) qs i (fun q => { q with k := [] })) }))
    (wakeRegs c)

/-- A group's wake ends: its generator has lock again, its cores are cleared, it is ON (R88, R525). -/
def groupWake (g : Nat) (hw : Hw) : Hw :=
  let hw1 := touch (ror hw (Reg.clkPllStatus (g / 16)) (2 ^ (g % 16))) (Reg.clkAclkCnt (g / 16) (g % 16))
  foldN 8 (setGroup hw1 g 0) (fun h i => coreWake h (8 * g + i))

/-- CG_STATUS: presence, retired cores and the power state (R94) (log 45, DEDUCED). -/
def cgStatusView (hw : Hw) (g : Nat) : Word :=
  word (b2n (groupPresent hw g) * 2 ^ 63 + rbits hw (Reg.cgStatus g) 15 8 * 256 + groupState hw g)

/-! #### Partitions (R89, R90) -/

/-- CG_PART: applied at once, or held while a command of the group is in flight. -/
def cgPartWrite (g : Nat) (v : Word) (hw : Hw) : Hw × Answer :=
  if !groupPresent hw g then did hw
  else if (List.range 8).any (fun i => (getCore hw (8 * g + i)).cmds.any inFlight) then
    did (ror { hw with parts := mput (fun _ => 0) hw.parts g (bits v 5 0) } (Reg.cgPart g) 256)
  else did (rsetN hw (Reg.cgPart g) (bits v 5 0))

end Sys2Proof.Machine
end

