-- ==== Sys2Proof/Machine/Fabric.lean ====
section
/-! DEFINITION. The optical fabric's traffic (R420–R443): lanes that fail and ports that go down, link retry, sending
and receiving messages, serving requests of other packages, completing this package's own. -/

namespace Sys2Proof.Machine

/-! #### Ports that go down (R441–R443) -/

/-- Codec transfers whose last outstanding request has ended go on. -/
def codecSweep (hw : Hw) : Hw :=
  hw.cores.foldl (fun h e => e.2.cmds.foldl (fun h2 m => if m.work.isCodec then codecContinue h2 e.1 m.id else h2) h) hw

/-- Held messages are sent again. -/
def resendHeld (hw : Hw) : Hw := codecSweep (retryHeld (3 * hw.pkg.held.length) hw)

/-- A request ends, the codec transfer it fed goes on, and a request of its DE that waited for its place is sent. -/
def fabEnd (hw : Hw) (r : FabReq) (status : Nat) (data : List Byte) (old : Word) : Hw :=
  let hw1 := codecContinue (fabFinish hw r status data old) r.core r.cmd
  if hw1.pkg.held.any (fun m => m.level == 101) then resendHeld hw1 else hw1

/-- Requests that left by the port and are not acknowledged at the link complete as UNREACHABLE; of those it forwarded the
senders are told (R443). -/
def failUnacked (hw : Hw) (p : Nat) (passing : List (Nat × FabHdr)) : Hw :=
  let lost := hw.pkg.fabReqs.filter (fun r => r.port == p && !r.acked)
  let hw1 := { hw with pkg := { hw.pkg with fabReqs := hw.pkg.fabReqs.filter (fun r => !(r.port == p && !r.acked)) } }
  passing.foldl (fun h x => noRoute h x.2) (lost.foldl (fun h r => fabEnd h r stUnreachable [] 0) hw1)

/-- A live port is declared down (R441, R442): the event, the routes, new advertisements, the requests lost with it (log
55, DEDUCED). -/
def portDown (hw : Hw) (p cause : Nat) : Hw :=
  let id := partnerId hw p
  let hw1 := portEvent (backToDark hw p) 4 p id cause
  let hw2 := reroute hw hw1 (touched hw p)
  resendHeld (failUnacked (advertiseNew hw hw2) p (getPort hw p).transit)

/-- A port that loses its link: down when it carries traffic, back to DARK when it trains or is ISOLATED, a loss with its
event (R424, R427) (log 55, DEDUCED). -/
def linkLost (hw : Hw) (p cause : Nat) : Hw :=
  if pLive hw p then portDown hw p cause
  else if pState hw p = psIsolated then portEvent (backToDark hw p) 4 p (partnerId hw p) cause
  else backToDark hw p

/-- A port that carries no traffic takes the width its good lanes leave, with the event of the change (R423, R424); one that
stays as it is has none. -/
def widthChange (hw : Hw) (p : Nat) (w : Nat × Bool × Nat) : Hw :=
  let was := (pWidth hw p, rbit hw (Reg.optStatus p) 12)
  let hw1 := setWidth hw p w
  if w.1 = 1 ∧ was.1 = 2 then portEvent hw1 3 p (partnerId hw p) 0
  else if w.2.1 ∧ was.2 = false then portEvent hw1 2 p (partnerId hw p) 0 else hw1

/-- Physical lanes fail (R422, R423): recorded, and told to the partner once the management channel is open; a change of the
lanes in use passes through REPAIR; fewer than eight good lanes, or a lane of HALF, is DOWN (log 55, DEDUCED). -/
def failLanes (hw : Hw) (p : Nat) (lanes : BitVec 17) : Hw :=
  let old := laneFails hw p
  let fails := old ||| lanes
  if fails = old ∨ pState hw p < psLock then hw
  else
    let hw1 := rfield hw (Reg.optLaneFail p) 16 0 fails.toNat
    let used := lanesInUse hw p
    if pState hw p < psLink then hw1
    else
      let hw2 := mgmtOut hw1 p 3 (leBytes 3 lanes.toNat)
      let hit : Bool := used.any (fun l => bit lanes l)
      if (chooseWidth fails).1 = 0 ∨ (hit = true ∧ pWidth hw p = 1) then linkLost hw2 p 4
      else if !hit then hw2
      else if !pLive hw p then widthChange hw2 p (chooseWidth fails)
      else setPort (setPState hw2 p psRepair) p { getPort hw2 p with repairing := (getPort hw2 p).repairing ||| lanes }

/-- OPT_CTRL (R427, R441): ADMIN_DOWN takes the port down into DISABLED; cleared, the port returns to DARK. -/
def optCtrlWrite (p : Nat) (value : Word) (hw : Hw) : Hw × Answer :=
  let hw1 := rsetN hw (Reg.optCtrl p) (bits value 0 0)
  if bit value 0 then
    did (setPState (if pState hw p ≠ psDisabled then linkLost hw1 p 6 else hw1) p psDisabled)
  else if pState hw p = psDisabled ∧ hw.portsUp then did (portDark hw1 p) else did hw1

/-- OPT_CMD (R445): RETRAIN takes the port DOWN; it trains again from DARK (R427). -/
def optCmdWrite (p : Nat) (value : Word) (hw : Hw) : Hw × Answer :=
  if bit value 0 ∧ pState hw p ≠ psDisabled then did (linkLost hw p 0) else did hw

/-! #### Laser modules (R419) -/

/-- What a poll finds: outputs on only when ready and interlocked; an output that is faulty or whose light is no longer seen
fails its fiber's lanes, outputs turned off leave no light on any (log 55, DEDUCED). -/
def laserReport (m : Nat) (rep : LaserRep) (hw : Hw) : Hw :=
  let old := getLaser hw m
  let fault := rep.fault ||| rep.dark
  let hw1 := showLaser (setLaser hw m { old with
    ready := rep.ready, fault := fault, temp := rep.temp, enabled := rep.ready && rep.interlockClosed }) m
  let hw2 := foldN 4 hw1 (fun h o =>
    if bit fault o && !bit old.fault o then
      let p := 2 * m + o / 2
      failLanes (portEvent h 6 p (partnerId h p) 0) p (BitVec.ofNat 17 (maskOf (fiberLanes (o % 2))))
    else h)
  if old.enabled && !(rep.ready && rep.interlockClosed) then
    foldN 2 hw2 (fun h i => failLanes h (2 * m + i) (BitVec.allOnes 17))
  else hw2

/-! #### Link retry (R421) -/

/-- Acknowledged up to `seq`: flits leave the replay buffer, their requests count as delivered to the partner, and what
waited for room in the buffer is sent. -/
def optAcked (hw : Hw) (p seq : Nat) : Hw :=
  let t := getPort hw p
  let n := (t.txNext + 65536 - seq) % 65536
  let hw1 := setPort hw p { t with
    unacked := min t.unacked n, replays := if n < t.unacked then 0 else t.replays, fill := if n = 0 then 0 else t.fill,
    transit := t.transit.filter (fun x => decide ((t.txNext + 65536 - x.1) % 65536 ≤ n)) }
  let hw2 := { hw1 with pkg := { hw1.pkg with fabReqs := hw1.pkg.fabReqs.map (fun r =>
      if r.port = p ∧ (t.txNext + 65536 - r.seq) % 65536 > n then { r with acked := true } else r) } }
  if n < t.unacked ∧ hw2.pkg.held.any (fun m => m.level == 100) then resendHeld hw2 else hw2

/-- Credits of the virtual channels come back in the link control, so many of each as is free, and what waited for them is
sent (R438) (log 55, DEDUCED). -/
def creditsBack (hw : Hw) (p : Nat) : Hw :=
  let t := getPort hw p
  if t.vcUsed = [] then hw
  else
    let r := draw hw
    let used := foldN 4 t.vcUsed (fun u v => mmod (fun _ => 0) u v (fun n => n - nbits r.1.toNat (16 * v + 15) (16 * v) % (n + 1)))
    let hw1 := setPort r.2 p { t with vcUsed := used }
    if hw1.pkg.held.any (fun m => m.level == 100) then resendHeld hw1 else hw1

/-! #### Requests of other packages (R433, R437, R439) -/

/-- Answer a request. -/
def fabReply (hw : Hw) (h : FabHdr) (op status : Nat) (opnd : Word) (data : List Byte) : Hw :=
  fabEmit hw op (replyHdr hw h status opnd) data none

/-- A message for another package (R433, R434): a first-hop request or response is forwarded over a DIRECT entry,
anything else is refused or dropped. -/
def fabTransit (hw : Hw) (op : Nat) (h : FabHdr) (data : List Byte) : Hw :=
  let direct : Bool := (routeOf hw h.dst.toNat).kind == 2
  let fwd := fun vc : BitVec 2 => radd (fabEmit hw op { h with vc := vc } data none) (Reg.pcpFabTransitCnt hw.pkg.primary) 1
  if h.vc = 0 then (if hw.img.transit && direct then fwd 1 else fabReply hw h 0x14 3 0 [])
  else if h.vc = 1 then fabReply hw h 0x14 3 0 []
  else if h.vc = 2 ∧ direct then fwd 3
  else radd hw (Reg.pcpFabDropCnt hw.pkg.primary) 1

def fabAgent (h : FabHdr) : Agent := .remote (Fin.ofNat 4096 h.src.toNat) (Fin.ofNat 4096 h.agent.toNat)

def fabLen (h : FabHdr) : Nat := h.lenM1.toNat + 1

/-- An element of another package's DE_GATHER or DE_SCATTER takes the Roe path (R334). -/
def fabRoe (hw : Hw) (h : FabHdr) : Bool := h.elem && roePath hw h.addr.toNat (fabLen h)

/-- Why a read from outside is refused (R53, R55, R63): where several hold, an unimplemented address comes before a size
and both before a refusal (log 89, DESIGN CHOICE). -/
def readCause (hw : Hw) (ag : Agent) (c off n : Nat) : Nat :=
  if !corePresent hw c then 5 else if !spadAccess ag off n then 6 else 7

/-- Why a request of another package is refused where its range takes none of its kind: `k` unless its address names
nothing or its size is wrong (log 89, DESIGN CHOICE). -/
def fabCause (hw : Hw) (h : FabHdr) (ok : Bool) (k : Nat) : Nat :=
  accessCause hw h.addr.toNat (if ok then k else 6)

/-- A request touches bytes inside one aligned 256-byte block (R436). -/
def fabInBlock (h : FabHdr) : Bool := decide (h.addr.toNat % 256 + fabLen h ≤ 256)

/-- A refused request: the error response's record (R63) and an ERR reply. -/
def fabRefuse (hw : Hw) (h : FabHdr) (status cause : Nat) : Hw :=
  let hw1 := if status = 1 then errorResponse hw (dieOfAddr hw h.addr.toNat (fabAgent h)) cause (fabAgent h) 0 h.addr.toNat else hw
  fabReply hw1 h 0x14 status 0 []

/-- A request to a home in a fenced half that came in at the other half's port (R505) (log 44, DEDUCED). -/
def fabCut (hw : Hw) (p : Nat) (h : FabHdr) : Bool :=
  let a := h.addr.toNat
  inTier a && (let half := halfOfDie (homeDie hw a); hw.fenced.getLsbD half && p / 8 != half)

/-- A request on its way from its port to the die of its address waits while the mesh holds it (R30). -/
def fabHeld (hw : Hw) (p : Nat) (h : FabHdr) : Bool :=
  meshHeld hw (4 + p / 8) (dieOfAddr hw h.addr.toNat (fabAgent h)) h.addr.toNat

/-- A response on its way from its port to the core that awaits it, or the data it carries on the way to another die, waits
while the mesh holds it (R30). -/
def responseHeld (hw : Hw) (die : Nat) (r : FabReq) : Bool :=
  meshHeld hw die (r.core / 128) r.addr || (match r.dest with
    | .put 2 addr _ _ _ _ => pkgOf hw addr == 0 && !inTier (localOf addr) && dmaHeld hw r.core (localOf addr)
    | _ => false)

/-- A request or response arrives on a live port: served here, or in transit. -/
def fabArrive (p : Nat) (op : Nat) (h : FabHdr) (data : List Byte) (serve : Hw → Hw × Answer) (hw : Hw) : Hw × Answer :=
  if pState hw p ≠ psActive then (hw, .notEnabled)
  else if h.dst ≠ hw.img.pkgId then did (fabTransit hw op h data)
  else if decide (op < 0x10) && fabHeld hw p h then (hw, .notEnabled)
  else if decide (op < 0x07) && fabCut hw p h then did (fabRefuse hw h 1 7)
  else serve hw

/-- An atomic of another package at the home: an SE_AMO or a signal, which takes the Roe path into tier 0 (R334). -/
def fabAtomicServe (h : FabHdr) (op : AtomOp) (size : Nat) (rsp : Nat) (hw : Hw) : Hw × Answer :=
  let a := h.addr.toNat
  if unimplemented hw a then did (fabRefuse hw h 1 5)
  else if a % size ≠ 0 then did (fabRefuse hw h 1 6)
  else if !inTier a then did (fabRefuse hw h 1 8)
  else match pocServe hw { mkReq .atomic (fabAgent h) (a / 64) with op := some op, roe := roePath hw a size } with
    | some r =>
      if r.poison then
        let hw1 := if rsp = 0x12 then r.hw else signalPoisoned r.hw a h.agent.toNat h.src.toNat
        did (fabReply hw1 h 0x14 4 0 [])
      else did (fabReply r.hw h rsp 0 (if rsp = 0x12 then word (leNat (slice r.old (a % 64) size)) else 0) [])
    | none => (hw, .notEnabled)

/-! #### Responses (R439, R440) -/

/-- A response for one of this package's requests: the request ends with a status and data; one that no request
awaits came late and is discarded. -/
def fabResponse (p : Nat) (op : Nat) (h : FabHdr) (data : List Byte) (status : Nat) (old : Word) : Hw → Hw × Answer :=
  fabArrive p op h data (fun hw =>
    match hw.pkg.fabReqs.find? (fun r => r.tag == h.tag.toNat) with
    | none => (radd hw (Reg.pcpFabLateCnt hw.pkg.primary) 1, .discarded)
    | some r =>
      if responseHeld hw (4 + p / 8) r then (hw, .notEnabled)
      else
        let hw1 := { hw with pkg := { hw.pkg with fabReqs := hw.pkg.fabReqs.filter (fun x => x.tag != r.tag) } }
        did (fabEnd hw1 r status data old))

/-- The status an ERR gives its requester (R439). -/
def errStatus (st : Nat) : Nat :=
  if st = 1 then stAddress else if st = 2 then stCreditViolation else if st = 4 then stData else stUnreachable

end Sys2Proof.Machine
end

