-- ==== Sys2Proof/Machine/Cxl.lean ====
section
/-! DEFINITION. The CXL host and adapter ports (R447–R469): links, HDM decoders, MSI-X, placement windows, inbound
ordering, completions and timeouts of the downstream root port. -/

namespace Sys2Proof.Machine

/-- A link has trained: at 4, 8 or 16 lanes and 16, 32 or 64 GT/s, which training settles (R447) (log 55, DEDUCED). -/
def linkTrained (hw : Hw) (status : Nat) : Hw :=
  let r := draw hw
  rfield (rfield r.2 status 15 8 (16 * 2 ^ (bits r.1 1 0 % 3))) status 4 0 (4 * 2 ^ (bits r.1 3 2 % 3))

/-- A link is down: no rate, no width. -/
def linkDark (hw : Hw) (status : Nat) : Hw := rfield (rfield hw status 15 8 0) status 4 0 0

/-! #### The upstream port -/

/-- CXU_STATUS.MODE: 0 down, 1 CXL, 2 PCIe. -/
def cxuMode (hw : Hw) (a : Nat) : Nat := rbits hw (Reg.cxuStatus a) 49 48

/-- Append to CXU_ERR_LOG (R467). -/
def cxuLog (hw : Hw) (a cause addr : Nat) : Hw :=
  (logPush hw (Reg.cxuErrLog a) 16 (word (2 ^ 63 + cause * 2 ^ 60 + addr % 2 ^ 52), 0)).2

/-- The link fails before the completion of the host's last POP read is delivered, which is open: the entry is lost (R461)
(log 55, DEDUCED). -/
def popLost (hw : Hw) (a : Nat) : Hw :=
  match (getAcelo hw a).popOut with
  | none => hw
  | some r =>
    let d := draw hw
    let hw1 := setAcelo d.2 a { getAcelo d.2 a with popOut := none }
    if bit d.1 0 then cxuLog hw1 a 2 r else hw1

/-- The port's decoders are no longer committed: a link that is down, or trained as PCIe, presents none (R449) (log 62,
DEDUCED). -/
def hdmClear (hw : Hw) (a : Nat) : Hw :=
  rset (rset (rfield hw (Reg.cxuStatus a) 41 40 0) (Reg.cxuHdmBase0 a) 0) (Reg.cxuHdmBase1 a) 0

/-- The upstream link is lost (R451): outstanding host requests end without a response, the agent is dead at once, the
loss is logged. -/
def cxuDown (hwOld : Hw) (a : AceloId) : Hw :=
  let ag : Agent := .upstream a
  let hw0 := popLost hwOld a
  let hw := setAcelo hw0 a { getAcelo hw0 a with doe := none }
  let hw1 := setNet hw (hw.mem.net.filter (fun m => !(m.agent == ag &&
    (match m.kind with | .comp => true | .compData .. => true | .compAck => true | _ => false))))
  let hw2 := cutAgent hw1 ag true
  let hw3 := linkDark (hdmClear (rfield hw2 (Reg.cxuStatus a) 49 48 0) a) (Reg.cxuStatus a)
  let hw4 := cxuLog (radd hw3 (Reg.cxuLinkdownCnt a) 1) a 4 0
  let hw5 := ras hw4 (4 + a) clsDEG 0x0B 9 0 0xFFF 0 0 0
  if agentDead hw5 ag then hw5
  else declareDead (ras hw5 (4 + a) clsDEG 0x0B 11 0 (agentCode ag) 0 0 0) ag

/-- A write of the MSI-X table or pending bits (R450): unmasking a vector whose pending bit is set sends it (log 35,
PRESUMED). -/
def bar4Write (hw : Hw) (a off : Nat) (data : List Byte) : Hw :=
  let hw1 := foldN data.length hw (fun h i =>
    if off + i < 32768 then { h with bar4 := mput bar4Default h.bar4 (65536 * a + off + i) (atD 0 data i) } else h)
  let v := off / 16
  let pb := 65536 * a + 32768 + v / 8
  let pend := bit (mget bar4Default hw1.bar4 pb) (v % 8)
  let masked := bit (mget bar4Default hw1.bar4 (65536 * a + 16 * v + 12)) 0
  if off < 32768 ∧ pend = true ∧ masked = false then
    let cleared := mget bar4Default hw1.bar4 pb &&& ~~~ BitVec.ofNat 8 (2 ^ (v % 8))
    msixFire { hw1 with bar4 := mput bar4Default hw1.bar4 pb cleared } a v
  else hw1

/-- Bytes of BAR4/5 (log 35, PRESUMED). -/
def bar4Read (hw : Hw) (a off n : Nat) : List Byte := (List.range n).map (fun i => mget bar4Default hw.bar4 (65536 * a + off + i))

/-! #### The downstream root port: outstanding requests (R359, R463, R464) -/

/-- An entry of CXD_ERR_LOG and its interrupt (R452, R468). -/
def cxdLog (hw : Hw) (a cause rid addr : Nat) : Hw :=
  let r := logPush hw (Reg.cxdErrLog a) 16 (word (2 ^ 63 + cause * 2 ^ 60 + rid % 65536 * 2 ^ 44 + addr / 4096 % 2 ^ 44), 0)
  if r.1 then message r.2 (4 + a) (Reg.cxdMsiAddr a) (rget hw (Reg.cxdMsiData a)).toNat else r.2

/-- Take an outstanding request by its tag. -/
def takeDs (hw : Hw) (a tag : Nat) : Option (DsReq × Hw) :=
  match (getAcelo hw a).out.find? (fun r => r.tag == tag) with
  | none => none
  | some r => some (r, setAcelo hw a { getAcelo hw a with out := (getAcelo hw a).out.filter (fun x => x.tag != tag) })

/-- How an outstanding request ends when its timeout expires, by requester (R463). -/
def dsExpired (hw : Hw) (a : Nat) (r : DsReq) : Hw × Answer :=
  let hw1 := cxdLog (radd hw (Reg.cxdCtoCnt a) 1) a 1 0 r.addr
  match r.who with
  | .hartLoad h _ => (barSettle (setHart hw1 h { getHart hw1 h with ioLoad := none }) (Fin.ofNat 72 h), .loadFault)
  | .hartStore h => (hartStoreFailed hw1 h r.tag 2, .discarded)
  | .engine q => (fabEnd hw1 q stIoTimeout [] 0, .done)
  | .agent _ => (hw1, .busError)

/-- A hart's load or a PCP's access that ends where no completion answers it: the access fault or the bus error shows at its
sender (R463, R464). -/
def dsLost (hw : Hw) (r : DsReq) : Hw :=
  match r.who with
  | .hartLoad h _ => { hw with sent := hw.sent ++ [.accessFailed (.hart (Fin.ofNat 72 h))] }
  | .agent ag => { hw with sent := hw.sent ++ [.accessFailed ag] }
  | _ => hw

/-- A CXL.cache device that is removed is dead at once (R464). -/
def deviceGone (hw : Hw) (a : AceloId) : Hw :=
  let kind := rbits hw (Reg.cxdStatus a) 53 52
  if (kind = 1 ∨ kind = 2) ∧ agentDead hw (.cxlDev a) = false then declareDead hw (.cxlDev a) else hw

/-- Surprise link-down or DPC (R464): every outstanding non-posted request ends as if expired, held inbound writes are
discarded and counted, inbound traffic stops, a CXL.cache device is dead (log 75, DEDUCED). -/
def cxdDown (a : AceloId) (dpc : Bool) (hw : Hw) : Hw :=
  let t := getAcelo hw a
  let hw1 := setAcelo hw a { t with out := [], roHeld := [] }
  let hw2 := t.out.foldl (fun h r => dsLost (dsExpired h a r).1 r) hw1
  let hw3 := cxdLog hw2 a 5 0 (4096 * t.roHeld.length)
  let hw4 := linkDark (rfield hw3 (Reg.cxdStatus a) 41 40 0) (Reg.cxdStatus a)
  let hw5 := if dpc then ror hw4 (Reg.cxdStatus a) (2 ^ 33) else hw4
  deviceGone (ras hw5 (4 + a) clsDEG 0x0B 9 1 0xFFF 0 0 0) a

/-! #### Placement windows (R454–R456) -/

def winBase (hw : Hw) (a w : Nat) : Nat := (rbits hw (Reg.iotWinBase a w) 63 12) * 4096

def winLog (hw : Hw) (a w : Nat) : Nat := rbits hw (Reg.iotWinBase a w) 5 0

def winEn (hw : Hw) (a w : Nat) : Bool := rbit hw (Reg.iotWinTgt a w) 0

def winTgt (hw : Hw) (a w : Nat) : Nat := rbits hw (Reg.iotWinTgt a w) 51 12 * 4096

/-- A request lies in an enabled window whose requester filter it passes (R454, R469). -/
def winHit (hw : Hw) (a w : Nat) (q : InbReq) : Bool :=
  winEn hw a w && decide (winBase hw a w ≤ q.addr.toNat) && decide (q.addr.toNat + q.len ≤ winBase hw a w + 2 ^ winLog hw a w) &&
  ((q.rid ^^^ BitVec.ofNat 16 (rbits hw (Reg.iotWinId a w) 15 0)) &&& BitVec.ofNat 16 (rbits hw (Reg.iotWinId a w) 31 16) == 0)

/-- The windows whose target register has a value: only those can be enabled. -/
def winFind (hw : Hw) (a : Nat) (q : InbReq) : Option Nat :=
  (List.range 256).find? (fun w => winEn hw a w && winHit hw a w q)

/-- Whether the target range lies wholly in one tier, or in one core's scratchpad (R455). -/
def winTargetOk (hw : Hw) (t n : Nat) : Bool :=
  (decide (t + n ≤ 0x00C000000000)) || (decide (0x010000000000 ≤ t) && decide (t + n ≤ 0x030000000000)) ||
  (match locate t with
   | .spad c off => decide (off + n ≤ 0x600000) && corePresent hw c
   | _ => false)

/-- The window rules a write that sets EN breaks, as IOT_ERR bits (R455). -/
def winErrors (hw : Hw) (a w : Nat) (tgt : Word) : Nat :=
  let lg := winLog hw a w
  let n := 2 ^ lg
  let t := bits tgt 51 12 * 4096
  let align : Bool := decide (lg < 12) || decide (lg > 40) || decide (winBase hw a w % n ≠ 0) || decide (t % n ≠ 0)
  let target : Bool := !winTargetOk hw t n
  let overlap : Bool := (List.range 256).any (fun v => v != w && winEn hw a v &&
    decide (winBase hw a v < winBase hw a w + n) && decide (winBase hw a w < winBase hw a v + 2 ^ winLog hw a v))
  b2n target + 2 * b2n align + 4 * b2n overlap

/-- IOT_WIN_TGT_w (R455): a write that sets EN and breaks the rules is ignored and shown in IOT_ERR. -/
def iotTgtWrite (a w : Nat) (value : Word) (hw : Hw) : Hw × Answer :=
  let v := value &&& 0x000FFFFFFFFFF01F#64
  let e := winErrors hw a w v
  if bit v 0 ∧ e ≠ 0 then did (ror hw (Reg.iotErr a) e) else did (rset hw (Reg.iotWinTgt a w) v)

/-- IOT_WIN_BASE_w and IOT_WIN_ID_w (R455): ignored while EN is 1, with BUSY set. -/
def iotBaseWrite (a addr w : Nat) (value : Word) (hw : Hw) : Hw × Answer :=
  if winEn hw a w then did (ror hw (Reg.iotErr a) 8) else did (rset hw addr value)

/-- Whether an adapter write of the port that comes before the write of a number is not yet acknowledged by its home. -/
def adapterBusy (hw : Hw) (a : AceloId) (before : Nat) : Bool :=
  let waits := fun r : HReq => r.agent == .adapter a && decide (r.seq < before)
  hw.mem.homes.any (fun e => e.2.queue.any waits || (match e.2.busy with
    | some t => waits t.req
    | none => false))

/-- IOT_INV (R456): a drain of a window is submitted with the next number; it waits for the writes matched until then. -/
def iotInvWrite (a : Nat) (value : Word) (hw : Hw) : Hw × Answer :=
  let hw1 := rfield hw (Reg.iotInvSeq a) 63 32 (rbits hw (Reg.iotInvSeq a) 63 32 + 1)
  let t := getAcelo hw1 a
  did (setAcelo hw1 a { t with inv := t.inv ++ [(bits value 7 0, t.nextWr)] })

/-- Cut a request below the root port into accesses that a scratchpad accepts from an adapter: aligned ones of 1, 2, 4 or 8
bytes (R53) (log 81, DESIGN CHOICE). -/
def cutSmall (off n : Nat) : List (Nat × Nat) :=
  (cutBlocks (n / 8 + 2) off n |>.flatMap (fun b => cutSpad 64 b.1 b.2)).flatMap (fun x =>
    (List.range ((x.2 + 7) / 8)).map (fun i => (x.1 + 8 * i, min 8 (x.2 - 8 * i))))

/-- An adapter's read of a scratchpad: its bytes and their poison; none where any part of it gets the error response. -/
def smallRead (ag : Agent) (c : Nat) : List (Nat × Nat) → Hw → Option (Hw × List Byte × Bool)
  | [], hw => some (hw, [], false)
  | x :: xs, hw =>
    match spadReadBy hw ag c x.1 x.2 with
    | none => none
    | some (h, bs, p) =>
      match smallRead ag c xs h with
      | none => none
      | some (h2, bs2, p2) => some (h2, bs ++ bs2, p || p2)

/-- A request matched by window `w` as it is carried out, whatever is written to the window after that (R456). -/
def matchedWr (hw : Hw) (a w t : Nat) (req : InbReq) : HeldWr :=
  ⟨w, t, rbits hw (Reg.iotWinTgt a w) 4 3, rbits hw (Reg.iotWinId a w) 59 48, (getAcelo hw a).nextWr, req⟩

/-- A matched access to a scratchpad waits at the root port while the mesh holds its way (R30); one to a tier line waits in its
home's queue. -/
def inboundHeld (hw : Hw) (a t : Nat) : Bool :=
  match locate t with
  | .spad c _ => meshHeld hw (4 + a) (c / 128) t
  | _ => false

/-- Whether a matched write may leave the root port: one with RO = 0 once every earlier one is acknowledged (R458). -/
def inboundGoes (hw : Hw) (a : AceloId) (x : HeldWr) : Bool :=
  !inboundHeld hw a x.tgt && (x.req.ro || !adapterBusy hw a x.seq)

/-- Send a matched write to its target: tier lines at their homes, in flight where a line is blocked; a scratchpad
against a credit (R193, R455) (log 55, DEDUCED). -/
def inboundWrite (hw : Hw) (a : AceloId) (x : HeldWr) : Hw :=
  let ag : Agent := .adapter a
  let q := x.req
  match locate x.tgt with
  | .spad c off => (cutSmall off q.data.length).foldl (fun h y =>
      (spadWriteByP h ag c y.1 (slice q.data (y.1 - off) y.2) q.poison).1) hw
  | _ => (postWrites ag q.poison ⟨0, 0, x.hint, x.htgt, false, x.seq⟩ none (q.len / 64 + 2) hw x.tgt q.data).1

end Sys2Proof.Machine
end

