-- ==== Sys2Proof/Machine/Erotte.lean ====
section
/-! DEFINITION. The Erotte layer (R398–R414): modules and edges, flits with go-back-N retry, lanes that fail, repair and
retirement, lost edges, training and negotiation. Mesh traffic itself is not carried here: an access crosses the mesh
within its own command. -/

namespace Sys2Proof.Machine

/-! #### Modules and edges (R23, R399) -/

def MDir.reset : MDir := ⟨0, false, 65536, 0, [], 0, 0, []⟩
def getMDir (hw : Hw) (m : Nat) (dir : Bool) : MDir := mget (fun _ => MDir.reset) hw.ert.dirs (2 * m + b2n dir)
def setMDir (hw : Hw) (m : Nat) (dir : Bool) (v : MDir) : Hw :=
  let dirs := mput (fun _ => MDir.reset) hw.ert.dirs (2 * m + b2n dir) v
  let hw1 := { hw with ert := { hw.ert with dirs := dirs } }
  rfield hw1 (Reg.ertMStatus (rxDie m dir) m) 47 32 v.rxNext

/-- Both ends show the same STATE. -/
def setModState (hw : Hw) (m s : Nat) : Hw :=
  rfield (rfield hw (Reg.ertMStatus (rxDie m false) m) 2 0 s) (Reg.ertMStatus (rxDie m true) m) 2 0 s

/-- Failed physical lanes of a direction. -/
def modFails (hw : Hw) (m : Nat) (dir : Bool) : BitVec 68 :=
  BitVec.ofNat 68 ((rget hw (Reg.ertMFailLo (rxDie m dir) m)).toNat + 2 ^ 64 * rbits hw (Reg.ertMFailHi (rxDie m dir) m) 3 0)

def laneCount (v : BitVec 68) : Nat := (List.range 68).countP (fun l => bit v l)

/-- Record failed lanes with the counts ERT_M_STATUS shows. -/
def setFails (hw : Hw) (m : Nat) (dir : Bool) (v : BitVec 68) : Hw :=
  let d := rxDie m dir
  let hw1 := rsetN (rsetN hw (Reg.ertMFailLo d m) (v.toNat % 2 ^ 64)) (Reg.ertMFailHi d m) (v.toNat / 2 ^ 64)
  rfield hw1 (Reg.ertMStatus d m) 23 16 (laneCount v)

def setSpares (hw : Hw) (m : Nat) (dir : Bool) (n : Nat) : Hw := rfield hw (Reg.ertMStatus (rxDie m dir) m) 11 8 n
def spares (hw : Hw) (m : Nat) (dir : Bool) : Nat := rbits hw (Reg.ertMStatus (rxDie m dir) m) 11 8


/-- ERT_EDGE_e: modules at full and at half width. -/
def ertEdge (hw : Hw) (e : Nat) : Word :=
  word ((edgeModules e).countP (fun m => modState hw m == 2) * 256 + (edgeModules e).countP (fun m => modState hw m == 3))

/-- The lanes a module at half width uses: the 32 lowest good ones (R405). -/
def halfLanes (fails : BitVec 68) : List Nat := ((List.range 68).filter (fun l => !bit fails l)).take 32

/-- The lanes a module uses: at full width 64, each failing one remapped onto a spare, at half width 32 (R405). -/
def lanesUsed (hw : Hw) (m : Nat) (dir : Bool) : List Nat :=
  if modState hw m = 3 then halfLanes (modFails hw m dir)
  else ((List.range 68).filter (fun l => !bit (modFails hw m dir) l)).take 64

/-! #### Senders (R400, R402, R404) -/

/-- The link field of a flit sent on a direction: its CRC, and the acknowledgement of what the sender's die has received on
the reverse direction (R400) (log 54, DEDUCED). -/
def linkOf (hw : Hw) (m : Nat) (dir : Bool) (body : BitVec 992) : BitVec 32 :=
  let ack := BitVec.ofNat 8 (getMDir hw m (!dir)).rxNext
  Config.crc24 body ack ++ ack

/-- The receiver's check of a flit: its CRC over the routed bits and SEQ (R400, R402) (log 54, DEDUCED). -/
def crcGood (flit : MFlit) : Bool :=
  BitVec.ofNat 24 (bits flit.link 31 8) == Config.crc24 flit.body (BitVec.ofNat 8 (bits flit.link 7 0))

/-- SEQ is a number that the sender's die can have sent: what it has received on the reverse direction now, or had while
the flits of one replay buffer were on their way (R400, R402) (log 54, DEDUCED). -/
def ackSent (hw : Hw) (m : Nat) (dir : Bool) (flit : MFlit) : Bool :=
  decide (((getMDir hw m (!dir)).rxNext + 256 - bits flit.link 7 0) % 256 ≤ 96)

/-- A flit leaves on a direction of a module. -/
def ertSend (hw : Hw) (m : Nat) (dir : Bool) (k : MKind) (body : BitVec 992) : Hw :=
  { hw with sent := hw.sent ++ [.ertFlit m dir ⟨k, body, linkOf hw m dir body⟩] }

/-- The sequence number of the oldest flit in the replay buffer. -/
def bufBase (t : MDir) : Nat := (t.txNext + 65536 - t.buf.length) % 65536

/-- The sender replays its buffer, oldest first; its die counts the flits (R402, R414). -/
def replayAll (hw : Hw) (m : Nat) (dir : Bool) : Hw :=
  let t := getMDir hw m dir
  let hw1 := (t.buf.zipIdx).foldl (fun h x => ertSend h m dir (.data (BitVec.ofNat 16 (bufBase t + x.2))) x.1) hw
  radd hw1 (Reg.ertMReplayCnt (rxDie m (!dir)) m) t.buf.length

/-- Flits before a sequence number, of which only the low bits are told, are acknowledged. -/
def ackedTo (hw : Hw) (m : Nat) (dir : Bool) (modulus next : Nat) : Hw :=
  let t := getMDir hw m dir
  let n := (next + modulus - bufBase t % modulus) % modulus
  if n = 0 ∨ n > t.buf.length then hw else setMDir hw m dir { t with buf := t.buf.drop n, nakSeq := 65536, replays := 0 }

/-- A flit may be sent: the edge takes flits, its module is the one R404 names, and the replay buffer has room (R402). -/
def mayCarry (hw : Hw) (m : Nat) (dir : Bool) (body : BitVec 992) : Bool :=
  let stops := Config.flitStops body
  !edgeShut hw (modEdge m) && moduleOf hw (modEdge m) stops.1 stops.2 == some m && decide ((getMDir hw m dir).buf.length < 96)

/-- A sender numbers a flit and keeps it until it is acknowledged. -/
def ertNumber (hw : Hw) (m : Nat) (dir : Bool) (body : BitVec 992) : Hw :=
  let t := getMDir hw m dir
  setMDir hw m dir { t with txNext := (t.txNext + 1) % 65536, buf := t.buf ++ [body] }

/-- Held flits of an edge that may go now are sent, in the order they came. -/
def flushHeld (hw : Hw) (e : Nat) : Hw :=
  hw.ert.held.foldl (fun h x =>
    let stops := Config.flitStops x.body
    if x.edge ≠ e then h
    else match moduleOf h e stops.1 stops.2 with
      | some m => if mayCarry h m x.dir x.body then
          let seq := (getMDir h m x.dir).txNext
          let h1 := { h with ert := { h.ert with held := h.ert.held.erase x } }
          ertSend (ertNumber h1 m x.dir x.body) m x.dir (.data (BitVec.ofNat 16 seq)) x.body
        else h
      | none => h) hw

/-! #### Events (R408) -/

/-- A degradation step: counted, logged on the receiving die, a DEG record (log 54, DEDUCED). -/
def ertEvent (hw : Hw) (m : Nat) (dir : Bool) (step lane : Nat) : Hw :=
  let d := rxDie m dir
  let e := word (2 ^ 63 + step * 2 ^ 60 + m * 2 ^ 48 + lane % 128 * 2 ^ 40 + spares hw m dir * 2 ^ 32 +
    laneCount (modFails hw m dir) * 2 ^ 24)
  let r := logPush (radd hw (Reg.ertEvtCnt d) 1) (Reg.ertEvtLog d) 16 (e, 0)
  ras r.2 d clsDEG 0x09 9 m 0xFFF 0 0 0

/-- The list of an edge changes and is rebuilt (R404). -/
def listChanged (hw : Hw) (e : Nat) : Hw :=
  { hw with ert := { hw.ert with rebuild := hw.ert.rebuild ||| BitVec.ofNat 8 (2 ^ e) } }

def firstLane (v : BitVec 68) : Nat := ((List.range 68).find? (fun l => bit v l)).getD 0

/-- What a retired module's sender has not had acknowledged is resent over the edge's other modules once its list is rebuilt,
or over the new routes: the flits from the sequence that the receiver reports on (R407). -/
def unsent (hw : Hw) (m : Nat) (dir : Bool) : Hw :=
  let t := getMDir (ackedTo hw m dir 65536 (getMDir hw m dir).rxNext) m dir
  let more := t.buf.map (fun b => (⟨modEdge m, dir, b⟩ : MHeld))
  setMDir { hw with ert := { hw.ert with held := hw.ert.held ++ more } } m dir { t with buf := [] }

/-- A module retires, its flits wait for other ways; the last of an edge takes the edge with it, and the primary recomputes
the routes (R30, R407) (log 54, DEDUCED). -/
def retire (hw : Hw) (m : Nat) (dir : Bool) (lane : Nat) : Hw :=
  let e := modEdge m
  let hw0 := unsent (unsent hw m false) m true
  let hw1 := ertEvent (listChanged (setModState hw0 m 4) e) m dir 3 lane
  if (edgeModules e).all (fun x => modState hw1 x == 4) then
    let bitE := BitVec.ofNat 8 (2 ^ e)
    ertEvent { hw1 with ert := { hw1.ert with lost := hw1.ert.lost ||| bitE, routing := hw1.ert.routing ||| bitE } } m dir 4 0
  else hw1

/-- A module leaves the list for a repair (R406). -/
def repairStart (hw : Hw) (m : Nat) : Hw := listChanged (setModState hw m 5) (modEdge m)

/-- Lanes of a direction fail (R403, R405). -/
def ertFailLanes (hw : Hw) (m : Nat) (dir : Bool) (lanes : BitVec 68) : Hw :=
  let old := modFails hw m dir
  let new := lanes &&& ~~~ old
  if new = 0 then hw
  else
    let t := getMDir hw m dir
    let hw1 := setFails hw m dir (old ||| new)
    if modState hw m = 3 then
      (if (halfLanes old).any (fun l => bit new l) then retire hw1 m dir (firstLane new) else hw1)
    else repairStart (setMDir hw1 m dir { t with todo := t.todo ||| new }) m

/-- A width that the failed lanes of both directions allow: 2 FULL, 3 HALF, 4 none. -/
def widthOf (hw : Hw) (m : Nat) : Nat :=
  let n := max (laneCount (modFails hw m false)) (laneCount (modFails hw m true))
  if n ≤ 4 then 2 else if n ≤ 36 then 3 else 4

/-- One direction's part of a finished repair: its spares, and the step it has taken; HALF has no spares to use. -/
def repairSide (was now : Nat) (hw : Hw) (m : Nat) (dir : Bool) : Hw :=
  let t := getMDir hw m dir
  let hw1 := setMDir (setSpares hw m dir (min 4 (laneCount (modFails hw m dir)))) m dir
    { t with todo := 0, replays := 0, nakSeq := 65536, errs := t.errs.filter (fun e => !bit t.todo e.1) }
  if t.todo = 0 ∨ was = 3 then hw1
  else ertEvent hw1 m dir (if now = 3 then 2 else 1) (firstLane t.todo)

/-- The direction whose lanes end a repair in retirement: the first whose lanes in HALF's use fail, that has too few left, or
that had lanes to remap. -/
def failingDir (hw : Hw) (m : Nat) (usedFails : Bool → Bool) : Bool :=
  let by_ := fun (f : Bool → Bool) => [false, true].find? f
  ((by_ usedFails).or ((by_ (fun d => decide (laneCount (modFails hw m d) > 36))).or
    (by_ (fun d => (getMDir hw m d).todo != 0)))).getD false

/-- A repair ends (R406): the lanes that fail its training count too; the module returns at the width that is left and its
senders replay from the sequence the receivers report, or it retires (log 54, DEDUCED). -/
def repairDone (m : Nat) (ok : Bool) (failB failA : BitVec 68) (hw : Hw) : Hw :=
  let before := fun dir => modFails hw m dir &&& ~~~ (getMDir hw m dir).todo
  let was := if laneCount (before false) ≤ 4 ∧ laneCount (before true) ≤ 4 then 2 else 3
  let add := fun (h : Hw) (dir : Bool) (f : BitVec 68) =>
    let t := getMDir h m dir
    setMDir (setFails h m dir (modFails h m dir ||| f)) m dir { t with todo := t.todo ||| (f &&& ~~~ modFails h m dir) }
  let hw1 := add (add hw false failB) true failA
  let used := fun dir => decide (was = 3) && (halfLanes (before dir)).any (fun l => bit (modFails hw1 m dir) l)
  let now := widthOf hw1 m
  if !ok || used false || used true || decide (now = 4) then
    let dir := failingDir hw1 m used
    retire hw1 m dir (firstLane (getMDir hw1 m dir).todo)
  else
    let hw2 := radd (radd hw1 (Reg.ertMRepairCnt (rxDie m false) m) 1) (Reg.ertMRepairCnt (rxDie m true) m) 1
    let hw3 := listChanged (setModState hw2 m (max was now)) (modEdge m)
    let quiet : Bool := decide (was = 3) || (getMDir hw3 m false).todo == 0 && (getMDir hw3 m true).todo == 0
    let stuck := decide ((getMDir hw3 m true).replays ≥ 8)
    let hw4 := repairSide was now (repairSide was now hw3 m false) m true
    let hw5 := if quiet then ertEvent hw4 m stuck 5 0 else hw4
    let go := fun (h : Hw) (dir : Bool) => replayAll (ackedTo h m dir 65536 (getMDir h m dir).rxNext) m dir
    go (go hw5 false) true

/-! #### Flits (R400–R403) -/

/-- One charged error on each lane of a failed copy; a lane that reaches LIMIT fails. -/
def chargeLanes (hw : Hw) (m : Nat) (dir : Bool) (bad : BitVec 68) : Hw :=
  let t := getMDir hw m dir
  let hit := (List.range 68).filter (fun l => bit bad l)
  let errs := hit.foldl (fun f l => mmod (fun _ => 0) f l (· + 1)) t.errs
  let limit := rbits hw (Reg.ertCtrl (rxDie m dir)) 15 0
  let worn := hit.filter (fun l => decide (limit ≤ mget (fun _ => 0) errs l) && !bit (modFails hw m dir) l)
  let hw1 := setMDir hw m dir { t with errs := errs }
  if worn = [] then hw1 else ertFailLanes hw1 m dir (BitVec.ofNat 68 (worn.foldl (fun s l => s + 2 ^ l) 0))

/-- A good flit's SEQ acknowledges the reverse direction's flits (R400, R402); the room they leave may let held flits go. -/
def takeAck (m : Nat) (dir : Bool) (flit : MFlit) (hw : Hw) : Hw :=
  flushHeld (ackedTo hw m (!dir) 256 (bits flit.link 7 0)) (modEdge m)

/-- A replay is asked for: the sender of the reverse direction replays from the oldest flit it has not had acknowledged; the
eighth replay in a row of one flit sends the module to REPAIR (R402, R403). With nothing unacknowledged no flit is
replayed, and none is counted (log 54, DEDUCED). -/
def takeNak (m : Nat) (dir : Bool) (hw : Hw) : Hw :=
  let u := getMDir hw m (!dir)
  let n := if u.nakSeq = bufBase u then u.replays + 1 else 1
  if u.buf = [] then hw
  else
    let hw1 := replayAll (setMDir hw m (!dir) { u with nakSeq := bufBase u, replays := n }) m (!dir)
    if n ≥ 8 then repairStart hw1 m else hw1

/-- A flit can arrive: a data flit's sender has it in the replay buffer, or sends it now, and a link field that the CRC does
not show to be altered carries an acknowledgement its sender can have sent (log 54, DEDUCED). -/
def flitSent (hw : Hw) (m : Nat) (dir : Bool) (flit : MFlit) : Bool :=
  let t := getMDir hw m dir
  (ackSent hw m dir flit || !crcGood flit) &&
  match flit.kind with
  | .data seq => (seq.toNat == t.txNext && mayCarry hw m dir flit.body) ||
      t.buf[(seq.toNat + 65536 - bufBase t) % 65536]? == some flit.body
  | _ => true

/-- A data flit that its sender sends now takes its number and its place in the replay buffer. -/
def ertSent (hw : Hw) (m : Nat) (dir : Bool) (flit : MFlit) : Hw :=
  match flit.kind with
  | .data seq => if seq.toNat = (getMDir hw m dir).txNext then ertNumber hw m dir flit.body else hw
  | _ => hw

/-- A flit arrives (R402, R403): one with a bad CRC, in its routed bits (`crcOk` false) or in its link field, is dropped with
all that follow until the replay, which the next flit back asks for; the expected one is taken, and its lanes are charged
where it is the replay (log 54, DEDUCED). -/
def ertFlit (m : Nat) (dir crcOk : Bool) (flit : MFlit) (bad : BitVec 68) (hwOld : Hw) : Hw :=
  let hw := ertSent hwOld m dir flit
  let t := getMDir hw m dir
  let d := rxDie m dir
  let ask := fun h : Hw => ertSend (setMDir h m dir { t with nak := true }) m (!dir) .nak 0
  if !(crcOk && crcGood flit) then ask (radd hw (Reg.ertMCrcCnt d m) 1)
  else
    match flit.kind with
    | .data seq =>
      if seq.toNat = t.rxNext then
        let hw1 := setMDir (radd hw (Reg.ertMFlitCnt d m) 1) m dir { t with rxNext := (t.rxNext + 1) % 65536, nak := false }
        takeAck m dir flit (if t.nak then chargeLanes hw1 m dir bad else hw1)
      else if t.nak || decide ((t.rxNext + 65536 - seq.toNat) % 65536 ≤ 96) then hw
      else ask hw
    | .idle => takeAck m dir flit (radd hw (Reg.ertMFlitCnt d m) 1)
    | .nak => takeNak m dir (takeAck m dir flit (radd hw (Reg.ertMFlitCnt d m) 1))
    | .report _ _ _ => takeAck m dir flit (radd hw (Reg.ertMFlitCnt d m) 1)

/-! #### Routes around lost edges (R30) -/

/-- The dies an edge set joins to `d`, after as many rounds as there are dies. -/
def reachDies (lost : BitVec 8) : Nat → List Nat → List Nat
  | 0, ds => ds
  | n + 1, ds => reachDies lost n ((List.range 8).foldl (fun l e =>
      if bit lost e then l
      else
        let x := edgeDies e
        let l1 := if l.contains x.1 && !l.contains x.2 then x.2 :: l else l
        if l1.contains x.2 && !l1.contains x.1 then x.1 :: l1 else l1) ds)

/-- A die without a path to the primary Acelo. -/
def cutOff (hw : Hw) : Option Nat :=
  (List.range 6).find? (fun d => !(reachDies hw.ert.lost 6 [4 + hw.pkg.primary]).contains d)

/-- A flit held for a lost edge takes the new route from the die it stands on (R407): the route's first edge. -/
def newRoute (hw : Hw) (e : Nat) (x : MHeld) : MHeld :=
  let here := if x.dir then (edgeDies e).2 else (edgeDies e).1
  if x.edge ≠ e then x
  else match dieRoute hw here (Config.flitDie x.body % 6) false with
    | a :: b :: _ => match edgeOf a b with
      | some f => ⟨f, (edgeDies f).1 == b, x.body⟩
      | none => x
    | _ => x

/-- The tables that lead around every lost edge, once the recompute for `e` has ended. -/
def rerouted (e : Nat) (hw : Hw) : Hw :=
  setRoutes { hw with ert := { hw.ert with routing := hw.ert.routing &&& ~~~ BitVec.ofNat 8 (2 ^ e) } }

/-- The recompute ends: the tables lead around every lost edge and traffic flows again, the flits held for the edge on their
new routes, or the package stops for a die without a path. -/
def routesDone (e : Nat) (hw : Hw) : Hw :=
  let hw1 := rerouted e hw
  if (cutOff hw1).isSome then ras hw1 (4 + hw.pkg.primary) clsPKG 0x0D 13 0 0xFFF 0 0 0
  else
    let hw2 := { hw1 with ert := { hw1.ert with held := hw1.ert.held.map (newRoute hw1 e) } }
    foldN 8 hw2 flushHeld

/-! #### Training and negotiation (R409–R413) -/

/-- The step a direction of a trained module has taken: a spare used, or HALF (R405, R408). -/
def trainedSide (hw : Hw) (m : Nat) (dir : Bool) : Hw :=
  let f := modFails hw m dir
  if f = 0 then hw else ertEvent hw m dir (if modState hw m = 3 then 2 else 1) (firstLane f)

/-- Training of one module from the start: the lanes that fail at the edge's second and first die (R405) (log 54, DEDUCED). -/
def trainOne (bad : List (ModuleId × BitVec 68 × BitVec 68)) (dead : BitVec 64) (hw : Hw) (m : Nat) : Hw :=
  let f := ((bad.find? (fun x => x.1.val == m)).map (·.2)).getD (0, 0)
  let h1 := setFails (setFails hw m false f.1) m true f.2
  let h2 := setSpares (setSpares h1 m false (min 4 (laneCount f.1))) m true (min 4 (laneCount f.2))
  if bit dead m || widthOf h2 m == 4 then ertEvent (setModState h2 m 4) m false 3 (firstLane (f.1 ||| f.2))
  else trainedSide (trainedSide (setModState h2 m (widthOf h2 m)) m false) m true

/-- Training from the start after a cold reset. -/
def trainCold (bad : List (ModuleId × BitVec 68 × BitVec 68)) (dead : BitVec 64) (hw : Hw) : Hw :=
  foldN 64 hw (trainOne bad dead)

/-- A repair that a warm reset ends: the module stands at the width that the failures recorded so far leave it, with the step
each direction has taken, or is retired (R405, R408, R410). -/
def repairCut (hw : Hw) (m : Nat) : Hw :=
  if modState hw m ≠ 5 then hw
  else
    let before := fun dir => modFails hw m dir &&& ~~~ (getMDir hw m dir).todo
    let was := if laneCount (before false) ≤ 4 ∧ laneCount (before true) ≤ 4 then 2 else 3
    let now := max was (widthOf hw m)
    if now = 4 then
      let dir := failingDir hw m (fun _ => false)
      ertEvent (setModState hw m 4) m dir 3 (firstLane (getMDir hw m dir).todo)
    else repairSide was now (repairSide was now (setModState hw m now) m false) m true

/-- Warm training of a module at its width: the lanes that fail it are recorded, and a lane in use that fails retires it
(R405, R409). -/
def retrainOne (bad : List (ModuleId × BitVec 68 × BitVec 68)) (dead : BitVec 64) (hw : Hw) (m : Nat) : Hw :=
  let f := ((bad.find? (fun x => x.1.val == m)).map (·.2)).getD (0, 0)
  let hit := fun dir => (lanesUsed hw m dir).any (fun l => bit (if dir then f.2 else f.1) l)
  let hw1 := setFails (setFails hw m false (modFails hw m false ||| f.1)) m true (modFails hw m true ||| f.2)
  if bit dead m || hit false || hit true then
    let dir := !hit false && hit true
    ertEvent (setModState hw1 m 4) m dir 3 (firstLane (if dir then f.2 else f.1))
  else hw1

/-- After a warm reset modules keep their width and one that fails training retires; a module that the cold boot had not
trained yet is trained from the start (R409, R410) (log 54, DEDUCED). -/
def trainWarm (bad : List (ModuleId × BitVec 68 × BitVec 68)) (dead : BitVec 64) (hw : Hw) : Hw :=
  foldN 64 hw (fun h m =>
    let s := modState h m
    if s < 2 then trainOne bad dead h m else if s = 4 then h else retrainOne bad dead h m)

/-- An edge that training leaves without a live module: the step its last module takes (R408). -/
def trainLost (old lost : BitVec 8) (hw : Hw) : Hw :=
  foldN 8 hw (fun h e => if bit lost e && !bit old e then ertEvent h ((edgeModules e).getLastD 0) false 4 0 else h)

/-- Edges without a live module after training. -/
def edgesLost (hw : Hw) : BitVec 8 :=
  BitVec.ofNat 8 ((List.range 8).foldl (fun v e =>
    if (edgeModules e).all (fun m => decide (modState hw m ≠ 2 ∧ modState hw m ≠ 3)) then v + 2 ^ e else v) 0)

def capOf (hw : Hw) (d : Nat) : Word := rget hw (Reg.ertCapLocal d)

/-- RESULT of the checks of R412, in their order: 1 OK, 2 REVMIX, 3 EVER, 4 NORECORD. -/
def negotiate (hw : Hw) (missing : BitVec 6) : Nat :=
  let maj := fun d => bits (capOf hw d) 59 52
  let evs := (List.range 16).filter (fun v => (List.range 6).all (fun d =>
    decide (bits (capOf hw d) 39 36 ≤ v ∧ v ≤ bits (capOf hw d) 43 40)))
  if missing ≠ 0 then 4
  else if !((List.range 4).all (fun d => maj d == maj 0)) ||
      !([4, 5].all (fun d => maj d == maj 0 || maj d + 1 == maj 0)) then 2
  else if evs = [] then 3 else 1

/-- The version and features the six dies agree on. -/
def agreedVersion (hw : Hw) : Nat :=
  ((List.range 16).filter (fun v => (List.range 6).all (fun d =>
    decide (bits (capOf hw d) 39 36 ≤ v ∧ v ≤ bits (capOf hw d) 43 40)))).getLastD 0

def agreedFeatures (hw : Hw) : Nat := (List.range 8).foldl (fun v i => if featureOn hw i then v + 2 ^ i else v) 0

/-- Dies whose records do not come, with those that training has cut off from the primary (R412) (log 62, DEDUCED). -/
def missingDies (hw : Hw) (missing : BitVec 6) : BitVec 6 :=
  let there := reachDies hw.ert.lost 6 [4 + hw.pkg.primary]
  missing ||| BitVec.ofNat 6 ((List.range 6).foldl (fun v d => if there.contains d then v else v + 2 ^ d) 0)

/-- ERT_NEG_STATUS and ERT_CAP_d of every die: the records that came. -/
def showNegotiation (hw : Hw) (result : Nat) (missing : BitVec 6) : Hw :=
  let v := if result = 1 then agreedVersion hw * 2 ^ 32 + agreedFeatures hw else 0
  foldN 6 hw (fun h d =>
    let h1 := rsetN h (Reg.ertNegStatus d) (2 ^ 63 + result * 2 ^ 56 + v)
    foldN 6 h1 (fun w i => rset w (Reg.ertCap d i) (if bit missing i then 0 else capOf hw i)))

end Sys2Proof.Machine
end

