-- ==== Sys2Proof/Machine/MemCtl.lean ====
section
/-! DEFINITION. Memory controllers (R338–R352): margining, the traffic generator, drift tracking, link ECC, what the
bring-up of boot step 7 decides for every unit, and what a new tier partition does to kept memory. -/

namespace Sys2Proof.Machine

def Ctl.reset : Ctl := ⟨0, 0, 0, 0, [], false⟩
def getCtl (hw : Hw) (k : Nat) : Ctl := mget (fun _ => Ctl.reset) hw.ctls k
def setCtl (hw : Hw) (k : Nat) (v : Ctl) : Hw := { hw with ctls := mput (fun _ => Ctl.reset) hw.ctls k v }

/-! #### The registers of a controller: 0–11 the HBM blocks, 12–27 the LPD blocks (R350, R351) -/

def ctlDie (k : Nat) : Nat := if k < 12 then k / 3 else 4 + (k - 12) / 8
/-- The controller's number on its die. -/
def ctlIdx (k : Nat) : Nat := if k < 12 then k % 3 else (k - 12) % 8
def ctlUnits (k : Nat) : Nat := if k < 12 then 32 else 8
def ctlBase (k : Nat) : Nat := if k < 12 then Reg.hbmCfg k else Reg.lpdCfg (k - 12)
def ctlStatus (k : Nat) : Nat := ctlBase k + 0x08
def ctlMarg (k : Nat) : Nat := ctlBase k + 0x10
def ctlFail (k : Nat) : Nat := ctlBase k + 0x18
def ctlLimits (k : Nat) : Nat := ctlBase k + 0x20
def ctlErr (k : Nat) : Nat := ctlBase k + 0x30
def ctlTgCtrl (k : Nat) : Nat := ctlBase k + 0x38
def ctlTgRange (k : Nat) : Nat := ctlBase k + 0x40
def ctlTgStatus (k : Nat) : Nat := ctlBase k + 0x48
def ctlTgErrCnt (k : Nat) : Nat := ctlBase k + 0x50
def ctlTgErrLog (k : Nat) : Nat := ctlBase k + 0x58
def ctlTrackCnt (k : Nat) : Nat := ctlBase k + 0x60
def ctlInitCnt (k : Nat) : Nat := ctlBase k + 0x68
def ctlMrgT (k u : Nat) : Nat := ctlBase k + 0x100 + 0x10 * u
def ctlMrgV (k u : Nat) : Nat := ctlBase k + 0x108 + 0x10 * u

/-- STATE: 0 RESET, 1 TRAIN, 2 MARGIN, 3 QUALIFY, 4 READY, 5 FAILED, 6 TEST. -/
def ctlState (hw : Hw) (k : Nat) : Nat := rbits hw (ctlStatus k) 35 32
def setCtlState (hw : Hw) (k s : Nat) : Hw := rfield hw (ctlStatus k) 35 32 s

/-- UNIT and INST of a unit (R530). -/
def ctlUnit (k : Nat) : Nat := if k < 12 then 0x06 else 0x07
def ctlInst (k u : Nat) : Nat := if k < 12 then 32 * ctlIdx k + u else 8 * ctlIdx k + u

/-! #### Margins (R339–R341) -/

/-- Widths and heights meet the image's minima (R340); at a warm reset only the read margins are measured (R346). -/
def marginOk (hw : Hw) (readOnly : Bool) (r : MarginRes) : Bool :=
  decide (hw.img.tmin ≤ r.rdL.toNat + r.rdR.toNat) && decide (hw.img.vmin ≤ r.rdLo.toNat + r.rdHi.toNat) &&
  (readOnly || (decide (hw.img.tmin ≤ r.wrL.toNat + r.wrR.toNat) && decide (hw.img.vmin ≤ r.wrLo.toNat + r.wrHi.toNat)))

/-- Lanes remapped: none on an LPDDR5X channel; an HBM3E pseudo-channel that fails has used both repair lanes (R341). -/
def remapsOf (hw : Hw) (k : Nat) (r : MarginRes) : Nat :=
  if k ≥ 12 then 0 else if marginOk hw false r then min 2 r.remap.toNat else 2

/-- Record a unit's margins and outcome. -/
def putMargins (hw : Hw) (k : Nat) (r : MarginRes) (remap outcome : Nat) : Hw :=
  let t := r.wrR.toNat * 2 ^ 24 + r.wrL.toNat * 2 ^ 16 + r.rdR.toNat * 256 + r.rdL.toNat
  let v := r.worst.toNat * 2 ^ 48 + remap * 2 ^ 40 + outcome * 2 ^ 32 + r.wrHi.toNat * 2 ^ 24 + r.wrLo.toNat * 2 ^ 16 +
    r.rdHi.toNat * 256 + r.rdLo.toNat
  rsetN (rsetN hw (ctlMrgT k r.unit) t) (ctlMrgV k r.unit) v

/-- Record read margins only (R346). -/
def putReadMargins (hw : Hw) (k : Nat) (r : MarginRes) : Hw :=
  let hw1 := rfield hw (ctlMrgT k r.unit) 15 0 (r.rdR.toNat * 256 + r.rdL.toNat)
  rfield hw1 (ctlMrgV k r.unit) 15 0 (r.rdHi.toNat * 256 + r.rdLo.toNat)

/-! #### TEST operations (R348) -/

/-- Whether a TEST operation may start: 0, or the bit of ERR its refusal sets (log 57, DEDUCED). -/
def testRefusal (hw : Hw) (k : Nat) : Nat :=
  if ctlState hw k ≠ 6 ∨ hw.locked then 1 else if (getCtl hw k).op ≠ 0 then 2 else 0

/-- MRG_CMD. -/
def mrgCmdWrite (k : Nat) (v : Word) (hw : Hw) : Hw × Answer :=
  let e := testRefusal hw k
  if e ≠ 0 then did (ror hw (ctlErr k) e)
  else did (setCtl hw k { getCtl hw k with op := 1, unit := if k < 12 then bits v 4 0 else bits v 2 0 })

/-- A margining run in TEST ends: margins as measured; a unit that fails them is shown as FAIL (log 9, DEDUCED). -/
def marginDone (k : Nat) (r : MarginRes) (hw : Hw) : Hw :=
  let remap := rbits hw (ctlMrgV k r.unit) 41 40
  let out := if marginOk hw false r then (if remap = 0 then 1 else 2) else 4
  setCtl (putMargins hw k r remap out) k { getCtl hw k with op := 0 }

/-- The units a traffic run covers. -/
def tgUnits (k : Nat) (v : Word) : List Nat :=
  (List.range (ctlUnits k)).filter (fun u => bit v (32 + u))

/-- First byte and end of a traffic run in each unit. -/
def tgSpan (hw : Hw) (k : Nat) : Nat × Nat :=
  let v := rget hw (ctlTgRange k)
  let lo := 65536 * (if k < 12 then bits v 14 0 else bits v 17 0)
  (lo, lo + 65536 * ((if k < 12 then bits v 46 32 else bits v 49 32) + 1))

/-- The generator of a controller writes a range of units: what stood there is gone, poison too; lines of the range leave
the SLC (log 10, DEDUCED). -/
def tgOverwrite (hw : Hw) (k : Nat) (us : List Nat) (sp : Nat × Nat) : Hw :=
  let hit := fun a : Nat =>
    let u := unitOf hw a
    ctlOf hw a == k && us.contains u.1 && decide (sp.1 ≤ u.2 ∧ u.2 < sp.2)
  let hw1 := { hw with fresh := hw.fresh + 1 }
  let m := hw.mem
  let slc := (m.slc.map (fun e => (e.1, e.2.filter (fun b => !hit (128 * b.blk))))).filter (fun e => e.2 != [])
  let ts : List TgRange := us.map (fun u => ⟨k, u, sp.1, sp.2, hw.fresh⟩)
  let m1 := { m with data := m.data.filter (fun e => !hit e.1), slc := slc, traffic := ts ++ m.traffic }
  let out := fun e : Nat => !hit (64 * e)
  { hw1 with mem := { m1 with poison := m.poison.filter (fun e => out e.1), marked := m.marked.filter (fun e => out e.1) } }

/-- TG_CTRL: RUN = 1 starts the generator in TEST; anything else is stored. -/
def tgCtrlWrite (k : Nat) (v : Word) (hw : Hw) : Hw × Answer :=
  let v1 := v &&& (if k < 12 then 0xFFFFFFFF00000F31#64 else 0x000000FF00000F31#64)
  if !bit v 0 then did (rset hw (ctlTgCtrl k) v1)
  else
    let e := testRefusal hw k
    if e ≠ 0 then did (ror hw (ctlErr k) e)
    else
      let hw1 := rsetN (rsetN (rset hw (ctlTgCtrl k) v1) (ctlTgStatus k) 1) (ctlTgErrCnt k) 0
      let hw2 := if bits v1 5 4 = 1 then hw1 else tgOverwrite hw1 k (tgUnits k v1) (tgSpan hw1 k)
      did (setCtl hw2 k { getCtl hw2 k with op := 2 })

/-- A traffic run ends: DONE, the units with errors, the errors' count and the first of them in the log. -/
def tgDone (k bits_ : Nat) (errs : List TgErr) (hw : Hw) : Hw :=
  let good := errs.filter (fun e => decide (e.unit < ctlUnits k))
  let mask := (List.range 32).foldl (fun m u => if good.any (fun e => e.unit == u) then m + 2 ^ u else m) 0
  let hw1 := rsetN (rsetN hw (ctlTgStatus k) (mask * 2 ^ 32 + 2)) (ctlTgErrCnt k) bits_
  let hw2 := good.foldl (fun h e =>
    (logPush h (ctlTgErrLog k) 16 (word (2 ^ 63 + e.unit * 2 ^ 56 + e.lane.toNat * 2 ^ 48 +
      (if k < 12 then e.offset.toNat % 2 ^ 31 else e.offset.toNat)), 0)).2) hw1
  setCtl hw2 k { getCtl hw2 k with op := 0 }

/-! #### Running service (R347, R349) -/

/-- The end of a link-ECC window of a channel. -/
def leccWindow (k c count : Nat) (hw : Hw) : Hw :=
  let n := k - 12
  let hw1 := radd hw (Reg.lpdLeccCeCnt n c) count
  if count > hw.img.leccLimit then
    ras (ror hw1 (Reg.lpdLeccEvt n) (2 ^ c)) (ctlDie k) clsCE 0x07 1 (ctlInst k c) 0xFFF 0 0 0
  else hw1

/-! #### Bring-up (R338–R346) -/

/-- The margins measured at a unit: those listed for it, else the common ones; the second listing is what a full
retraining at a warm reset measures. -/
def unitRes (std : MarginRes) (res : List (CtlId × MarginRes)) (k u : Nat) : MarginRes × MarginRes :=
  match (res.filter (fun e => e.1.val == k && e.2.unit == u)).map (·.2) with
  | [] => ({ std with unit := u }, { std with unit := u })
  | [r] => (r, r)
  | r :: r2 :: _ => (r, r2)

/-- Cold bring-up of one unit: 1 PASS, 2 PASS after remap, 3 MARGINAL, 4 FAIL (R340–R343). -/
def coldOutcome (hw : Hw) (k : Nat) (r : MarginRes) (bad : Bool) : Nat :=
  let ok := marginOk hw false r
  if ok then (if hw.img.memQual = 1 ∧ bad then 4 else if remapsOf hw k r = 0 then 1 else 2)
  else if hw.img.memQual = 2 ∨ bad then 4 else 3

/-- Whether a unit goes to qualification (R341, R343). -/
def qualifies (hw : Hw) (r : MarginRes) : Bool :=
  hw.img.memQual == 1 || (hw.img.memQual != 2 && !marginOk hw false r)

/-- Cold bring-up of one unit: its margins and outcome; qualification leaves the inverse pattern over the first 1 GiB of the
unit (R342). -/
def bringCold (std : MarginRes) (res : List (CtlId × MarginRes)) (bad : List (CtlId × Nat)) (k : Nat) (hw : Hw) (u : Nat) : Hw :=
  let r := (unitRes std res k u).1
  let out := coldOutcome hw k r (bad.any (fun e => e.1.val == k && e.2 == u))
  let hw0 := if qualifies hw r then tgOverwrite hw k [u] (0, gib) else hw
  let hw1 := putMargins hw0 k r (remapsOf hw k r) out
  let hw2 := if out = 3 then
      let c := getCtl hw1 k
      let acc := mput (fun _ => (0, 0)) c.accepted u (r.rdL.toNat + r.rdR.toNat, r.rdLo.toNat + r.rdHi.toNat)
      setCtl (ror hw1 (ctlMarg k) (2 ^ u)) k { c with accepted := acc }
    else hw1
  if out = 4 then ror hw2 (ctlFail k) (2 ^ u) else hw2

/-- The check a kept unit has to pass (R346). -/
def warmOk (hw : Hw) (k : Nat) (r : MarginRes) : Bool :=
  if rbit hw (ctlMarg k) r.unit then
    let a := mget (fun _ => (0, 0)) (getCtl hw k).accepted r.unit
    decide (a.1 ≤ r.rdL.toNat + r.rdR.toNat + 4) && decide (a.2 ≤ r.rdLo.toNat + r.rdHi.toNat + 4)
  else marginOk hw true r

/-- The outcome of a unit that passes after a full retraining: as it was accepted at the last cold reset (R346). -/
def keptOutcome (hw : Hw) (k u : Nat) : Nat :=
  if rbit hw (ctlMarg k) u then 3 else if rbits hw (ctlMrgV k u) 41 40 = 0 then 1 else 2

/-- The warm bring-up of one unit: its read margins where it passes its check at once, all its margins where it is trained
again (R346). -/
def bringWarm (std : MarginRes) (res : List (CtlId × MarginRes)) (k : Nat) (hw : Hw) (u : Nat) : Hw :=
  let r := unitRes std res k u
  let flagged : Bool := decide (12 ≤ k) && rbit hw (Reg.lpdLeccEvt (k - 12)) u
  if warmOk hw k r.1 && !flagged then putReadMargins hw k r.1
  else
    let ok := warmOk hw k r.2
    let hw1 := putMargins hw k r.2 (rbits hw (ctlMrgV k u) 41 40) (if ok then keptOutcome hw k u else 4)
    if ok then hw1 else ror hw1 (ctlFail k) (2 ^ u)

/-- Capacity of a controller's device in bytes (R311). -/
def ctlBytes (k : Nat) : Nat := if k < 12 then 64 * gib else 128 * gib

/-- Every unit of every controller. -/
def bringUnits (cold : Bool) (std : MarginRes) (res : List (CtlId × MarginRes)) (bad : List (CtlId × Nat)) (hw : Hw) : Hw :=
  foldN 28 hw (fun h k =>
    let h1 := if cold then rsetN (rsetN h (ctlMarg k) 0) (ctlFail k) 0 else rsetN h (ctlFail k) 0
    foldN (ctlUnits k) h1 (fun w u => if cold then bringCold std res bad k w u else bringWarm std res k w u))

/-- Every controller stands in a state, with its device in service. -/
def allCtls (s : Nat) (hw : Hw) : Hw :=
  foldN 28 hw (fun w k => setCtlState (setCtl w k { getCtl w k with selfRef := false }) k s)

/-- Boot step 7 begins: at a cold bring-up with training, at a warm one, which keeps its training, with margining (R338,
R346, R352). -/
def bringBegin (cold : Bool) (hw : Hw) : Hw :=
  let p := if cold then 1 else 2
  rsetN (allCtls p hw) (Reg.pcpMemStatus hw.pkg.primary) (p * 2 ^ 60)

/-- Bring-up is under way: how far it has come when it is looked at is open; it only goes forward, and qualification comes
in a cold bring-up where MEM_QUAL lets units qualify (R341, R343, R346) (log 4, DESIGN CHOICE). -/
def bringOn (cold : Bool) (hw : Hw) : Hw :=
  let r := draw hw
  let p := rbits hw (Reg.pcpMemStatus hw.pkg.primary) 63 60
  let last := if cold && hw.img.memQual != 2 then 3 else 2
  let q := min last (p + r.1.toNat % 3)
  rfield (foldN 28 r.2 (fun w k => setCtlState w k q)) (Reg.pcpMemStatus hw.pkg.primary) 63 60 q

/-- The first failed unit: controller and unit. -/
def failedUnit (hw : Hw) : Option (Nat × Nat) :=
  (List.range 28).findSome? (fun k => ((List.range (ctlUnits k)).find? (fun u => rbit hw (ctlFail k) u)).map (fun u => (k, u)))

/-- PCP_MEM_STATUS for a phase (R352). -/
def memStatus (hw : Hw) (phase : Nat) : Word :=
  let m := fun (n base : Nat) (f : Nat → Bool) => (List.range n).foldl (fun v i => if f (base + i) then v + 2 ^ i else v) 0
  let marg := fun k => rget hw (ctlMarg k) != 0
  let ok := fun k => rget hw (ctlFail k) == 0
  word (phase * 2 ^ 60 + m 16 12 marg * 2 ^ 44 + m 12 0 marg * 2 ^ 32 + m 16 12 ok * 2 ^ 16 + m 12 0 ok)

/-- Zeros with valid ECC over every device (R345). -/
def memInit (hw : Hw) : Hw :=
  foldN 28 { hw with mem := { hw.mem with data := [], poison := [], marked := [], traffic := [] } }
    (fun h k => rsetN h (ctlInitCnt k) (ctlBytes k))

/-- The limits a controller shows (R350, R351). -/
def setLimits (hw : Hw) : Hw :=
  foldN 28 hw (fun h k => rsetN h (ctlLimits k)
    ((if k < 12 then 0 else hw.img.leccLimit * 2 ^ 48) + hw.img.vmin * 2 ^ 24 + hw.img.tmin * 2 ^ 16 + hw.img.memQual))

/-! #### A changed tier partition (R313) -/

/-- The address under partition (l', m') of the place that has address `a` under (l, m) (log 61, DEDUCED). -/
def reAddr (l m l' m' a : Nat) : Nat :=
  if a < 0x00C000000000 then
    let r := decodeT0 l a
    encodeT0 l' r.1 r.2.1 r.2.2
  else
    let r := decodeT1 m a
    encodeT1 m' r.1 r.2.1 r.2.2

/-- Kept memory under a new partition: what a device holds stays where it lies and has another address. -/
def reMap {α : Type} [DecidableEq α] (d : Nat → α) (f : Nat → Nat) (m : FMap α) : FMap α :=
  m.foldl (fun n e => mput d n (f e.1) e.2) []

/-- Memory kept over a change of the partition (log 61, DEDUCED). -/
def repartition (hw : Hw) (l' m' : Nat) : Hw :=
  let l := tierL hw
  let m := tierM hw
  if l = l' ∧ m = m' then hw
  else
    let hw1 := { hw with img := { hw.img with t0Local := l', t1Local := m' } }
    let line := fun x => reAddr l m l' m' (64 * x) / 64
    let data := reMap (tierDefault hw1) (reAddr l m l' m') hw.mem.data
    let poison := reMap (fun _ => false) line hw.mem.poison
    let marked := reMap (fun _ => 0) line hw.mem.marked
    { hw1 with mem := { hw1.mem with data := data, poison := poison, marked := marked } }

end Sys2Proof.Machine
end

