-- ==== Sys2Proof/Machine/Power.lean ====
section
/-! DEFINITION. Power and the Kudu governor (R470–R495): the stretch factors the paths ask for, clock targets, the slew
limiter's shares and grants, the events of the governor, energy. -/

namespace Sys2Proof.Machine

/-! #### Records -/

def GPow.reset : GPow := ⟨1, 1, 1, 1, 1, 1, false, false⟩
def getGp (hw : Hw) (g : Nat) : GPow := mget (fun _ => GPow.reset) hw.gpow g
/-- A stretch factor above 1 lets CG_STRETCH_CNT count (R494). -/
def setGp (hw : Hw) (g : Nat) (v : GPow) : Hw :=
  let k := max (max (max v.droop v.slew) (max v.peak v.brake)) (max v.sag v.cap)
  { hw with gpow := mput (fun _ => GPow.reset) hw.gpow g v
            tallied := if k > 1 then (touch hw (Reg.cgStretchCnt g)).tallied else hw.tallied }

/-- A half that has measured nothing: an even split of the default SLEW (R481). -/
def Half.reset : Half := ⟨0, 0, 0, 0, 0, 10000, 0, false, false, []⟩
def getHalf (hw : Hw) (a : Nat) : Half := mget (fun _ => Half.reset) hw.halves a
def setHalf (hw : Hw) (a : Nat) (v : Half) : Hw := { hw with halves := mput (fun _ => Half.reset) hw.halves a v }

/-- Change the requests of every present group. -/
def modGps (hw : Hw) (f : Nat → GPow → GPow) : Hw :=
  foldN 64 hw (fun h g => if groupPresent h g then setGp h g (f g (getGp h g)) else h)

/-- The stretch factor in force: the largest request (R476). -/
def kOf (p : GPow) : Nat := max (max (max p.droop p.slew) (max p.peak p.brake)) (max p.sag p.cap)

/-- CG_CLK_STATUS (R494); a fused-off group reads zero. -/
def cgClkStatus (hw : Hw) (g : Nat) : Word :=
  if !groupPresent hw g then 0
  else
    let p := getGp hw g
    word (kOf p * 2 ^ 16 + b2n (decide (p.droop > 1)) + 2 * b2n (decide (p.slew > 1)) + 4 * b2n (decide (p.peak > 1)) +
      8 * b2n (decide (p.brake > 1)) + 16 * b2n (decide (p.sag > 1)) + 32 * b2n (decide (p.cap > 1) || p.capped) +
      64 * b2n p.temp)

/-! #### Targets (R45, R476, R477) (log 58, DEDUCED) -/

def aTarget (hw : Hw) (g : Nat) : Nat := rbits hw (Reg.clkAclkMhz (g / 16) (g % 16)) 11 0
/-- A cluster's clock target (log 58, DEDUCED). -/
def hTarget (hw : Hw) (k : Nat) : Nat := rbits hw (Reg.clkHclkMhz (4 + k / 3) (k % 3)) 11 0

/-- Set a group's target, never above the image's ceiling. -/
def setATarget (hw : Hw) (g mhz : Nat) : Hw := rsetN hw (Reg.clkAclkMhz (g / 16) (g % 16)) (min mhz hw.img.aclkMax)
def setHTarget (hw : Hw) (k mhz : Nat) : Hw := rsetN hw (Reg.clkHclkMhz (4 + k / 3) (k % 3)) (min mhz hw.img.hclkMax)

/-! #### Package figures and events (R470, R490, R492) -/

/-- Package input power of the last 1 µs averages in W. -/
def pkgWatts (hw : Hw) : Nat :=
  ((getHalf hw 0).mv * (getHalf hw 0).ma + (getHalf hw 1).mv * (getHalf hw 1).ma) / 1000000

/-- Input current of both halves in mA. -/
def pkgMilliAmps (hw : Hw) : Nat := (getHalf hw 0).ma + (getHalf hw 1).ma

/-- I_SAG in mA: PL_SUS ÷ 12 V (R472). -/
def iSag (hw : Hw) : Nat := hw.pow.sus * 1000 / 12

/-- An entry of PCP_PWR_EVT_LOG with its interrupt. -/
def pwrEvent (hw : Hw) (evt info : Nat) : Hw :=
  let a := hw.pkg.primary
  let e := word (2 ^ 63 + evt * 2 ^ 58 + (getHalf hw a).mv % 65536 * 2 ^ 32 + pkgWatts hw % 65536 * 2 ^ 16 + info % 65536)
  let r := logPush (radd hw (Reg.pcpPwrEvtCnt a) 1) (Reg.pcpPwrEvtLog a) 32 (e, 0)
  message r.2 (4 + a) (Reg.pcpPwrMsiAddr a) (rget hw (Reg.pcpPwrMsiData a)).toNat

/-- LIMIT of PCP_PWR_STATUS: the limit that binds, the lowest of those in force first (log 7, DEDUCED). -/
def bindingLimit (hw : Hw) : Nat :=
  let any := fun f : GPow → Bool => (List.range 64).any (fun g => groupPresent hw g && f (getGp hw g))
  if hw.pow.brake ∧ (hw.pow.sag = false ∨ hw.img.plBrake ≤ iSag hw * (getHalf hw hw.pkg.primary).mv / 1000000) then 4
  else if hw.pow.sag then 5
  else if hw.pow.peakOn then 2
  else if any (fun p => decide (p.slew > 1)) then 3
  else if any (fun p => p.temp) then 7
  else if any (fun p => decide (p.cap > 1) || p.capped) then 6
  else if hw.pow.lack then 1 else 0

/-- PCP_PWR_STATUS. -/
def pwrStatus (hw : Hw) : Word :=
  word (b2n hw.pow.brake * 2 ^ 63 + b2n hw.pow.sag * 2 ^ 62 + bindingLimit hw * 2 ^ 56 +
    (getHalf hw hw.pkg.primary).mv % 65536 * 2 ^ 32 + pkgWatts hw % 65536)

/-- PWR_HALF_IN of an Acelo. -/
def halfIn (hw : Hw) (a : Nat) : Word :=
  word ((getHalf hw a).ma / 10 % 65536 * 2 ^ 16 + (getHalf hw a).mv % 65536)

/-! #### Sag (R471, R472) -/

/-- A sag begins: counted, logged, every group stretched (log 58, DEDUCED). -/
def sagBegin (hw : Hw) : Hw :=
  let hw1 := radd { hw with pow := { hw.pow with sag := true } } (Reg.pcpSagCnt hw.pkg.primary) 1
  modGps (pwrEvent hw1 3 0) (fun _ p => { p with sag := max p.sag 2 })

def sagEnd (hw : Hw) : Hw :=
  modGps (pwrEvent { hw with pow := { hw.pow with sag := false } } 4 0) (fun _ p => { p with sag := 1 })

/-- Each new average during a sag moves the stretch until I_SAG holds (log 58, DEDUCED). -/
def sagHold (hw : Hw) : Hw :=
  if pkgMilliAmps hw > iSag hw then modGps hw (fun _ p => { p with sag := min 8 (p.sag + 1) }) else hw

/-- What a new 1 µs average of a half's VIN shows; the cause of a supply fault where it is one (R471, R473). -/
def vinJudge (hw : Hw) (mv : Nat) : Hw × Option Nat :=
  if mv < 9000 then (hw, some 2)
  else if hw.pow.sag then (if mv ≥ 10200 then (sagEnd hw, none) else (sagHold hw, none))
  else if mv < 10000 then (sagBegin hw, none)
  else (hw, none)

/-- The half and the group of a ramp request: an array's core below 512, a group's wake above. -/
def rampHalf (e : Nat) : Nat := if e < 512 then e / 256 else (e - 512) / 32
def rampGroup (e : Nat) : Nat := if e < 512 then e / 8 else e - 512

/-- One sample of a half (R470): the tenth closes the 1 µs average and the slew limiter's interval (R481) (log 28,
DEDUCED). -/
def vinTake (hw : Hw) (a mv tenMa : Nat) : Hw × Option Nat :=
  let h := getHalf hw a
  let waiting := hw.ramps.filter (fun e => rampHalf e == a)
  let hw0 := (waiting.map rampGroup).dedup.foldl (fun w g => radd w (Reg.cgRampWaitCnt g) 1) hw
  let h1 := { h with n := h.n + 1, sumMv := h.sumMv + mv, sumMa := h.sumMa + 10 * tenMa, waited := waiting }
  if h1.n < 10 then (setHalf hw0 a h1, none)
  else
    let h2 := { h1 with n := 0, sumMv := 0, sumMa := 0, mv := h1.sumMv / 10, ma := h1.sumMa / 10,
                        used := if h.skip then h.share else 0, skip := false, issued := false }
    vinJudge (setHalf hw0 a h2) h2.mv

/-! #### The hardware paths (R478–R482) -/

/-- A half's slew limiter at a 100 ns tick (R480). -/
def slewTick (a rise : Nat) (rose : BitVec 64) (hw : Hw) : Hw :=
  let h := getHalf hw a
  let mine := fun g : Nat => decide (g / 32 = a)
  if rise > h.share * h.n / 10 then
    let raised := (List.range 64).any (fun g => groupPresent hw g && mine g && bit rose g && decide ((getGp hw g).slew < 8))
    radd (modGps hw (fun g p => if mine g && bit rose g then { p with slew := min 8 (p.slew + 1) } else p))
      (Reg.pcpSlewStallCnt hw.pkg.primary) (b2n raised)
  else modGps hw (fun g p => if mine g then { p with slew := max 1 (p.slew - 1) } else p)

/-- The primary divides SLEW by the rises of the halves (R480); once it has lost the heartbeat it sends the secondary no
limits any more, and the shares stay (R504). -/
def slewSplit (rampN rampS : Nat) (hw : Hw) : Hw :=
  if rbit hw (Reg.pcpHbStatus hw.pkg.primary) 0 then hw
  else
  let total := hw.img.slew * 1000
  let n := if rampN + rampS = 0 then total / 2 else total * rampN / (rampN + rampS)
  let n1 := min (total - 2000) (max 2000 n)
  let hw1 := setHalf hw 0 { getHalf hw 0 with share := n1 }
  setHalf hw1 1 { getHalf hw1 1 with share := total - n1 }

/-- An image's SLEW takes effect: an even split until the primary's next one, unless the shares already add up to it
(R474, R481) (log 58, DEDUCED). -/
def slewApply (hw : Hw) : Hw :=
  if (getHalf hw 0).share + (getHalf hw 1).share = hw.img.slew * 1000 then hw
  else foldN 2 hw (fun h a => setHalf h a { getHalf h a with share := hw.img.slew * 500 })


/-- What a grant takes of the share in mA, and whether it takes the next interval too; none where it has to wait
(R481). During a sag a grant also has to fit under I_SAG (R490). -/
def grantCost (hw : Hw) (a e : Nat) : Option (Nat × Bool) :=
  let h := getHalf hw a
  let cost := if e < 512 then 2000 else 4000
  if hw.pow.sag ∧ pkgMilliAmps hw + cost > iSag hw then none
  else if h.used + cost ≤ h.share then some (cost, false)
  else if e ≥ 512 ∧ h.share < 4000 ∧ h.used = 0 ∧ h.issued = false then some (h.share, true)
  else none

/-- The oldest request of a half is granted: the array ramps up, at once to HOLD where it still draws its full hold
current, or the group restores power. -/
def rampGrant (a : Nat) (hw : Hw) : Hw × Answer :=
  match hw.ramps.find? (fun e => rampHalf e == a) with
  | none => (hw, .notEnabled)
  | some e =>
    match grantCost hw a e with
    | none => (hw, .notEnabled)
    | some (cost, whole) =>
      let h := getHalf hw a
      let g := rampGroup e
      let hw1 := setHalf { hw with ramps := hw.ramps.erase e } a
        { h with used := h.used + cost, skip := whole, issued := true, waited := h.waited.erase e }
      let hw2 := radd hw1 (Reg.cgRampCnt g) 1
      let hw3 := if h.waited.contains e then radd hw2 (Reg.pcpRampWaitCnt hw.pkg.primary) 1 else hw2
      did (if e < 512 then modCore hw3 e (fun t =>
        { t with me := { t.me with granted := true, hold := if t.me.level ≥ 85 then 1 else t.me.hold } }) else hw3)

/-- The peak path (R482). -/
def peakCheck (projected : Nat) (hw : Hw) : Hw :=
  if projected > hw.img.plPeak then
    let hw1 := if hw.pow.peakOn then hw else pwrEvent { hw with pow := { hw.pow with peakOn := true } } 5 0
    modGps hw1 (fun _ p => { p with peak := min 8 (p.peak + 1) })
  else if projected * 100 < hw.img.plPeak * 98 then
    let hw1 := modGps hw (fun _ p => { p with peak := max 1 (p.peak - 1) })
    if (List.range 64).all (fun g => (getGp hw1 g).peak == 1) then { hw1 with pow := { hw1.pow with peakOn := false } } else hw1
  else hw

/-! #### The brake (R484) (log 59, DESIGN CHOICE) -/

def brakeAssert (hw : Hw) : Hw :=
  let hw1 := { hw with pow := { hw.pow with
    brake := true
    savedA := (List.range 64).map (fun g => (g, aTarget hw g))
    savedH := (List.range 6).map (fun k => (k, hTarget hw k)) } }
  let hw2 := modGps hw1 (fun _ p => { p with brake := 4 })
  let hw3 := foldN 6 hw2 (fun h k => if hTarget h k = 0 then h else setHTarget h k 800)
  pwrEvent (radd hw3 (Reg.pcpBrakeCnt hw.pkg.primary) 1) 1 0

/-- 10 µs after assertion: k = 8 where P is still above PL_BRAKE. The time to P ≤ PL_BRAKE is a free value within the
bound of R484. -/
def brakeCheck (watts : Nat) (hw : Hw) : Hw :=
  let r := draw hw
  let late : Bool := decide (watts > hw.img.plBrake)
  let lat := if late then 10 + r.1.toNat % 11 else r.1.toNat % 11
  let a := hw.pkg.primary
  let hw1 := rsetN r.2 (Reg.pcpBrakeLat a) (max (rbits hw (Reg.pcpBrakeLat a) 15 0) lat)
  if late then modGps hw1 (fun _ p => { p with brake := 8 }) else hw1

/-- Targets go back to what they were at assertion; a clock that had none then keeps the one it has been given since. -/
def brakeRelease (hw : Hw) : Hw :=
  let hw1 := hw.pow.savedA.foldl (fun h e => if e.2 = 0 then h else setATarget h e.1 e.2) hw
  let hw2 := hw.pow.savedH.foldl (fun h e => if e.2 = 0 then h else setHTarget h e.1 e.2) hw1
  pwrEvent { hw2 with pow := { hw2.pow with brake := false, savedA := [], savedH := [] } } 2 0

def brakeStep (hw : Hw) : Hw := modGps hw (fun _ p => { p with brake := max 1 (p.brake - 1) })

/-! #### The sustained loop (R483, R485) -/

/-- The partition of a group in force (R89). -/
def partOf (hw : Hw) (g : Nat) : Nat := rbits hw (Reg.cgPart g) 5 0

/-- FLOOR_MHZ of a partition: 0 reads as 1,200; never above the ceiling (R477, R492). -/
def floorOf (hw : Hw) (n : Nat) : Nat :=
  let f := rbits hw (Reg.pcpPartCap hw.pkg.primary n) 43 32
  min hw.img.aclkMax (if f = 0 then 1200 else f)

/-- Whether a partition's estimated power exceeds its cap. -/
def overCap (hw : Hw) (n : Nat) : Bool :=
  let cap := rbits hw (Reg.pcpPartCap hw.pkg.primary n) 15 0
  let est := ((List.range 64).filter (fun g => partOf hw g == n)).foldl (fun s g => s + rbits hw (Reg.cgPEst g) 23 0) 0
  cap != 0 && decide (est > cap * 1000)

/-- Whether a die is above its throttle temperature. -/
def dieHot (hw : Hw) (d : Nat) : Bool := rbit hw (Reg.pwrTj d) 16

/-- An active group: present and not OFF. -/
def activeGroup (hw : Hw) (g : Nat) : Bool := groupPresent hw g && groupState hw g != 2

/-- The halves whose targets the primary sets: its own alone once it has lost the heartbeat (R483, R504). -/
def loopHalf (hw : Hw) (a : Nat) : Bool := a == hw.pkg.primary || !rbit hw (Reg.pcpHbStatus hw.pkg.primary) 0

/-- What the loop decides for the package from the 1 s average: 0 leave, 1 lower groups above their floors, 2 lower
groups at their floors, 3 lower clusters, 4 nothing left; 5 raise clusters, 6 raise groups to their floors, 7 raise groups
to the ceiling (log 58, DEDUCED). -/
def sustainedPlan (hw : Hw) (w1s : Nat) : Nat :=
  let gs := (List.range 64).filter (fun g => activeGroup hw g && loopHalf hw (g / 32))
  let ks := (List.range 6).filter (fun k => loopHalf hw (k / 3))
  let sus := hw.pow.sus
  if w1s > sus then
    if gs.any (fun g => decide (aTarget hw g > floorOf hw (partOf hw g))) then 1
    else if gs.any (fun g => decide (aTarget hw g > 1200)) then 2
    else if ks.any (fun k => decide (hTarget hw k > 800)) then 3 else 4
  else if w1s < sus then
    if ks.any (fun k => decide (hTarget hw k < hw.img.hclkMax) && !dieHot hw (4 + k / 3)) then 5
    else if gs.any (fun g => decide (aTarget hw g < floorOf hw (partOf hw g)) && !overCap hw (partOf hw g) &&
        !dieHot hw (g / 16)) then 6
    else 7
  else 0

/-- A group's next target and cap stretch. -/
def nextA (hw : Hw) (plan g : Nat) : Nat × GPow :=
  let t := aTarget hw g
  let p := getGp hw g
  let fl := floorOf hw (partOf hw g)
  let over_ := overCap hw (partOf hw g)
  let hot := dieHot hw (g / 16)
  let t1 := if over_ then max 1200 (t - 25) else t
  let k1 := if over_ ∧ t ≤ 1200 then min 8 (p.cap + 1) else if over_ then p.cap else max 1 (p.cap - 1)
  let t2 := if plan = 1 ∧ t1 > fl then max fl (t1 - 25)
            else if plan = 2 ∧ t1 ≤ fl then max 1200 (t1 - 25) else t1
  let t3 := if hot then max 1200 (t2 - 100) else t2
  let room : Bool := !over_ && !hot && k1 == 1 && !hw.pow.brake
  let t4 := if plan = 6 ∧ room ∧ t3 < fl then min fl (t3 + 25)
            else if plan = 7 ∧ room then min hw.img.aclkMax (t3 + 25) else t3
  (t4, { p with cap := k1, capped := over_ || (p.capped && decide (t4 < fl)), temp := hot })

/-- A cluster's next target. -/
def nextH (hw : Hw) (plan k : Nat) : Nat :=
  let t := hTarget hw k
  let hot := dieHot hw (4 + k / 3)
  let t1 := if plan = 3 then max 800 (t - 100) else t
  let t2 := if hot then max 800 (t1 - 100) else t1
  if plan = 5 ∧ hot = false ∧ hw.pow.brake = false then min hw.img.hclkMax (t2 + 100) else t2

/-- One millisecond of the sustained loop: a written PCP_PL_SUS takes effect (R490), the primary's half takes its targets at once, the secondary's half is sent
them (R31), unless its heartbeat is lost (R504). -/
def sustained (w1s w2ms w1ms : Nat) (hwOld : Hw) : Hw :=
  let a := hwOld.pkg.primary
  let hw := { hwOld with pow := { hwOld.pow with sus := rbits hwOld (Reg.pcpPlSus a) 15 0 } }
  let plan := sustainedPlan hw w1s
  let hw0 := rsetN hw (Reg.pcpPAvg a) (w1s % 65536 * 2 ^ 32 + w2ms % 65536 * 2 ^ 16 + w1ms % 65536)
  let hw1 := { hw0 with pow := { hw0.pow with lack := decide (plan ≠ 0 ∧ plan < 5) } }
  let gs := (List.range 64).filter (activeGroup hw)
  let near := gs.filter (fun g => g / 32 == a)
  let far := gs.filter (fun g => g / 32 != a)
  let hw2 := near.foldl (fun h g => setATarget (setGp h g (nextA hw plan g).2) g (nextA hw plan g).1) hw1
  let hw3 := foldN 3 hw2 (fun h i => if hTarget hw (3 * a + i) = 0 then h else setHTarget h (3 * a + i) (nextH hw plan (3 * a + i)))
  if rbit hw (Reg.pcpHbStatus a) 0 then hw3
  else
    let hw4 := far.foldl (fun h g => setGp h g (nextA hw plan g).2) hw3
    { hw4 with sent := hw4.sent ++ [.targets ⟨far.map (fun g => (g, (nextA hw plan g).1)),
        (List.range 3).map (fun i => (3 * (1 - a) + i, nextH hw plan (3 * (1 - a) + i)))⟩] }

/-- The secondary applies the targets it receives to its half. -/
def targetsApply (t : Targets) (hw : Hw) : Hw :=
  let b := 1 - hw.pkg.primary
  let hw1 := (t.aclk.filter (fun e => decide (e.1 < 64 ∧ e.1 / 32 = b))).foldl (fun h e => setATarget h e.1 e.2) hw
  (t.hclk.filter (fun e => decide (e.1 < 6 ∧ e.1 / 3 = b))).foldl (fun h e => setHTarget h e.1 e.2) hw1

/-! #### Energy (R487, R488) -/

/-- A core's modelled energy under its die's trim (R488, R493). -/
def trimmed (hw : Hw) (c uj : Nat) : Nat := uj * rbits hw (Reg.pwrTrim (c / 128)) 15 0 / 4096

/-- A core's energy of an interval is divided over its queues by their busy ACLK, what the division leaves going to the
last busy queue; none busy, it is idle energy. -/
def coreEnergy (hw : Hw) (c uj : Nat) (busy : List Nat) : Hw :=
  let b := fun q => atD 0 busy q
  let total := (List.range 8).foldl (fun s q => s + b q) 0
  let g := c / 8
  let hw1 := radd (radd (radd hw (Reg.engCoreE c) uj) (Reg.cgE g) uj) (Reg.pcpPartE hw.pkg.primary (partOf hw g)) uj
  if total = 0 then radd hw1 (Reg.engIdleE c) uj
  else
    let part := fun q => uj * b q / total
    let last := ((List.range 8).filter (fun q => b q != 0)).getLastD 0
    let given := (List.range 8).foldl (fun s q => s + part q) 0
    foldN 8 hw1 (fun h q => radd h (Reg.engQE c q) (part q + if q = last then uj - given else 0))

/-- The counters of one microsecond (log 58, DEDUCED). -/
def energyUpdate (pkg : Nat) (dies : List Nat) (cores : List (CoreId × Nat × List Nat)) (hw : Hw) : Hw :=
  let a := hw.pkg.primary
  let hw1 := radd hw (Reg.pcpEPkg a) pkg
  let hw2 := foldN 6 hw1 (fun h d => radd h (Reg.pwrEDie d) (atD 0 dies d))
  let hw3 := cores.foldl (fun h e => coreEnergy h e.1 (trimmed hw e.1 e.2.1) e.2.2) hw2
  radd hw3 (Reg.pcpEUnattr a) (pkg - cores.foldl (fun s e => s + trimmed hw e.1 e.2.1) 0)

/-- What the energies of an interval have to be: no more attributed than drawn, none to an OFF group, each core once (log 58, DEDUCED). -/
def energyOk (hw : Hw) (pkg : Nat) (cores : List (CoreId × Nat × List Nat)) : Bool :=
  decide (cores.foldl (fun s e => s + trimmed hw e.1 e.2.1) 0 ≤ pkg) && cores.all (fun e => activeGroup hw (e.1 / 8)) &&
  decide (cores.map (fun e => e.1.val)).Nodup

/-- A die's trim, power, group estimates and temperature of the last millisecond (R488, R493); a die that passes its
throttle temperature logs event 7. -/
def trimUpdate (d measured modelled : Nat) (est : List (GroupId × Nat)) (tj : BitVec 16) (thr : Bool) (hw : Hw) : Hw :=
  let hw1 := rsetN (rsetN hw (Reg.pwrTrim d) (min 65535 (measured * 4096 / modelled))) (Reg.pwrDieP d) (min 65535 (measured / 1000))
  let hw2 := (est.filter (fun e => groupPresent hw e.1 && e.1.val / 16 == d)).foldl (fun h e => rsetN h (Reg.cgPEst e.1) (e.2 % 2 ^ 24)) hw1
  let hw3 := rsetN hw2 (Reg.pwrTj d) (b2n thr * 65536 + tj.toNat)
  if thr && !dieHot hw d then pwrEvent hw3 7 d else hw3

/-! #### Registers (R492) -/

/-- PCP_PL_SUS: a value outside 2,400 to the image's PL_SUS is ignored. -/
def plSusWrite (v : Word) (hw : Hw) : Hw × Answer :=
  let w := bits v 15 0
  let a := hw.pkg.primary
  if w < 2400 ∨ w > hw.img.plSus then did hw
  else if w = rbits hw (Reg.pcpPlSus a) 15 0 then did hw
  else did (pwrEvent (rsetN hw (Reg.pcpPlSus a) w) 6 w)

/-- PCP_PART_CAP_n: values outside the ranges are ignored (log 8, DESIGN CHOICE). -/
def partCapWrite (n : Nat) (v : Word) (hw : Hw) : Hw × Answer :=
  let f := bits v 43 32
  let c := bits v 15 0
  if (f ≠ 0 ∧ (f < 1200 ∨ f > 2400)) ∨ (c ≠ 0 ∧ (c < 10 ∨ c > 3600)) then did hw
  else did (rsetN hw (Reg.pcpPartCap hw.pkg.primary n) (f * 2 ^ 32 + c))

end Sys2Proof.Machine
end

