-- ==== Sys2Proof/Machine/Fence.lean ====
section
/-! DEFINITION. Fencing a half (R505): the four steps a secondary that has lost its primary applies to its own half, and
both Acelos to theirs at a package stop (R526). -/

namespace Sys2Proof.Machine

/-- A hart of the half stops as for a hart stop (R364): what its store buffer and caches hold goes out first. -/
def hartFence (hw : Hw) (h : Nat) : Hw :=
  let t := getHart hw h
  if t.stopped then hw else barSettle (setHart hw h { t with bar := some (.stop false) }) (Fin.ofNat 72 h)

/-- A port sends the MGMT close and enters DISABLED (log 55, DEDUCED). -/
def portFence (hw : Hw) (p : Nat) : Hw :=
  if pState hw p = psDisabled then hw
  else
    setPState (linkLost (if psLink ≤ pState hw p then mgmtOut hw p 4 [] else hw) p 6) p psDisabled

/-- The fence of Acelo `a`'s half, in the order of R505: its cores start nothing more, its harts stop, its ports close,
its memory stands in self-refresh. -/
def fenceHalf (a : AceloId) (hw : Hw) : Hw :=
  if hw.fenced.getLsbD a.val then hw
  else
    let hw1 := { hw with fenced := hw.fenced ||| BitVec.ofNat 2 (2 ^ a.val) }
    let hw2 := foldN 36 hw1 (fun h i => hartFence h (36 * a + i))
    let hw3 := foldN 8 hw2 (fun h i => portFence h (8 * a + i))
    let hw4 := if rbits hw3 (Reg.cxdStatus a) 41 40 = 0 then hw3 else cxdDown a false hw3
    foldN 28 hw4 (fun h k => if halfOfDie (ctlDie k) = a.val then setCtl h k { getCtl h k with selfRef := true } else h)

/-- What an effect that has started a package stop brings about (R526). -/
def stopAll (old hw : Hw) : Hw :=
  if hw.stop && !old.stop then fenceHalf 1 (fenceHalf 0 hw) else hw

/-- What follows from an effect within its command. -/
def finish (old hw : Hw) : Hw :=
  let hw1 := settle 3 (stopAll old hw)
  settle 3 (stopAll (if hw.stop then hw else old) hw1)

end Sys2Proof.Machine
end

