-- ==== Sys2Proof/Machine/Image.lean ====
section
/-! DEFINITION. The configuration image (R496–R502): header and slot checks, records, the ranges of their fields, the
values they put in force. -/

namespace Sys2Proof.Machine

/-- `n` bytes from offset `o` as a little-endian number. -/
def fieldAt (b : List Byte) (o n : Nat) : Nat := leNat ((b.drop o).take n)

/-- Bytes of the signature at the end of an image (R497). -/
def sigBytes : Nat := 16224

/-- Checks 1–4 of R501 on one slot: 0 passed, else the DETAIL code of R510 (log 12, DEDUCED). -/
def slotCheck (revoked : BitVec 4) (fuseSvn : Nat) (slot : Option (List Byte)) : Nat :=
  match slot with
  | none => 1
  | some b =>
    let len := fieldAt b 8 4
    let key := (b.drop 32).take 48
    let idx := fieldAt b 20 1
    if fieldAt b 0 4 ≠ 0x00494C4D ∨ fieldAt b 4 2 ≠ 1 ∨ len ≤ 96 + sigBytes ∨ 0x800000 < len ∨ b.length < len then 2
    else if 3 < idx ∨ bit revoked idx ∨ sha256 key ≠ Config.fuseKey idx then 3
    else if fieldAt b 16 4 < fuseSvn then 4
    else if Config.slhVerify192 key (b.take (len - sigBytes)) ((b.take len).drop (len - sigBytes)) then 0 else 5

/-- One record (R497): tag, CRITICAL, body, its bytes as they stand in the image. -/
structure ImgRec where
  tag  : Nat
  crit : Bool
  body : List Byte
  raw  : List Byte
  deriving DecidableEq, Repr

/-- The records of a record area; none with the tag at which parsing fails. -/
def parseRecs : Nat → List Byte → Except Nat (List ImgRec)
  | 0, b => if b = [] then .ok [] else .error (fieldAt b 0 2)
  | n + 1, b =>
    let len := fieldAt b 4 4
    let pad := (len + 7) / 8 * 8
    if b.length < 8 + pad then .error (fieldAt b 0 2)
    else match parseRecs n (b.drop (8 + pad)) with
      | .error t => .error t
      | .ok rs => .ok (⟨fieldAt b 0 2, fieldAt b 2 2 % 2 == 1, (b.drop 8).take len, b.take (8 + pad)⟩ :: rs)

/-- The first field, numbered from 1, whose range test fails. -/
def firstFail (tests : List Bool) : Option Nat := ((tests.zipIdx 1).find? (fun t => !t.1)).map (·.2)

/-- The range tests of the fabric levels in force (R425). -/
def levelTests (b : List Byte) : List Bool :=
  let n := fieldAt b 5 1
  (List.range (min n 4)).flatMap (fun i =>
    let s := fieldAt b (20 + 4 * i) 1
    [decide (s ≤ 12) && (i == 0 || decide (fieldAt b (20 + 4 * (i - 1)) 1 < s)) && (i + 1 != n || s == 12),
     decide (1 ≤ fieldAt b (21 + 4 * i) 1 ∧ fieldAt b (21 + 4 * i) 1 ≤ 64),
     decide (1 ≤ fieldAt b (22 + 4 * i) 1 ∧ fieldAt b (22 + 4 * i) 1 ≤ 64)])

/-- The FIELD number a record breaks (R498, R501): 0 for its length; reserved bytes have no number (log 12, DEDUCED). -/
def recordBad (r : ImgRec) : Option Nat :=
  let b := r.body
  let f := fieldAt b
  let len := b.length
  let check := fun (ok : Bool) (ts : List Bool) => if ok then firstFail ts else some 0
  match r.tag with
  | 1 => check (len == 8) [decide (f 0 1 ≤ 1)]
  | 2 => check (len == 8) [decide (1200 ≤ f 0 2 ∧ f 0 2 ≤ 2400), decide (800 ≤ f 2 2 ∧ f 2 2 ≤ 3400),
      decide (115200 ≤ f 4 4 ∧ f 4 4 ≤ 3000000)]
  | 3 => check (len == 8) [decide (2400 ≤ f 0 2 ∧ f 0 2 ≤ 3600), decide (f 0 2 ≤ f 2 2 ∧ f 2 2 ≤ 4000),
      decide (1000 ≤ f 4 2 ∧ f 4 2 ≤ f 0 2 ∧ f 4 2 ≤ 2400), decide (4 ≤ f 6 1 ∧ f 6 1 ≤ 20), decide (f 7 1 ≤ 1)]
  | 4 => check (len == 8) [decide (f 0 1 ≤ 192 ∧ f 0 1 % 3 = 0), decide (f 2 2 ≤ 1024 ∧ f 2 2 % 8 = 0)]
  | 5 => check (len == 36) ([decide (f 0 2 ≤ 4095), decide (f 2 1 ≤ 1), decide (f 3 1 ≤ 1), decide (f 4 1 ≤ 1),
      decide (f 5 1 ≤ 4), decide (f 8 8 ≠ 0), (List.range 16).all (fun p => decide (f 16 4 >>> (2 * p) % 4 ≠ 3))] ++ levelTests b)
  | 6 => check (len == 16) [decide (8 ≤ f 0 1 ∧ f 0 1 ≤ 48), decide (8 ≤ f 1 1 ∧ f 1 1 ≤ 40), decide (f 2 1 ≤ 2),
      decide (f 3 1 ≤ 1), decide (16 ≤ f 4 2), decide (1024 ≤ f 8 4 ∧ f 8 4 ≤ 2 ^ 24), decide (f 12 4 / 8 % 32 = 0)]
  | 7 => check (decide (16240 ≤ len) && decide (len = 16240 + f 8 4)) [true, true, decide (f 8 4 ≤ 0x80000)]
  | 8 => check (decide (24 ≤ len) && decide (len = 24 + f 16 8)) [decide (f 0 8 % 4096 = 0 ∧ f 0 8 < 0xC000000000), true, decide (f 16 8 ≤ 0x600000)]
  | 9 => check (decide (8 ≤ len) && decide (len = 8 + 32 * f 0 4)) [decide (f 0 4 ≤ 16)]
  | 10 => check (decide (8 ≤ len) && decide (len = 8 + 32 * f 0 4)) [decide (f 0 4 ≤ 8)]
  | 11 => check (decide (len ≤ 36000)) []
  | _ => if r.crit then some 0 else none

/-- The records in order: a repeated tag, a record that breaks a rule (TAG and FIELD) (log 12, DEDUCED). -/
def recordsBad : List Nat → List ImgRec → Option (Nat × Nat)
  | _, [] => none
  | seen, r :: rs =>
    if seen.contains r.tag then some (r.tag, 0)
    else match recordBad r with
      | some n => some (r.tag, n)
      | none => recordsBad (r.tag :: seen) rs

/-- Check 5 of R501: the header's NREC and SVN, which have no TAG and no field number (log 12, DEDUCED), the records, or TAG and
FIELD of the first failure; last the required records. -/
def imageRecs (b : List Byte) : Except (Nat × Nat) (List ImgRec) :=
  let len := fieldAt b 8 4
  let n := fieldAt b 12 4
  if n = 0 ∨ 64 < n ∨ 31 < fieldAt b 16 4 then .error (0, 0)
  else match parseRecs n ((b.take (len - sigBytes)).drop 96) with
    | .error t => .error (t, 0)
    | .ok rs => match recordsBad [] rs with
      | some e => .error e
      | none => match [1, 7, 8].find? (fun t => !(rs.any (fun r => r.tag == t))) with
        | some t => .error (t, 0)
        | none => .ok rs

/-- The body of a record, empty where it is absent. -/
def bodyOf (rs : List ImgRec) (t : Nat) : List Byte := ((rs.find? (fun r => r.tag == t)).map (·.body)).getD []

def hasRec (rs : List ImgRec) (t : Nat) : Bool := rs.any (fun r => r.tag == t)

/-- The values in force under a set of records; an absent record leaves its chapter's defaults. -/
def imageOf (rs : List ImgRec) : Image :=
  let d := Image.reset
  let clk := bodyOf rs 2
  let pwr := bodyOf rs 3
  let tier := bodyOf rs 4
  let fab := bodyOf rs 5
  let rasb := bodyOf rs 6
  let trust := bodyOf rs 9
  let d1 := if clk = [] then d else { d with aclkMax := fieldAt clk 0 2, hclkMax := fieldAt clk 2 2, baud := fieldAt clk 4 4 }
  let d2 := if pwr = [] then d1 else { d1 with plSus := fieldAt pwr 0 2, plPeak := fieldAt pwr 2 2,
                                                plBrake := fieldAt pwr 4 2, slew := fieldAt pwr 6 1, hold := fieldAt pwr 7 1 == 1 }
  let d3 := if tier = [] then d2 else { d2 with t0Local := fieldAt tier 0 1, t1Local := fieldAt tier 2 2 }
  let lv := fieldAt fab 5 1
  let at4 := fun o => (List.range lv).map (fun i => fieldAt fab (o + 4 * i) 1)
  let d4 := if fab = [] then d3 else { d3 with
    pkgId := BitVec.ofNat 12 (fieldAt fab 0 2)
    auth := fieldAt fab 2 1 == 1
    transit := fieldAt fab 3 1 == 1
    pace := fieldAt fab 4 1 == 1
    levels := lv
    fabricName := word (fieldAt fab 8 8)
    roles := BitVec.ofNat 32 (fieldAt fab 16 4)
    shift := at4 20
    up := at4 21
    down := at4 22 }
  let d5 := if rasb = [] then d4 else { d4 with
    tmin := fieldAt rasb 0 1
    vmin := fieldAt rasb 1 1
    memQual := fieldAt rasb 2 1
    memMaint := fieldAt rasb 3 1
    leccLimit := fieldAt rasb 4 2
    laneLimit := fieldAt rasb 8 4
    errPolicy := BitVec.ofNat 32 (fieldAt rasb 12 4) }
  { d5 with trust := (trust.drop 8).take (32 * fieldAt trust 0 4) }

end Sys2Proof.Machine
end

