-- ==== Sys2Proof/Machine/Boot.lean ====
section
/-! DEFINITION. Boot and resets (R496–R515): the steps of the boot sequence with the halts they can end in, measurements,
the Device Property Table, cold and warm reset, supply faults and thermal shutdown (R473, R554). -/

namespace Sys2Proof.Machine

/-! #### Status and halts (R510, R514) -/

/-- PCP_BOOT_STATUS of an Acelo. -/
def bootStatus (hw : Hw) (sec : Sec) (a : Nat) : Word :=
  let steps := if a = hw.pkg.primary then sec.step
    else ([10, 9, 4, 2, 1].find? (fun n => decide (n ≤ sec.step))).getD 0
  word (sec.svn * 2 ^ 32 + sec.keyIdx * 2 ^ 12 + hw.pkg.primary * 2 ^ 9 + sec.slot * 2 ^ 8 + b2n sec.maint * 32 +
    b2n (sec.halts.any (fun h => h.1 == a)) * 16 + steps)

/-- PCP_BOOT_STATUS follows the boot state (R515) (log 62, DEDUCED). -/
def showStatus (hw : Hw) (sec : Sec) : Hw := foldN 2 hw (fun h a => rset h (Reg.pcpBootStatus a) (bootStatus hw sec a))

/-- A halt word (R510). -/
def haltWord (code step die detail : Nat) : Nat := code * 2 ^ 24 + step * 2 ^ 20 + die * 2 ^ 16 + detail % 65536

/-- The line a halted Acelo prints, its word as R536 prints values (R510). -/
def haltLine (w : Nat) : List Byte := textLine (ascii "BOOT HALT " ++ hexWord32 w)

/-- An Acelo halts: the word, the line; FAULT_N is low while a halt stands (R546). -/
def halt (a w : Nat) (r : Hw × Sec) : Hw × Sec :=
  let hw1 := rsetN r.1 (Reg.pcpBootHalt a) w
  let sec1 := { r.2 with halts := r.2.halts ++ [(a, w)] }
  (showStatus { hw1 with sent := hw1.sent ++ [.mon a (haltLine w)] } sec1, sec1)

/-- The monitor answers: from boot step 2 onward, and through a halt but one of the straps, which leaves no primary (R503,
R510, R535) (log 62, DEDUCED). -/
def monUp (sec : Sec) : Bool := decide (2 ≤ sec.step) || sec.halts.any (fun h => h.2 / 2 ^ 24 != 1)

/-- FAULT_N is driven low (R546). -/
def faultLow (hw : Hw) (sec : Sec) : Bool := sec.halts != [] || hw.stop

/-! #### Measurements (R511) -/

/-- Mm = SHA-256(Mm ‖ d), and Mm is final when `last`. -/
def extend (sec : Sec) (m : Nat) (d : List Byte) (last : Bool) : Sec :=
  { sec with meas := modAt (fun x => sha256 (x ++ d)) sec.meas m,
             measDone := if last then sec.measDone ||| BitVec.ofNat 6 (2 ^ m) else sec.measDone }

/-- PCP_MEAS_m_w. -/
def measWord (sec : Sec) (m w : Nat) : Word := word (leNat (((atD [] sec.meas m).drop (8 * w)).take 8))

/-! #### Clocks -/

/-- The generators of a die (R46); of its core groups only the present ones. -/
def pllMask (hw : Hw) (d : Nat) : Nat :=
  if d < 4 then 0xF0000 + (List.range 16).foldl (fun v g => if groupPresent hw (16 * d + g) then v + 2 ^ g else v) 0
  else 0x3FF0FF30007

def lockPlls (hw : Hw) (d : Nat) : Hw := rsetN hw (Reg.clkPllStatus d) (pllMask hw d)

/-- A counter of clock cycles that a generator drives has run up to now (R43, R46). -/
def touchClock (hw : Hw) (d gen : Nat) : Hw :=
  if gen = 16 then touch hw (Reg.clkNclkCnt d)
  else if d < 4 then hw
  else if gen = 17 then touch hw (Reg.clkPcpCnt d)
  else if gen < 3 then touch hw (Reg.clkHclkCnt d gen)
  else hw

/-- The counters of the clocks that a warm reset stops have run up to now (R43). -/
def touchClocks (hw : Hw) : Hw :=
  foldN 6 hw (fun h d => [0, 1, 2, 16, 17].foldl (fun w g => if rbit hw (Reg.clkPllStatus d) g then touchClock w d g else w) h)

/-! #### The steps (R509) -/

/-- The identity key of Acelo `a` (R512): the die number is one byte of the HMAC key (log 72, PRESUMED). -/
def identityKey (a : Nat) : List Byte :=
  Config.idPublic (hmac (ascii "TLV-ID-1" ++ [BitVec.ofNat 8 (4 + a)]) (Config.deviceSecret a))

/-- Step 2: straps; the primary's key becomes the package's (R503, R512). M0's d (R511) takes the revocation bits, FUSE_SVN
and the lock bit as 4 bytes each (log 99, DESIGN CHOICE). -/
def bootStraps (n s : Bool) (r : Hw × Sec) : Hw × Sec :=
  if n = s then
    halt 1 (haltWord 1 2 5 (b2n s + 2 * b2n n)) (halt 0 (haltWord 1 2 4 (b2n n + 2 * b2n s)) r)
  else
    let a := if n then 0 else 1
    let hw1 := { r.1 with pkg := { r.1.pkg with primary := a }, idKey := identityKey a }
    let hw2 := lockPlls (lockPlls hw1 4) 5
    let hw3 := foldN 6 hw2 (fun h k => setHTarget h k 800)
    let keys := (List.range 4).flatMap Config.fuseKey
    let d := sha256 (Config.romVersion ++ keys ++ leBytes 4 r.2.revoked.toNat ++ leBytes 4 r.2.fuseSvn ++ leBytes 4 (b2n r.1.locked))
    (hw3, { extend r.2 0 d true with mon := { Mon.reset with unlocked := !r.1.locked } })

/-- The registers that show the configuration in force. -/
def showImage (hw : Hw) : Hw :=
  let a := hw.pkg.primary
  let i := hw.img
  let hw1 := rsetN hw (Reg.pcpPwrCfg a) (i.plPeak * 2 ^ 48 + i.plBrake * 2 ^ 32 + i.plSus * 2 ^ 16 + i.slew * 256 + b2n i.hold)
  let hw2 := rsetN (rsetN { hw1 with pow := { hw1.pow with sus := i.plSus } } (Reg.pcpPlSus a) i.plSus)
    (Reg.pcpTierCfg a) (i.t1Local * 2 ^ 32 + i.t0Local)
  let hw3 := rset (rsetN hw2 (Reg.pcpFabCfg a) (i.pkgId.toNat * 2 ^ 48 + b2n i.auth * 2 ^ 42 + b2n i.transit * 2 ^ 41 +
    b2n i.pace * 2 ^ 40 + i.levels * 2 ^ 32 + i.roles.toNat)) (Reg.pcpFabName a) i.fabricName
  let hw4 := foldN 4 hw3 (fun h l => rsetN h (Reg.pcpFabLevel a l)
    (if l < i.levels then atD 0 i.shift l * 2 ^ 16 + atD 0 i.up l * 256 + atD 0 i.down l else 0))
  let hw5 := rsetN hw4 (Reg.pcpRasPolicy a) i.errPolicy.toNat
  setLimits (foldN 512 hw5 (fun h c => rsetN h (Reg.mePolicy c) (b2n i.hold)))

/-- The banner (R541). -/
def banner (hw : Hw) (sec : Sec) : List Byte :=
  textLine (ascii "TAHR " ++ Config.romVersion ++ ascii (if hw.present = BitVec.allOnes 64 then " MLD780-A512 PKG " else " MLD780-B480 PKG ") ++
    decimal hw.img.pkgId.toNat ++ ascii (if sec.mon.unlocked then " UNLOCKED" else " LOCKED")) ++ ascii "T> "

/-- PCP firmware loaded at LOAD in an Acelo's local memory and entered at ENTRY (R499). -/
def pcpLoad (a : Nat) (body : List Byte) : PcpRun := ⟨a, fieldAt body 0 4, fieldAt body 4 4, body.drop 16240⟩

/-- No target stays above a new image's ceilings (R477). -/
def clampTargets (hw : Hw) : Hw :=
  foldN 6 (foldN 64 hw (fun h g => setATarget h g (aTarget h g))) (fun h k => setHTarget h k (hTarget h k))

/-- What an accepted image's records put in force (R498, R511). -/
def bootAccept (slot : Nat) (b : List Byte) (rs : List ImgRec) (r : Hw × Sec) : Hw × Sec :=
  let host := bodyOf rs 8
  let keys := bodyOf rs 10
  let n := fieldAt keys 0 4
  let img := imageOf rs
  let hw1 := repartition r.1 img.t0Local img.t1Local
  let hw2 := clampTargets (showImage (slewApply { hw1 with img := img, idCert := bodyOf rs 11 }))
  let sec1 := { r.2 with
    slot := slot
    svn := fieldAt b 16 4
    keyIdx := fieldAt b 20 1
    commit := fieldAt b 6 2 % 2 == 1
    pcpFw := bodyOf rs 7
    pcpRun := [pcpLoad r.1.pkg.primary (bodyOf rs 7)]
    hostLoad := fieldAt host 0 8
    hostEntry := fieldAt host 8 8
    hostFw := host.drop 24
    monKeys := (List.range n).map (fun i => (keys.drop (8 + 32 * i)).take 32)
    records := rs.map (·.raw)
    header := b.take 96 }
  let measured := (rs.filter (fun x => x.tag != 7 && x.tag != 8 && x.tag != 11)).foldl
    (fun s x => extend s 1 (sha256 x.raw) false) (extend sec1 1 (sha256 (b.take 96)) false)
  let sec2 := extend { measured with measDone := measured.measDone ||| 2 } 2 (sha256 (bodyOf rs 7)) true
  ({ hw2 with sent := hw2.sent ++ [.mon hw2.pkg.primary (banner hw2 sec2)] }, sec2)

/-- Step 3: the image. -/
def bootImage (slot0 slot1 : Option (List Byte)) (r : Hw × Sec) : Hw × Sec :=
  let a := r.1.pkg.primary
  let c0 := slotCheck r.2.revoked r.2.fuseSvn slot0
  let c1 := slotCheck r.2.revoked r.2.fuseSvn slot1
  if c0 ≠ 0 ∧ c1 ≠ 0 then halt a (haltWord 3 3 (4 + a) (c1 * 256 + c0)) r
  else
    let slot := if c0 = 0 then 0 else 1
    let b := (if c0 = 0 then slot0 else slot1).getD []
    match imageRecs b with
    | .error e => halt a (haltWord 4 3 (4 + a) (e.1 % 256 * 256 + e.2 % 256)) r
    | .ok rs =>
      let sel := fieldAt (bodyOf rs 1) 0 1
      if sel ≠ a then halt a (haltWord 2 3 (4 + a) sel) r else bootAccept slot b rs r

/-- FWSIG verifies under the image's key (R499). -/
def fwSigOk (sec : Sec) : Bool :=
  Config.slhVerify192 ((sec.header.drop 32).take 48) (sec.pcpFw.take 16 ++ sec.pcpFw.drop 16240) ((sec.pcpFw.drop 16).take 16224)

/-- Step 4: the secondary. -/
def bootSecondary (answers : Bool) (r : Hw × Sec) : Hw × Sec :=
  let a := r.1.pkg.primary
  if !answers then halt a (haltWord 5 4 (5 - a) 1) r
  else if fwSigOk r.2 then (r.1, { r.2 with pcpRun := r.2.pcpRun ++ [pcpLoad (1 - a) r.2.pcpFw] }) else halt a (haltWord 5 4 (5 - a) 2) r

/-- RETIRED shows what the field-retirement fuses hold (R94, R124). -/
def showRetired (hw : Hw) : Hw := hw.retired.foldl (fun h c => ror h (Reg.cgStatus (c / 8)) (2 ^ (8 + c % 8))) hw

/-- A core that fails the self-test has its fuse blown (R124). -/
def retireCore (hw : Hw) (c : Nat) : Hw :=
  if groupPresent hw (c / 8) ∧ hw.retired.contains c = false then showRetired { hw with retired := hw.retired ++ [c] } else hw

/-- A compute die is released: its generators lock, a cold boot's self-test retires cores, its present groups wake, each with
its ramp grant, which comes within the step (R88, R124, R481). -/
def releaseDie (retired : List Nat) (cold : Bool) (hw : Hw) (d : Nat) : Hw :=
  let hw1 := lockPlls hw d
  let hw2 := if cold then (retired.filter (fun c => c / 128 == d)).foldl retireCore hw1 else hw1
  foldN 16 hw2 (fun h i => if groupPresent h (16 * d + i) then
    groupWake (16 * d + i) (radd (setATarget h (16 * d + i) 1200) (Reg.cgRampCnt (16 * d + i)) 1) else h)

/-- Step 5: SCD0 to SCD3, in that order (R31). -/
def bootCompute (retired : List CoreId) (r : Hw × Sec) : Hw × Sec :=
  (foldN 4 r.1 (releaseDie (retired.map (·.val)) r.2.cold), r.2)

/-! #### The Device Property Table (R237–R240) -/

def coresIn (f : Nat → Bool) (lo n : Nat) : Nat := (List.range n).countP (fun i => f (lo + i))
def coreMap (hw : Hw) (k : Nat) : Nat := (List.range 64).foldl (fun v i => if corePresent hw (64 * k + i) then v + 2 ^ i else v) 0

/-- Entry n of the table, but for its header and digest (log 5, DESIGN CHOICE). -/
def dptEntry (hw : Hw) (n : Nat) : Nat :=
  let cap := fun d => capOf hw d
  let enabled := 8 * coresIn (groupPresent hw) 0 64
  match n with
  | 2 => 0x07800000 + (if hw.present = BitVec.allOnes 64 then 0 else 1)
  | 3 => bits (cap 0) 59 52 * 2 ^ 56 + ([0, 1, 2, 3].map (fun d => bits (cap d) 51 44)).foldl min 255 * 2 ^ 48 +
      bits (cap 4) 59 52 * 2 ^ 40 + bits (cap 4) 51 44 * 2 ^ 32 + bits (cap 5) 59 52 * 2 ^ 24 + bits (cap 5) 51 44 * 2 ^ 16
  | 4 => 0x20001
  | 5 => agreedFeatures hw
  | 6 => enabled * 2 ^ 32 + coresIn (corePresent hw) 0 512
  | 7 => hw.present.toNat
  | 16 => 0x010000800080001F
  | 17 => 0x08000020
  | 18 => 0xFFFF07FF
  | 19 => 0x0004300000600000
  | 20 => 0x000000800C0A0806
  | 21 => 8 * enabled * 65536 + 8
  | 22 => 0x0C000400
  | 23 => 0x0400010002000100
  | 24 => 0xFC00100410064000 + 16 * 64 + 63
  | 25 => 0x0810
  | 26 => 0x00804020
  | 27 => 0x1010008000020000
  | 28 => 0x00390F0000000800
  | 29 => 0x40000040
  | 30 => 0x0001000000000904
  | 31 => hw.img.aclkMax * 2 ^ 32 + 1200 * 65536 + 2100
  | 32 => hw.img.hclkMax * 2 ^ 32 + 512 * 65536 + 72
  | 33 => 0xC000000000
  | 34 => 0x20000000000
  | 35 => 0x20000000
  | 36 => 0x1010
  | 37 => 0x08100204
  | 38 => 0x2000010000
  | _ => if 8 ≤ n ∧ n < 16 then coreMap hw (n - 8) else 0

/-- Entries 2–38 as 296 little-endian bytes (log 13, DEDUCED). -/
def dptBytes (hw : Hw) : List Byte := (List.range 37).flatMap (fun i => leBytes 8 (dptEntry hw (i + 2)))

/-- The table filled (R238); the digest's first eight bytes stand as they would in memory (log 13, DEDUCED). -/
def fillDpt (hw : Hw) : Hw :=
  let a := hw.pkg.primary
  let hw1 := rsetN (rsetN hw (Reg.pcpDpt a 0) (2 ^ 63 + 39)) (Reg.pcpDpt a 1) (leNat ((sha256 (dptBytes hw)).take 8))
  foldN 37 hw1 (fun h i => rsetN h (Reg.pcpDpt a (i + 2)) (dptEntry hw (i + 2)))

/-! #### Steps 6–10 -/

/-- Whether step 7 is a cold bring-up of memory (R346, R508). -/
def coldBring (sec : Sec) : Bool := sec.cold || !sec.memDone

/-- Step 6: the mesh, its routes and the Device Property Table; step 7 follows at once. -/
def bootMesh (missing : BitVec 6) (bad : List (ModuleId × BitVec 68 × BitVec 68)) (dead : BitVec 64) (r : Hw × Sec) : Hw × Sec :=
  let a := r.1.pkg.primary
  let hw1 := if r.2.cold then trainCold bad dead r.1 else trainWarm bad dead r.1
  let lost := edgesLost hw1
  let hw2 := setRoutes (trainLost r.1.ert.lost lost { hw1 with ert := { hw1.ert with lost := lost, rebuild := 0, routing := 0 } })
  let gone := missingDies hw2 missing
  let res := negotiate hw2 gone
  if res ≠ 1 then
    let die := if res = 4 then ((List.range 6).find? (fun d => bit gone d)).getD 0 else 0
    halt a (haltWord 7 6 die res) (showNegotiation hw2 res gone, r.2)
  else
    let hw3 := showNegotiation hw2 1 gone
    let hw4 := fillDpt (rsetN hw3 (Reg.pcpCgPresent a) hw3.present.toNat)
    let caps := (List.range 6).flatMap (fun d => leBytes 8 (capOf hw4 d).toNat)
    (bringBegin (coldBring r.2) hw4, extend (extend r.2 4 (sha256 (dptBytes hw4)) true) 5 (sha256 caps) true)

/-- Step 7: the memories (log 62, DEDUCED). -/
def bootMemory (cycles : Nat) (std : MarginRes) (res : List (CtlId × MarginRes)) (bad : List (CtlId × Nat)) (r : Hw × Sec) : Hw × Sec :=
  let a := r.1.pkg.primary
  let cold := coldBring r.2
  let hw1 := bringUnits cold std res bad r.1
  let spent := cycles - rbits r.1 (Reg.pcpBootTime a 5) 31 0
  let hw2 := rsetN hw1 (Reg.pcpMemTime a) (spent % 2 ^ 32)
  match failedUnit hw2 with
  | some (k, u) =>
    let hw3 := rset (allCtls 6 hw2) (Reg.pcpMemStatus a) (memStatus hw2 5)
    halt a (haltWord 8 7 (ctlDie k) (ctlIdx k * 256 + u)) (hw3, r.2)
  | none =>
    let hw3 := if cold then memInit hw2 else hw2
    let hold : Bool := decide (hw3.img.memMaint = 1)
    let hw4 := rset (allCtls (if hold then 6 else 4) hw3) (Reg.pcpMemStatus a) (memStatus hw3 (if hold then 6 else 4))
    (hw4, { r.2 with memDone := true, maint := hold })

/-- Where the copy of the image's records stands: pages of tier 0 above the host firmware, or below it where there is no room
above (R509) (log 62, DEDUCED). -/
def recordsAt (sec : Sec) : Nat :=
  let top := (sec.hostLoad + sec.hostFw.length + 4095) / 4096
  let n := sec.records.flatten.length / 4096 + 1
  4096 * (if top + n ≤ 0xC000000 then top + Config.recordsPage % (0xC000000 - n - top + 1)
          else Config.recordsPage % (sec.hostLoad / 4096 - n + 1))

/-- Bytes copied into tier 0 by the boot; a line that they fill is poisoned no more (R521). -/
def bootCopy (hw : Hw) (a : Nat) (bs : List Byte) : Hw :=
  foldN (bs.length / 64) (writeBytes hw a bs) (fun h i => setPoison h (a / 64 + i) false)

/-- Step 8: host firmware copied and measured, the harts started (log 62, DEDUCED). -/
def bootHost (r : Hw × Sec) : Hw × Sec :=
  let a := r.1.pkg.primary
  let n := r.2.hostFw.length
  if 0xC000000000 < r.2.hostLoad + n then halt a (haltWord 10 8 (4 + a) 1) r
  else if r.2.hostEntry < r.2.hostLoad ∨ r.2.hostLoad + n ≤ r.2.hostEntry then halt a (haltWord 10 8 (4 + a) 2) r
  else
    let hw1 := bootCopy r.1 r.2.hostLoad r.2.hostFw
    let hw2 := bootCopy hw1 (recordsAt r.2) r.2.records.flatten
    (foldN 72 hw2 (fun h i => setHart h i { getHart h i with stopped := false, start := some (r.2.hostEntry, i, recordsAt r.2) }),
      extend r.2 3 (sha256 r.2.hostFw) true)

/-- Step 10: the CXL links leave Detect; a committed SVN goes into the fuses (R502). -/
def bootLinks (r : Hw × Sec) : Hw × Sec :=
  let hw1 := foldN 2 r.1 (fun h a => setAcelo h a { getAcelo h a with cxdPerst := false })
  (hw1, if r.2.commit ∧ r.2.fuseSvn < r.2.svn then { r.2 with fuseSvn := min 32 r.2.svn } else r.2)

/-- The effect of the step that ends, where the input is one that it takes. -/
def bootEffect (n cycles : Nat) (inp : BootIn) (r : Hw × Sec) : Option (Hw × Sec) :=
  match n, inp with
  | 1, .plain => some ((if rget r.1 (Reg.pcpRstCause 0) = 0 then
      foldN 2 r.1 (fun h a => rsetN h (Reg.pcpRstCause a) 0x11) else r.1), r.2)
  | 2, .straps x y => some (bootStraps x y r)
  | 3, .image x y => some (bootImage x y r)
  | 4, .secondary x => some (bootSecondary x r)
  | 5, .selftest x => some (bootCompute x r)
  | 6, .erotte x y z => some (bootMesh x y z r)
  | 7, .memory x y z => some (bootMemory cycles x y z r)
  | 8, .plain => some (bootHost r)
  | 9, .plain => some (foldN 16 { r.1 with portsUp := true } portDark, r.2)
  | 10, .plain => some (bootLinks r)
  | _, _ => none

/-- The steps an Acelo records the end of: all on the primary, those it takes part in on the secondary (R515). -/
def stepCounts (hw : Hw) (a n : Nat) : Bool := decide (a = hw.pkg.primary) || [1, 2, 4, 9, 10].contains n

/-- A boot step ends (R509). The secondary counts its own PCP clock: its count is a free value (R515). -/
def bootStep (cycles : BitVec 32) (inp : BootIn) (hw : Hw) (sec : Sec) : Hw × Sec × Answer :=
  let n := sec.step + 1
  if sec.halts ≠ [] ∨ sec.maint = true ∨ 10 < n then (hw, sec, .notEnabled)
  else match bootEffect n cycles.toNat inp (hw, sec) with
    | none => (hw, sec, .notEnabled)
    | some (hw1, sec1) =>
      if sec1.halts ≠ [] then (hw1, sec1, .done)
      else
        let sec2 := { sec1 with step := n }
        let own := draw hw1
        let count := fun a => if a = hw1.pkg.primary then cycles.toNat else own.1.toNat % 2 ^ 32
        let hw2 := foldN 2 own.2 (fun h a => if stepCounts hw1 a n then rsetN h (Reg.pcpBootTime a (n - 1)) (count a) else h)
        (showStatus hw2 sec2, sec2, .done)

/-- A number that a timeout names: a generator of the die, or at step 7 the unit, 32 × its controller on the die + its
number there (R344, R510). At steps 3 and 4 the number 255 names no generator: the image or the secondary is late (log 62,
DEDUCED). -/
def timeoutNames (n die x : Nat) : Bool :=
  if n = 7 then decide (x / 32 < if die < 4 then 3 else 8) && (decide (die < 4) || decide (x % 32 < 8))
  else decide (x < 48) || ((n == 3 || n == 4) && x == 255)

/-- A step passes its bound: the halt its table names (R509, R510) (log 62, DEDUCED). A halt of step 7 puts every controller
in TEST, with no unit accepted (R344, R348); one of step 6 shows NORECORD, which its DETAIL repeats (R412). -/
def bootTimeout (die gen : Nat) (hw : Hw) (sec : Sec) : Hw × Sec × Answer :=
  let a := hw.pkg.primary
  let n := sec.step + 1
  let stop := fun w => let r := halt a w (hw, sec); (r.1, r.2, Answer.done)
  if sec.halts ≠ [] ∨ sec.maint = true ∨ timeoutNames n die gen = false then (hw, sec, .notEnabled)
  else if 2 ≤ n ∧ n ≤ 5 ∧ gen < 48 then stop (haltWord 6 n die gen)
  else if n = 3 then stop (haltWord 3 3 (4 + a) 0x0101)
  else if n = 4 then stop (haltWord 5 4 (5 - a) 1)
  else if n = 6 then
    let r := halt a (haltWord 7 6 die 4) (showNegotiation hw 4 (missingDies hw (BitVec.ofNat 6 (2 ^ die))), sec)
    (r.1, r.2, .done)
  else if n = 7 then
    let hw1 := rsetN (allCtls 6 hw) (Reg.pcpMemStatus a) (5 * 2 ^ 60)
    let r := halt a (haltWord 8 7 die (gen / 32 * 256 + gen % 32)) (hw1, sec)
    (r.1, r.2, .done)
  else (hw, sec, .notEnabled)

/-! #### Cold reset (R506) -/

/-- What a cold reset leaves of the hardware: the part itself, what its pins show, the free values drawn so far. -/
def coldHw (hw : Hw) : Hw :=
  let keepPin := fun (h : Hw) (a : Nat) =>
    let h1 := rset h (Reg.cxdStatus a) (rget hw (Reg.cxdStatus a) &&& 0x0030000100000000#64)
    setAcelo h1 a { Acelo.reset with perst := (getAcelo hw a).perst }
  let base := { Hw.reset with
    present := hw.present
    locked := hw.locked
    fresh := hw.fresh
    pow := { Pow.reset with brake := hw.pow.brake }
    retired := hw.retired
    kept := hw.kept.map (fun k => { k with live := false })
    sent := hw.sent }
  let hw1 := foldN 8 base (fun h m => setLaser h m { Laser.reset with present := (getLaser hw m).present })
  let hw2 := if hw.pow.brake then modGps hw1 (fun _ p => { p with brake := 4 }) else hw1
  showRetired (foldN 2 hw2 keepPin)

/-- What a cold reset leaves of the security state: the fuses. -/
def coldSec (hw : Hw) (sec : Sec) : Sec :=
  { Sec.reset with revoked := sec.revoked, fuseSvn := sec.fuseSvn, fencedLast := hw.fenced != 0, mon := { Mon.reset with unlocked := !hw.locked } }

/-- PCP_RST_CAUSE (R514). -/
def rstCause (hw : Hw) (src kind : Nat) : Nat := hw.fenced.toNat * 2 ^ 12 + src * 16 + kind

/-- A cold reset from a source: step 1 of the boot follows. -/
def coldReset (src : Nat) (hw : Hw) (sec : Sec) : Hw × Sec :=
  (foldN 2 (coldHw hw) (fun h a => rsetN h (Reg.pcpRstCause a) (rstCause hw src 1)), coldSec hw sec)

/-! #### Supply fault and thermal shutdown (R473, R554) -/

/-- The rails go: nothing drains; the cause of a supply fault stays while VIN holds above 7.0 V, and what was fenced for
PCP_RST_CAUSE (R473, R514). -/
def railsDown (off cause : Nat) (hw : Hw) (sec : Sec) : Hw × Sec :=
  let old := (rget hw (Reg.pcpPwrFault hw.pkg.primary)).toNat
  let hw1 := coldHw hw
  let hw2 := if off = 1 then foldN 2 hw1 (fun h a => rsetN h (Reg.pcpPwrFault a) (old ||| cause)) else hw1
  ({ hw2 with fenced := hw.fenced, pow := { hw2.pow with off := off, therm := off == 2 } }, coldSec hw sec)

/-- VIN while the package is off: below 7.0 V the record of a supply fault is lost (log 58, DEDUCED). -/
def offSample (mv : Nat) (hw : Hw) : Hw :=
  if mv < 7000 then foldN 2 hw (fun h a => rset h (Reg.pcpPwrFault a) 0) else hw

/-- VIN has been good for 10 ms: the package starts cold, after a thermal shutdown only once VIN has been below 1.0 V. -/
def vinGood (hw : Hw) (sec : Sec) : Hw × Sec × Answer :=
  if hw.pow.off = 0 ∨ hw.pow.therm = true then (hw, sec, .notEnabled)
  else
    let r := coldReset (if hw.pow.off = 1 then 3 else 1) hw sec
    let fault := rget hw (Reg.pcpPwrFault 0)
    (foldN 2 r.1 (fun h a => rset h (Reg.pcpPwrFault a) fault), r.2, .done)

/-! #### Warm reset (R506, R507) -/

/-- Whether a register keeps its value: those the tables mark, and those whose rule says so (R94, R346, R409, R465). -/
def regKeep (a : Nat) : Bool :=
  match locate a with
  | .reg b off => (match findRow (rowsOf b) off with
      | some (r, _) => r.keep
      | none => false) ||
    (match b with
     | .die d k =>
       (k == 4 && decide (0x1000 ≤ off ∧ (off % 0x40 ≤ 0x10))) ||
       (decide (0x10 ≤ k ∧ k ≤ 0x17) && (decide (0x100 ≤ off) || [0x10, 0x68].contains off)) ||
       (decide (0x30 ≤ k ∧ d < 4) && (off == 0 || off == 0x108))
     | _ => false)
  | _ => false

/-- The merging-buffer entries of a core: a free number drain, the rest are discarded; parity errors are not killed for
(R506, R533). Answers how many went undrained (log 60, DESIGN CHOICE). -/
def warmMb (hw : Hw) (c : Nat) : Hw × Nat :=
  let mb := (getCore hw c).mb
  let r := draw hw
  let n := r.1.toNat % (mb.length + 1)
  let good := (mb.take n).filter (fun e => e.par == 0)
  good.foldl (fun x e => match pocWrite x.1 (engAgent c) e.gran e.mask e.data e.poison 0 0 with
    | some h => (h, x.2 - 1)
    | none => x) (r.2, mb.length)

/-- A dirty line or a buffered cacheable store reaches memory (log 60, DESIGN CHOICE). -/
def warmLine (hw : Hw) (line : Nat) (mask : BitVec 64) (data : List Byte) (poison : Bool) : Hw :=
  let new := mergeBytes mask 0 (lineData hw line) data
  let hw1 := writeBytes hw (64 * line) new
  if mask = fullMask then setPoison hw1 line poison else if poison then setPoison hw1 line true else hw1

/-- The posted stores at the front of what drains: behind a register or a configuration store, which waits for an
acknowledgement, no other I/O store is performed (R359, R360) (log 14, DEDUCED). -/
def warmPosted (sb : List SbEnt) : List SbEnt :=
  (sb.takeWhile (fun e => e.kind == .cacheable || e.kind == .posted)).filter (fun e => e.kind == .posted)

/-- A hart's buffered stores in order, then its dirty lines: a free number reach memory or their ports, the rest are
discarded and counted, with them every I/O store that waits for an acknowledgement (R364, log 14, DEDUCED) (log 60,
DESIGN CHOICE). -/
def warmHart (hw : Hw) (h : Nat) : Hw :=
  let t := getHart hw h
  let lines := (t.lines.filterMap (fun e => match e.2 with
      | some l => if l.st = .m then some (e.1, l) else none
      | none => none)) ++ t.wbuf.filterMap (fun e => e.2.map (fun l => (e.1, l)))
  let sb := t.sb.filter (fun e => e.kind != .orderMark)
  let total := lines.length + sb.length
  let r := draw hw
  let n := r.1.toNat % (total + 1)
  let stores := (sb.take n).filter (fun e => e.kind == .cacheable)
  let back := lines.take (n - min n sb.length)
  let hw1 := back.foldl (fun w e => warmLine w e.1 fullMask e.2.data e.2.poison) r.2
  let hw2 := stores.foldl (fun w e => warmLine w (e.addr / 64) e.mask e.data false) hw1
  let posted := (warmPosted (sb.take n)).filter (fun e => match locate e.addr with
    | .port p _ => cxdUp hw p
    | _ => false)
  let hw3 := posted.foldl (fun w e => match locate e.addr with
    | .port p _ => dsPost w p e.addr e.data (!e.ro0)
    | _ => w) hw2
  let lost := total - stores.length - back.length - posted.length
  rsetN hw3 (Reg.hclSbDisc (h / 12) (h % 12)) lost

/-- Records of a core that find room enter their rings at once. -/
def warmRecords (c : Nat) : Nat → Hw → Hw
  | 0, hw => hw
  | n + 1, hw =>
    match (List.range 8).find? (fun q => (recordRow c q hw).2 == .done) with
    | some q => warmRecords c n (recordRow c q hw).1
    | none => hw

/-- A command that a warm reset finds in flight completes with ABORTED, one whose work is done with its own status, with its
release, signals and record as at an abort (R234, R235). -/
def warmCmd (c : Nat) (hw : Hw) (m : Cmd) : Hw :=
  let m1 := match m.stage with
    | .done => m
    | .releasing _ => m
    | _ => { m with status := stAborted }
  let hw1 := if releases m1 && signalsRun m1 then (mbDrainAll hw c (getCore hw c).mb).getD hw else hw
  retireCmd hw1 c (afterDrain hw1 c m1)

/-- Every queue of a core aborts (R235, R507): its commands complete, those still at their slots are unfetched; records that
find no room are lost with the buffers (log 60, DESIGN CHOICE). -/
def warmCore (hw : Hw) (c : Nat) : Hw :=
  let hw1 := ((getCore hw c).cmds.filter (fun m => m.stage != .fetching)).foldl (warmCmd c) hw
  warmRecords c ((getCore hw1 c).recs.length) hw1

/-- ADDs that stand in the combining trees reach their words (R279) (log 60, DESIGN CHOICE). -/
def warmAdds (hw : Hw) : Hw :=
  foldN 4 hw (fun h d => (getTree h d).nodes.foldl (fun w e => e.2.foldl (fun v a => treeOut v d a) w) h)

/-- What a core keeps over a warm reset: the number of its last fault (R299), its corrected errors by way (R82), how many
commands its engines have started (R13). -/
def warmKept (t : Core) : Core := { Core.reset with fltSeq := t.fltSeq, wayErr := t.wayErr, begun := t.begun }

/-- A generator run that a warm reset stops leaves its results as they stand (R348). -/
def warmTest (old hw : Hw) (k : Nat) : Hw :=
  if (getCtl old k).op ≠ 2 then hw
  else
    let hw1 := [ctlTgStatus k, ctlTgErrCnt k].foldl (fun h a => rset h a (rget old a)) hw
    rfield { hw1 with logs := mput (fun _ => []) hw1.logs (ctlTgErrLog k) (logGet old (ctlTgErrLog k)) } (ctlTgStatus k) 0 0 0

/-- The registers and records a warm reset leaves, after the drains (log 60, DESIGN CHOICE). -/
def warmHw (hw : Hw) : Hw :=
  let mem := { hw.mem with slc := [], filt := [], homes := [], input := [], watches := [], net := [], armed := [], slcFlip := [],
                           tagFlip := [], filtFlip := [] }
  let present := fun a => rget hw (Reg.cxdStatus a) &&& 0x0030000100000000#64
  let base := { Hw.reset with
    present := hw.present
    locked := hw.locked
    fresh := hw.fresh
    img := hw.img
    regs := hw.regs.filter (fun e => regKeep e.1)
    logs := hw.logs.filter (fun e => regKeep e.1)
    lastPop := hw.lastPop
    mem := mem
    cores := hw.cores.foldl (fun t e => mput (fun _ => Core.reset) t e.1 (warmKept e.2)) []
    clk := hw.clk
    retired := hw.retired
    tallied := (touchClocks hw).tallied
    lasers := hw.lasers
    dies := hw.dies
    gpow := hw.gpow
    halves := hw.halves
    pow := hw.pow
    ert := { hw.ert with rebuild := 0, routing := 0, held := [] }
    pkg := { Hw.reset.pkg with primary := hw.pkg.primary }
    kept := hw.kept.map (fun k => { k with live := false })
    sent := hw.sent }
  let hw2 := foldN 28 base (fun h k => setCtl (warmTest hw h k) k { getCtl hw k with op := 0, selfRef := true })
  let hw3 := foldN 2 hw2 (fun h a =>
    setAcelo (rset h (Reg.cxdStatus a) (present a)) a { Acelo.reset with perst := (getAcelo hw a).perst, cxdPerst := (getAcelo hw a).cxdPerst })
  foldN 64 (foldN 64 hw3 repairCut) (fun h m => foldN 2 h (fun w i => setMDir w m (i == 1) MDir.reset))

/-- A warm reset from a source (R507): queues abort, buffers drain, ports close and links go down, message writes under way
are delivered, memory stands in self-refresh; the boot goes on at step 2 (log 14, DEDUCED). -/
def warmReset (src : Nat) (hw : Hw) (sec : Sec) : Hw × Sec :=
  let hw0 := warmAdds (hw.cores.foldl (fun h e => warmCore h e.1) hw)
  let drained := hw.cores.foldl (fun (x : Hw × Nat) e => let r := warmMb x.1 e.1; (r.1, x.2 + r.2)) (hw0, 0)
  let blank := (List.range 72).foldl (fun w h => rset w (Reg.hclSbDisc (h / 12) (h % 12)) 0) drained.1
  let hw1 := hw.harts.foldl (fun h e => warmHart h e.1) blank
  let discs := (List.range 72).foldl (fun s h => s + (rget hw1 (Reg.hclSbDisc (h / 12) (h % 12))).toNat) 0
  let shut := (List.range 16).foldl (fun h p => if psLink ≤ pState hw p then mgmtOut h p 4 [] else h) hw1
  let closed := settle 3 (foldN 2 shut (fun h a => if cxuMode hw a = 0 then h else radd h (Reg.cxuLinkdownCnt a) 1))
  let disc := (List.range 72).map (fun h => (h, rget hw1 (Reg.hclSbDisc (h / 12) (h % 12))))
  let hw2 := warmHw closed
  let hw3 := disc.foldl (fun w e => rset w (Reg.hclSbDisc (e.1 / 12) (e.1 % 12)) e.2) hw2
  let count := rbits hw (Reg.pcpRstCnt hw.pkg.primary) 31 0 + 1
  let hw4 := foldN 2 hw3 (fun h a => rsetN (rsetN h (Reg.pcpRstCause a) (rstCause hw src 2)) (Reg.pcpRstCnt a) (count % 2 ^ 32))
  let hw5 := rsetN hw4 (Reg.pcpRstDisc hw.pkg.primary) (discs % 65536 * 65536 + drained.2 % 65536)
  let sec1 := { Sec.reset with
    revoked := sec.revoked
    fuseSvn := sec.fuseSvn
    step := 1
    cold := false
    memDone := sec.memDone
    fencedLast := hw.fenced != 0
    mon := { Mon.reset with unlocked := !hw.locked } }
  (showStatus hw5 sec1, sec1)

/-- A write to PCP_RESET with its key starts the reset of its KIND; without the key, or with KIND 0 or 3, it is ignored
(R514). -/
def pcpResetWrite (v : Word) (hw : Hw) (sec : Sec) : Hw × Sec × Answer :=
  if bits v 63 48 ≠ 0xA5C3 then (hw, sec, .done)
  else if bits v 1 0 = 1 then let r := coldReset 4 hw sec; (r.1, r.2, .done)
  else if bits v 1 0 = 2 then let r := warmReset 4 hw sec; (r.1, r.2, .done)
  else (hw, sec, .done)

/-- A write to PCP_RESET in either PCP block or the package window. -/
def pcpResetBy (by_ : Agent) (v : Word) (hw : Hw) (sec : Sec) : Hw × Sec × Answer :=
  if mayAccess hw by_ then pcpResetWrite v hw sec
  else
    let a := hw.pkg.primary
    (errorResponse hw (4 + a) 7 by_ 0 (Reg.pcpReset a), sec, errorAnswer by_ true)

end Sys2Proof.Machine
end

