-- ==== Sys2Proof/Machine/Loss.lean ====
section
/-! DEFINITION. Losses of clocks and heartbeats, and the error-handling blocks' own work (R37, R504, R520, R525, R561):
PLL loss by domain, heartbeat watches, the scrubber, injections, log reads. -/

namespace Sys2Proof.Machine

/-! #### PLL loss (R525) -/

/-- A group whose ACLK is lost: every context with a queue on its cores is killed there, with one record each, the cores
lose their state, the group reads OFF. -/
def groupLost (g : Nat) (hw : Hw) : Hw :=
  let ctxs := (((List.range 8).filter (fun i => corePresent hw (8 * g + i))).flatMap (fun i => coreCtxs hw (8 * g + i))).dedup
  let hw1 := foldN 8 hw (fun h i => (coreCtxs h (8 * g + i)).foldl (fun w x => killContext w (8 * g + i) x) h)
  let hw2 := ctxs.foldl (fun h x => ras h (g / 16) clsCTX 0x0C 10 (g % 16) 0xFFF x 0 0) hw1
  let hw3 := foldN 8 hw2 (fun h i => coreOff h (8 * g + i))
  let hw4 := if groupPresent hw g then setGroup hw3 g 2 else hw3
  { hw4 with ramps := hw4.ramps.filter (fun e => e != 512 + g && (decide (512 ≤ e) || e / 8 != g)) }

/-- A cluster whose HCLK is lost: its harts stop with what they hold and are dead agents (R395). -/
def clusterLost (k : Nat) (hw : Hw) : Hw :=
  foldN 12 hw (fun h i =>
    let n := 12 * k + i
    let h1 := setHart { h with deadHarts := n :: h.deadHarts.filter (fun x => x != n) } n { Hart.reset with off := true }
    declareDead h1 (.hart (Fin.ofNat 72 n)))


/-- A generator loses lock. -/
def pllLoss (d : DieId) (gen : Nat) (hw : Hw) : Hw :=
  let hw1 := touchClock (ror (rclr hw (Reg.clkPllStatus d) (2 ^ gen)) (Reg.clkPllLoss d) (2 ^ gen)) d gen
  let rec_ := fun (h : Hw) (cls : Nat) => ras h d cls 0x0C 10 gen 0xFFF 0 0 0
  if d.val < 4 then (if gen < 16 then groupLost (16 * d + gen) hw1 else rec_ hw1 clsPKG)
  else
    let a : AceloId := Fin.ofNat 2 (d - 4)
    if gen < 3 then clusterLost (3 * a + gen) (rec_ hw1 clsDEG)
    else if gen = 17 ∧ a.val ≠ hw.pkg.primary then rec_ hw1 clsDEG
    else if 32 ≤ gen ∧ gen < 40 then
      let p := 8 * a + (gen - 32)
      let hw2 := rec_ hw1 clsDEG
      if pState hw2 p = psDisabled then hw2 else linkLost hw2 p 2
    else if gen = 40 then (if cxuMode hw a = 0 then rec_ hw1 clsDEG else cxuDown (rec_ hw1 clsDEG) a)
    else if gen = 41 then (if rbits hw (Reg.cxdStatus a) 41 40 = 0 then rec_ hw1 clsDEG else cxdDown a false (rec_ hw1 clsDEG))
    else rec_ hw1 clsPKG

/-! #### The PCPs (R32, R37, R504, R518) -/

/-- Bit errors that a PCP meets in its local memory (R518): corrected; uncorrectable, fatal to the package on the primary,
the end of the secondary's work, which the primary sees as heartbeat loss. -/
def pcpCheck (hw : Hw) (a : Nat) : Hw :=
  let w := fun v : Nat => { hw with pcpFlip := mput (fun _ => 0) hw.pcpFlip a v }
  match mget (fun _ => 0) hw.pcpFlip a with
  | 1 => ras (w 0) (4 + a) clsCE 0x0D 1 0 (0x800 + a) 0 0 0
  | 2 => if a = hw.pkg.primary then ras (w 0) (4 + a) clsPKG 0x0D 4 0 (0x800 + a) 0 0 0 else w 3
  | _ => hw

/-- A PCP works: its generator has lock and its memory has not failed it (R37, R518). -/
def pcpRuns (hw : Hw) (a : Nat) : Bool :=
  rbit hw (Reg.clkPllStatus (4 + a)) 17 && mget (fun _ => 0) hw.pcpFlip a != 3

/-- A PCP sends its heartbeat on both columns (R32); one whose route is shut waits at its source stop (R30). -/
def heartbeatOut (a : Nat) (hw : Hw) : Hw :=
  let w := pcpCheck hw a
  if !pcpRuns w a then w
  else { w with sent := w.sent ++ [.heartbeat a false, .heartbeat a true] }

/-! #### Heartbeats (R32, R504) -/

/-- GAP of PCP_HB_STATUS keeps the longest gap (log 62, DEDUCED). -/
def noteGap (hw : Hw) (a n : Nat) : Hw := rfield hw (Reg.pcpHbStatus a) 47 16 (max n (rbits hw (Reg.pcpHbStatus a) 47 16))

/-- A heartbeat arrives: the gap it ends is a free value below the timeout, or from there on where it ends a loss (log 62,
DEDUCED). -/
def heartbeatIn (a : Nat) (hw : Hw) : Hw :=
  let r := draw hw
  let lost := bit hw.pkg.silent a
  let gap := if lost then 2 ^ 20 + r.1.toNat % (2 ^ 32 - 2 ^ 20) else r.1.toNat % 2 ^ 20
  noteGap { r.2 with pkg := { r.2.pkg with silent := r.2.pkg.silent &&& ~~~ BitVec.ofNat 2 (2 ^ a) } } a gap

/-- No heartbeat for 2^20 cycles: the secondary fences its half, the primary records the loss. -/
def heartbeatLost (a : AceloId) (hw : Hw) : Hw :=
  let hw0 := { hw with pkg := { hw.pkg with silent := hw.pkg.silent ||| BitVec.ofNat 2 (2 ^ a.val) } }
  let hw1 := ror (noteGap hw0 a 0x100000) (Reg.pcpHbStatus a) 1
  if a.val = hw.pkg.primary then ras hw1 (4 + a) clsDEG 0x0D 12 0 0xFFF 0 0 0
  else fenceHalf a (ror hw1 (Reg.pcpHbStatus a) 256)

/-! #### The scrubber (R520) -/

/-- Lines of a controller's device, and the address of its n-th line: units in turn. -/
def ctlLines (k : Nat) : Nat := ctlBytes k / 64
def scrubAddr (hw : Hw) (k n : Nat) : Nat :=
  let u := n % ctlUnits k
  let off := 64 * (n / ctlUnits k)
  if k < 12 then encodeT0 (tierL hw) k u off else encodeT1 (tierM hw) (k - 12) u off

/-- One scrub read: a corrected line is written back, an uncorrectable one becomes poison; of a line the SLC holds Dirty the
home skips the write; the pass moves on. -/
def scrubStep (k : Nat) (hw : Hw) : Hw :=
  let t := getCtl hw k
  let line := scrubAddr hw k t.next / 64
  let hw1 := if slcState hw line == .dirty then memSeen hw line else memFetch hw line
  let next := t.next + 1
  setCtl hw1 k (if next < ctlLines k then { t with next := next } else { t with next := 0, passes := t.passes + 1 })

/-- RAS_SCRUB of a die: passes and progress of the controller furthest behind. -/
def scrubView (hw : Hw) (d : Nat) : Word :=
  let ks := (List.range 28).filter (fun k => ctlDie k == d)
  let pos := fun k => ((getCtl hw k).passes, (getCtl hw k).next * 100 / ctlLines k)
  let low := (ks.map pos).foldl (fun m x => if x.1 < m.1 ∨ (x.1 = m.1 ∧ x.2 < m.2) then x else m) (2 ^ 32 - 1, 99)
  word (low.1 % 2 ^ 32 * 2 ^ 32 + low.2)

/-! #### Bit errors (R518, R519) -/

/-- Mark the n-th element of a list. -/
def atNth {α : Type} (f : α → α) (n : Nat) (l : List α) : List α := if l = [] then [] else modAt f l (n % l.length)

/-- A bit error in a tile register of a sub-array (R125): of the active tile, the shadow tile, or a tile of the ME_GEMV that
streams next. -/
def strikeTile (shape n : Nat) (a : SubArr) : SubArr :=
  let hit := fun x : Tile => { x with par := n / 3 % shapeN shape :: x.par }
  match n % 3 with
  | 0 => { a with active := a.active.map hit }
  | 1 => { a with shadow := a.shadow.map hit }
  | _ => { a with assigned := a.assigned.map (fun y => if y.gemv then { y with par := n / 3 % y.n :: y.par } else y) }

/-- A bit error in an accelerator core's storage: `k` says in which, `n` where, `v` is 1 for one bit and 2 for more (log
65, DESIGN CHOICE). -/
def strikeCore (c k n v : Nat) (hw : Hw) : Hw :=
  let mark := fun t : FMap Nat => fun i => mput (fun _ => 0) t i v
  modCore hw c (fun t => match k with
    | 0 => { t with l1 := atNth (fun l => { l with par := v }) n t.l1 }
    | 1 => { t with side := atNth (fun l => { l with par := v }) n t.side }
    | 2 => { t with mb := atNth (fun e => { e with par := v }) n t.mb }
    | 3 => { t with cmds := atNth (fun m => if unstarted m then { m with flip := v } else m) n t.cmds }
    | 4 => { t with queues := mmod (fun _ => Queue.reset) t.queues (n % 8) (fun q => { q with kFlip := mark q.kFlip (n / 8 % 256) }) }
    | 5 => { t with me := { t.me with subs := mmod (fun _ => SubArr.reset) t.me.subs (n % 4) (strikeTile t.me.shape (n / 4)) } }
    | 6 => { t with accFlip := mark t.accFlip (n % (accSize / 4)) }
    | 7 => { t with spadFlip := mark t.spadFlip (n % (spadSize / 8)) }
    | _ => { t with atu := atNth (fun e => { e with par := true }) n t.atu })

/-- A line that the n-th address of a die's tier names. -/
def strikeLine (hw : Hw) (d n : Nat) : Nat :=
  (if d < 4 then encodeT0 (tierL hw) (3 * d + n % 3) (n / 3 % 32) (64 * (n / 96 % 2 ^ 25))
   else encodeT1 (tierM hw) (8 * (d - 4) + n % 8) (n / 8 % 8) (64 * (n / 64 % 2 ^ 28))) / 64

/-- A line that a slice of the die holds, the n-th of them. -/
def strikeHeld (hw : Hw) (d n : Nat) : Nat :=
  let ls := (hw.mem.slc.flatMap (fun e => e.2.flatMap (fun b => [2 * b.blk, 2 * b.blk + 1]))).filter (fun l => homeDie hw (64 * l) == d)
  atD (strikeLine hw d n) ls (n % max 1 ls.length)

/-- A bit error in the storage of a die that its cores do not hold (log 65, DESIGN CHOICE). -/
def strikeDie (d k n v : Nat) (hw : Hw) : Hw :=
  let mark := fun t : FMap Nat => fun i => mput (fun _ => 0) t i v
  let m := hw.mem
  let h := 36 * (d - 4) + n % 36
  let t := getHart hw h
  match k with
  | 9 => if d < 4 then setTree hw d { getTree hw d with
        par := ((getTree hw d).par ++ (((getTree hw d).cache.map (fun e => (e.1, e.2.1))).drop (n % 64)).take 1).dedup } else hw
  | 10 => setMem hw { m with slcFlip := mark m.slcFlip (strikeHeld hw d n) }
  | 11 => setMem hw { m with tagFlip := mark m.tagFlip (strikeHeld hw d n) }
  | 12 => setMem hw { m with filtFlip := mark m.filtFlip (strikeHeld hw d n) }
  | 13 => setMem hw { m with marked := mark m.marked (strikeLine hw d n) }
  | 14 => if d < 4 then hw else { hw with pcpFlip := mark hw.pcpFlip (d - 4) }
  | 15 => if d < 4 then hw else setHart hw h { t with flipD := (((t.lines.map (fun e => e.1)).drop (n / 36 % 4096)).take 1).foldl mark t.flipD }
  | 16 => if d < 4 then hw else setHart hw h { t with flipI := ((t.icache.drop (n / 36 % 1024)).take 1).foldl mark t.flipI }
  | _ => hw

/-- Storage takes bit errors at any time (R518, R519). When and where is open: at the end of each second of a die, one may
have come about anywhere on it, or none (log 65, DESIGN CHOICE). What it brings about shows when the storage is read. -/
def strike (d : Nat) (hw : Hw) : Hw :=
  let r := draw hw
  let n := r.1.toNat
  let k := n % 32
  if k ≤ 8 then (if d < 4 then strikeCore (128 * d + n / 32 % 128) k (n / 8192) (1 + n / 4096 % 2) r.2 else r.2)
  else strikeDie d k (n / 64) (1 + n / 32 % 2) r.2

/-- A second of a die ends: the count of corrected errors starts again (R517) (log 65, DESIGN CHOICE). -/
def ceWindow (d : Nat) (hw : Hw) : Hw := strike d (setDie hw d { getDie hw d with ceCount := 0, storm := false })

/-! #### Injections (R561) -/

/-- RAS_INJECT: arms the line's next write to memory, on the die whose controllers hold the line (log 91, DEDUCED). -/
def injectWrite (d : Nat) (v : Word) (hw : Hw) : Hw × Answer :=
  let line := bits v 51 6
  let kind := bits v 1 0
  if hw.locked ∨ !inTier (64 * line) ∨ homeDie hw (64 * line) ≠ d ∨ kind = 0 ∨ kind = 3 then did hw
  else did { hw with mem := { hw.mem with armed := mput (fun _ => none) hw.mem.armed d (some ⟨line, kind⟩) } }

/-! #### Views of the RAS blocks (R531, R532) -/

def rasStatus (hw : Hw) (d : Nat) : Word :=
  let q := logGet hw (Reg.rasLog d)
  let classes := (List.range 7).foldl (fun v c => if q.any (fun e => bits e.1 62 60 == c) then v + 2 ^ c else v) 0
  word (b2n hw.stop * 2 ^ 63 + q.length * 2 ^ 32 + classes)

def rasSum (hw : Hw) : Word :=
  word (b2n hw.stop * 2 ^ 63 + (List.range 6).foldl (fun v d => if logGet hw (Reg.rasLog d) = [] then v else v + 2 ^ d) 0)

/-! #### POP reads (R461, R562) -/

/-- A POP read of 64 bits, or of the high half: it removes an entry either way. -/
def popRead (by_ : Agent) (d addr : Nat) (high : Bool) (hw : Hw) : Hw × Answer :=
  if !mayAccess hw by_ then (errorResponse hw d 7 by_ 0 addr, errorAnswer by_ false)
  else if regHeld hw by_ d addr then (hw, .notEnabled)
  else
    let r := logPop hw by_ addr
    (r.2, .value (if high then r.1.1 >>> 32 else r.1.1))

/-- A POP read of a core's register: an absent core answers with the error response (R55). -/
def corePopRead (by_ : Agent) (c addr : Nat) (high : Bool) (hw : Hw) : Hw × Answer :=
  if corePresent hw c then popRead by_ (c / 128) addr high hw
  else (errorResponse hw (c / 128) 5 by_ 0 addr, errorAnswer by_ false)

/-- HCL_BERR_LOG_c: reading the last entry clears the hart's interrupt and overflow bits (R362). -/
def berrRead (by_ : Agent) (h : Nat) (high : Bool) (hw : Hw) : Hw × Answer :=
  if !mayAccess hw by_ then (errorResponse hw (hartDie h) 7 by_ 0 (berrLog h), errorAnswer by_ false)
  else if regHeld hw by_ (hartDie h) (berrLog h) then (hw, .notEnabled)
  else
    let r := berrPop hw by_ h
    (r.2, .value (if high then r.1.1 >>> 32 else r.1.1))

end Sys2Proof.Machine
end

