-- ==== Sys2Proof/Machine/RegView.lean ====
section
/-! DEFINITION. What a register read returns where the value is a view of the state and not a stored word (R14, R91, R94,
R126, R179, R180, R204, R236, R309, R310, R371, R414, R446, R492–R495, R514, R531, R532). -/

namespace Sys2Proof.Machine

/-! #### A core's blocks -/

/-- The bits of the queues that satisfy `p`. -/
def queueMask (p : Nat → Bool) : Nat := (List.range 8).foldl (fun v q => v + 2 ^ q * b2n (p q)) 0

/-- Whether a queue waits on translation at fetch (R236) (log 3, DESIGN CHOICE). -/
def fetchWaits (hw : Hw) (c q : Nat) : Bool :=
  match fetchingCmd hw c q with
  | some m => m.walking || faulted (getCore hw c) m.id
  | none => false

def qfeStatusView (hw : Hw) (c : Nat) : Word :=
  word (windowUsed hw c * 2 ^ 32 + queueMask (fetchWaits hw c) * 2 ^ 8 +
    queueMask (fun q => (getQueue hw c q).st == 1))

def qStatusView (hw : Hw) (c q : Nat) : Word :=
  let t := getQueue hw c q
  word ((getCore hw c).cmds.countP (fun m => m.q == q && inFlight m) % 4096 * 2 ^ 32 + 16 * b2n t.pinned + 8 * b2n t.br +
    4 * b2n (fetchWaits hw c q) + (if t.st = 3 then 2 else t.st))

def qRepView (hw : Hw) (c q : Nat) : Word :=
  match (getQueue hw c q).replay with
  | some r => word (r.rep % 2 ^ 32)
  | none => 0

/-- ATU_STATUS (R309). -/
def atuStatusView (hw : Hw) (c : Nat) : Word :=
  let t := getCore hw c
  let base := rget hw (Reg.atuFltBase c)
  let full : Bool := bit base 7 &&
    decide ((rbits hw (Reg.atuFltTail c) 31 0 + 2 ^ 32 - rbits hw (Reg.atuFltHead c) 31 0) % 2 ^ 32 ≥ 2 ^ bits base 4 0)
  let joined := fun q => t.cmds.any (fun m => m.q == q && (List.range 8).any (fun n => match slotGet t n with
    | some f => f.reqs.contains m.id
    | none => false))
  word (2 ^ 17 * b2n (t.slotWait != []) + 2 ^ 16 * b2n (full && (nextRecord t).isSome) + queueMask joined * 2 ^ 8 +
    queueMask (fun n => (slotGet t n).isSome))

def fltPendView (hw : Hw) (c n : Nat) : Word :=
  match slotGet (getCore hw c) n with
  | some f => word (2 ^ 63 + f.cause * 2 ^ 60 + f.level * 2 ^ 58 + f.acc * 2 ^ 56 + f.qmask * 2 ^ 40 + f.emask * 2 ^ 32 +
      f.seq % 65536 * 2 ^ 16 + f.ctx)
  | none => 0

def fltPvaView (hw : Hw) (c n : Nat) : Word :=
  match slotGet (getCore hw c) n with
  | some f => word (f.va % 2 ^ 57)
  | none => 0

/-- ME_STATUS (R126): under GATE the HOLD field shows whether a stream is in the array. -/
def meStatusView (hw : Hw) (c : Nat) : Word :=
  let me := (getCore hw c).me
  let m := fun p : SubArr → Bool => (List.range 4).foldl (fun v s => v + 2 ^ s * b2n (p (getSub me s))) 0
  let inside := m (fun x => x.inside != [])
  let hold := if hw.img.hold then me.hold else b2n (inside != 0)
  word (me.shape * 2 ^ 32 + hold * 2 ^ 24 + m (fun x => x.shadow.isSome) * 2 ^ 16 + m (fun x => x.active.isSome) * 2 ^ 8 + inside)

def veStatusView (hw : Hw) (c : Nat) : Word :=
  let cs := (getCore hw c).cmds.filter (fun m => hEng m.w == 2)
  word (cs.countP startedCmd * 2 ^ 32 + cs.countP (fun m => m.stage == .fifo))

def seStatusView (hw : Hw) (c : Nat) : Word :=
  word (queueMask (fun q => (getQueue hw c q).br) * 2 ^ 8 +
    queueMask (fun q => (getCore hw c).cmds.any (fun m => m.q == q && hEng m.w == 3 && m.stage == .fifo)))

/-- CORE_ID (R91): revision 1.0 (log 5, DESIGN CHOICE), die, group, core, flat index. -/
def coreIdView (c : Nat) : Word := word (2 ^ 40 + c / 128 * 2 ^ 24 + c % 128 / 8 * 2 ^ 20 + c % 8 * 2 ^ 16 + c)

/-- The views of a core's blocks, by sub-block and offset. -/
def coreView (hw : Hw) (c s off : Nat) : Option Word :=
  match s with
  | 0 => if off = 0 then some (coreIdView c) else if off = 8 then some (coreStatusView hw c)
    else if off = 0x18 ∧ coreFenced hw c = true then some 2 else none
  | 1 => if off = 8 then some (qfeStatusView hw c)
    else if 0x100 ≤ off ∧ off < 0x500 then
      (if off % 0x80 = 0x28 then some (qStatusView hw c ((off - 0x100) / 0x80))
       else if off % 0x80 = 0x60 then some (qRepView hw c ((off - 0x100) / 0x80)) else none)
    else none
  | 2 => if off = 8 then some (atuStatusView hw c)
    else if 0x100 ≤ off ∧ off < 0x180 then
      (if off % 0x10 = 0 then some (fltPendView hw c ((off - 0x100) / 0x10)) else some (fltPvaView hw c ((off - 0x100) / 0x10)))
    else none
  | 3 => if off = 0x18 then some (bankPend hw c) else if off = 0x20 then some (word (bankHoldMask hw c)) else none
  | 4 => if off = 8 then some (meStatusView hw c) else none
  | 5 => if off = 8 then some (veStatusView hw c) else none
  | 6 => if off = 8 then some (seStatusView hw c) else none
  | _ => none

/-! #### Die and package blocks -/

/-- WLK_INV_STATUS (R310). -/
def invStatusView (hw : Hw) (d : Nat) : Word :=
  let n := (getTree hw d).invs.length
  word (256 * b2n (decide (16 ≤ n)) + n)

def secFuseView (hw : Hw) (sec : Sec) (a : Nat) : Word :=
  word (2 ^ 63 * b2n hw.locked + 2 ^ 62 * b2n (a == hw.pkg.primary && sec.mon.unlocked) + sec.fuseSvn * 2 ^ 32 + sec.revoked.toNat)

/-- The views of a PCP block (R446, R492, R514, R532, R337). -/
def pcpView (hw : Hw) (sec : Sec) (a off : Nat) : Option Word :=
  if off = 0xA008 then some (word hw.migs.length)
  else if off = 0xC038 then some (fabPorts hw)
  else if off = 0xC048 then some (routeData hw (rbits hw (Reg.pcpFabRtIdx a) 11 0))
  else if off = 0xD010 then some (pwrStatus hw)
  else if off = 0xE000 then some (bootStatus hw sec a)
  else if off = 0xE038 then some (secFuseView hw sec a)
  else if off = 0xE048 then some (word sec.measDone.toNat)
  else if 0xE100 ≤ off ∧ off < 0xE1C0 then some (measWord sec ((off - 0xE100) / 32) ((off - 0xE100) % 32 / 8))
  else if off = 0xF000 then some (rasSum hw)
  else none

/-- The views of a die's blocks; RAS_LOG_W1 is the reader's own (R529). -/
def dieView (by_ : Agent) (hw : Hw) (sec : Sec) (d b off : Nat) : Option Word :=
  if b = 2 then
    (if off = 8 then some (rasStatus hw d)
     else if off = 0x18 then some (lastPopped hw by_ (Reg.rasLog d)).2
     else if off = 0x50 then some (scrubView hw d) else none)
  else if b = 3 ∧ off = 0x20 then some (halfIn hw (d - 4))
  else if b = 4 ∧ 0x80 ≤ off ∧ off < 0xC0 then some (ertEdge hw ((off - 0x80) / 8))
  else if b = 6 ∧ off = 0x30 then some (invStatusView hw d)
  else if d < 4 ∧ 0x30 ≤ b ∧ b ≤ 0x3F then
    (let g := 16 * d + (b - 0x30)
     if off = 0 then some (cgStatusView hw g) else if off = 0x100 then some (cgClkStatus hw g) else none)
  else if b = 0x50 then pcpView hw sec (d - 4) off
  else if 0x60 ≤ b ∧ b ≤ 0x62 ∧ off = 8 then some (hclStatus hw (3 * (d - 4) + (b - 0x60)))
  else none

/-- What a read of a register shows (log 3, DESIGN CHOICE; log 4, DESIGN CHOICE). -/
def regView (by_ : Agent) (hw : Hw) (sec : Sec) : Blk → Nat → Option Word
  | .core c s, off => coreView hw c s off
  | .die d b, off => dieView by_ hw sec d b off

/-! #### Which offsets a block answers -/

/-- The registers of its own that a secondary's PCP block has (R515) (log 63, DEDUCED). -/
def secondaryHas (off : Nat) : Bool :=
  [0xE000, 0xE008, 0xE010, 0xE018, 0xE028, 0xE030, 0xE038].contains off || (decide (0xE080 ≤ off) && decide (off < 0xE0D0))

/-- The row at an aligned offset of a block, with the instance: none where the offset is unimplemented (R13, R55, R515)
(log 63, DEDUCED; log 64, DEDUCED). -/
def rowAt (hw : Hw) (b : Blk) (off : Nat) : Option (RegRow × Nat) :=
  match b with
  | .core c _ => if corePresent hw c then findRow (rowsOf b) off else none
  | .die d k =>
    if k = 0x50 ∧ d - 4 ≠ hw.pkg.primary ∧ secondaryHas off = false then none
    else if k = 4 ∧ modElsewhere d off = true then none
    else findRow (rowsOf b) off

/-- A counter of a domain that the part has fused off reads as zero (R45). -/
def domainFused (hw : Hw) : Blk → Nat → Bool
  | .die d b, off =>
    (b == 1 && decide (d < 4) && decide (0x100 ≤ off ∧ off < 0x180) && !groupPresent hw (16 * d + (off - 0x100) / 8)) ||
    (decide (d < 4) && decide (0x30 ≤ b ∧ b ≤ 0x3F) && !groupPresent hw (16 * d + (b - 0x30)))
  | .core _ _, _ => false

/-- A generator is out of lock (R37, R46). -/
def unlocked (hw : Hw) (d gen : Nat) : Bool := !rbit hw (Reg.clkPllStatus d) gen

/-- The clock of a group stands still: the group is OFF or its generator is lost (R43). -/
def aclkStopped (hw : Hw) (g : Nat) : Bool := groupState hw g == 2 || unlocked hw (g / 16) (g % 16)

/-- A counter of time holds its value while its domain's clock is stopped (R43); flits of an upstream port count while its
link is up. -/
def clockStopped (hw : Hw) : Blk → Nat → Bool
  | .core c _, _ => aclkStopped hw (c / 8)
  | .die d b, off =>
    if b = 1 ∧ off = 0x10 then false
    else if b = 1 ∧ off = 0x18 then unlocked hw d 17
    else if b = 1 ∧ 0x100 ≤ off then (if d < 4 then aclkStopped hw (16 * d + (off - 0x100) / 8) else unlocked hw d ((off - 0x100) / 8))
    else if d < 4 ∧ 0x30 ≤ b ∧ b ≤ 0x3F then aclkStopped hw (16 * d + (b - 0x30))
    else if b = 0x40 then rbits hw (Reg.cxuStatus (d - 4)) 49 48 == 0
    else unlocked hw d 16

/-! #### Counters of time (R15, R43) -/

/-- A core's fetch waits on translation, one of its accesses to the scratchpad has been served, or an engine has begun:
how often, for a counter of a core. -/
def coreTally (hw : Hw) (c s off : Nat) : Nat :=
  let n := fun e => mget (fun _ => 0) (getCore hw c).begun e
  match s with
  | 0 => n ((off - 0x40) / 8 + 1)
  | 1 => rbits hw (Reg.atuMissCnt c) 63 0 + rbits hw (Reg.atuFltCnt c) 63 0 + rbits hw (Reg.atuJoinCnt c) 63 0
  | 3 => n 1 + n 2 + n 3 + n 4 + n 5
  | 4 =>
    let me := (getCore hw c).me
    let subs := me.subs.map (fun e => e.2)
    let entered := rbits hw (Reg.meStreamCnt c) 63 0 + (subs.map (fun a => a.inside.length)).sum
    if off = 0x50 ∧ !rbit hw (Reg.mePolicy c) 0 then mget (fun _ => 0) hw.tallied (Reg.meHoldCnt c) / 2
    else if off = 0x40 then entered + subs.countP (fun a => a.assigned.isSome) else entered
  | _ => n 2

/-- What a counter of time counts is going on in a core. -/
def coreTicks (hw : Hw) (c s off : Nat) : Bool :=
  match s with
  | 0 => engineBusy hw c ((off - 0x40) / 8 + 1)
  | 1 => (List.range 8).any (fetchWaits hw c)
  | 3 => [1, 2, 3, 4].any (engineBusy hw c)
  | 4 =>
    let me := (getCore hw c).me
    if off = 0x50 then rbit hw (Reg.mePolicy c) 0 && me.hold != 0
    else if off = 0x40 then me.subs.any (fun e => e.2.assigned.isSome) else me.subs.any (fun e => e.2.inside != [])
  | _ => engineBusy hw c 2

/-- How often a cause of a counter of time has come about, as far as another counter tells it; 0 where `touch` tells it. -/
def cycTally (hw : Hw) : Blk → Nat → Nat
  | .core c s, off => coreTally hw c s off
  | .die d b, off =>
    if b = 5 then rbits hw (Reg.semInCnt d) 63 0
    else if b = 6 then rbits hw (Reg.wlkWalkCnt d) 63 0
    else if b = 0x20 then rbits hw (Reg.slcHitCnt d) 63 0 + rbits hw (Reg.slcMissCnt d) 63 0 + rbits hw (Reg.slcSnpCnt d) 63 0
    else if d < 4 ∧ 0x30 ≤ b ∧ b ≤ 0x3F ∧ off = 0x128 then rbits hw (Reg.cgRampCnt (16 * d + (b - 0x30))) 63 0
    else 0

/-- What a counter of time counts is going on. -/
def cycTicks (hw : Hw) : Blk → Nat → Bool
  | .core c s, off => coreTicks hw c s off
  | .die d b, _ =>
    if b = 5 then (getTree hw d).nodes.any (fun e => !e.2.isEmpty)
    else if b = 6 then !(getTree hw d).walks.isEmpty
    else if b = 0x20 then hw.mem.homes.any (fun e => e.2.busy.isSome && homeDie hw (64 * e.1) == d)
    else if d < 4 ∧ 0x30 ≤ b ∧ b ≤ 0x3F then
      decide (1 < kOf (getGp hw (16 * d + (b - 0x30))))
    else true

/-- A read of a counter of time (R15, R43): it has advanced by some amount if what it counts goes on with its clock running,
or has come about since the last read; else it reads as it last did (log 4, DESIGN CHOICE). A read of a clock's own counter
finds the counts that no register shows advanced as well. -/
def cycRead (hw : Hw) (b : Blk) (off : Nat) : Hw × Word :=
  let a := blkAddr b off
  let n := cycTally hw b off
  let ticks := cycTicks hw b off && !clockStopped hw b off
  if !ticks && mget (fun _ => 0) hw.tallied a == 2 * n then (hw, rget hw a)
  else
    let hw0 := match b with
      | .die _ 1 => clocksRun hw
      | _ => hw
    let x := clockNow hw0 a
    ({ x.1 with tallied := mput (fun _ => 0) x.1.tallied a (2 * n + b2n ticks) }, x.2)

end Sys2Proof.Machine
end

