-- ==== Sys2Proof/Machine/Bus.lean ====
section
/-! DEFINITION. An access to a local address by a hart, a PCP, the monitor or an upstream port (R12, R14, R16, R49–R64):
register reads and writes with their access checks, scratchpads and accumulators, interrupt files, port windows. -/

namespace Sys2Proof.Machine

/-! #### Register writes (R12, R14, R16) -/

/-- A write to a register without an effect of its own: RW takes the defined bits, W1C clears, WO, RO and POP take
nothing. -/
def plainWrite (r : RegRow) (addr : Nat) (v : Word) (hw : Hw) : Hw :=
  match r.acc with
  | .rw => rset hw addr (v &&& word r.mask)
  | .w1c => rset hw addr (rget hw addr &&& ~~~ (v &&& word r.mask))
  | _ => hw

/-- A register whose values outside lo to hi are ignored. -/
def rangedWrite (addr lo hi v : Nat) (hw : Hw) : Hw := if lo ≤ v ∧ v ≤ hi then rsetN hw addr v else hw

/-- The effect of a 64-bit write to a core's register. -/
def coreWrite (c s off : Nat) (r : RegRow) (v : Word) (hw : Hw) : Hw × Answer :=
  let addr := blkAddr (.core c s) off
  let plain := did (plainWrite r addr v hw)
  match s with
  | 0 => if off = 0x10 then coreCtrlWrite c v hw else plain
  | 1 =>
    if off = 0x10 then dbQueueWrite c v hw
    else if 0x100 ≤ off ∧ off < 0x500 then
      let q := (off - 0x100) / 0x80
      match off % 0x80 with
      | 0x00 => qCtrlWrite c q v hw
      | 0x08 => qOffWrite c q addr r.mask v hw
      | 0x10 => qOffWrite c q addr r.mask v hw
      | 0x30 => qCqWrite c q v hw
      | 0x58 => qRestartWrite c q v hw
      | _ => plain
    else plain
  | 2 => if off = 0x10 then fltBaseWrite c v hw else if off = 0x28 then fltResumeWrite c v hw else plain
  | 3 => if off = 8 then bankGateWrite c v hw else if 0x100 ≤ off then creditWrite c ((off - 0x100) / 8) v hw else plain
  | _ => plain

/-- The effect of a 64-bit write to a register of a die window, but for PCP_RESET. -/
def dieWrite (d b off : Nat) (r : RegRow) (v : Word) (hw : Hw) : Hw × Answer :=
  let addr := blkAddr (.die d b) off
  let plain := did (plainWrite r addr v hw)
  if b = 2 then (if off = 0x58 then injectWrite d v hw else plain)
  else if b = 4 then (if off = 8 then did (rangedWrite addr 1 65535 (bits v 15 0) hw) else plain)
  else if b = 6 then
    (if off = 8 then ctxBaseWrite d v hw else if off = 0x20 then doneAddrWrite d v hw
     else if off = 0x18 then invReqWrite d v hw else plain)
  else if 0x10 ≤ b ∧ b ≤ 0x17 then
    (let k := if d < 4 then 3 * d + (b - 0x10) else 12 + 8 * (d - 4) + (b - 0x10)
     if off = 0x28 then mrgCmdWrite k v hw else if off = 0x38 then tgCtrlWrite k v hw else plain)
  else if b = 0x20 then (if off = 8 then slcCtrlWrite v hw else plain)
  else if 0x30 ≤ b ∧ b ≤ 0x3F then
    (if d < 4 then
      (let g := 16 * d + (b - 0x30)
       if off = 8 then cgPwrWrite g v hw else if off = 0x10 then cgPartWrite g v hw else plain)
     else
      (let p := 8 * (d - 4) + (b - 0x30)
       if off = 0x10 then optCtrlWrite p v hw else if off = 0x18 then optCmdWrite p v hw else plain))
  else if b = 0x40 then (if off = 0x20 then did (msixFire hw (d - 4) (bits v 10 0)) else plain)
  else if b = 0x41 then (if off = 0x10 then did (rangedWrite addr 50 64000 (bits v 16 0) hw) else plain)
  else if b = 0x42 then
    (let w := (off - 0x1000) / 0x20
     if off = 8 then iotInvWrite (d - 4) v hw
     else if off < 0x1000 then plain
     else if off % 0x20 = 8 then iotTgtWrite (d - 4) w v hw
     else iotBaseWrite (d - 4) addr w (v &&& word r.mask) hw)
  else if b = 0x50 then
    (let a := d - 4
     if off = 0xA020 then mretWrite a v hw
     else if 0xA100 ≤ off ∧ off < 0xA2E0 ∧ off % 0x20 = 0 then mpoolWrite a ((off - 0xA100) / 0x20) v hw
     else if off = 0xC030 then did (rangedWrite addr 100 100000 (bits v 16 0) hw)
     else if off = 0xD008 then plSusWrite v hw
     else if 0xD100 ≤ off ∧ off < 0xD300 then partCapWrite ((off - 0xD100) / 8) v hw
     else plain)
  else plain

/-- The 64-bit value a write of `size` bytes at `off` amounts to (R12): the other half of an RW register stays, that of a
W1C or WO register is zero. -/
def widened (r : RegRow) (old : Word) (off size : Nat) (v : Word) : Word :=
  if size = 8 then v
  else
    let base := if r.acc = .rw then old else 0
    if off % 8 = 0 then setBits base 31 0 v.toNat else setBits base 63 32 v.toNat

/-- A 32-bit write to a register whose write starts something, by the half it names (R12): the half that names no state, no
run and no partition starts nothing and is stored alone. -/
def halfWrite (b : Blk) (o : Nat) (high : Bool) (w : Word) (r : RegRow) (hw : Hw) : Option Hw :=
  let addr := blkAddr b o
  match b with
  | .core _ s => if s = 3 ∧ 0x100 ≤ o ∧ bits w 63 62 = 0 then some (rset hw addr (w &&& word r.mask)) else none
  | .die d k =>
    if 0x10 ≤ k ∧ k ≤ 0x17 ∧ o = 0x38 ∧ high = true then some (rset hw addr (w &&& word r.mask))
    else if d < 4 ∧ 0x30 ≤ k ∧ k ≤ 0x3F ∧ (o = 8 ∨ o = 0x10) ∧ high = true then some hw
    else none

/-- R12's sizes and alignments. -/
def regAccessOk (off size : Nat) : Bool := (size == 4 || size == 8) && off % size == 0

/-- The die of a block. -/
def blkDie : Blk → Nat
  | .core c _ => c / 128
  | .die d _ => d

/-- A write to a register block, accessed at `addr`; writes to RO and POP registers are ignored. -/
def regWrite (by_ : Agent) (addr : Nat) (b : Blk) (off size : Nat) (v : Word) (hw : Hw) (sec : Sec) : Hw × Sec × Answer :=
  let keep := fun r : Hw × Answer => (r.1, sec, r.2)
  match rowAt hw b (off - off % 8) with
  | none => keep (writeRefused hw (blkDie b) 5 by_ addr)
  | some (r, _) =>
    if !regAccessOk off size then keep (writeRefused hw (blkDie b) 6 by_ addr)
    else
      let o := off - off % 8
      let w := widened r (rget hw (blkAddr b o)) off size v
      if r.acc = .ro ∨ r.acc = .pop then (hw, sec, .done)
      else match (if size = 4 then halfWrite b o (off % 8 == 4) w r hw else none) with
      | some h => (h, sec, .done)
      | none => match b with
        | .core c s => keep (coreWrite c s o r w hw)
        | .die d k => if k = 0x50 ∧ o = 0xE028 then pcpResetWrite w hw sec else keep (dieWrite d k o r w hw)

/-! #### Register reads -/

/-- An access gets the error response. -/
def readRefused (hw : Hw) (d cause : Nat) (by_ : Agent) (addr : Nat) : Hw × Answer :=
  (errorResponse hw d cause by_ 0 addr, errorAnswer by_ false)

/-- The half a 32-bit read names. -/
def halved (off size : Nat) (v : Word) : Word :=
  if size = 8 then v else if off % 8 = 0 then word (bits v 31 0) else word (bits v 63 32)

/-- A read of a POP register (R461, R562). -/
def popAt (by_ : Agent) (b : Blk) (off size : Nat) (hw : Hw) : Hw × Answer :=
  let o := off - off % 8
  let addr := blkAddr b o
  if size = 4 ∧ off % 8 = 0 then (hw, .value (word (bits (lastPopped hw by_ addr).1 31 0)))
  else
    let r := match b with
      | .die d k =>
        if 0x60 ≤ k then berrPop hw by_ (12 * (3 * (d - 4) + (k - 0x60)) + (o - 0x100) / 8) else logPop hw by_ addr
      | .core _ _ => logPop hw by_ addr
    (r.2, .value (halved off size r.1.1))

/-- Whether a register shows how far boot step 7 has come (R350–R352). -/
def showsBringUp : Blk → Nat → Bool
  | .die _ b, o => (decide (0x10 ≤ b ∧ b ≤ 0x17) && o == 8) || (b == 0x50 && o == 0xB000)
  | .core _ _, _ => false

/-- A read of a register block, accessed at `addr`. -/
def regRead (by_ : Agent) (addr : Nat) (b : Blk) (off size : Nat) (hwOld : Hw) (sec : Sec) : Hw × Answer :=
  let o := off - off % 8
  let hw := if showsBringUp b o && sec.step == 6 && sec.halts == [] then bringOn (coldBring sec) hwOld else hwOld
  match rowAt hw b o with
  | none => readRefused hw (blkDie b) 5 by_ addr
  | some (r, _) =>
    if !regAccessOk off size then readRefused hw (blkDie b) 6 by_ addr
    else match r.acc with
      | .pop => popAt by_ b off size hw
      | .wo => (hw, .value 0)
      | _ =>
        match regView by_ hw sec b o with
        | some v => (hw, .value (halved off size v))
        | none =>
          if r.cyc && !domainFused hw b o then
            let x := cycRead hw b o
            (x.1, .value (halved off size x.2))
          else (hw, .value (halved off size (rget hw (blkAddr b o))))

/-! #### Any local address -/

/-- The PCP block behind the package window (R58) (log 63, DEDUCED). -/
def pcpOf (hw : Hw) : Blk := .die (4 + hw.pkg.primary) 0x50

/-- The block and offset of a register address (log 64, DEDUCED). -/
def blkOf (hw : Hw) (a : Nat) : Option (Blk × Nat) :=
  match locate a with
  | .reg b off => some (b, off)
  | .pkgReg off => some (pcpOf hw, off)
  | _ => none

/-- A poisoned or good answer. -/
def dataAnswer (bs : List Byte) (poison : Bool) : Answer := if poison then .poisoned bs else .value (word (leNat bs))

/-- A read of `size` bytes at a local address; `who` waits for a downstream completion. -/
def busRead (by_ : Agent) (who : DsWho) (a size : Nat) (hw : Hw) (sec : Sec) : Hw × Answer :=
  let ag := busAgent hw by_
  let refuse := fun cause => readRefused hw (dieOfAddr hw a ag) cause by_ a
  if !mayAccess hw by_ then refuse 7
  else if meshHeld hw (dieOfAgent ag) (dieOfAddr hw a ag) a then (hw, .notEnabled)
  else match locate a with
  | .tier0 | .tier1 =>
    if fencedHome hw ag a then refuse 7
    else match pocReadN 3 hw ag a size with
      | some (h, bs, p) => (consumed h by_ a p, dataAnswer bs p)
      | none => (hw, .notEnabled)
  | .spad c off => (match spadReadBy hw ag c off size with
    | some (h, bs, p) => (consumed h by_ a p, dataAnswer bs p)
    | none => refuse (readCause hw ag c off size))
  | .acc c off => (match accReadBy hw ag c off size with
    | some (h, bs, p) => (consumed h by_ a p, dataAnswer bs p)
    | none => refuse (readCause hw ag c off size))
  | .reg b off => regRead by_ a b off size hw sec
  | .pkgReg off => regRead by_ a (pcpOf hw) off size hw sec
  | .imsic _ _ off => if size = 4 ∧ off % 4 = 0 then (hw, .value 0) else refuse 6
  | .port p off => (match by_ with
    | .upstream _ => refuse 7
    | _ => if cxdUp hw p || ownHeader off then (dsRead hw p a size who, .pending) else refuse 5)
  | .hole _ => refuse 5

/-- A write to an interrupt file: seteipnum_le makes an identity pending (R57, R61) (log 36, PRESUMED; log 66, DESIGN
CHOICE). -/
def imsicWrite (h f off v : Nat) (hw : Hw) : Hw := if off = 0 ∧ 0 < v ∧ v < 2048 then imsicPend hw h f v else hw

/-- A write of the low `size` bytes of `v` at a local address. A write to a port window leaves as a posted write, in the
configuration space as a non-posted one for which `who` waits. -/
def busWrite (by_ : Agent) (who : DsWho) (a size : Nat) (v : Word) (hw : Hw) (sec : Sec) : Hw × Sec × Answer :=
  let ag := busAgent hw by_
  let keep := fun r : Hw × Answer => (r.1, sec, r.2)
  let refuse := fun cause => keep (writeRefused hw (dieOfAddr hw a ag) cause by_ a)
  if !mayAccess hw by_ then refuse 7
  else if meshHeld hw (dieOfAgent ag) (dieOfAddr hw a ag) a then (hw, sec, .notEnabled)
  else match locate a with
  | .tier0 | .tier1 =>
    if fencedHome hw ag a then refuse 7
    else match pocWriteN 3 hw ag a (leBytes size v.toNat) false 0 0 with
      | some h => (h, sec, .done)
      | none => (hw, sec, .notEnabled)
  | .spad c off => keep (spadWriteRow ag c off (leBytes size v.toNat) hw)
  | .acc c off => refuse (if !corePresent hw c then 5 else if !spadAccess ag off size then 6 else 7)
  | .reg b off => regWrite by_ a b off size v hw sec
  | .pkgReg off => regWrite by_ a (pcpOf hw) off size v hw sec
  | .imsic h f off => if size = 4 ∧ off % 4 = 0 then (imsicWrite h f off (bits v 31 0) hw, sec, .done) else refuse 6
  | .port p off => (match by_ with
    | .upstream _ => refuse 7
    | _ =>
      if !cxdUp hw p && !ownHeader off then refuse 5
      else if 0x10000000 ≤ off then (dsPost hw p a (leBytes size v.toNat) false, sec, .done)
      else (dsWrite hw p a (leBytes size v.toNat) who, sec, .pending))
  | .hole _ => refuse 5

end Sys2Proof.Machine
end

