-- ==== Sys2Proof/Machine/Monitor.lean ====
section
/-! DEFINITION. The Tahr monitor (R534–R541): its commands, the accesses it makes, its line protocol. Text goes out on the
primary's MON_TX. -/

namespace Sys2Proof.Machine

/-! #### Answers -/

/-- A command of R538 with its arguments. -/
inductive MonCmd
  | help
  | id
  | peek (a size : Nat)
  | poke (a size : Nat) (v : Nat)
  | dump (a n : Nat)
  | cnt (die core : Option Nat)
  | pwr
  | link
  | margin (d c u : Nat)
  | tg (d c mask pattern op start len : Nat)
  | log (die : Option Nat)
  | chal
  | upload (n : Nat)
  | unlock (k : Nat)
  | lock
  | reset
  | revoke (k : Nat)
  deriving DecidableEq, Repr

/-- A command so far: what it has changed and printed, and its final line unless it waits. -/
structure MonRun where
  hw    : Hw
  sec   : Sec
  text  : List Byte
  final : Option (List Byte)

/-- The final lines of R540. -/
def monErr (cc : Nat) : List Byte :=
  let name := match cc with
    | 1 => "SYNTAX" | 2 => "LOCKED" | 3 => "BUS" | 4 => "RANGE" | 5 => "BUSY" | 6 => "STATE" | 7 => "TIMEOUT" | 8 => "CRC"
    | 9 => "NOCHAL" | 10 => "BADSIG" | 11 => "NOKEY" | 12 => "OVERRUN" | 13 => "ABORT" | _ => "RATE"
  ascii "ERR " ++ hexDigits 2 cc ++ ascii " " ++ ascii name

def MonRun.ok (hw : Hw) (sec : Sec) (text : List Byte) : MonRun := ⟨hw, sec, text, some (ascii "OK")⟩
def MonRun.fail (hw : Hw) (sec : Sec) (text : List Byte) (cc : Nat) : MonRun := ⟨hw, sec, text, some (monErr cc)⟩

/-- A command that goes on waiting. -/
def MonRun.hold (hw : Hw) (sec : Sec) (text : List Byte) (w : MonWait) : MonRun :=
  ⟨hw, { sec with mon := { sec.mon with wait := w } }, text, none⟩

/-- NAME = v. -/
def monValue (name : List Byte) (v : Word) : List Byte := textLine (name ++ ascii " = " ++ hexWord v.toNat)

/-! #### Accesses (R535, R536) -/

/-- What an access of the monitor finds: a value, the error response, a blocked line or a request gone out. -/
inductive MonGot
  | value (v : Word)
  | error
  | held (issued : Bool)

/-- A read; one that meets poison gets the bytes (R521). -/
def monFetch (a size : Nat) (hw : Hw) (sec : Sec) : Hw × MonGot :=
  let r := busRead .monitor (.agent .monitor) a size hw sec
  match r.2 with
  | .value v => (r.1, .value v)
  | .poisoned bs => (r.1, .value (word (leNat bs)))
  | .pending => (r.1, .held true)
  | .notEnabled => (r.1, .held false)
  | _ => (r.1, .error)

/-- Whether the address is a POP register's (R460). -/
def monPop (hw : Hw) (a : Nat) : Bool :=
  match blkOf hw a with
  | some (b, off) => (match rowAt hw b (off - off % 8) with
    | some (r, _) => r.acc == .pop
    | none => false)
  | none => false

/-- The result of a PEEK. -/
def peekText (a size : Nat) (v : Word) : List Byte :=
  textLine (hexAddr a ++ ascii " = " ++ (if size = 4 then hexWord32 v.toNat else hexWord v.toNat))

def peekGot (a size : Nat) (hw : Hw) (sec : Sec) : MonGot → MonRun
  | .value v => MonRun.ok hw sec (peekText a size v)
  | .error => MonRun.fail hw sec [] 3
  | .held i => MonRun.hold hw sec [] (.access i (.peek a size))

/-- One value of a DUMP: four to a line. -/
def dumpCell (left col : Nat) (cell : List Byte) : List Byte :=
  if left = 0 ∨ col % 4 = 3 then textLine cell else cell ++ ascii " "

/-- The rest of a DUMP: `left` words from `a` on (log 56, DESIGN CHOICE). -/
def dumpGo : Nat → Nat → Nat → List Byte → Hw → Sec → MonRun
  | 0, _, _, text, hw, sec => MonRun.ok hw sec text
  | left + 1, a, col, text, hw, sec =>
    if monPop hw a then dumpGo left (a + 8) (col + 1) (text ++ dumpCell left col (ascii "----")) hw sec
    else
      match monFetch a 8 hw sec with
      | (h, .value v) => dumpGo left (a + 8) (col + 1) (text ++ dumpCell left col (hexWord v.toNat)) h sec
      | (h, .error) => MonRun.fail h sec text 3
      | (h, .held i) => MonRun.hold h sec text (.access i (.dump a (left + 1) col))

/-- A POKE's answer. A reset that the write has started ends the command without a final line (R541). -/
def pokeEnd (job : MonJob) (r : Hw × Sec × Answer) : MonRun :=
  if !monUp r.2.1 then ⟨r.1, r.2.1, [], none⟩
  else match r.2.2 with
    | .done => MonRun.ok r.1 r.2.1 []
    | .pending => MonRun.hold r.1 r.2.1 [] (.access true job)
    | .notEnabled => MonRun.hold r.1 r.2.1 [] (.access false job)
    | _ => MonRun.fail r.1 r.2.1 [] 3

/-- Make an access. -/
def jobRun (job : MonJob) (hw : Hw) (sec : Sec) : MonRun :=
  match job with
  | .peek a size => let r := monFetch a size hw sec; peekGot a size r.1 sec r.2
  | .poke a size v => pokeEnd job (busWrite .monitor (.agent .monitor) a size v hw sec)
  | .dump a left col => dumpGo left a col [] hw sec

/-- An access whose request went out has ended: with a value, or with the error response. -/
def jobGot (job : MonJob) (got : Option Word) (done : Bool) (hw : Hw) (sec : Sec) : MonRun :=
  match job, got with
  | .peek a size, some v => MonRun.ok hw sec (peekText a size v)
  | .dump a (left + 1) col, some v => dumpGo left (a + 8) (col + 1) (dumpCell left col (hexWord v.toNat)) hw sec
  | .poke _ _ _, _ => if done then MonRun.ok hw sec [] else MonRun.fail hw sec [] 3
  | _, _ => MonRun.fail hw sec [] 3

/-- Registers printed one a line; the first error response ends the command. -/
def regLines : List (List Byte × Nat) → List Byte → Hw → Sec → MonRun
  | [], text, hw, sec => MonRun.ok hw sec text
  | (name, a) :: rs, text, hw, sec =>
    match monFetch a 8 hw sec with
    | (h, .value v) => regLines rs (text ++ monValue name v) h sec
    | (h, _) => MonRun.fail h sec text 3

/-! #### Counters (R43, R487, R538) -/

/-- Whether a string holds another. -/
def hasPart (part : List Char) : List Char → Bool
  | [] => part == []
  | c :: cs => part.isPrefixOf (c :: cs) || hasPart part cs

/-- The RO counters: events and cycles by their name, energies by theirs. -/
def isCounter (r : RegRow) : Bool :=
  r.acc == .ro && (hasPart "_CNT".toList r.name.toList ||
    ["ENG_CORE_E", "ENG_IDLE_E", "ENG_Q_E_q", "PWR_E_DIE", "CG_E", "PCP_E_PKG", "PCP_E_UNATTR", "PCP_PART_E_n"].contains r.name)

/-- The counters of a block, by name and address; an instance's number stands in place of its letter. -/
def blkCounters (hw : Hw) (b : Blk) : List (List Byte × Nat) :=
  ((rowsOf b).filter isCounter).flatMap (fun r =>
    (List.range r.n).filterMap (fun i =>
      let off := r.off + i * r.stride
      let name := if r.n = 1 then ascii r.name else (ascii r.name).dropLast ++ decimal i
      if (rowAt hw b off).isSome then some (name, blkAddr b off) else none))

def dieCounters (hw : Hw) (d : Nat) : List (List Byte × Nat) :=
  ((List.range 0x63).filter (fun b => dieHasBlock d b)).flatMap (fun b => blkCounters hw (.die d b))

def coreCounters (hw : Hw) (c : Nat) : List (List Byte × Nat) :=
  (List.range 10).flatMap (fun s => blkCounters hw (.core c s))

/-! #### Controllers (R348, R538) -/

/-- The controller of a die by its number there; none where the die has none. -/
def ctlNo (d c : Nat) : Option Nat :=
  if d < 4 ∧ c < 3 then some (3 * d + c) else if 4 ≤ d ∧ d < 6 ∧ c < 8 then some (12 + 8 * (d - 4) + c) else none

/-- MARGIN starts a test, or says why not. -/
def monMargin (k u : Nat) (hw : Hw) (sec : Sec) : MonRun :=
  let e := testRefusal hw k
  let h := (mrgCmdWrite k (word u) hw).1
  if e = 0 then MonRun.hold h sec [] (.margin k u) else MonRun.fail h sec [] (if e = 2 then 5 else 6)

/-- A margining run the monitor waits for has ended. -/
def marginText (k u : Nat) (hw : Hw) : List Byte :=
  monValue (ascii "MRG_T") (rget hw (ctlMrgT k u)) ++ monValue (ascii "MRG_V") (rget hw (ctlMrgV k u))

/-- TG (R538) (log 57, DEDUCED). -/
def monTg (k mask pattern op start len : Nat) (hw : Hw) (sec : Sec) : MonRun :=
  let e := testRefusal hw k
  let hw1 := rsetN hw (ctlTgRange k) (len * 2 ^ 32 + start)
  let h := (tgCtrlWrite k (word (mask * 2 ^ 32 + pattern * 256 + op * 16 + 1)) hw1).1
  if e = 0 then MonRun.hold h sec [] (.traffic k) else MonRun.fail h sec [] (if e = 2 then 5 else 6)

/-- Pop a register until it is empty, printing each entry. -/
def popAll (addr : Nat) : Nat → List Byte → Hw → Hw × List Byte
  | 0, text, hw => (hw, text)
  | n + 1, text, hw =>
    let r := logPop hw .monitor addr
    if bit r.1.1 63 then popAll addr n (text ++ textLine (hexWord r.1.1.toNat)) r.2 else (r.2, text)

def trafficRun (k : Nat) (hw : Hw) (sec : Sec) : MonRun :=
  let head := monValue (ascii "TG_STATUS") (rget hw (ctlTgStatus k)) ++ monValue (ascii "TG_ERR_CNT") (rget hw (ctlTgErrCnt k))
  let r := popAll (ctlTgErrLog k) 17 head hw
  MonRun.ok r.1 sec r.2

/-! #### LOG (R529, R538) -/

/-- Pop a die's records, printing both words of each; the number of them. -/
def logDie (d : Nat) : Nat → Nat → List Byte → Hw → Hw × Nat × List Byte
  | 0, k, text, hw => (hw, k, text)
  | n + 1, k, text, hw =>
    let r := logPop hw .monitor (Reg.rasLog d)
    if bit r.1.1 63 then
      logDie d n (k + 1) (text ++ textLine (hexWord r.1.1.toNat ++ ascii " " ++ hexWord r.1.2.toNat)) r.2
    else (r.2, k, text)

def monLogs (dies : List Nat) (hw : Hw) (sec : Sec) : MonRun :=
  let r := dies.foldl (fun (x : Hw × Nat × List Byte) d => logDie d ((logGet x.1 (Reg.rasLog d)).length + 1) x.2.1 x.2.2 x.1)
    (hw, 0, [])
  ⟨r.1, sec, r.2.2, some (ascii "OK " ++ decimal r.2.1)⟩

/-! #### Unlocking (R539) -/

/-- Lower-case hexadecimal digits of the nonce's bytes, four to a group. -/
def nonceText : List Byte → Nat → List Byte
  | [], _ => []
  | b :: bs, i =>
    let low := fun n : Nat => BitVec.ofNat 8 (if n < 10 then 48 + n else 87 + n)
    [low (b.toNat / 16), low (b.toNat % 16)] ++ (if i % 2 = 1 ∧ bs ≠ [] then ascii " " else []) ++ nonceText bs (i + 1)

/-- CHAL: within a second of a failed UNLOCK it is refused; whether the second has passed is a free bit (log 13, DEDUCED). -/
def monChal (hw : Hw) (sec : Sec) : MonRun :=
  let late := draw hw
  let hw0 := if sec.mon.rated then late.2 else hw
  if sec.mon.rated && bit late.1 0 then MonRun.fail hw0 sec [] 14
  else
    let n := drawNonce hw0
    let digest := leNat ((sha256 hw.idKey).take 8)
    let text := textLine (ascii "NONCE " ++ nonceText n.1 0) ++ textLine (ascii "KEYD " ++ hexWord digest) ++
      textLine (ascii "PART " ++ hexWord32 (rget hw (Reg.pcpDpt hw.pkg.primary 2)).toNat)
    MonRun.ok n.2 { sec with mon := { sec.mon with nonce := some n.1, rated := false } } text

/-- The message a monitor key signs (log 56, DESIGN CHOICE). -/
def unlockMsg (hw : Hw) (nonce : List Byte) : List Byte := ascii "TLV-TAHR-1" ++ nonce ++ hw.idKey

/-- UNLOCK: whatever its outcome, the challenge and the buffer are gone (log 57, DEDUCED). -/
def monUnlock (k : Nat) (hw : Hw) (sec : Sec) : MonRun :=
  let m := { sec.mon with nonce := none, upload := [] }
  let lost := { sec with mon := { m with rated := true } }
  if 8 ≤ k then MonRun.fail hw lost [] 4
  else match sec.mon.nonce with
  | none => MonRun.fail hw lost [] 9
  | some n =>
    if sec.monKeys.length ≤ k then MonRun.fail hw lost [] 11
    else if Config.slhVerify (atD [] sec.monKeys k) (unlockMsg hw n) sec.mon.upload then
      ⟨hw, { sec with mon := { m with unlocked := true } }, [], some (ascii "OK UNLOCKED")⟩
    else MonRun.fail hw lost [] 10

/-- A byte of an upload (R539): with the last one the CRC is checked. -/
def uploadByte (n : Nat) (b : Byte) (hw : Hw) (sec : Sec) : MonRun :=
  let got := sec.mon.coming ++ [b]
  if got.length < n + 4 then ⟨hw, { sec with mon := { sec.mon with coming := got } }, [], none⟩
  else
    let good : Bool := leNat (got.drop n) == crc32 (got.take n)
    let m := { sec.mon with coming := [], upload := if good then got.take n else [] }
    if good then ⟨hw, { sec with mon := m }, [], some (ascii "OK " ++ decimal n)⟩
    else MonRun.fail hw { sec with mon := m } [] 8

/-! #### The commands (R537, R538) -/

/-- The register windows a LOCKED monitor may read. -/
def lockedReads (a n : Nat) : Bool :=
  (decide (0x040000000000 ≤ a ∧ a < 0x040200000000) && decide (0xC00000 ≤ a % 0x1000000 ∧ a % 0x1000000 + n ≤ 0xC10000)) ||
  decide (0x060000000000 ≤ a ∧ a + n ≤ 0x060180000000) || decide (0x070000000000 ≤ a ∧ a + n ≤ 0x070000010000)

/-- A command a LOCKED monitor refuses (R537) (log 57, DEDUCED). -/
def lockedOut : MonCmd → Bool
  | .poke _ _ _ => true
  | .margin _ _ _ => true
  | .tg _ _ _ _ _ _ _ => true
  | .reset => true
  | .revoke _ => true
  | .peek a size => !lockedReads a size
  | .dump a n => !lockedReads a n
  | _ => false

/-- The list HELP prints (log 56, DESIGN CHOICE). -/
def helpText : List Byte :=
  ["HELP", "ID", "PEEK a [s]", "POKE a v [s]", "DUMP a n", "CNT PKG", "CNT DIE d", "CNT CORE c", "PWR", "LINK", "MARGIN d c u",
   "TG d c m p o s l", "LOG [d]", "CHAL", "UPLOAD n", "UNLOCK k", "LOCK", "RESET", "REVOKE k CONFIRM"].flatMap
    (fun x => textLine (ascii x))

/-- The address or size of a PEEK or POKE outside its range (log 57, DEDUCED). -/
def badAccess (a size : Nat) : Bool := decide (2 ^ 52 ≤ a) || !(size == 4 || size == 8) || a % size != 0

def named (l : List (String × Nat)) : List (List Byte × Nat) := l.map (fun x => (ascii x.1, x.2))
def numbered (s : String) (n : Nat) (f : Nat → Nat) : List (List Byte × Nat) :=
  (List.range n).map (fun i => (ascii s ++ decimal i, f i))

/-- The lines of ID (R538) (log 56, DESIGN CHOICE). -/
def idText (hw : Hw) (sec : Sec) : List Byte :=
  let a := hw.pkg.primary
  monValue (ascii "DPT_PART") (rget hw (Reg.pcpDpt a 2)) ++ monValue (ascii "DPT_REV") (rget hw (Reg.pcpDpt a 3)) ++
    textLine (ascii "PKG_ID = " ++ decimal hw.img.pkgId.toNat) ++ monValue (ascii "PCP_BOOT_STATUS") (bootStatus hw sec a) ++
    monValue (ascii "PCP_SEC_FUSE") (secFuseView hw sec a) ++ textLine (ascii (if sec.mon.unlocked then "UNLOCKED" else "LOCKED"))

/-- The registers PWR shows (R538) (log 56, DESIGN CHOICE). -/
def pwrRegs (hw : Hw) : List (List Byte × Nat) :=
  let a := hw.pkg.primary
  named [("PCP_PWR_STATUS", Reg.pcpPwrStatus a), ("PCP_P_AVG", Reg.pcpPAvg a), ("PCP_PL_SUS", Reg.pcpPlSus a),
         ("PCP_PWR_CFG", Reg.pcpPwrCfg a)] ++
    ((List.range 64).filter (groupPresent hw)).map (fun g => (ascii "CG_CLK_STATUS_" ++ decimal g, Reg.cgClkStatus g))

/-- The registers LINK shows (R538) (log 56, DESIGN CHOICE). -/
def linkRegs (hw : Hw) : List (List Byte × Nat) :=
  let a := hw.pkg.primary
  numbered "ERT_EDGE_" 8 (fun e => Reg.ertEdge (4 + a) e) ++ numbered "OPT_STATUS_" 16 Reg.optStatus ++
    numbered "OPT_PARTNER_" 16 Reg.optPartner ++ named [("PCP_FAB_PORTS", Reg.pcpFabPorts a)] ++
    numbered "CXU_STATUS_" 2 Reg.cxuStatus ++ numbered "CXD_STATUS_" 2 Reg.cxdStatus

/-- The counters CNT shows (R538) (log 56, DESIGN CHOICE). -/
def monCounters (die core : Option Nat) (hw : Hw) (sec : Sec) : MonRun :=
  match die, core with
  | some d, _ => if d < 6 then regLines (dieCounters hw d) [] hw sec else MonRun.fail hw sec [] 4
  | none, some c =>
    if 512 ≤ c then MonRun.fail hw sec [] 4
    else regLines ((ascii "CORE_CMD_RET_CNT", Reg.coreCmdRetCnt c) :: (coreCounters hw c).filter (fun x => x.2 != Reg.coreCmdRetCnt c)) [] hw sec
  | none, none => regLines (blkCounters hw (pcpOf hw)) [] hw sec

/-- TG's arguments in the ranges of R350 and R351. -/
def tgArgsOk (k mask pattern op start len : Nat) : Bool :=
  decide (pattern ≤ 4 ∧ op ≤ 2) && (if k < 12 then decide (mask < 2 ^ 32 ∧ start < 2 ^ 15 ∧ len < 2 ^ 15)
    else decide (mask < 2 ^ 8 ∧ start < 2 ^ 18 ∧ len < 2 ^ 18))

/-- A command. -/
def monDo (c : MonCmd) (hw : Hw) (sec : Sec) : MonRun :=
  if !sec.mon.unlocked && lockedOut c then MonRun.fail hw sec [] 2
  else match c with
  | .help => MonRun.ok hw sec helpText
  | .id => MonRun.ok hw sec (idText hw sec)
  | .peek a size => if badAccess a size then MonRun.fail hw sec [] 4 else jobRun (.peek a size) hw sec
  | .poke a size v =>
    if badAccess a size ∨ 2 ^ (8 * size) ≤ v then MonRun.fail hw sec [] 4 else jobRun (.poke a size (word v)) hw sec
  | .dump a n =>
    if 2 ^ 52 ≤ a ∨ a % 8 ≠ 0 ∨ n < 8 ∨ 65536 < n ∨ n % 8 ≠ 0 then MonRun.fail hw sec [] 4
    else jobRun (.dump a (n / 8) 0) hw sec
  | .cnt die core => monCounters die core hw sec
  | .pwr => regLines (pwrRegs hw) [] hw sec
  | .link => regLines (linkRegs hw) [] hw sec
  | .margin d c u => (match ctlNo d c with
    | some k => if u < ctlUnits k then monMargin k u hw sec else MonRun.fail hw sec [] 4
    | none => MonRun.fail hw sec [] 4)
  | .tg d c m p o st l => (match ctlNo d c with
    | some k => if tgArgsOk k m p o st l then monTg k m p o st l hw sec else MonRun.fail hw sec [] 4
    | none => MonRun.fail hw sec [] 4)
  | .log none => monLogs (List.range 6) hw sec
  | .log (some d) => if d < 6 then monLogs [d] hw sec else MonRun.fail hw sec [] 4
  | .chal => monChal hw sec
  | .upload n =>
    if n < 1 ∨ 20480 < n then MonRun.fail hw sec [] 4
    else MonRun.hold hw { sec with mon := { sec.mon with coming := [], upload := [] } } (textLine (ascii "READY")) (.upload n)
  | .unlock k => monUnlock k hw sec
  | .lock => MonRun.ok hw { sec with mon := { sec.mon with unlocked := false } } []
  | .reset => let r := warmReset 6 hw sec; ⟨r.1, r.2, textLine (ascii "OK"), none⟩
  | .revoke k =>
    if 4 ≤ k ∨ (3 ≤ sec.step ∧ k = sec.keyIdx) then MonRun.fail hw sec [] 4
    else MonRun.ok hw { sec with revoked := sec.revoked ||| BitVec.ofNat 4 (2 ^ k) } []

/-! #### The line (R536, R541) -/

/-- The text of the primary's line among what has been sent, and the rest (log 57, DEDUCED). -/
def monLine (hw : Hw) : List Byte × List Out :=
  let mine := fun o : Out => match o with
    | .mon a _ => a == hw.pkg.primary
    | _ => false
  ((hw.sent.filter mine).flatMap (fun o => match o with
    | .mon _ cs => cs
    | _ => []), hw.sent.filter (fun o => !mine o))

/-- What a run prints goes out: with its final line the halt and fatal lines that fell due, then the prompt. -/
def monEmit (before : List Out) (r : MonRun) : Hw × Sec :=
  let a := r.hw.pkg.primary
  let x := monLine r.hw
  let out := fun cs : List Byte => { r.hw with sent := before ++ x.2 ++ (if cs = [] then [] else [.mon a cs]) }
  match r.final with
  | none => (out r.text, { r.sec with mon := { r.sec.mon with due := r.sec.mon.due ++ x.1 } })
  | some f => (out (r.text ++ textLine f ++ r.sec.mon.due ++ x.1 ++ ascii "T> "),
      { r.sec with mon := { r.sec.mon with wait := .idle, due := [] } })

/-- Run an action of the monitor on a state. -/
def monAct (f : Hw → Sec → MonRun) (r : Hw × Sec) : Hw × Sec :=
  let hw0 := { r.1 with sent := [] }
  let x := f hw0 r.2
  monEmit r.1.sent { x with hw := finish hw0 x.hw }

/-- The next command after an overflow of the input buffer is not run (R536). -/
def monRun (c : Option MonCmd) (hw : Hw) (sec : Sec) : MonRun :=
  if sec.mon.excess then MonRun.fail hw { sec with mon := { sec.mon with excess := false } } [] 12
  else match c with
    | some x => monDo x hw sec
    | none => MonRun.fail hw sec [] 1

/-- A digit's value. -/
def digitOf (b : Byte) : Nat :=
  let n := b.toNat
  if 48 ≤ n ∧ n ≤ 57 then n - 48 else if 65 ≤ n ∧ n ≤ 70 then n - 55 else 99

/-- A number: hexadecimal with 0x, decimal without, underscores ignored. -/
def numOf (t : List Byte) : Option Nat :=
  let hex : Bool := t.take 2 == ascii "0X"
  let base := if hex then 16 else 10
  let ds := ((if hex then t.drop 2 else t).filter (fun b => b != 95)).map digitOf
  if ds = [] ∨ ds.any (fun d => decide (base ≤ d)) = true then none else some (ds.foldl (fun n d => n * base + d) 0)

/-- The words of a line, in capitals. -/
def wordsIn : List Byte → List Byte → List (List Byte)
  | [], cur => if cur = [] then [] else [cur]
  | b :: bs, cur =>
    if b = 32 then (if cur = [] then wordsIn bs [] else cur :: wordsIn bs [])
    else wordsIn bs (cur ++ [if 97 ≤ b.toNat ∧ b.toNat ≤ 122 then b - 32 else b])

/-- The command a line spells. -/
def monParse (line : List Byte) : Option MonCmd :=
  match wordsIn line [] with
  | [] => none
  | k :: args =>
    let is := fun s : String => k == ascii s
    match args, args.map numOf with
    | [], _ =>
      if is "HELP" then some .help else if is "ID" then some .id else if is "PWR" then some .pwr else if is "LINK" then some .link
      else if is "LOG" then some (.log none) else if is "CHAL" then some .chal else if is "LOCK" then some .lock
      else if is "RESET" then some .reset else none
    | [x], [n] =>
      if is "CNT" && x == ascii "PKG" then some (.cnt none none)
      else n.bind (fun v =>
        if is "PEEK" then some (.peek v 8) else if is "LOG" then some (.log (some v)) else if is "UPLOAD" then some (.upload v)
        else if is "UNLOCK" then some (.unlock v) else none)
    | [x, y], [n, m] =>
      if is "CNT" && x == ascii "DIE" then m.map (fun v => .cnt (some v) none)
      else if is "CNT" && x == ascii "CORE" then m.map (fun v => .cnt none (some v))
      else if is "REVOKE" && y == ascii "CONFIRM" then n.map (fun v => .revoke v)
      else n.bind (fun a => m.bind (fun v =>
        if is "PEEK" then some (.peek a v) else if is "POKE" then some (.poke a 8 v) else if is "DUMP" then some (.dump a v) else none))
    | _, [some a, some b, some c] =>
      if is "POKE" then some (.poke a c b) else if is "MARGIN" then some (.margin a b c) else none
    | _, [some d, some c, some m, some p, some o, some s, some l] => if is "TG" then some (.tg d c m p o s l) else none
    | _, _ => none

/-- An echo. -/
def monEcho (b : Byte) (r : Hw × Sec) : Hw × Sec := ({ r.1 with sent := r.1.sent ++ [.mon r.1.pkg.primary [b]] }, r.2)

def setMonLine (r : Hw × Sec) (l : List Byte) : Hw × Sec := (r.1, { r.2 with mon := { r.2.mon with line := l } })

/-- A character typed while no command runs (log 57, DEDUCED). -/
def monTyped (b : Byte) (r : Hw × Sec) : Hw × Sec :=
  let l := r.2.mon.line
  if b = 13 ∨ b = 10 then
    let r1 := setMonLine (monEcho b r) []
    if wordsIn l [] = [] then ({ r1.1 with sent := r1.1.sent ++ [.mon r1.1.pkg.primary (ascii "T> ")] }, r1.2)
    else monAct (monRun (monParse l)) r1
  else if b = 8 then (if l = [] then r else setMonLine (monEcho b r) l.dropLast)
  else if b = 3 ∨ 160 ≤ l.length then r
  else setMonLine (monEcho b r) (l ++ [b])

/-- A character while a command runs: buffered, up to 256. -/
def monBuffer (b : Byte) (r : Hw × Sec) : Hw × Sec :=
  let m := r.2.mon
  (r.1, { r.2 with mon := if m.inbuf.length < 256 then { m with inbuf := m.inbuf ++ [b] } else { m with excess := true } })

/-- 0x03 ends a wait for a controller with ERR 0D ABORT (log 57, DEDUCED). -/
def monStop (r : Hw × Sec) : Hw × Sec := monAct (fun hw sec => MonRun.fail hw sec [] 13) r

/-- A character received; `feed` takes up what was buffered when a wait ends. -/
def monChar (feed : Hw × Sec → Hw × Sec) (b : Byte) (r : Hw × Sec) : Hw × Sec :=
  if !monUp r.2 then r
  else match r.2.mon.wait with
    | .idle => monTyped b r
    | .upload n => monAct (uploadByte n b) r
    | .margin _ _ => if b = 3 then feed (monStop r) else monBuffer b r
    | .traffic _ => if b = 3 then feed (monStop r) else monBuffer b r
    | .access _ _ => monBuffer b r

/-- The characters buffered during a command are taken once it has ended. -/
def monFeed : Nat → Hw × Sec → Hw × Sec
  | 0, r => r
  | n + 1, r =>
    if r.2.mon.wait ≠ .idle then r
    else r.2.mon.inbuf.foldl (fun x b => monChar (monFeed n) b x)
      (r.1, { r.2 with mon := { r.2.mon with inbuf := [] } })

/-- Whether the monitor's request at a downstream port is still out. -/
def monOut (hw : Hw) : Bool :=
  (List.range 2).any (fun a => (getAcelo hw a).out.any (fun r => r.who == .agent .monitor))

/-- The value a command has answered, and whether it has succeeded. -/
def answerValue : Answer → Option Word
  | .value v => some v
  | _ => none

/-- How a wait of the monitor ends, if this command has ended it: a controller is done, an access has its answer or can
be made again. -/
def monEnd (ans : Answer) (hw : Hw) (w : MonWait) : Option (Hw → Sec → MonRun) :=
  match w with
  | .idle => none
  | .upload _ => none
  | .margin k u => if (getCtl hw k).op = 1 then none else some (fun h s => MonRun.ok h s (marginText k u h))
  | .traffic k => if (getCtl hw k).op = 2 then none else some (trafficRun k)
  | .access true job => if monOut hw then none else some (jobGot job (answerValue ans) (answerValue ans).isSome)
  | .access false job => some (jobRun job)

/-- After any command but the monitor's own: lines that fell due during a running command are kept for its end, and its
wait ends where its condition has come (R541) (log 57, DEDUCED). -/
def monSettle (ans : Answer) (r : Hw × Sec) : Hw × Sec :=
  if r.2.mon.wait = .idle then r
  else
    let x := monLine r.1
    let r1 := ({ r.1 with sent := x.2 }, { r.2 with mon := { r.2.mon with due := r.2.mon.due ++ x.1 } })
    match monEnd ans r1.1 r1.2.mon.wait with
    | none => r1
    | some f => monFeed 257 (monAct f r1)

end Sys2Proof.Machine
end

