-- ==== Sys2Proof/Machine/Wrap.lean ====
section
/-! DEFINITION. How a command's effect on the hardware becomes an outcome: while the package is off nothing happens
(R473, R554); else the sent messages start empty, a package stop the effect has started is carried out (R526), the
message writes it raised are delivered (R61), the monitor goes on where it waited (R541), the answer is recorded. -/

namespace Sys2Proof.Machine

/-- A command that finds the package off (log 2, DEDUCED). -/
def offState (s : State) : State := { s with answer := .notEnabled }

/-- The state after an effect, with what follows from it. -/
def settled (s : State) (hw : Hw) (sec : Sec) (ans : Answer) : State :=
  let r := monSettle ans (finish s.hw hw, sec)
  { s with hw := r.1, sec := r.2, answer := ans }

/-- The outcome of an effect on the hardware alone (log 1, DESIGN CHOICE; log 2, DEDUCED). -/
def onHw (s : State) (f : Hw → Hw × Answer) : Host.Outcome State Fault Refusal :=
  if s.hw.pow.off ≠ 0 then .next (offState s)
  else
    let r := f { s.hw with sent := [] }
    .next (settled s r.1 s.sec r.2)

/-- The outcome of an effect on the hardware and the security state (log 1, DESIGN CHOICE; log 2, DEDUCED). -/
def onAll (s : State) (f : Hw → Sec → Hw × Sec × Answer) : Host.Outcome State Fault Refusal :=
  if s.hw.pow.off ≠ 0 then .next (offState s)
  else
    let r := f { s.hw with sent := [] } s.sec
    .next (settled s r.1 r.2.1 r.2.2)

/-- The outcome of an action of the monitor, which answers from boot step 2 onward (R535), under a condition on it (log 1,
DESIGN CHOICE; log 2, DEDUCED). -/
def onMon (s : State) (c : Mon → Bool) (f : Hw × Sec → Hw × Sec) : Host.Outcome State Fault Refusal :=
  if s.hw.pow.off ≠ 0 then .next (offState s)
  else if !monUp s.sec || !c s.sec.mon then .next { s with hw := { s.hw with sent := [] }, answer := .notEnabled }
  else
    let r := f ({ s.hw with sent := [] }, s.sec)
    .next { s with hw := r.1, sec := r.2, answer := .done }

end Sys2Proof.Machine
end

