-- ==== Sys2Proof/Machine/AtuRows.lean ====
section
/-! DEFINITION. The rows of AtuFaults.lean: what each command does to the block. -/

namespace Sys2Proof.Machine

/-! #### Walks (R294, R297, R298) -/

def execWalkComplete (d : DieId) (ctx : BitVec 16) (va : Word) (s : State) : Host.Outcome State Fault Refusal :=
  onHw s (walkRow d ctx.toNat va.toNat)

/-! #### Fault records (R299) -/

def execFaultRecordWrite (c : CoreId) (s : State) : Host.Outcome State Fault Refusal := onHw s (faultRecordRow c)

/-! #### RESUME and the ring (R300, R309) -/

def execFaultRetry (by_ : Agent) (c : CoreId) (value : Word) (s : State) : Host.Outcome State Fault Refusal :=
  onHw s (coreRegWrite by_ c (Reg.atuFltResume c) (fltResumeWrite c value))

def execFaultAbort (by_ : Agent) (c : CoreId) (value : Word) (s : State) : Host.Outcome State Fault Refusal :=
  onHw s (coreRegWrite by_ c (Reg.atuFltResume c) (fltResumeWrite c value))

def execFaultRingEnable (by_ : Agent) (c : CoreId) (value : Word) (s : State) : Host.Outcome State Fault Refusal :=
  onHw s (coreRegWrite by_ c (Reg.atuFltBase c) (fltBaseWrite c value))

/-! #### The context base and INVALIDATE (R303–R308) -/

def execWlkCtxBaseWrite (by_ : Agent) (d : DieId) (value : Word) (s : State) : Host.Outcome State Fault Refusal :=
  onHw s (computeRegWrite by_ d (Reg.wlkCtxBase d) (ctxBaseWrite d value))

def execInvalidate (by_ : Agent) (d : DieId) (value : Word) (s : State) : Host.Outcome State Fault Refusal :=
  onHw s (computeRegWrite by_ d (Reg.wlkInvReq d) (invReqWrite d value))

def execInvalidateBump (d : DieId) (seq : BitVec 32) (c : CoreId) (s : State) : Host.Outcome State Fault Refusal :=
  onHw s fun hw =>
    match findInv hw d seq.toNat with
    | none => (hw, .notEnabled)
    | some r =>
      if !r.toBump.contains c.val then (hw, .notEnabled)
      else
        let ws := startedIn hw c r.ctx (invLo r) (invHi r)
        did (modInv (bumpCore hw c r.ctx (invLo r) (invHi r)) d seq.toNat
          (fun x => { x with toBump := x.toBump.filter (· != c.val), waits := x.waits ++ ws }))

def execInvalidateCoreAck (d : DieId) (seq : BitVec 32) (c : CoreId) (s : State) : Host.Outcome State Fault Refusal :=
  onHw s fun hw => killPass c <|
    match findInv hw d seq.toNat with
    | none => (hw, .notEnabled)
    | some r =>
      if r.toBump.contains c.val || !r.toAck.contains c.val || !drained hw c r then (hw, .notEnabled)
      else match mbDrainAll hw c ((getCore hw c).mb.filter (fun e => e.ctx == r.ctx)) with
      | none => (hw, .notEnabled)
      | some hw1 =>
        let hw2 := modCore hw1 c (fun t => { t with trackers := t.trackers.filter (fun k => k.ctx != r.ctx) })
        did (modInv hw2 d seq.toNat (fun x => { x with toAck := x.toAck.filter (· != c.val) }))

/-- INVALIDATE_DONE (R304 step 4): the oldest request of a walker, once every core has acknowledged it. -/
def execInvalidateDone (d : DieId) (s : State) : Host.Outcome State Fault Refusal :=
  onHw s fun hw =>
    let t := getTree hw d
    match t.invs with
    | [] => (hw, .notEnabled)
    | r :: rest =>
      if r.toAck ≠ [] then (hw, .notEnabled)
      else
        let hw1 := setTree (rfield hw (Reg.wlkInvSeq d) 31 0 r.seq) d { t with invs := rest }
        let a := rget hw (Reg.wlkInvDoneAddr d)
        if bit a 0 then
          match pocWriteN 1 hw1 (.walker d) (8 * bits a 51 3) (leBytes 8 r.seq) false 0 0 with
          | none => (hw, .notEnabled)
          | some hw2 => did (message hw2 d (Reg.wlkMsiAddr d) (rget hw (Reg.wlkMsiData d)).toNat)
        else did hw1

/-! #### Combining trees (R279, R280) -/

/-- SEM_NODE_HOLD_TIMEOUT: the oldest ADD a node holds passes up. -/
def execSemNodeHoldTimeout (d : DieId) (node : Fin 21) (s : State) : Host.Outcome State Fault Refusal :=
  onHw s fun hw =>
    let t := getTree hw d
    match mget (fun _ => []) t.nodes node.val with
    | [] => (hw, .notEnabled)
    | a :: rest =>
      if node.val = 20 ∧ lineHeld hw (engAgent (128 * d)) (a.addr / 64) then (hw, .notEnabled) else
      let hw1 := setTree hw d { t with nodes := mput (fun _ => []) t.nodes node.val rest }
      did (if node.val = 20 then treeOut hw1 d a else treeAdd hw1 d (nodeParent node) a)

end Sys2Proof.Machine
end

