-- ==== Sys2Proof/Machine/BootRows.lean ====
section
/-! DEFINITION. The rows of power, boot and resets (Power.lean, Boot.lean): what each command does to the block. -/

namespace Sys2Proof.Machine

/-! #### VIN (R470–R473, R549, R554) -/

/-- VIN_SAMPLE (R470, R471): the absolute maxima of R548 bound what a board may apply and add no behaviour here (log 28,
DEDUCED). -/
def execVinSample (a : AceloId) (mv : Nat) (tenMilliAmps : Nat) (s : State) : Host.Outcome State Fault Refusal :=
  if s.hw.pow.off ≠ 0 then .next { s with hw := offSample mv { s.hw with sent := [] }, answer := .done }
  else onAll s fun hw sec =>
    match vinTake hw a mv tenMilliAmps with
    | (w, none) => (w, sec, .done)
    | (w, some cause) => let r := railsDown 1 cause w sec; (offSample (min mv (getHalf w a).mv) r.1, r.2, .done)

/-- VIN above 15.0 V for more than 100 µs. -/
def execOvervoltageTimeout (s : State) : Host.Outcome State Fault Refusal :=
  onAll s fun hw sec =>
    if 15000 < (getHalf hw 0).mv ∨ 15000 < (getHalf hw 1).mv then let r := railsDown 1 1 hw sec; (r.1, r.2, .done)
    else (hw, sec, .notEnabled)

/-- A sag of 10 ms. -/
def execSagTimeout (s : State) : Host.Outcome State Fault Refusal :=
  onAll s fun hw sec =>
    if hw.pow.sag then let r := railsDown 1 4 hw sec; (r.1, r.2, .done) else (hw, sec, .notEnabled)

/-- VIN_GOOD ends the time the package is off. -/
def execVinGood (s : State) : Host.Outcome State Fault Refusal :=
  let r := vinGood { s.hw with sent := [] } s.sec
  .next { s with hw := r.1, sec := r.2.1, answer := r.2.2 }

def execThermalShutdown (s : State) : Host.Outcome State Fault Refusal :=
  onAll s fun hw sec => let r := railsDown 2 0 hw sec; (r.1, r.2, .done)

/-- VIN below 1.0 V releases THERMTRIP_N (R546). -/
def execVinLowRelease (s : State) : Host.Outcome State Fault Refusal :=
  if s.hw.pow.therm then
    .next { s with hw := { s.hw with pow := { s.hw.pow with therm := false }, sent := [] }, answer := .done }
  else .next (offState s)

/-! #### The governor (R476–R485) -/

def execDroopDetect (g : GroupId) (s : State) : Host.Outcome State Fault Refusal :=
  onHw s (guardHw (fun hw => activeGroup hw g && (getGp hw g).droop == 1)
    (fun hw => did (radd (setGp hw g { getGp hw g with droop := 2 }) (Reg.cgDroopCnt g) 1)))

def execDroopClear (g : GroupId) (s : State) : Host.Outcome State Fault Refusal :=
  onHw s (guardHw (fun hw => (getGp hw g).droop != 1) (fun hw => did (setGp hw g { getGp hw g with droop := 1 })))

def execSlewTick (a : AceloId) (riseMilliAmps : Nat) (rose : BitVec 64) (s : State) : Host.Outcome State Fault Refusal :=
  onHw s (fun hw => did (slewTick a riseMilliAmps rose hw))

def execSlewSplit (rampN rampS : Nat) (s : State) : Host.Outcome State Fault Refusal :=
  onHw s (fun hw => did (slewSplit rampN rampS hw))

def execRampGrant (a : AceloId) (s : State) : Host.Outcome State Fault Refusal := onHw s (rampGrant a)

def execPeakCheck (projected : Nat) (s : State) : Host.Outcome State Fault Refusal :=
  onHw s (fun hw => did (peakCheck projected hw))

/-- POWER_BRAKE_N counts as asserted; its path acts from boot step 2 (R484, R490). -/
def execBrakeAssert (s : State) : Host.Outcome State Fault Refusal :=
  onAll s fun hw sec => if !hw.pow.brake && decide (1 ≤ sec.step) then (brakeAssert hw, sec, .done) else (hw, sec, .notEnabled)

def execBrakeCheck (watts : Nat) (s : State) : Host.Outcome State Fault Refusal :=
  onHw s (guardHw (fun hw => hw.pow.brake) (fun hw => did (brakeCheck watts hw)))

def execBrakeRelease (s : State) : Host.Outcome State Fault Refusal :=
  onHw s (guardHw (fun hw => hw.pow.brake) (fun hw => did (brakeRelease hw)))

def execBrakeKStep (s : State) : Host.Outcome State Fault Refusal :=
  onHw s (guardHw (fun hw => !hw.pow.brake && (List.range 64).any (fun g => (getGp hw g).brake != 1)) (fun hw => did (brakeStep hw)))

/-- The loop runs on the primary once the mesh is up (R31, R37, R478). -/
def execSustainedTick (w1s w2ms w1ms : Nat) (s : State) : Host.Outcome State Fault Refusal :=
  onAll s fun hw sec => if 6 ≤ sec.step ∧ pcpRuns hw hw.pkg.primary = true then (sustained w1s w2ms w1ms hw, sec, .done) else (hw, sec, .notEnabled)

/-- The secondary holds the targets it has (R483). -/
def execTargetHoldTimeout (s : State) : Host.Outcome State Fault Refusal := onHw s did

/-- The secondary's PCP applies the targets it is sent, while it runs (R37, R483). -/
def execTargetsReceive (targets : Targets) (s : State) : Host.Outcome State Fault Refusal :=
  onHw s (guardHw (fun hw => pcpRuns hw (1 - hw.pkg.primary)) (fun hw => did (targetsApply targets hw)))

/-! #### Energy (R487, R488) -/

def execEnergyUpdate (pkg : Nat) (dies : List Nat) (cores : List (CoreId × Nat × List Nat)) (s : State) :
    Host.Outcome State Fault Refusal :=
  onHw s (guardHw (fun hw => energyOk hw pkg cores) (fun hw => did (energyUpdate pkg dies cores hw)))

def execPwrTrimUpdate (d : DieId) (measured modelled : Nat) (est : List (GroupId × Nat)) (tj : BitVec 16) (thr : Bool) (s : State) :
    Host.Outcome State Fault Refusal :=
  onHw s (guardHw (fun _ => decide (0 < modelled)) (fun hw => did (trimUpdate d measured modelled est tj thr hw)))

/-! #### Resets (R506, R507, R545) -/

def execColdRst (s : State) : Host.Outcome State Fault Refusal :=
  onAll s fun hw sec => let r := coldReset 2 hw sec; (r.1, r.2, .done)

/-- A warm reset needs the PCPs to have left step 1. -/
def execWarmRst (s : State) : Host.Outcome State Fault Refusal :=
  onAll s fun hw sec =>
    if 1 ≤ sec.step then let r := warmReset 5 hw sec; (r.1, r.2, .done) else (hw, sec, .notEnabled)

def execPcpResetCold (by_ : Agent) (value : Word) (s : State) : Host.Outcome State Fault Refusal :=
  onAll s fun hw sec =>
    if bits value 1 0 = 1 ∧ 1 ≤ sec.step then pcpResetBy by_ value hw sec else (hw, sec, .notEnabled)

def execPcpResetWarm (by_ : Agent) (value : Word) (s : State) : Host.Outcome State Fault Refusal :=
  onAll s fun hw sec =>
    if bits value 1 0 = 2 ∧ 1 ≤ sec.step then pcpResetBy by_ value hw sec else (hw, sec, .notEnabled)

/-! #### Boot (R509, R510) -/

def execBootStepDone (cycles : BitVec 32) (input : BootIn) (s : State) : Host.Outcome State Fault Refusal :=
  onAll s (bootStep cycles input)

def execBootStepTimeout (die : DieId) (gen : Fin 256) (s : State) : Host.Outcome State Fault Refusal :=
  onAll s (bootTimeout die gen)

/-- Every halted Acelo prints its line again. -/
def execHaltLineRepeat (s : State) : Host.Outcome State Fault Refusal :=
  onAll s fun hw sec =>
    if sec.halts = [] then (hw, sec, .notEnabled)
    else ({ hw with sent := hw.sent ++ sec.halts.map (fun h => .mon h.1 (haltLine h.2)) }, sec, .done)

end Sys2Proof.Machine
end

