-- ==== Sys2Proof/Machine/CoherenceRows.lean ====
section
/-! DEFINITION. The rows of Coherence.lean: what each command does to the block. -/

namespace Sys2Proof.Machine

/-- HOME_ACCEPT: the next request of a line is accepted (R381), among those at the slice's input the one that came first
(R382); a dead agent's gets the error response (R395); one that finds its filter set full waits for the victim (R379). -/
def execHomeAccept (line : Nat) (s : State) : Host.Outcome State Fault Refusal :=
  onHw s fun hw =>
    match (getHome hw line).busy, nextReq hw line with
    | none, some req =>
      if !mayAccept hw line then (hw, .notEnabled)
      else if agentDead hw req.agent && req.who.isNone then deadRequest (leaveQueue hw req) line req.agent
      else if needsEntry hw req && filtFull hw line then
        (if (filtSetOf hw line).any (fun e => leavesFilter hw e.line) then (hw, .notEnabled) else did (victimGo hw line))
      else did (acceptReq (leaveQueue hw req) req)
    | _, _ => (hw, .notEnabled)

def execRdShared (line : Nat) (agent : Agent) (s : State) : Host.Outcome State Fault Refusal :=
  onHw s fun hw =>
    let hw1 := match agent with
      | .hart h => hartWaits hw h line (.prefetch false)
      | _ => hw
    let r := arriveGuarded (fun w => isCaching agent && (match agent with
      | .hart h => hartMayAsk w h line && (hartLine (getHart w h) line).isNone &&
          !(getHart hw h).miss.any (fun m => m.1 == line)
      | _ => true)) (mkReq .rdShared agent line) hw1
    if r.2 = .notEnabled then (hw, .notEnabled) else r

def execRdUnique (line : Nat) (agent : Agent) (s : State) : Host.Outcome State Fault Refusal :=
  onHw s fun hw =>
    let hw1 := match agent with
      | .hart h => hartWaits hw h line .store
      | _ => hw
    let r := arriveGuarded (fun w => isCaching agent && (match agent with
      | .hart h => hartMayAsk w h line && !(getHart hw h).miss.any (fun m => m.1 == line) &&
          (match hartLine (getHart w h) line with
           | some l => l.st == .s
           | none => true)
      | _ => true)) (mkReq .rdUnique agent line) hw1
    if r.2 = .notEnabled then (hw, .notEnabled) else r

def execRdOnce (line : Nat) (agent : Agent) (watch : Bool) (s : State) : Host.Outcome State Fault Refusal :=
  onHw s (arriveGuarded (fun _ => true) { mkReq .rdOnce agent line with watch := watch })

def execWrFull (line : Nat) (agent : Agent) (data : List Byte) (hint : BitVec 2) (htgt : BitVec 12) (s : State) :
    Host.Outcome State Fault Refusal :=
  onHw s (arriveGuarded (fun _ => writesThrough agent && data.length == 64)
    { mkReq .wrFull agent line with mask := fullMask, data := data, hint := hint.toNat, htgt := htgt.toNat })

def execWrPartial (line : Nat) (agent : Agent) (mask : BitVec 64) (data : List Byte) (hint : BitVec 2)
    (htgt : BitVec 12) (s : State) : Host.Outcome State Fault Refusal :=
  onHw s (arriveGuarded (fun _ => writesThrough agent && data.length == 64)
    { mkReq .wrPartial agent line with mask := mask, data := data, hint := hint.toNat, htgt := htgt.toNat })

def execAtomic (line : Nat) (agent : Agent) (op : AtomOp) (data : List Byte) (s : State) :
    Host.Outcome State Fault Refusal :=
  onHw s (arriveGuarded (fun _ => atomOk op) { mkReq .atomic agent line with op := some op, data := data })

/-! #### Evictions and crossings (R378, R386, R387) -/

def execWrBack (line : Nat) (agent : Agent) (s : State) : Host.Outcome State Fault Refusal :=
  onHw s fun hw =>
    match takeNet hw line agent (fun k => match k with | .wrBack _ => true | _ => false) with
    | some (m, rest) =>
      (match m.kind with
       | .wrBack data => did (arriveWrBack (setNet hw rest) line agent data false)
       | _ => (hw, .notEnabled))
    | none =>
      match agent with
      | .hart h =>
        let hw1 := hartScan hw h line
        (match hartLine (getHart hw1 h) line with
         | some l => if l.st = .m ∧ (wbufLine (getHart hw h) line).isNone then
              did (arriveWrBack (hartDrop hw1 h line l) line agent l.data l.poison)
            else (hw, .notEnabled)
         | none => (hw, .notEnabled))
      | _ => (hw, .notEnabled)

def execEvict (line : Nat) (agent : Agent) (s : State) : Host.Outcome State Fault Refusal :=
  onHw s fun hw =>
    match agent with
    | .hart h =>
      (match hartLine (getHart hw h) line with
       | some l => if l.st = .e then
            did (arriveEvict (setHart hw h (hartLose (getHart hw h) line)) line agent)
          else (hw, .notEnabled)
       | none => (hw, .notEnabled))
    | _ => if isCaching agent && marked (filtGet hw line) agent then
        (if agentDead hw agent then deadRequest hw line agent else did (arriveEvict hw line agent))
      else (hw, .notEnabled)

/-! #### Snoops at their targets -/

def execSnpShared (line : Nat) (agent : Agent) (s : State) : Host.Outcome State Fault Refusal :=
  onHw s (snoopArrives line agent false)

def execSnpInv (line : Nat) (agent : Agent) (s : State) : Host.Outcome State Fault Refusal :=
  onHw s (snoopArrives line agent true)

/-! #### Responses at the home -/

def execRspI (line : Nat) (agent : Agent) (s : State) : Host.Outcome State Fault Refusal :=
  onHw s (plainResponse line agent .rspI)

def execRspS (line : Nat) (agent : Agent) (s : State) : Host.Outcome State Fault Refusal :=
  onHw s (plainResponse line agent .rspS)

def execRspData (line : Nat) (agent : Agent) (s : State) : Host.Outcome State Fault Refusal :=
  onHw s fun hw =>
    match takeNet hw line agent (fun k => match k with | .rspData _ _ => true | _ => false) with
    | none => (hw, .notEnabled)
    | some (m, rest) =>
      match m.kind with
      | .rspData _ data =>
        if awaits hw line agent then
          did (dataResponse (setNet hw rest) line agent data (linePoison hw line))
        else lateResponse (setNet hw rest) line agent
      | _ => (hw, .notEnabled)

def execRspWBInFlight (line : Nat) (agent : Agent) (s : State) : Host.Outcome State Fault Refusal :=
  onHw s fun hw =>
    match takeNet hw line agent (fun k => k == .rspWBInFlight) with
    | none => (hw, .notEnabled)
    | some (_, rest) =>
      let hw1 := setNet hw rest
      let h := getHome hw1 line
      match h.busy with
      | some t =>
        if t.waiting.contains agent then
          match takeHeld hw1 line agent with
          | some (data, w) => did (crossing w line agent data)
          | none => did (setHome hw1 line { h with busy := some { t with inFlight := true } })
        else (hw, .notEnabled)
      | none => (hw, .notEnabled)

/-! #### Completions at the requester -/

def execComp (line : Nat) (agent : Agent) (s : State) : Host.Outcome State Fault Refusal :=
  onHw s fun hw =>
    match takeNet hw line agent (fun k => k == .comp) with
    | none => (hw, .notEnabled)
    | some (_, rest) =>
      let hw1 := setNet hw rest
      match agent with
      | .hart h => did (barSettle hw1 h)
      | _ => did hw1

def execCompData (line : Nat) (agent : Agent) (s : State) : Host.Outcome State Fault Refusal :=
  onHw s fun hw =>
    match takeNet hw line agent (fun k => match k with | .compData .. => true | _ => false) with
    | none => (hw, .notEnabled)
    | some (m, rest) =>
      let hw1 := setNet hw rest
      match m.kind, agent with
      | .compData (some g) hd data p, .hart h => let r := trapped h (hartInstall hw1 h line g hd data p); (barSettle r.1 h, r.2)
      | .compData (some _) _ data p, _ => (sendMsg (consumed hw1 agent (64 * line) p) .compAck line agent, lineAnswer data p)
      | .compData none _ data p, .engine c => (semArrives hw1 c line data p, lineAnswer data p)
      | .compData none _ data p, _ => (consumed hw1 agent (64 * line) p, lineAnswer data p)
      | _, _ => (hw, .notEnabled)

def execCompAck (line : Nat) (agent : Agent) (s : State) : Host.Outcome State Fault Refusal :=
  onHw s fun hw =>
    match takeNet hw line agent (fun k => k == .compAck) with
    | none => (hw, .notEnabled)
    | some (_, rest) =>
      let h := getHome hw line
      match h.busy with
      | some t => if t.ackFrom = some agent then did (setHome (setNet hw rest) line { h with busy := none })
                  else (hw, .notEnabled)
      | none => (hw, .notEnabled)

/-! #### Retention, timeouts and SLC_CTRL -/

def execRetentionExpire (line : Nat) (s : State) : Host.Outcome State Fault Refusal :=
  onHw s fun hw =>
    let l := slcList hw line
    if l.any (fun b => b.blk == line / 2 && b.retain) then
      did (setSlcList hw (homeSlice hw (64 * line)) (l.map (fun b => if b.blk == line / 2 then { b with retain := false } else b)))
    else (hw, .notEnabled)

def execSnoopTimeout (line : Nat) (agent : Agent) (s : State) : Host.Outcome State Fault Refusal :=
  onHw s fun hw =>
    if (extBit agent).isSome && awaits hw line agent then
      did (declareDead (if agentDead hw agent then hw else snoopExpired hw line agent) agent)
    else (hw, .notEnabled)

def execSlcCtrlWrite (by_ : Agent) (d : DieId) (value : Word) (s : State) : Host.Outcome State Fault Refusal :=
  onHw s (regWriteBy by_ d (Reg.slcCtrl d) (slcCtrlWrite value))

/-! #### CXL agents (R393, R394, R449) -/

def execCxlMemRequest (a : AceloId) (hpa : Word) (req : CxlMemReq) (s : State) : Host.Outcome State Fault Refusal :=
  onHw s fun hw =>
    if rbits hw (Reg.cxuStatus a) 49 48 ≠ 1 then (hw, .notEnabled)
    else
      match hdmLine hw a hpa.toNat with
      | none => (errorResponse hw (4 + a) 5 (.upstream a) 0 (hpa.toNat % 2 ^ 52), .completerAbort)
      | some line =>
        match req with
        | .rdShared => arriveGuarded (fun _ => true) (mkReq .rdShared (.upstream a) line) hw
        | .rdOwn => arriveGuarded (fun _ => true) (mkReq .rdUnique (.upstream a) line) hw
        | .rdCurr => arriveGuarded (fun _ => true) (mkReq .rdOnce (.upstream a) line) hw
        | .wr mask data p =>
          let hw1 := if p && !agentDead hw (.upstream a) then
              (logPush hw (Reg.cxuErrLog a) 16 (word (2 ^ 63 + 3 * 2 ^ 60 + 64 * line % 2 ^ 52), 0)).2 else hw
          let req : HReq := { mkReq (if mask = fullMask then .wrFull else .wrPartial) (.upstream a) line with
            mask := mask, data := data, poison := p }
          if awaits hw line (.upstream a) && filtGet hw line == some (.owned (.upstream a)) && data.length == 64 then
            did (holdAside (if p then setPoison hw1 line true else hw1) line (.upstream a) (mergeBytes mask 0 (lineData hw line) data))
          else arriveGuarded (fun _ => data.length == 64) req hw1

def execBisnpResponse (a : AceloId) (line : Nat) (rsp : SnpRsp) (s : State) : Host.Outcome State Fault Refusal :=
  onHw s (extResponse line (.upstream a) rsp)

/-- A BISnp crossed the host's MemWr: resolved as a WrBack that meets a snoop, with the data of the MemWr where that has come
before (R387, R393). -/
def execBiconflict (a : AceloId) (line : Nat) (data : List Byte) (s : State) : Host.Outcome State Fault Refusal :=
  onHw s fun hw =>
    if lineHeld hw (.upstream a) line then (hw, .notEnabled)
    else if awaits hw line (.upstream a) && data.length == 64 then
      match takeHeld hw line (.upstream a) with
      | some (d, w) => did (crossing w line (.upstream a) d)
      | none => did (crossing (setPoison hw line false) line (.upstream a) data)
    else (hw, .notEnabled)

/-- A CXL.cache device's D2H request or snoop response (R394); any other opcode gets an error completion and is
logged. A request that comes while no device is admitted is refused in the same way. -/
def execD2hRequest (a : AceloId) (line : Nat) (op : D2H) (s : State) : Host.Outcome State Fault Refusal :=
  onHw s fun hw =>
    let ag : Agent := .cxlDev a
    let kind := rbits hw (Reg.cxdStatus a) 53 52
    let refuse := (cxdLog hw a 2 0x0100 (64 * line), Answer.unsupported)
    if !inTier (64 * line) then refuse
    else if kind ≠ 1 ∧ kind ≠ 2 then refuse
    else
      match op with
      | .rdShared => arriveGuarded (fun _ => true) (mkReq .rdShared ag line) hw
      | .rdOwn | .rdOwnNoData => arriveGuarded (fun _ => true) (mkReq .rdUnique ag line) hw
      | .rdCurr => arriveGuarded (fun _ => true) (mkReq .rdOnce ag line) hw
      | .itoMWr mask data | .wrCur mask data => arriveGuarded (fun _ => data.length == 64)
          { mkReq (if mask = fullMask then .wrFull else .wrPartial) ag line with mask := mask, data := data } hw
      | .dirtyEvict data =>
        if agentDead hw ag then deadRequest hw line ag
        else if data.length ≠ 64 then (hw, .notEnabled)
        else if awaits hw line ag then did (crossing (setPoison hw line false) line ag data)
        else did (arriveWrBack hw line ag data false)
      | .cleanEvict | .cleanEvictNoData =>
        if agentDead hw ag then deadRequest hw line ag else did (arriveEvict hw line ag)
      | .rspIHitI | .rspIHitSE => extResponse line ag .rspI hw
      | .rspSHitSE => extResponse line ag .rspS hw
      | .rspIFwdM data => extResponse line ag (.rspData false data) hw
      | .rspSFwdM data => extResponse line ag (.rspData true data) hw
      | .other => refuse

end Sys2Proof.Machine
end

