-- ==== Sys2Proof/Machine/CxlRows.lean ====
section
/-! DEFINITION. The rows of Cxl.lean: what each command does to the block. -/

namespace Sys2Proof.Machine

/-! #### The upstream port -/

def execUpstreamLinkDown (a : AceloId) (s : State) : Host.Outcome State Fault Refusal :=
  onHw s (guardHw (fun hw => cxuMode hw a != 0) (fun hw => did (cxuDown hw a)))

/-- CXU_xx_PERST_N asserted (R547): the link goes down under R451 and is held in Detect. -/
def execCxuPerst (a : AceloId) (s : State) : Host.Outcome State Fault Refusal :=
  onHw s fun hw =>
    let hw1 := if cxuMode hw a ≠ 0 then cxuDown hw a else hw
    did (setAcelo hw1 a { getAcelo hw1 a with perst := true })

def execCxuPerstRelease (a : AceloId) (s : State) : Host.Outcome State Fault Refusal :=
  onHw s (guardHw (fun hw => (getAcelo hw a).perst) (fun hw => did (setAcelo hw a { getAcelo hw a with perst := false })))

/-- The host commits an HDM decoder (R449): bases are aligned to 256 MiB. -/
def execHdmDecoderCommit (a : AceloId) (n : Fin 2) (base : Word) (s : State) : Host.Outcome State Fault Refusal :=
  onHw s (guardHw (fun hw => cxuMode hw a == 1 && base.toNat % 2 ^ 28 == 0) (fun hw =>
    let hw1 := rset hw (if n.val = 0 then Reg.cxuHdmBase0 a else Reg.cxuHdmBase1 a) base
    did (ror hw1 (Reg.cxuStatus a) (2 ^ (40 + n.val)))))

def execMsixTrigger (by_ : Agent) (a : AceloId) (value : Word) (s : State) : Host.Outcome State Fault Refusal :=
  onHw s (regWriteBy by_ (4 + a) (Reg.cxuMsixTrig a) (fun hw => did (msixFire hw a (bits value 10 0))))

/-! #### The downstream root port: outstanding requests (R359, R463, R464) -/

def execCompletionTimeout (a : AceloId) (tag : Nat) (s : State) : Host.Outcome State Fault Refusal :=
  onHw s fun hw =>
    match takeDs hw a tag with
    | none => (hw, .notEnabled)
    | some (r, hw1) => dsExpired hw1 a r

/-- A completion arrives (R359, R463): data for a load or a DE read, the end of a store; UR and CA give the error
response, a poisoned one poisons what it fills (R522). -/
def execCompletionReceived (a : AceloId) (tag : Nat) (status : CplStatus) (data : List Byte) (poison : Bool) (s : State) :
    Host.Outcome State Fault Refusal :=
  onHw s fun hw =>
    match takeDs hw a tag with
    | none => (hw, .notEnabled)
    | some (r, hw0) =>
      let hw1 := if status = .success then (if poison then cxdLog hw0 a 6 0 r.addr else hw0) else cxdLog hw0 a 2 0 r.addr
      if (match r.who with | .engine q => responseHeld hw (4 + a) q | _ => false) then (hw, .notEnabled)
      else match r.who, status with
      | .hartLoad h n, .success =>
        let w := barSettle (setHart hw1 h { getHart hw1 h with ioLoad := none }) (Fin.ofNat 72 h)
        if poison then (consumed w (.hart (Fin.ofNat 72 h)) r.addr true, .loadFault)
        else (w, .value (word (leNat (data.take n))))
      | .hartLoad h _, _ =>
        (errorResponse (barSettle (setHart hw1 h { getHart hw1 h with ioLoad := none }) (Fin.ofNat 72 h)) (4 + a) 5 (.hart (Fin.ofNat 72 h)) 0 r.addr, .loadFault)
      | .hartStore h, .success => (hartStoreDone hw1 h r.tag, .done)
      | .hartStore h, _ => (hartStoreFailed (errorResponse hw1 (4 + a) 5 (.hart (Fin.ofNat 72 h)) 0 r.addr) h r.tag 1, .discarded)
      | .engine q, .success => (if poison then codecContinue (fabPoisoned hw1 q data) q.core q.cmd else fabEnd hw1 q stSuccess data 0, .done)
      | .engine q, _ => (fabEnd (errorResponse hw1 (4 + a) 5 (.engine (Fin.ofNat 512 q.core)) 0 r.addr) q stAddress [] 0, .done)
      | .agent ag, .success =>
        (consumed hw1 ag r.addr poison, if poison then .poisoned data else .value (word (leNat data)))
      | .agent ag, _ => (errorResponse hw1 (4 + a) 5 ag 0 r.addr, .busError)

def execSurpriseDown (a : AceloId) (dpc : Bool) (s : State) : Host.Outcome State Fault Refusal :=
  onHw s (guardHw (fun hw => rbits hw (Reg.cxdStatus a) 41 40 != 0) (fun hw => did (cxdDown a dpc hw)))

/-- The data link may come up: a device is present, DPC is released (R465), the port's generator has lock (R37), its half is not
fenced (R505), CXD_PERST_N is high (R547). -/
def slotMayRise (hw : Hw) (a : AceloId) : Bool :=
  !rbit hw (Reg.cxdStatus a) 33 && rbit hw (Reg.clkPllStatus (4 + a)) 41 && !hw.fenced.getLsbD a && !(getAcelo hw a).cxdPerst

/-- Presence detect or data-link change on the slot (R465): shown in CXD_STATUS and signalled (R452). Bits 1 and 0 of `link` give
the kind of the device, bit 2 whether its data link comes up. A device that goes from a live link takes it down, and so does a
live link that drops; a CXL.cache device that goes is dead (R464) (log 76, DEDUCED). -/
def execPresenceChange (a : AceloId) (present : Bool) (link : BitVec 3) (s : State) : Host.Outcome State Fault Refusal :=
  onHw s fun hwOld =>
    let up : Bool := present && bit link 2 && slotMayRise hwOld a
    let kind := if present then nbits link.toNat 1 0 else 0
    let live : Bool := rbits hwOld (Reg.cxdStatus a) 41 40 != 0
    let hw := if live && !up then cxdDown a false hwOld else if present then hwOld else deviceGone hwOld a
    let hw1 := rfield (rfield hw (Reg.cxdStatus a) 32 32 (b2n present)) (Reg.cxdStatus a) 53 52 kind
    let hw2 := rfield hw1 (Reg.cxdStatus a) 41 40 (if up then (if kind = 0 then 2 else 1) else 0)
    let hw3 := if up then linkTrained hw2 (Reg.cxdStatus a) else linkDark hw2 (Reg.cxdStatus a)
    did (message hw3 (4 + a) (Reg.cxdMsiAddr a) (rget hw3 (Reg.cxdMsiData a)).toNat)

/-- Secondary Bus Reset drives CXD_xx_PERST_N (R547); the link is down while it is low, and held inbound writes are discarded
(R466). -/
def execSecondaryBusReset (a : AceloId) (on : Bool) (s : State) : Host.Outcome State Fault Refusal :=
  onHw s fun hw =>
    let t := getAcelo hw a
    let hw1 := setAcelo hw a { t with cxdPerst := on, roHeld := if on then [] else t.roHeld }
    did (if on then linkDark (rfield hw1 (Reg.cxdStatus a) 41 40 0) (Reg.cxdStatus a) else hw1)

/-! #### Placement windows (R454–R456) -/

def execIotWinEnable (by_ : Agent) (a : AceloId) (w : Fin 256) (value : Word) (s : State) : Host.Outcome State Fault Refusal :=
  onHw s (regWriteBy by_ (4 + a) (Reg.iotWinTgt a w) (guardHw (fun _ => bit value 0) (iotTgtWrite a w value)))

def execIotInv (by_ : Agent) (a : AceloId) (value : Word) (s : State) : Host.Outcome State Fault Refusal :=
  onHw s (regWriteBy by_ (4 + a) (Reg.iotInv a) (iotInvWrite a value))

/-- The oldest drain is complete: nothing matched before it is unacknowledged or held; drains end in order (R456). -/
def execIotInvDone (a : AceloId) (s : State) : Host.Outcome State Fault Refusal :=
  onHw s fun hw =>
    let t := getAcelo hw a
    match t.inv with
    | [] => (hw, .notEnabled)
    | (w, n) :: rest =>
      if adapterBusy hw a n || t.roHeld.any (fun h => h.win == w && decide (h.seq < n)) then (hw, .notEnabled)
      else
        let hw1 := rfield hw (Reg.iotInvSeq a) 31 0 (rbits hw (Reg.iotInvSeq a) 31 0 + 1)
        did (setAcelo hw1 a { t with inv := rest })

/-- A request from below the root port (R454): a placement window, peer to peer, or refused; a write with RO = 0 waits
for earlier posted writes (R458). -/
def execInboundRequest (a : AceloId) (req : InbReq) (s : State) : Host.Outcome State Fault Refusal :=
  onHw s fun hw =>
    let ag : Agent := .adapter a
    let port := 0x080000000000 + a.val * 0x040000000000
    if rbits hw (Reg.cxdStatus a) 41 40 = 0 ∨ rbit hw (Reg.cxdStatus a) 33 = true ∨ req.len = 0 ∨
        req.addr.toNat % 4096 + req.len > 4096 ∨ (req.write ∧ req.data.length ≠ req.len) then (hw, .notEnabled)
    else if req.pasid then (cxdLog hw a 3 req.rid.toNat req.addr.toNat, .unsupported)
    else match winFind hw a req with
      | none =>
        let hw1 := radd hw (Reg.iotMissCnt a) 1
        if port ≤ req.addr.toNat ∧ req.addr.toNat + req.len ≤ port + 0x040000000000 then
          did { hw1 with sent := hw1.sent ++ [.peer a req] }
        else (cxdLog hw1 a 3 req.rid.toNat req.addr.toNat, .unsupported)
      | some w =>
        let t := winTgt hw a w + (req.addr.toNat - winBase hw a w)
        let hw1 := radd hw (Reg.cxdInbCnt a) 1
        if rbit hw (Reg.iotWinTgt a w) (if req.write then 2 else 1) = false then
          (cxdLog hw1 a 4 req.rid.toNat req.addr.toNat, .completerAbort)
        else if inTier t && fencedHome hw ag t then
          (errorResponse hw1 (homeDie hw t) 7 ag 0 t, if req.write then .discarded else .completerAbort)
        else if req.write then
          let hw2 := if req.poison then cxdLog hw1 a 6 req.rid.toNat req.addr.toNat else hw1
          let x := matchedWr hw2 a w t req
          let p := getAcelo hw2 a
          let hw3 := setAcelo hw2 a { p with nextWr := p.nextWr + 1 }
          if inboundGoes hw2 a x && (req.ro || p.roHeld.isEmpty) then did (inboundWrite hw3 a x)
          else (setAcelo hw3 a { p with nextWr := p.nextWr + 1, roHeld := p.roHeld ++ [x] }, .pending)
        else if inboundHeld hw a t then (hw, .notEnabled)
        else match locate t with
          | .spad c off => (match smallRead ag c (cutSmall off req.len) hw1 with
              | some (h, bs, pz) => (consumed h ag t pz, if pz then .poisoned bs else .bytes bs)
              | none => (errorResponse hw1 (c / 128) (readCause hw ag c off 1) ag 0 t, .completerAbort))
          | _ => (match pocReadN (req.len / 64 + 2) hw1 ag t req.len with
              | some (h, bs, pz) => (consumed h ag t pz, if pz then .poisoned bs else .bytes bs)
              | none => (hw, .notEnabled))

/-- The oldest held write is sent: one with RO = 0 once every earlier posted write is acknowledged (R458). -/
def execRoWriteRelease (a : AceloId) (s : State) : Host.Outcome State Fault Refusal :=
  onHw s fun hw =>
    match (getAcelo hw a).roHeld with
    | [] => (hw, .notEnabled)
    | x :: rest =>
      if inboundGoes hw a x then did (inboundWrite (setAcelo hw a { getAcelo hw a with roHeld := rest }) a x)
      else (hw, .notEnabled)

end Sys2Proof.Machine
end

