-- ==== Sys2Proof/Machine/DmaRows.lean ====
section
/-! DEFINITION. The rows of Dma.lean: what each command does to the block. -/

namespace Sys2Proof.Machine

/-! #### The codec (R331, R332) -/

def execDeXfer (c : CoreId) (q : QueueId) (s : State) : Host.Outcome State Fault Refusal :=
  onHw s (engineRow c q 4 0x00 (deCan c) (deXferBody c))

/-! #### DE_GATHER and DE_SCATTER (R218) -/

def execDeGather (c : CoreId) (q : QueueId) (s : State) : Host.Outcome State Fault Refusal :=
  onHw s (engineRow c q 4 0x01 (deCan c) (tableBody c false))

def execDeScatter (c : CoreId) (q : QueueId) (s : State) : Host.Outcome State Fault Refusal :=
  onHw s (engineRow c q 4 0x02 (deCan c) (tableBody c true))

/-! #### DE_FILL and DE_COPY (R191, R192) -/

def execDeFill (c : CoreId) (q : QueueId) (s : State) : Host.Outcome State Fault Refusal :=
  onHw s (engineRow c q 4 0x03 (deCan c) (deFillBody c))

def execDeCopy (c : CoreId) (q : QueueId) (s : State) : Host.Outcome State Fault Refusal :=
  onHw s (engineRow c q 4 0x04 (deCan c) (deCopyBody c))

/-! #### Credits (R196, R197) -/

def execDeCreditPost (c : CoreId) (q : QueueId) (s : State) : Host.Outcome State Fault Refusal :=
  onHw s (engineRow c q 4 0x05 (deCan c) (deCreditPostBody c))

def execDeCreditTake (c : CoreId) (q : QueueId) (s : State) : Host.Outcome State Fault Refusal :=
  onHw s (engineRow c q 4 0x06 (deCan c) (deCreditTakeBody c))

def execCreditTakeRetry (c : CoreId) (q : QueueId) (s : State) : Host.Outcome State Fault Refusal :=
  onHw s fun hw => if coreAlive hw c then takeRetryRow c q hw else (hw, .notEnabled)

/-! #### DE_PREFETCH (R389) -/

def execDePrefetch (c : CoreId) (q : QueueId) (s : State) : Host.Outcome State Fault Refusal :=
  onHw s (engineRow c q 4 0x08 (deCan c) (dePrefetchBody c))

end Sys2Proof.Machine
end

