-- ==== Sys2Proof/Machine/ErotteRows.lean ====
section
/-! DEFINITION. The rows of Erotte.lean: what each command does to the block. -/

namespace Sys2Proof.Machine

/-- Whether a module carries flits. -/
def modLive (hw : Hw) (m : Nat) : Bool := modState hw m == 2 || modState hw m == 3

def execErotteFlitReceive (m : ModuleId) (dir : Bool) (crcOk : Bool) (flit : MFlit) (badLanes : BitVec 68) (s : State) :
    Host.Outcome State Fault Refusal :=
  onHw s (guardHw (fun hw => modLive hw m && flitSent hw m dir flit) (fun hw => did (ertFlit m dir crcOk flit badLanes hw)))

/-- A receiver with nothing to send acknowledges in an idle flit (R402). -/
def execErotteIdleTimer (m : ModuleId) (dir : Bool) (s : State) : Host.Outcome State Fault Refusal :=
  onHw s (guardHw (fun hw => modLive hw m)
    (fun hw => did (ertSend hw m (!dir) .idle 0)))

/-- The window of charged errors of a die's receivers ends (R403). -/
def execErotteErrorWindow (d : DieId) (s : State) : Host.Outcome State Fault Refusal :=
  onHw s (fun hw => did (foldN 64 hw (fun h m =>
    let clear := fun (w : Hw) (dir : Bool) =>
      if rxDie m dir = d.val then setMDir w m dir { getMDir w m dir with errs := [] } else w
    clear (clear h false) true)))

def execErotteRepairDone (m : ModuleId) (ok : Bool) (failA failB : BitVec 68) (s : State) : Host.Outcome State Fault Refusal :=
  onHw s (guardHw (fun hw => modState hw m == 5) (fun hw => did (repairDone m ok failB failA hw)))

/-- Without a sideband the receivers of a retired module report over another live module of its edge (R407). -/
def ertReport (hw : Hw) (m : ModuleId) : Hw :=
  match edgeList hw (modEdge m) with
  | [] => hw
  | (x, _) :: _ =>
    let tell := fun (h : Hw) (dir : Bool) => ertSend h x (!dir) (.report m dir (BitVec.ofNat 16 (getMDir hw m dir).rxNext)) 0
    tell (tell hw false) true

/-- The sideband fails: the module retires (R405, R407). -/
def execErotteSidebandFail (m : ModuleId) (s : State) : Host.Outcome State Fault Refusal :=
  onHw s (guardHw (fun hw => modLive hw m || modState hw m == 5) (fun hw => did (ertReport (retire hw m false 0) m)))

/-- The list of an edge is rebuilt and its held flits go (R404). -/
def execErotteListRebuildDone (edge : Fin 8) (s : State) : Host.Outcome State Fault Refusal :=
  onHw s (guardHw (fun hw => bit hw.ert.rebuild edge)
    (fun hw => did (flushHeld { hw with ert := { hw.ert with
      rebuild := hw.ert.rebuild &&& ~~~ BitVec.ofNat 8 (2 ^ edge.val) } } edge)))

/-- The recompute waits for a rebuild of the edge's list (R410). While boot step 6 runs, a die that it leaves without a path
halts the boot instead (R30, R510). -/
def execRouteRecomputeDone (edge : Fin 8) (s : State) : Host.Outcome State Fault Refusal :=
  onAll s (fun hw sec =>
    if !(bit hw.ert.routing edge && !bit hw.ert.rebuild edge) then (hw, sec, .notEnabled)
    else match cutOff (rerouted edge hw) with
      | some d =>
        if sec.step = 5 ∧ sec.halts = [] then
          let r := halt hw.pkg.primary (haltWord 9 6 d 0) (rerouted edge hw, sec)
          (r.1, r.2, .done)
        else (routesDone edge hw, sec, .done)
      | none => (routesDone edge hw, sec, .done))

end Sys2Proof.Machine
end

