-- ==== Sys2Proof/Machine/FabricRows.lean ====
section
/-! DEFINITION. The rows of Fabric.lean: what each command does to the block. -/

namespace Sys2Proof.Machine

/-! #### Ports that go down (R441–R443) -/

/-- A lane loses its clock or its light (R422); the power it still receives is free (log 74, DESIGN CHOICE). -/
def laneDark (p lane : Nat) (hw : Hw) : Hw :=
  let r := draw hw
  failLanes (rfield r.2 (Reg.optLane p lane) 63 32 (rbits hw (Reg.optLane p lane) 62 48 * 2 ^ 16 + r.1.toNat % 65536)) p
    (BitVec.ofNat 17 (2 ^ lane))

def execLaneSignalLoss (p : PortId) (lane : Fin 17) (s : State) : Host.Outcome State Fault Refusal :=
  onHw s (guardHw (fun hw => psLock ≤ pState hw p)
    (fun hw => did (laneDark p lane hw)))

def execMgmtLaneRepair (p : PortId) (lane : Fin 17) (s : State) : Host.Outcome State Fault Refusal :=
  onHw s (guardHw (fun hw => psLink ≤ pState hw p)
    (fun hw => did (failLanes hw p (BitVec.ofNat 17 (2 ^ lane.val)))))

/-- The repair ends (R423): the width its good lanes allow, with the event of the step taken. -/
def execOptRepairDone (p : PortId) (s : State) : Host.Outcome State Fault Refusal :=
  onHw s (guardHw (fun hw => pState hw p == psRepair) (fun hw =>
    let id := partnerId hw p
    let was := (pWidth hw p, rbit hw (Reg.optStatus p) 12)
    let w := chooseWidth (laneFails hw p)
    let hw1 := setPState (setWidth hw p w) p psActive
    let hw2 := setPort hw1 p { getPort hw1 p with repairing := 0 }
    let hw3 := if w.1 = 1 ∧ was.1 = 2 then portEvent hw2 3 p id 0
               else if w.2.1 ∧ was.2 = false then portEvent hw2 2 p id 0 else portEvent hw2 9 p id 0
    did (resendHeld hw3)))

def execOptRepairTimeout (p : PortId) (s : State) : Host.Outcome State Fault Refusal :=
  onHw s (guardHw (fun hw => pState hw p == psRepair) (fun hw => did (portDown hw p 4)))

/-- The end of a 2^24 OCLK window (R422): counters, and lanes over LANE_LIMIT. -/
def execFecWindow (p : PortId) (csym : List Nat) (cw corr uncorr : Nat) (s : State) : Host.Outcome State Fault Refusal :=
  onHw s (guardHw (fun hw => psLink ≤ pState hw p) (fun hw =>
    let hw1 := radd (radd (radd hw (Reg.optFecCwCnt p) cw) (Reg.optFecCorrCnt p) corr) (Reg.optFecUncorrCnt p) uncorr
    let hw2 := foldN 17 hw1 (fun h l => rfield h (Reg.optLane p l) 31 0 (atD 0 csym l))
    let worn := (List.range 17).filter (fun l => decide (atD 0 csym l > hw.img.laneLimit))
    did (if worn = [] then hw2 else failLanes hw2 p (BitVec.ofNat 17 (maskOf worn)))))

/-- No good flit for 10 µs; a port in REPAIR carries none and has a bound of its own (R423, R441). -/
def execNoFlitTimeout (p : PortId) (s : State) : Host.Outcome State Fault Refusal :=
  onHw s (guardHw (fun hw => psLink ≤ pState hw p && pState hw p != psRepair) (fun hw => did (linkLost hw p 1)))

def execFecLockLoss (p : PortId) (s : State) : Host.Outcome State Fault Refusal :=
  onHw s (guardHw (fun hw => psLink ≤ pState hw p) (fun hw => did (linkLost hw p 2)))

def execMgmtClose (p : PortId) (s : State) : Host.Outcome State Fault Refusal :=
  onHw s (guardHw (fun hw => psIdent ≤ pState hw p) (fun hw => did (linkLost hw p 5)))

def execAdminDown (by_ : Agent) (p : PortId) (value : Word) (s : State) : Host.Outcome State Fault Refusal :=
  onHw s (regWriteBy by_ (4 + p / 8) (Reg.optCtrl p) (optCtrlWrite p value))

def execRetrain (by_ : Agent) (p : PortId) (value : Word) (s : State) : Host.Outcome State Fault Refusal :=
  onHw s (regWriteBy by_ (4 + p / 8) (Reg.optCmd p) (optCmdWrite p value))

/-! #### Laser modules (R419) -/

def execLaserPoll (m : Fin 8) (rep : LaserRep) (s : State) : Host.Outcome State Fault Refusal :=
  onHw s (guardHw (fun hw => (getLaser hw m).present) (fun hw => did (laserReport m rep hw)))

def execLaserInterrupt (m : Fin 8) (rep : LaserRep) (s : State) : Host.Outcome State Fault Refusal :=
  onHw s (guardHw (fun hw => (getLaser hw m).present) (fun hw => did (laserReport m rep hw)))

def execLaserModuleRemove (m : Fin 8) (s : State) : Host.Outcome State Fault Refusal :=
  onHw s (guardHw (fun hw => (getLaser hw m).present) (fun hw =>
    let hw1 := showLaser (setLaser hw m { Laser.reset with present := false }) m
    did (foldN 2 hw1 (fun h i => if pState h (2 * m + i) = psDisabled then h else linkLost h (2 * m + i) 4))))

def execLaserModuleInsert (m : Fin 8) (rep : LaserRep) (s : State) : Host.Outcome State Fault Refusal :=
  onHw s (guardHw (fun hw => !(getLaser hw m).present) (fun hw =>
    let hw1 := laserReport m rep (setLaser hw m { Laser.reset with present := true })
    did (foldN 2 hw1 (fun h i => if pState h (2 * m + i) = psDark then trainStart h (2 * m + i) else h))))

/-! #### Link retry (R421) -/

/-- The partner asks for a replay: every flit it has not acknowledged is sent again, in order (R421, R402); with none there is
nothing to replay. The 16th without progress takes the port down (R441). -/
def optReplay (hw : Hw) (p : Nat) : Hw :=
  let t := getPort hw p
  if t.unacked = 0 then hw
  else if t.replays + 1 ≥ 16 then linkLost (setPort hw p { t with replays := t.replays + 1 }) p 3
  else
    let hw1 := radd (setPort hw p { t with replays := t.replays + 1 }) (Reg.optReplayCnt p) t.unacked
    { hw1 with sent := hw1.sent ++ (unackedFlits t).map (fun n => .optFlit p (.data (BitVec.ofNat 16 n))) }

/-- A flit arrives (R420, R421): an uncorrectable or out-of-order one is dropped and a replay requested, once for all that
come out of order until it arrives; the expected
one is taken and acknowledged; the 16th replay without progress takes the port down (R441). -/
def execOptFlitReceive (p : PortId) (fecOk : Bool) (flit : Flit) (s : State) : Host.Outcome State Fault Refusal :=
  onHw s (guardHw (fun hw => psLink ≤ pState hw p && pState hw p != psRepair) (fun hw =>
    let t := getPort hw p
    let nak := fun h : Hw => did { setPort h p { getPort h p with rxNak := true } with
      sent := h.sent ++ [.optFlit p (.nak (BitVec.ofNat 16 t.rxNext))] }
    let late := fun h : Hw => if t.rxNak then did h else nak h
    if !fecOk then nak hw
    else
      match flit with
      | .data seq =>
        if seq.toNat = t.rxNext then
          did { setPort (radd hw (Reg.optRxFlitCnt p) 1) p { t with rxNext := (t.rxNext + 1) % 65536, rxNak := false } with
            sent := hw.sent ++ [.optFlit p (.ack (BitVec.ofNat 16 (t.rxNext + 1)))] }
        else if (t.rxNext + 65536 - seq.toNat) % 65536 ≤ 1024 then
          did { hw with sent := hw.sent ++ [.optFlit p (.ack (BitVec.ofNat 16 t.rxNext))] }
        else late hw
      | .idle seq => if seq.toNat = t.rxNext then did (creditsBack hw p) else late hw
      | .ack seq => did (creditsBack (optAcked hw p seq.toNat) p)
      | .nak seq => did (optReplay (optAcked hw p seq.toNat) p)))

/-! #### Requests of other packages (R433, R437, R439) -/

def execFabWr (p : PortId) (h : FabHdr) (data : List Byte) (s : State) : Host.Outcome State Fault Refusal :=
  onHw s (fabArrive p 0x01 h data (fun hw =>
    if data.length ≠ fabLen h ∨ !fabInBlock h then did (fabRefuse hw h 1 (fabCause hw h false 6))
    else match locate h.addr.toNat with
      | .tier0 | .tier1 =>
        (match tierWrite 8 hw (fabAgent h) h.addr.toNat data false h.hint.toNat h.htgt.toNat (fabRoe hw h) with
         | some w => did (fabReply w h 0x10 0 0 [])
         | none => (hw, .notEnabled))
      | .spad c off =>
        (match spadWriteBy hw (fabAgent h) c off data with
         | (w, .ok) => did (fabReply w h 0x10 0 0 [])
         | (w, .violation) => did (fabReply w h 0x14 2 0 [])
         | (w, .refused cause) => did (fabRefuse w h 1 cause))
      | _ => did (fabRefuse hw h 1 (fabCause hw h true 7))))

def execFabRd (p : PortId) (h : FabHdr) (s : State) : Host.Outcome State Fault Refusal :=
  onHw s (fabArrive p 0x02 h [] (fun hw =>
    if !fabInBlock h then did (fabRefuse hw h 1 (fabCause hw h false 6))
    else match locate h.addr.toNat with
      | .tier0 | .tier1 =>
        (match tierRead h.hint.toNat h.htgt.toNat 8 hw (fabAgent h) h.addr.toNat (fabLen h) (fabRoe hw h) with
         | some (w, bs, pz) => if pz then did (fabReply w h 0x14 4 0 []) else did (fabReply w h 0x11 0 0 bs)
         | none => (hw, .notEnabled))
      | .spad c off => did (match spadReadBy hw (fabAgent h) c off (fabLen h) with
          | some (w, bs, pz) => if pz then fabReply w h 0x14 4 0 [] else fabReply w h 0x11 0 0 bs
          | none => fabRefuse hw h 1 (readCause hw (fabAgent h) c off (fabLen h)))
      | .acc c off => did (match accReadBy hw (fabAgent h) c off (fabLen h) with
          | some (w, bs, pz) => if pz then fabReply w h 0x14 4 0 [] else fabReply w h 0x11 0 0 bs
          | none => fabRefuse hw h 1 (readCause hw (fabAgent h) c off (fabLen h)))
      | _ => did (fabRefuse hw h 1 (fabCause hw h true 7))))

def execFabAtom (p : PortId) (h : FabHdr) (s : State) : Host.Outcome State Fault Refusal :=
  onHw s (fabArrive p 0x03 h [] (fun hw =>
    match amoFn h.func.toNat with
    | some fn => if fabLen h = 4 ∨ fabLen h = 8 then
        fabAtomicServe h (.amo fn (fabLen h) (h.addr.toNat % 64) h.opnd h.cmp) (fabLen h) 0x12 hw
      else did (fabRefuse hw h 1 6)
    | none => did (fabRefuse hw h 1 6)))

def execFabRed (p : PortId) (h : FabHdr) (data : List Byte) (s : State) : Host.Outcome State Fault Refusal :=
  onHw s (fabArrive p 0x04 h data (fun hw =>
    let rop := h.rop.toNat
    let rfmt := h.rfmt.toNat
    if data.length ≠ fabLen h ∨ !fabInBlock h ∨ !atomOk (.reduce rop rfmt 0) ∨
        h.addr.toNat % (fmtBits rfmt / 8) ≠ 0 ∨ fabLen h % (fmtBits rfmt / 8) ≠ 0 then did (fabRefuse hw h 1 (fabCause hw h false 6))
    else if !inTier h.addr.toNat then did (fabRefuse hw h 1 (fabCause hw h true 8))
    else match reduceN ⟨rop, rfmt, h.hint.toNat, h.htgt.toNat, h.elem, 0⟩ (fabAgent h) (fabRoe hw h) 8 hw h.addr.toNat data with
      | some (w, pz) => if pz then did (fabReply w h 0x14 4 0 []) else did (fabReply w h 0x10 0 0 [])
      | none => (hw, .notEnabled)))

def execFabSemadd (p : PortId) (h : FabHdr) (s : State) : Host.Outcome State Fault Refusal :=
  onHw s (fabArrive p 0x05 h [] (fabAtomicServe h (.amo .add 8 (h.addr.toNat % 64) h.opnd 0) 8 0x10))

def execFabSemwr (p : PortId) (h : FabHdr) (s : State) : Host.Outcome State Fault Refusal :=
  onHw s (fabArrive p 0x06 h [] (fabAtomicServe h (.amo .swap 8 (h.addr.toNat % 64) h.opnd 0) 8 0x10))

def execFabCtake (p : PortId) (h : FabHdr) (s : State) : Host.Outcome State Fault Refusal :=
  onHw s (fabArrive p 0x07 h [] (fun hw =>
    match locate h.addr.toNat with
    | .spad c _ => if corePresent hw c then
        let r := creditTake hw c (bits h.opnd 5 0) h.src.toNat h.agent.toNat
        did (fabReply r.1 h 0x13 0 r.2 [])
      else did (fabRefuse hw h 1 5)
    | _ => did (fabRefuse hw h 1 (fabCause hw h true 7))))

def execFabCend (p : PortId) (h : FabHdr) (s : State) : Host.Outcome State Fault Refusal :=
  onHw s (fabArrive p 0x08 h [] (fun hw =>
    match locate h.addr.toNat with
    | .spad c _ => if corePresent hw c then
        did (fabReply (creditEnd hw c (bits h.opnd 5 0) h.src.toNat h.agent.toNat) h 0x10 0 0 [])
      else did (fabRefuse hw h 1 5)
    | _ => did (fabRefuse hw h 1 (fabCause hw h true 7))))

/-! #### Responses (R439, R440) -/

def execFabCmp (p : PortId) (h : FabHdr) (s : State) : Host.Outcome State Fault Refusal :=
  onHw s (fabResponse p 0x10 h [] stSuccess 0)

def execFabRddata (p : PortId) (h : FabHdr) (data : List Byte) (s : State) : Host.Outcome State Fault Refusal :=
  onHw s (fabResponse p 0x11 h data stSuccess 0)

def execFabAtomrsp (p : PortId) (h : FabHdr) (s : State) : Host.Outcome State Fault Refusal :=
  onHw s (fabResponse p 0x12 h [] stSuccess h.opnd)

def execFabCtakersp (p : PortId) (h : FabHdr) (s : State) : Host.Outcome State Fault Refusal :=
  onHw s (fabResponse p 0x13 h [] stSuccess h.opnd)

def execFabErr (p : PortId) (h : FabHdr) (s : State) : Host.Outcome State Fault Refusal :=
  onHw s (fabResponse p 0x14 h [] (errStatus h.status.toNat) 0)

def execFabRequestTimeout (tag : BitVec 20) (s : State) : Host.Outcome State Fault Refusal :=
  onHw s fun hw =>
    match hw.pkg.fabReqs.find? (fun r => r.tag == tag.toNat) with
    | none => (hw, .notEnabled)
    | some r =>
      let hw1 := { hw with pkg := { hw.pkg with fabReqs := hw.pkg.fabReqs.filter (fun x => x.tag != r.tag) } }
      did (fabEnd hw1 r stUnreachable [] 0)

/-- The message of a level that leaves first: its oldest response, which waits behind no request (R438), or else its oldest
request. -/
def paceNext (hw : Hw) (level : Nat) : Option Held :=
  match hw.pkg.held.find? (fun m => m.level == level && decide (0x10 ≤ m.op)) with
  | some m => some m
  | none => hw.pkg.held.find? (fun m => m.level == level)

/-- The bucket of a level has tokens again and a held message of it is sent (R435). -/
def execPaceRelease (level : Fin 5) (s : State) : Host.Outcome State Fault Refusal :=
  onHw s fun hw =>
    match paceNext hw level with
    | none => (hw, .notEnabled)
    | some m =>
      let hw1 := { hw with pkg := { hw.pkg with
        held := hw.pkg.held.filter (fun x => x != m),
        tokens := mput (fun _ => 65536) hw.pkg.tokens level 65536 } }
      did (codecSweep (fabEmit hw1 m.op m.hdr m.data m.req))

end Sys2Proof.Machine
end

