-- ==== Sys2Proof/Machine/GroupsRows.lean ====
section
/-! DEFINITION. The rows of Groups.lean: what each command does to the block. -/

namespace Sys2Proof.Machine

/-! #### Halting (R92) -/

def execCoreHalt (by_ : Agent) (c : CoreId) (s : State) : Host.Outcome State Fault Refusal :=
  onHw s (coreRegWrite by_ c (Reg.coreCtrl c) (coreCtrlWrite c 1))

def execCoreResume (by_ : Agent) (c : CoreId) (s : State) : Host.Outcome State Fault Refusal :=
  onHw s (coreRegWrite by_ c (Reg.coreCtrl c) (coreCtrlWrite c 0))

/-! #### Power states (R85–R88, R119) -/

def execReqOffSet (by_ : Agent) (g : GroupId) (value : Word) (s : State) : Host.Outcome State Fault Refusal :=
  onHw s (guardHw (fun _ => bit value 0) (cgRegWrite by_ g (Reg.cgPwrCtrl g) (cgPwrWrite g value)))

def execReqOffClear (by_ : Agent) (g : GroupId) (value : Word) (s : State) : Host.Outcome State Fault Refusal :=
  onHw s (guardHw (fun _ => !bit value 0) (cgRegWrite by_ g (Reg.cgPwrCtrl g) (cgPwrWrite g value)))

/-- CG_GATING_COMPLETE: the cores are quiet, their merging buffers drain, the group is OFF (R86). -/
def execCgGatingComplete (g : GroupId) (s : State) : Host.Outcome State Fault Refusal :=
  onHw s (guardHw (fun hw => groupPresent hw g && groupState hw g == 1 &&
      (List.range 8).all (fun i => coreQuiet hw (8 * g + i)))
    (fun hw => match mbDrainCores ((List.range 8).map (8 * g.val + ·)) hw with
      | none => (hw, .notEnabled)
      | some hw1 =>
        let hw2 := ((List.range 8).foldl (fun r i => killPass (8 * g + i) r) (did hw1)).1
        did (foldN 8 (setGroup hw2 g 2) (fun h i => coreOff h (8 * g + i)))))

/-- CG_WAKE_COMPLETE: the ramp was granted; the group is ON. -/
def execCgWakeComplete (g : GroupId) (s : State) : Host.Outcome State Fault Refusal :=
  onHw s (guardHw (fun hw => groupState hw g == 3 && !hw.ramps.contains (512 + g.val))
    (fun hw => did (groupWake g hw)))

end Sys2Proof.Machine
end

