-- ==== Sys2Proof/Machine/Harts.lean ====
section
/-! DEFINITION. What harts do (R355–R371): loads, stores and the completion of buffered stores, AMOs, cache-block
operations, prefetches, Xtlvq, stash offers. -/

namespace Sys2Proof.Machine

/-! #### Checks before an access leaves the hart (R50, R355) -/

/-- A hart that executes: neither stopped nor waiting in a barrier. -/
def hartRuns (t : Hart) : Bool := !t.stopped && !t.off && t.bar.isNone

/-- The physical address has bits above 52 set (R50). -/
def paTooBig (a : Nat) : Bool := decide (2 ^ 52 ≤ a)

/-- A scalar access of a hart. -/
def scalarSize (size : Nat) : Bool := size == 1 || size == 2 || size == 4 || size == 8

/-- An access to main memory, of at most two lines. -/
def cacheableAt (a size : Nat) : Bool := inTier a && inTier (a + size - 1)

/-- The lines an access touches, first and last. -/
def linesOf (a size : Nat) : List Nat := if a / 64 = (a + size - 1) / 64 then [a / 64] else [a / 64, (a + size - 1) / 64]

/-- A request for a line that its home cannot be asked for: the sender is cut off from it (R505). -/
def hartCut (hw : Hw) (h : HartId) (line : Nat) : Bool := fencedHome hw (.hart h) (64 * line)

/-- Ask for a line, unless it is asked for already or its write-back is under way (R386). -/
def hartAsk (hw : Hw) (h : HartId) (line : Nat) (unique : Bool) (why : MissWhy) : Hw :=
  let t := getHart hw h
  if (wbufLine t line).isSome then hw
  else if t.miss.any (fun m => m.1 == line) then (if why = .load then hartRequest hw h line unique why else hw)
  else hartRequest hw h line unique why

/-- The hart holds a line writable. -/
def hartOwns (t : Hart) (line : Nat) : Option HLine :=
  match hartLine t line with
  | some l => if l.st = .s then none else some l
  | none => none

/-- A poisoned line has been consumed by a hart (R522). -/
def hartPoison (hw : Hw) (h : HartId) (line : Nat) : Hw := consumed hw (.hart h) (64 * line) true

/-! #### Loads (R355, R358) -/

/-- The bytes of a buffered granule that the hart's own stores give. -/
def sbMask (t : Hart) (line : Nat) : BitVec 64 :=
  t.sb.foldl (fun m e => if e.kind = .cacheable ∧ e.addr = 64 * line then m ||| e.mask else m) 0

/-- The byte a load takes at an address when it is issued, and whether it comes out of a poisoned line: the hart's own
buffered stores come first (R358), then a line it holds. -/
def hartByte (t : Hart) (a : Nat) : Option Byte × Bool :=
  let line := a / 64
  let mine := sbMask t line
  if mine.getLsbD (a % 64) then (some (atD 0 (sbOver t line (List.replicate 64 0)) (a % 64)), false)
  else match hartLine t line with
    | some l => (some (atD 0 l.data (a % 64)), l.poison)
    | none => (none, false)

/-- A load as it is issued. -/
def loadStart (t : Hart) (a size : Nat) : LoadRec :=
  let bs := (List.range size).map (fun i => hartByte t (a + i))
  ⟨a, size, bs.map (·.1), bs.any (·.2)⟩

/-- A load from main memory: at once where the hart holds or buffers all its bytes and no earlier load is outstanding with
which it could fault out of order, else it waits for the lines it misses. A line that an earlier cbo.zero has still to zero
gives it nothing. -/
def memLoad (h : HartId) (a size : Nat) (hwOld : Hw) : Hw × Answer :=
  let lines := linesOf a size
  let hw := lines.foldl (fun w l => hartScan w h l) hwOld
  let t := getHart hw h
  let l := loadStart t a size
  if lines.any (fun x => t.miss.contains (x, .zero)) then (hw, .notEnabled)
  else
  let hits := fun w : Hw => (lines.filter (fun x => (hartLine t x).isSome)).foldl (fun v x => setHart v h (dcacheUse (getHart v h) x)) w
  if loadFull l then
    (if l.bad then (if t.loads = [] then (hartPoison hw h (a / 64), .loadFault) else (hw, .notEnabled))
     else (hits hw, loadAnswer [l]))
  else
    let missing := lines.filter (fun x => (hartLine t x).isNone && (l.got.zipIdx).any (fun b => b.1.isNone && (a + b.2) / 64 == x))
    if missing.any (hartCut hw h) then
      (if t.loads = [] then readRefused hw (dieOfAddr hw a (.hart h)) 7 (.hart h) a else (hw, .notEnabled))
    else if missing.any (fun x => (wbufLine t x).isSome) then (hw, .notEnabled)
    else
      let hw1 := hits (setHart hw h { t with loads := t.loads ++ [l] })
      (missing.foldl (fun w x => hartAsk w h x false .load) hw1, .pending)

/-- An I/O load (R355, R360): the store buffer drains first, the load is performed when it is empty (log 37, DEDUCED). -/
def ioLoad (h : HartId) (a size : Nat) (hw : Hw) (sec : Sec) : Hw × Answer :=
  let t := getHart hw h
  if sbStores t ≠ [] then (setHart hw h { t with bar := some (.io a size) }, .pending)
  else
    let hw1 := setHart hw h { t with bar := none, sb := [] }
    let r := busRead (.hart h) (.hartLoad h size) a size hw1 sec
    match r.2 with
    | .pending => (setHart r.1 h { getHart r.1 h with ioLoad := some (a, size, 0) }, .pending)
    | .poisoned _ => (r.1, .loadFault)
    | x => (r.1, x)

/-- HOST_LOAD: the address and attribute checks, then the access. A load that waits for its drain is the only command of
its hart (log 37, DEDUCED). -/
def hostLoad (h : HartId) (a size : Nat) (hw : Hw) (sec : Sec) : Hw × Answer :=
  let t := getHart hw h
  let mine : Bool := t.bar == some (.io a size)
  if t.stopped || t.off || (t.bar.isSome && !mine) || t.ioLoad.isSome || !scalarSize size then (hw, .notEnabled)
  else if cacheableAt a size && !paTooBig a then memLoad h a size hw
  else if loadsOut t then (hw, .notEnabled)
  else if paTooBig a then (hw, .loadFault)
  else if a % size ≠ 0 then (hw, .loadFault)
  else ioLoad h a size hw sec

/-! #### Stores (R355, R358, R359) -/

/-- An address of a port window lies in a CXL.mem range of its device, which a CXL device of type 2 or 3 has (R59, R359)
(log 37, DEDUCED). -/
def inCxlMem (hw : Hw) (p off : Nat) : Bool := decide (2 ≤ rbits hw (Reg.cxdStatus p) 53 52) && Config.cxlMem p off

/-- The kind of an I/O store (R359): a port window's configuration space and a CXL.mem range are non-posted, a memory BAR is
posted (log 37, DEDUCED). -/
def ioKind (hw : Hw) (a : Nat) : SbKind :=
  match locate a with
  | .port p off => if off < 0x10000000 ∨ inCxlMem hw p off = true then .nonPosted else .posted
  | _ => .register

/-- A store's bytes enter one granule: merged into the youngest entry of the same granule, else a new entry. -/
def sbEnter (t : Hart) (line off : Nat) (bs : List Byte) : Hart :=
  let mask := lineMask off bs.length
  let data := List.replicate off 0 ++ bs
  match t.sb.getLast? with
  | some e =>
    if e.kind = .cacheable ∧ e.addr = 64 * line then
      { t with sb := t.sb.dropLast ++ [{ e with mask := e.mask ||| mask,
                                                data := mergeBytes mask 0 e.data (data ++ List.replicate (64 - data.length) 0) }] }
    else { t with sb := t.sb ++ [⟨.cacheable, 64 * line, 64, mask, data ++ List.replicate (64 - data.length) 0, none, false⟩] }
  | none => { t with sb := [⟨.cacheable, 64 * line, 64, mask, data ++ List.replicate (64 - data.length) 0, none, false⟩] }

/-- Ask for a line to write, where the hart neither owns it nor is cut off from its home. -/
def askToWrite (hw : Hw) (h : HartId) (line : Nat) (why : MissWhy) : Hw :=
  if (hartOwns (getHart hw h) line).isSome ∨ hartCut hw h line = true then hw else hartAsk hw h line true why

/-- HOST_STORE: the store enters the buffer once earlier loads have returned (R363), a line it needs is asked for. -/
def hostStore (h : HartId) (a size : Nat) (v : Word) (hw : Hw) : Hw × Answer :=
  let t := getHart hw h
  if !hartRuns t || hartLoads t || !scalarSize size then (hw, .notEnabled)
  else if paTooBig a then (hw, .storeFault)
  else
    let bs := leBytes size v.toNat
    if cacheableAt a size then
      let k := min size (64 - a % 64)
      let t1 := sbEnter t (a / 64) (a % 64) (bs.take k)
      let t2 := if k = size then t1 else sbEnter t1 (a / 64 + 1) 0 (bs.drop k)
      if (sbStores t2).length > 32 then (hw, .notEnabled)
      else did ((linesOf a size).foldl (fun w l => askToWrite w h l .store) (setHart hw h t2))
    else if a % size ≠ 0 then (hw, .storeFault)
    else if (sbStores t).length ≥ 32 then (hw, .notEnabled)
    else
      let first : Bool := t.orderNext && ioKind hw a == .posted
      did (setHart hw h { t with sb := t.sb ++ [⟨ioKind hw a, a, size, 0, bs, none, first⟩], orderNext := t.orderNext && !first })

/-! #### Completion of an entry (R358, R359, R362) -/

/-- The place in the buffer of its i-th store, and whether an order mark stands before it (log 37, DEDUCED). -/
def sbPlace : List SbEnt → Nat → Bool → Option (SbEnt × Bool)
  | [], _, _ => none
  | e :: es, i, marked =>
    if e.kind = .orderMark then sbPlace es i true
    else match i with
      | 0 => some (e, marked)
      | n + 1 => sbPlace es n marked


/-- The i-th store leaves the buffer. -/
def sbRemove : List SbEnt → Nat → List SbEnt
  | [], _ => []
  | e :: es, i =>
    if e.kind = .orderMark then e :: sbRemove es i
    else match i with
      | 0 => es
      | n + 1 => e :: sbRemove es n

/-- The entry has completed. -/
def sbDone (hw : Hw) (h : HartId) (i : Nat) : Hw :=
  let t := getHart hw h
  barSettle (setHart hw h { t with sb := dropMarks (sbRemove t.sb i) }) h

/-- A cacheable entry is written into L1D with the line held writable. -/
def sbCache (h : HartId) (i : Nat) (e : SbEnt) (hwOld : Hw) : Hw × Answer :=
  let line := e.addr / 64
  let hw := hartScan hwOld h line
  let t := getHart hw h
  match hartOwns t line with
  | some l =>
    let new : HLine := ⟨.m, mergeBytes e.mask 0 l.data e.data, l.poison && e.mask != fullMask⟩
    did (sbDone (setHart hw h (dcacheUse (setLine t line (some new)) line)) h i)
  | none =>
    if hartCut hw h line then
      let r := writeRefused hw (homeDie hw e.addr) 7 (.hart h) e.addr
      (sbDone r.1 h i, r.2)
    else if (wbufLine t line).isSome ∨ t.miss.any (fun m => m.1 == line) = true then (hw, .notEnabled)
    else (hartAsk hw h line true .store, .pending)

/-- An I/O entry is performed (log 37, DEDUCED); it waits in the buffer while the mesh holds its way to the port (R30). -/
def sbIo (h : HartId) (i : Nat) (e : SbEnt) (hw : Hw) (sec : Sec) : Hw × Sec × Answer :=
  let v := word (leNat e.data)
  let held := fun p : Nat => meshHeld hw (hartDie h) (4 + p) e.addr
  match e.kind, locate e.addr with
  | .posted, .port p _ =>
    if held p then (hw, sec, .notEnabled)
    else if cxdUp hw p then (sbDone (dsPost hw p e.addr e.data (!e.ro0)) h i, sec, .done)
    else
      let r := writeRefused hw (4 + p) 5 (.hart h) e.addr
      (sbDone r.1 h i, sec, r.2)
  | .nonPosted, .port p off =>
    if e.tag.isSome || held p then (hw, sec, .notEnabled)
    else if cxdUp hw p || ownHeader off then
      let tag := (getAcelo hw p).nextTag
      let hw2 := dsWrite hw p e.addr e.data (.hartStore h)
      let t := getHart hw2 h
      (setHart hw2 h { t with sb := t.sb.map (fun x => if x = e then { x with tag := some tag } else x) }, sec, .pending)
    else
      let r := writeRefused hw (4 + p) 5 (.hart h) e.addr
      (sbDone r.1 h i, sec, r.2)
  | _, _ =>
    let r := busWrite (.hart h) (.hartStore h) e.addr e.size v hw sec
    if r.2.2 = .notEnabled then (hw, sec, .notEnabled) else (sbDone r.1 h i, r.2.1, r.2.2)

/-- SB_ENTRY_COMPLETE: entries of one granule complete in program order, nothing passes an order mark, an I/O entry is
performed when everything before it has completed (R358, R360). -/
def sbComplete (h : HartId) (i : Nat) (hw : Hw) (sec : Sec) : Hw × Sec × Answer :=
  let t := getHart hw h
  match sbPlace t.sb i false with
  | none => (hw, sec, .notEnabled)
  | some (e, marked) =>
    if marked then (hw, sec, .notEnabled)
    else if e.kind = .cacheable then
      if ((sbStores t).take i).any (fun x => x.kind == .cacheable && x.addr == e.addr) then (hw, sec, .notEnabled)
      else
        let r := sbCache h i e hw
        (r.1, sec, r.2)
    else if i ≠ 0 then (hw, sec, .notEnabled)
    else sbIo h i e hw sec

/-! #### AMO, LR and SC (R355, R384) -/

/-- The granule still waits in the store buffer: what follows on it waits too. -/
def sbHolds (t : Hart) (line : Nat) : Bool := t.sb.any (fun e => e.kind == .cacheable && e.addr == 64 * line)

/-- A TLV.REL at CORE scope whose earlier stores have not all completed: no later store is performed before them (R366). -/
def sbMarked (t : Hart) : Bool := t.sb.any (fun e => e.kind == .orderMark)

/-- The value an AMO leaves (log 36, PRESUMED). -/
def amoBytes (fn : AtomFn) (size off : Nat) (data : List Byte) (v : Word) : List Byte :=
  splice data off (leBytes size (atomNew fn (8 * size) (leNat (slice data off size)) v.toNat 0))

/-- HOST_AMO: the line is taken with RdUnique and the operation performed in L1D. A compare and swap (Zacas) and operations
of 1 and 2 bytes (Zabha) are of absent extensions (R354) (log 36, PRESUMED). -/
def hostAmo (h : HartId) (a size : Nat) (op : HostAmo) (v : Word) (hwOld : Hw) : Hw × Answer :=
  let line := a / 64
  let hw := hartScan hwOld h line
  let t := getHart hw h
  if !hartRuns t || loadsOut t then (hw, .notEnabled)
  else if op = .amo .cas ∨ (size ≠ 4 ∧ size ≠ 8) then (hw, .illegal)
  else if a % size ≠ 0 ∨ paTooBig a = true ∨ cacheableAt a size = false then (hw, .storeFault)
  else if sbHolds t line || (op != .lr && sbMarked t) then (hw, .notEnabled)
  else match op, hartOwns t line with
    | .sc, none => (setHart hw h { t with resv := none }, .value 1)
    | .sc, some l =>
      if t.resv = some (a, size) then
        let new : HLine := { l with st := .m, data := splice l.data (a % 64) (leBytes size v.toNat) }
        (setHart hw h { dcacheUse (setLine t line (some new)) line with resv := none }, .value 0)
      else (setHart hw h { t with resv := none }, .value 1)
    | .lr, some l =>
      if l.poison then (hartPoison hw h line, .loadFault)
      else (setHart hw h { dcacheUse t line with resv := some (a, size) }, .value (word (leNat (slice l.data (a % 64) size))))
    | .amo fn, some l =>
      if l.poison then (hartPoison hw h line, .storeFault)
      else
        let new : HLine := { l with st := .m, data := amoBytes fn size (a % 64) l.data v }
        (setHart hw h (dcacheUse (setLine t line (some new)) line), .value (word (leNat (slice l.data (a % 64) size))))
    | _, none =>
      if hartCut hw h line then readRefused hw (homeDie hw a) 7 (.hart h) a
      else if (wbufLine t line).isSome then (hw, .notEnabled)
      else (hartAsk hw h line true .amo, .pending)

/-! #### Fences and Xtlvq (R360, R361, R365–R369) -/

/-- A barrier begins: it completes at once when nothing is left to wait for (log 39, DEDUCED). -/
def barrier (h : HartId) (b : Barrier) (hw : Hw) : Hw × Answer :=
  let t := getHart hw h
  let hw1 := barSettle (setHart hw h { t with bar := some b }) h
  (hw1, if (getHart hw1 h).bar.isNone then .done else .pending)

/-- Whether a fence's successor set includes O or W (R457). -/
def fenceOrders : FenceKind → Bool
  | .fence _ _ _ _ _ w _ o => w || o
  | _ => false

/-- A fence begins (R360) (log 39, DEDUCED). -/
def hostFence (h : HartId) (k : FenceKind) (hw : Hw) : Hw × Answer :=
  let t := getHart hw h
  if !hartRuns t then (hw, .notEnabled)
  else
    let t1 := { t with orderNext := t.orderNext || fenceOrders k, icache := if k = .fenceI then [] else t.icache }
    barrier h .fence (setHart hw h t1)

/-- TLV.DB: the checks come first; then the release, then the store (log 39, DEDUCED). -/
def tlvDbRow (h : HartId) (a : Nat) (v : Word) (hw : Hw) : Hw × Answer :=
  let t := getHart hw h
  let io : Bool := match locate a with
    | .tier0 => false
    | .tier1 => false
    | .hole none => false
    | _ => true
  if !hartRuns t || hartLoads t then (hw, .notEnabled)
  else if a % 8 ≠ 0 ∨ paTooBig a = true ∨ io = false then (hw, .storeFault)
  else
    let r := barrier h (.tlvDb a v) hw
    (r.1, .done)

/-- TLV.REL: at CORE scope a mark in the buffer, else a drain (log 39, DEDUCED). -/
def tlvRelRow (h : HartId) (scope : Scope) (hw : Hw) : Hw × Answer :=
  let t := getHart hw h
  if !hartRuns t then (hw, .notEnabled)
  else
    let t1 := { t with orderNext := true }
    if scope = .core then
      if hartLoads t then (hw, .notEnabled)
      else did (setHart hw h { t1 with sb := if sbStores t = [] then [] else t.sb ++ [⟨.orderMark, 0, 0, 0, [], none, false⟩] })
    else barrier h .tlvRel (setHart hw h t1)

/-- TLV.ACQ: at CORE scope it waits for earlier loads, else for the store buffer too (log 39, DEDUCED). -/
def tlvAcqRow (h : HartId) (scope : Scope) (hw : Hw) : Hw × Answer :=
  let t := getHart hw h
  if !hartRuns t then (hw, .notEnabled)
  else if scope = .core then (if hartLoads t then (hw, .notEnabled) else did hw)
  else barrier h .tlvAcq hw

/-- A stash offer to a hart, counted at the line's home (R391). -/
def offerTo (hw : Hw) (line : Nat) (ag : Agent) : Hw :=
  radd (sendMsg hw .stashOffer line ag) (Reg.slcStashOfferCnt (homeDie hw (64 * line))) 1

/-- TLV.STASH: never an exception, never a changed value. -/
def tlvStashRow (h : HartId) (a : Nat) (rs2 : Word) (hwOld : Hw) : Hw × Answer :=
  let line := a / 64
  let hw := hartScan hwOld h line
  let t := getHart hw h
  let kind := bits rs2 13 12
  let target := bits rs2 6 0
  if !hartRuns t then (hw, .notEnabled)
  else if paTooBig a = true ∨ inTier a = false ∨ hartCut hw h line = true then did hw
  else if kind = 1 then
    match hartLine t line with
    | some l => if l.st = .m ∧ (wbufLine t line).isNone then did (arriveWrBack (hartDrop hw h line l) line (.hart h) l.data l.poison)
                else did hw
    | none => did hw
  else if kind = 2 ∧ target < 72 then did (offerTo hw line (.hart (Fin.ofNat 72 target)))
  else did hw

/-! #### Cache-block operations and prefetches (R357) -/

/-- A cache-block operation on a line: it waits for the hart's own buffered stores to the block; an address above 52 bits
gets the access fault (R50); an I/O address has no cached copy to act on (log 36, PRESUMED; log 38, DEDUCED). -/
def cboAt (h : HartId) (a : Nat) (f : Nat → Hart → Hw → Hw × Answer) (hwOld : Hw) : Hw × Answer :=
  let line := a / 64
  let hw := hartScan hwOld h line
  let t := getHart hw h
  if !hartRuns t || hartLoads t || sbHolds t line then (hw, .notEnabled)
  else if paTooBig a then (hw, .storeFault)
  else if inTier a = false then did hw
  else if (wbufLine t line).isSome then (hw, .notEnabled)
  else f line t hw

/-- cbo.clean: a dirty copy goes home and stays, clean; the home still names its owner (log 38, DEDUCED). -/
def cleanLine (h : HartId) (line : Nat) (t : Hart) (hw : Hw) : Hw × Answer :=
  match hartLine t line with
  | some l =>
    if l.st ≠ .m then did hw
    else if (getHome hw line).busy.isSome || !(getHome hw line).queue.isEmpty then (hw, .notEnabled)
    else did (dirtyIn (setHart hw h (setLine t line (some { l with st := .e }))) line l.data l.poison)
  | none => did hw

/-- cbo.flush: a dirty copy goes home, every copy of the hart goes (log 38, DEDUCED). -/
def flushLine (h : HartId) (line : Nat) (t : Hart) (hw : Hw) : Hw × Answer :=
  match hartLine t line with
  | some l =>
    if l.st = .m then did (arriveWrBack (hartDrop hw h line l) line (.hart h) l.data l.poison)
    else
      let hw1 := setHart hw h (hartLose t line)
      did (if l.st = .e then arriveEvict hw1 line (.hart h) else hw1)
  | none => did hw

/-- cbo.zero: the block is zero in L1D once the line is held writable; it is asked for without its data. -/
def zeroLine (h : HartId) (a : Nat) (hw : Hw) : Hw × Answer :=
  let t := getHart hw h
  let line := a / 64
  if !hartRuns t || hartLoads t || sbHolds t line || sbMarked t then (hw, .notEnabled)
  else if paTooBig a = true ∨ inTier a = false then (hw, .storeFault)
  else match hartOwns t line with
    | some _ => did (setHart hw h (dcacheUse (setLine t line (some ⟨.m, List.replicate 64 0, false⟩)) line))
    | none =>
      if hartCut hw h line then
        let r := writeRefused hw (homeDie hw a) 7 (.hart h) a
        (r.1, r.2)
      else if (wbufLine t line).isSome ∨ t.miss.any (fun m => m.1 == line) = true then (hw, .notEnabled)
      else (hartAsk hw h line true .zero, .pending)

/-- A prefetch: a hint that brings the line, or does nothing. -/
def prefetchLine (h : HartId) (a : Nat) (unique instr : Bool) (hwOld : Hw) : Hw × Answer :=
  let line := a / 64
  let hw := if instr then fetchScan hwOld h line else hwOld
  let t := getHart hw h
  if !hartRuns t then (hw, .notEnabled)
  else if paTooBig a = true ∨ inTier a = false ∨ hartCut hw h line = true then did hw
  else match hartLine t line with
    | some l =>
      if unique && l.st == .s then did (hartAsk hw h line true (.prefetch false))
      else if instr then did (setHart hw h { t with icache := icachePut t.icache line })
      else did hw
    | none => did (hartAsk hw h line unique (.prefetch instr))

/-! #### CSRs (R48, R353) -/

/-- What a read of a hart's CSR gives: `time` is the REF counter of its own Acelo, `cycle` the hart's HCLK count, both at
that moment; any other CSR is what was last written to it (log 36, PRESUMED). -/
def csrRead (hw : Hw) (h : HartId) (n : Nat) : Hw × Word :=
  if n = 0xC01 then cycRead hw (.die (hartDie h) 1) 0x10
  else if n = 0xC00 then cycRead hw (.die (hartDie h) 1) (0x100 + 8 * (hartCl h % 3))
  else (hw, mget (fun _ => 0) (getHart hw h).csr n)

/-- A write of a hart's CSR; `time` and `cycle` are read only (log 36, PRESUMED). -/
def csrWrite (hw : Hw) (h : HartId) (n : Nat) (v : Word) : Hw :=
  if n = 0xC01 ∨ n = 0xC00 then hw
  else setHart hw h { getHart hw h with csr := mput (fun _ => 0) (getHart hw h).csr n v }

/-! #### Stop, handlers, offers (R360, R364, R391, R392) -/

/-- HART_STOP, or the power-down of a stopped hart (log 40, DEDUCED). -/
def hartStopRow (h : HartId) (pd : Bool) (hw : Hw) : Hw × Answer :=
  let t := getHart hw h
  if t.off then (hw, .notEnabled)
  else if t.stopped then (if pd then did (setHart hw h { t with off := true }) else (hw, .notEnabled))
  else if t.bar.isSome then (hw, .notEnabled)
  else barrier h (.stop pd) hw

/-- A hart has an interrupt pending: its bus-error bit, or an identity in one of its files (log 66, DESIGN CHOICE). -/
def hartPending (hw : Hw) (h : Nat) : Bool :=
  (getHart hw h).mip35 || (List.range 9).any (fun f => mget (fun _ => []) hw.imsic (imsicKey h f) != [])

/-- A hart enters a handler: its buffer drains before the first instruction (log 66, DESIGN CHOICE). -/
def handlerRow (h : HartId) (hw : Hw) : Hw × Answer :=
  if !hartRuns (getHart hw h) || !hartPending hw h then (hw, .notEnabled) else barrier h .handler hw

/-- A stash offer under way reaches its target. -/
def offerRow (line : Nat) (target : Agent) (hw : Hw) : Hw × Answer :=
  match takeNet hw line target (fun k => k == .stashOffer) with
  | none => (hw, .notEnabled)
  | some (_, rest) =>
    let hw1 := setNet hw rest
    match target with
    | .hart h =>
      let t := getHart hw1 h
      if t.off || (hartLine t line).isSome || decide (t.offers.length ≥ 8) then did hw1
      else if hartCut hw1 h line then
        did (errorResponse hw1 (homeDie hw1 (64 * line)) 7 (.hart h) 0 (64 * line))
      else if (wbufLine t line).isSome then (hw, .notEnabled)
      else did (hartRequest (setHart hw1 h { t with offers := t.offers ++ [line] }) h line false .stash)
    | .engine c =>
      if corePresent hw1 c && groupState hw1 (c / 8) == 0 then
        did (modCore hw1 c (fun t =>
          if t.pf.contains (line / 2) || t.side.any (fun x => x.line == line / 2) || t.l1.any (fun x => x.line == line / 2) then t
          else { t with pf := t.pf ++ [line / 2] }))
      else did hw1
    | _ => did hw1

end Sys2Proof.Machine
end

