-- ==== Sys2Proof/Machine/HartRows.lean ====
section
/-! DEFINITION. The rows of Harts.lean and register accesses that have no row of their own: what each command does to the
block. -/

namespace Sys2Proof.Machine

/-! #### Registers (R14, R562) -/

/-- An address in a register window (R52, R56, R58). -/
def inRegWindow (a : Nat) : Bool :=
  match locate a with
  | .reg _ _ => true
  | .pkgReg _ => true
  | .imsic _ _ _ => true
  | .hole (some _) => true
  | _ => false

def execRegisterWrite (by_ : Agent) (addr size : Nat) (value : Word) (s : State) : Host.Outcome State Fault Refusal :=
  onAll s fun hw sec =>
    if inRegWindow addr then busWrite by_ (.agent by_) addr size value hw sec else (hw, sec, .notEnabled)

/-- A 32-bit read of the low half of a POP register. -/
def execPopLowHalfRead (by_ : Agent) (addr : Nat) (s : State) : Host.Outcome State Fault Refusal :=
  onAll s fun hw sec =>
    match blkOf hw addr with
    | some (b, off) =>
      (match rowAt hw b off with
       | some (r, _) =>
         if r.acc = .pop ∧ off % 8 = 0 then
           let x := if !mayAccess hw by_ then readRefused hw (blkDie b) 7 by_ addr
             else if regHeld hw by_ (blkDie b) addr then (hw, .notEnabled) else popAt by_ b off 4 hw
           (x.1, sec, x.2)
         else (hw, sec, .notEnabled)
       | none => (hw, sec, .notEnabled))
    | none => (hw, sec, .notEnabled)

/-! #### Accesses of harts -/

def execHostLoad (h : HartId) (addr size : Nat) (s : State) : Host.Outcome State Fault Refusal :=
  onAll s fun hw sec => let r := trapped h (hostLoad h addr size hw sec); (r.1, sec, r.2)

def execHostStore (h : HartId) (addr size : Nat) (value : Word) (s : State) : Host.Outcome State Fault Refusal :=
  onHw s (fun hw => trapped h (hostStore h addr size value hw))

def execSbEntryComplete (h : HartId) (idx : Fin 32) (s : State) : Host.Outcome State Fault Refusal :=
  onAll s (sbComplete h idx)

def execHostAmo (h : HartId) (addr size : Nat) (op : HostAmo) (value : Word) (s : State) : Host.Outcome State Fault Refusal :=
  onHw s (fun hw => trapped h (hostAmo h addr size op value hw))

/-! #### Barriers and Xtlvq -/

def execFence (h : HartId) (kind : FenceKind) (s : State) : Host.Outcome State Fault Refusal := onHw s (hostFence h kind)

def execTlvDb (h : HartId) (addr : Nat) (value : Word) (s : State) : Host.Outcome State Fault Refusal :=
  onHw s (fun hw => trapped h (tlvDbRow h addr value hw))

def execTlvStash (h : HartId) (addr : Nat) (rs2 : Word) (s : State) : Host.Outcome State Fault Refusal :=
  onHw s (tlvStashRow h addr rs2)

def execTlvRel (h : HartId) (scope : Scope) (s : State) : Host.Outcome State Fault Refusal := onHw s (tlvRelRow h scope)

def execTlvAcq (h : HartId) (scope : Scope) (s : State) : Host.Outcome State Fault Refusal := onHw s (tlvAcqRow h scope)

/-! #### Cache-block operations and prefetches -/

def execCboClean (h : HartId) (addr : Nat) (s : State) : Host.Outcome State Fault Refusal :=
  onHw s (fun hw => trapped h (cboAt h addr (cleanLine h) hw))

def execCboFlush (h : HartId) (addr : Nat) (s : State) : Host.Outcome State Fault Refusal :=
  onHw s (fun hw => trapped h (cboAt h addr (flushLine h) hw))

/-- Performed as cbo.flush. -/
def execCboInval (h : HartId) (addr : Nat) (s : State) : Host.Outcome State Fault Refusal :=
  onHw s (fun hw => trapped h (cboAt h addr (flushLine h) hw))

def execCboZero (h : HartId) (addr : Nat) (s : State) : Host.Outcome State Fault Refusal :=
  onHw s (fun hw => trapped h (zeroLine h addr hw))

def execPrefetchR (h : HartId) (addr : Nat) (s : State) : Host.Outcome State Fault Refusal :=
  onHw s (prefetchLine h addr false false)

def execPrefetchW (h : HartId) (addr : Nat) (s : State) : Host.Outcome State Fault Refusal :=
  onHw s (prefetchLine h addr true false)

def execPrefetchI (h : HartId) (addr : Nat) (s : State) : Host.Outcome State Fault Refusal :=
  onHw s (prefetchLine h addr false true)

/-! #### Stops, handlers, offers -/

def execHartStop (h : HartId) (powerDown : Bool) (s : State) : Host.Outcome State Fault Refusal :=
  onHw s (hartStopRow h powerDown)

def execInterruptHandlerEntry (h : HartId) (s : State) : Host.Outcome State Fault Refusal := onHw s (handlerRow h)

def execStashOffer (line : Nat) (target : Agent) (s : State) : Host.Outcome State Fault Refusal :=
  onHw s (offerRow line target)

end Sys2Proof.Machine
end

