-- ==== Sys2Proof/Machine/HostRows.lean ====
section
/-! DEFINITION. The external host at an upstream port (R448–R451, R459, R513): link training, accesses through the BARs,
attestation. -/

namespace Sys2Proof.Machine

/-- Whether training may complete: the PERST line is high, boot has reached step 10, the link is down and its generator has
lock (R37). -/
def linkMayRise (hw : Hw) (sec : Sec) (a : Nat) : Bool :=
  cxuMode hw a == 0 && !(getAcelo hw a).perst && decide (10 ≤ sec.step) && rbit hw (Reg.clkPllStatus (4 + a)) 40

/-- Training completed: the port serves CXL.io, and CXL.mem in CXL mode (R451) (log 55, DEDUCED). -/
def execUpstreamLinkUp (a : AceloId) (cxl : Bool) (s : State) : Host.Outcome State Fault Refusal :=
  onAll s fun hw sec =>
    if linkMayRise hw sec a then
      (linkTrained (rfield (touch (touch hw (Reg.cxuRxFlitCnt a)) (Reg.cxuTxFlitCnt a)) (Reg.cxuStatus a) 49 48
        (if cxl then 1 else 2)) (Reg.cxuStatus a), sec, .done)
    else (hw, sec, .notEnabled)

/-- BAR0/1: the windows, through the package's own access rules; a poisoned write is logged, poisons the words of a scratchpad it
reaches and is dropped elsewhere (R522). -/
def bar0 (a : AceloId) (off size : Nat) (write : Bool) (data : List Byte) (poison : Bool) (hw : Hw) (sec : Sec) :
    Hw × Sec × Answer :=
  let by_ : Agent := .upstream a
  let at_ := 0x040000000000 + off
  if write then
    if poison then
      let hw1 := cxuLog hw a 3 at_
      match locate at_ with
      | .spad c o =>
        if meshHeld hw (4 + a) (c / 128) at_ then (hw, sec, .notEnabled)
        else if portFenced hw by_ then let r := writeRefused hw1 (c / 128) 7 by_ at_; (r.1, sec, r.2)
        else (match spadWriteByP hw1 by_ c o data true with
          | (h, .refused cause) => let r := writeRefused h (c / 128) cause by_ at_; (r.1, sec, r.2)
          | (h, .violation) => (h, sec, .discarded)
          | (h, .ok) => (h, sec, .done))
      | _ => (hw1, sec, .discarded)
    else busWrite by_ (.agent by_) at_ size (word (leNat data)) hw sec
  else
    let r := busRead by_ (.agent by_) at_ size hw sec
    (r.1, sec, r.2)

/-- BAR2/3 in PCIe fall-back: the tiers, served at their homes (R449). -/
def bar2 (a : AceloId) (off size : Nat) (write : Bool) (data : List Byte) (poison : Bool) (hw : Hw) : Hw × Answer :=
  let by_ : Agent := .upstream a
  if !inTierRange off size then
    if write then writeRefused hw (4 + a) 5 by_ off else readRefused hw (4 + a) 5 by_ off
  else if fencedHome hw by_ off || portFenced hw by_ then
    if write then writeRefused hw (homeDie hw off) 7 by_ off else readRefused hw (homeDie hw off) 7 by_ off
  else if write then
    let hw1 := if poison then cxuLog hw a 3 off else hw
    match pocWriteN (size / 64 + 2) hw1 by_ off data poison 0 0 with
    | some w => did w
    | none => (hw, .notEnabled)
  else match pocReadN (size / 64 + 2) hw by_ off size with
    | some (w, bs, p) => (consumed w by_ off p, if p then .poisoned bs else .bytes bs)
    | none => (hw, .notEnabled)

/-- An access of the external host through a BAR (R448–R450, R459): BAR0/1 to the windows, BAR2/3 to the tiers in PCIe
fall-back, BAR4/5 to the MSI-X structures. An offset outside the BAR is an Unsupported Request, logged with cause 1. -/
def execHostBarAccess (a : AceloId) (bar : Fin 3) (off size : Nat) (write : Bool) (data : List Byte) (poison : Bool)
    (s : State) : Host.Outcome State Fault Refusal :=
  onAll s fun hw sec =>
    let keep := fun r : Hw × Answer => (r.1, sec, r.2)
    let span := if bar.val = 2 then 65536 else 0x40000000000
    if cxuMode hw a = 0 ∨ (write = true ∧ data.length ≠ size) then (hw, sec, .notEnabled)
    else if span < off + size ∨ (bar.val = 1 ∧ cxuMode hw a ≠ 2) then (cxuLog hw a 1 (off % 2 ^ 52), sec, .unsupported)
    else if bar.val = 0 then bar0 a off size write data poison hw sec
    else if bar.val = 1 then keep (bar2 a off size write data poison hw)
    else if portFenced hw (.upstream a) then
      keep (if write then writeRefused hw (4 + a) 7 (.upstream a) off else readRefused hw (4 + a) 7 (.upstream a) off)
    else if write then (bar4Write hw a off data, sec, .done)
    else (hw, sec, .bytes (bar4Read hw a off size))

/-! #### Attestation (R513) -/

/-- The report but for its signature. -/
def reportBytes (hw : Hw) (sec : Sec) (nonce : List Byte) (mask : BitVec 16) : List Byte :=
  let a := hw.pkg.primary
  let dpt := fun n => leBytes 8 (rget hw (Reg.pcpDpt a n)).toNat
  leBytes 2 1 ++ leBytes 2 (b2n hw.locked + 2 * b2n sec.mon.unlocked + 4 * b2n sec.fencedLast) ++ leBytes 2 mask.toNat ++
    leBytes 2 0 ++ nonce ++ leBytes 4 sec.svn ++ leBytes 2 hw.img.pkgId.toNat ++ leBytes 1 sec.slot ++
    leBytes 1 sec.keyIdx ++ dpt 2 ++ dpt 3 ++ dpt 1 ++ leBytes 4 (rbits hw (Reg.pcpRstCnt a) 31 0) ++
    leBytes 4 0 ++ hw.idKey ++ ((List.range 6).filter (fun m => bit mask m)).flatMap (fun m => atD [] sec.meas m)

/-- A mailbox that answers: the link is up and the boot has ended. -/
def doeReady (hw : Hw) (sec : Sec) (a : Nat) : Bool := cxuMode hw a != 0 && decide (10 ≤ sec.step)

/-- DOE_REPORT: a report, queued behind the identity records that wait for their signatures; the mailbox holds it until then,
the host asks again and takes no other request in between (R513) (log 57, DEDUCED). -/
def execDoeReport (a : AceloId) (nonce : List Byte) (mask : BitVec 16) (s : State) : Host.Outcome State Fault Refusal :=
  onAll s fun hw sec =>
    let t := getAcelo hw a
    let r := reportBytes hw sec nonce mask
    let hold := fun d => setAcelo hw a { t with doe := d }
    if !doeReady hw sec a || nonce.length != 32 then (hw, sec, .notEnabled)
    else if portFenced hw (.upstream a) then (hw, sec, .completerAbort)
    else if t.doe.any (fun x => x != (nonce, mask)) then (hw, sec, .notEnabled)
    else if hw.pkg.identQ ≠ [] then (hold (some (nonce, mask)), sec, .pending)
    else (if t.doe.isSome then hold none else hw, sec, .bytes (r ++ Config.slhSign hw.idKey r))

/-- DOE_CERTS: a range of the certificate chain is read (R513) (log 57, DEDUCED). -/
def execDoeCerts (a : AceloId) (off len : Nat) (s : State) : Host.Outcome State Fault Refusal :=
  onAll s fun hw sec =>
    if !doeReady hw sec a || decide (4096 < len) || (getAcelo hw a).doe.isSome then (hw, sec, .notEnabled)
    else if portFenced hw (.upstream a) then (hw, sec, .completerAbort)
    else (hw, sec, .bytes (slice hw.idCert off len))

end Sys2Proof.Machine
end

