-- ==== Sys2Proof/Machine/LossRows.lean ====
section
/-! DEFINITION. The rows of Loss.lean: what each command does to the block. -/

namespace Sys2Proof.Machine

def execPllLoss (d : DieId) (gen : Fin 48) (s : State) : Host.Outcome State Fault Refusal :=
  onHw s (guardHw (fun hw => rbit hw (Reg.clkPllStatus d) gen) (fun hw => did (pllLoss d gen hw)))

/-- Each second of a package stop the Acelo that found a fatal error prints its line again (R526). -/
def execFatalLineRepeat (a : AceloId) (s : State) : Host.Outcome State Fault Refusal :=
  onHw s (guardHw (fun hw => hw.stop && hw.fatal.any (fun f => halfOfDie f.1 == a.val))
    (fun hw => did { hw with sent := hw.sent ++ (hw.fatal.filter (fun f => halfOfDie f.1 == a.val)).map (fun f => fatalText f.1 f.2) }))

/-! #### Heartbeats: from the end of boot step 6 on (R504) -/

/-- Each PCP sends on both columns (R32). -/
def execHeartbeatSend (a : AceloId) (s : State) : Host.Outcome State Fault Refusal :=
  onAll s fun hw sec =>
    if 6 ≤ sec.step then (heartbeatOut a hw, sec, .done) else (hw, sec, .notEnabled)

/-- A heartbeat on either column counts (R32), once the column lets it through (R30). -/
def execHeartbeatReceive (a : AceloId) (column : Bool) (s : State) : Host.Outcome State Fault Refusal :=
  onAll s fun hw sec =>
    if 6 ≤ sec.step ∧ pcpRuns hw a = true ∧ columnOpen hw (5 - a) (4 + a) column = true then (heartbeatIn a hw, sec, .done)
    else (hw, sec, .notEnabled)

def execHeartbeatTimeout (a : AceloId) (s : State) : Host.Outcome State Fault Refusal :=
  onAll s fun hw sec =>
    if 6 ≤ sec.step ∧ pcpRuns hw a = true ∧ rbit hw (Reg.pcpHbStatus a) 0 = false then (heartbeatLost a hw, sec, .done) else (hw, sec, .notEnabled)

/-! #### Scrub, windows, injections (R517, R520, R561) -/

def execScrubRead (k : CtlId) (s : State) : Host.Outcome State Fault Refusal :=
  onHw s (guardHw (fun hw => ctlState hw k == 4 && !(getCtl hw k).selfRef && !bit hw.img.errPolicy 2)
    (fun hw => did (scrubStep k hw)))

/-- At the end of each second the die's CE-storm count restarts (R517). -/
def execCeWindowExpire (d : DieId) (s : State) : Host.Outcome State Fault Refusal := onHw s (fun hw => did (ceWindow d hw))

def execCeLogInterval (d : DieId) (unit : BitVec 6) (inst : BitVec 12) (s : State) : Host.Outcome State Fault Refusal :=
  onHw s (guardHw (fun hw => (getDie hw d).ceLogged.contains (unit.toNat, inst.toNat))
    (fun hw => did (setDie hw d { getDie hw d with ceLogged := (getDie hw d).ceLogged.filter (fun x => x != (unit.toNat, inst.toNat)) })))

def execRasInject (by_ : Agent) (d : DieId) (value : Word) (s : State) : Host.Outcome State Fault Refusal :=
  onHw s (regWriteBy by_ d (Reg.rasInject d) (injectWrite d value))

/-! #### POP registers (R461, R562) -/

def execRasLog (by_ : Agent) (d : DieId) (high : Bool) (s : State) : Host.Outcome State Fault Refusal :=
  onHw s (popRead by_ d (Reg.rasLog d) high)

def execSpcViolLog (by_ : Agent) (c : CoreId) (high : Bool) (s : State) : Host.Outcome State Fault Refusal :=
  onHw s (corePopRead by_ c (Reg.spcViolLog c) high)

def execQfeErrLog (by_ : Agent) (c : CoreId) (high : Bool) (s : State) : Host.Outcome State Fault Refusal :=
  onHw s (corePopRead by_ c (Reg.qfeErrLog c) high)

def execAtuErrLog (by_ : Agent) (c : CoreId) (high : Bool) (s : State) : Host.Outcome State Fault Refusal :=
  onHw s (corePopRead by_ c (Reg.atuErrLog c) high)

def execHbmTgErrLog (by_ : Agent) (k : Fin 12) (high : Bool) (s : State) : Host.Outcome State Fault Refusal :=
  onHw s (popRead by_ (ctlDie k) (ctlTgErrLog k) high)

def execLpdTgErrLog (by_ : Agent) (k : Fin 16) (high : Bool) (s : State) : Host.Outcome State Fault Refusal :=
  onHw s (popRead by_ (ctlDie (12 + k)) (ctlTgErrLog (12 + k)) high)

def execErtEvtLog (by_ : Agent) (d : DieId) (high : Bool) (s : State) : Host.Outcome State Fault Refusal :=
  onHw s (popRead by_ d (Reg.ertEvtLog d) high)

def execPcpMigErrLog (by_ : Agent) (high : Bool) (s : State) : Host.Outcome State Fault Refusal :=
  onHw s (fun hw => popRead by_ (4 + hw.pkg.primary) (Reg.pcpMigErrLog hw.pkg.primary) high hw)

def execPcpFabEvtLog (by_ : Agent) (high : Bool) (s : State) : Host.Outcome State Fault Refusal :=
  onHw s (fun hw => popRead by_ (4 + hw.pkg.primary) (Reg.pcpFabEvtLog hw.pkg.primary) high hw)

def execPcpPwrEvtLog (by_ : Agent) (high : Bool) (s : State) : Host.Outcome State Fault Refusal :=
  onHw s (fun hw => popRead by_ (4 + hw.pkg.primary) (Reg.pcpPwrEvtLog hw.pkg.primary) high hw)

def execCxuErrLog (by_ : Agent) (a : AceloId) (high : Bool) (s : State) : Host.Outcome State Fault Refusal :=
  onHw s (popRead by_ (4 + a) (Reg.cxuErrLog a) high)

def execCxdErrLog (by_ : Agent) (a : AceloId) (high : Bool) (s : State) : Host.Outcome State Fault Refusal :=
  onHw s (popRead by_ (4 + a) (Reg.cxdErrLog a) high)

/-- HCL_BERR_LOG_c. -/
def execHclBerrLog (by_ : Agent) (h : HartId) (high : Bool) (s : State) : Host.Outcome State Fault Refusal :=
  onHw s (berrRead by_ h high)

end Sys2Proof.Machine
end

