-- ==== Sys2Proof/Machine/MatrixRows.lean ====
section
/-! DEFINITION. The rows of Matrix.lean: what each command does to the block. -/

namespace Sys2Proof.Machine

/-! #### ME_LOADW (R101, R108, R110–R112, R151, R565) -/

def execMeLoadw (c : CoreId) (q : QueueId) (s : State) : Host.Outcome State Fault Refusal :=
  onHw s (engineRow c q 1 0x00 (meCan c) (meLoadwBody c))

/-! #### Assigning a stream (R106, R112, R119) -/

def execMeGemm (c : CoreId) (q : QueueId) (s : State) : Host.Outcome State Fault Refusal :=
  onHw s (engineRow c q 1 0x01 (meCan c) (meGemmBody c))

def execMeGemv (c : CoreId) (q : QueueId) (s : State) : Host.Outcome State Fault Refusal :=
  onHw s (engineRow c q 1 0x02 (meCan c) (meGemvBody c))

/-! #### A stream enters (R102–R104, R108, R109, R114, R139–R142, R565) -/

def execMeStreamEnter (c : CoreId) (sub : Fin 4) (s : State) : Host.Outcome State Fault Refusal :=
  onHw s (enterRow c sub)

/-! #### HOLD (R119) -/

/-- HOLD_IDLE_TIMEOUT: no row has entered for 2,048 ACLK; the array ramps down. -/
def execHoldIdleTimeout (c : CoreId) (s : State) : Host.Outcome State Fault Refusal :=
  onHw s fun hw =>
    let me := (getCore hw c).me
    if rbit hw (Reg.mePolicy c) 0 ∧ coreAlive hw c ∧ me.hold = 1 ∧ meQuiet me then did (setMe hw c { me with hold := 2 })
    else (hw, .notEnabled)

/-- HOLD_RAMP_DOWN_STEP: 10 points down; at 5 % the array is idle. -/
def execHoldRampDownStep (c : CoreId) (s : State) : Host.Outcome State Fault Refusal :=
  onHw s fun hw =>
    let me := (getCore hw c).me
    if me.hold = 2 then
      let l := if me.level ≤ 15 then 5 else me.level - 10
      did (setMe hw c { me with level := l, hold := if l = 5 then 0 else 2 })
    else (hw, .notEnabled)

/-- HOLD_RAMP_UP_STEP: 10 points up once the ramp is granted; at 85 % the stream may enter. -/
def execHoldRampUpStep (c : CoreId) (s : State) : Host.Outcome State Fault Refusal :=
  onHw s fun hw =>
    let me := (getCore hw c).me
    if me.hold = 3 ∧ me.granted then
      let l := min 85 (me.level + 10)
      did (setMe hw c { me with level := l, hold := if l = 85 then 1 else 3, granted := if l = 85 then false else true })
    else (hw, .notEnabled)

end Sys2Proof.Machine
end

