-- ==== Sys2Proof/Machine/MemCtlRows.lean ====
section
/-! DEFINITION. The rows of MemCtl.lean: what each command does to the block. -/

namespace Sys2Proof.Machine

/-- The register block of a controller (R60). -/
def ctlRegWrite (by_ : Agent) (k addr : Nat) (f : Hw → Hw × Answer) (hw : Hw) : Hw × Answer := regWriteBy by_ (ctlDie k) addr f hw

def execMrgCmd (by_ : Agent) (k : CtlId) (value : Word) (s : State) : Host.Outcome State Fault Refusal :=
  onHw s (ctlRegWrite by_ k (ctlBase k + 0x28) (mrgCmdWrite k value))

def execTgRun (by_ : Agent) (k : CtlId) (value : Word) (s : State) : Host.Outcome State Fault Refusal :=
  onHw s (guardHw (fun _ => bit value 0) (ctlRegWrite by_ k (ctlTgCtrl k) (tgCtrlWrite k value)))

/-- A traffic run of the controller ends. -/
def execTgDone (k : CtlId) (bits : Nat) (errs : List TgErr) (s : State) : Host.Outcome State Fault Refusal :=
  onHw s (guardHw (fun hw => (getCtl hw k).op == 2) (fun hw => did (tgDone k bits errs hw)))

/-- The margins of the unit under test are measured. -/
def execMarginDone (k : CtlId) (res : List MarginRes) (s : State) : Host.Outcome State Fault Refusal :=
  onHw s fun hw =>
    match res.find? (fun r => r.unit == (getCtl hw k).unit) with
    | some r => if (getCtl hw k).op = 1 then did (marginDone k r hw) else (hw, .notEnabled)
    | none => (hw, .notEnabled)

def execDriftTrack (k : CtlId) (adjusted : Bool) (s : State) : Host.Outcome State Fault Refusal :=
  onHw s (guardHw (fun hw => ctlState hw k == 4 && !(getCtl hw k).selfRef)
    (fun hw => did (if adjusted then radd hw (ctlTrackCnt k) 1 else hw)))

def execLeccWindow (k : CtlId) (ch : Fin 8) (count : Nat) (s : State) : Host.Outcome State Fault Refusal :=
  onHw s (guardHw (fun hw => decide (12 ≤ k.val) && (ctlState hw k == 4 || ctlState hw k == 6) && !(getCtl hw k).selfRef)
    (fun hw => did (leccWindow k ch count hw)))

end Sys2Proof.Machine
end

