-- ==== Sys2Proof/Machine/MigrateRows.lean ====
section
/-! DEFINITION. The rows of Migrate.lean: what each command does to the block. -/

namespace Sys2Proof.Machine

/-! #### The command (R322) -/

def execDeMigrate (c : CoreId) (q : QueueId) (s : State) : Host.Outcome State Fault Refusal :=
  onHw s (engineRow c q 4 0x07 (deCan c) deMigrateBody)

/-! #### Step 1 and the bump (R323 steps 1 and 2) -/

def execMigrateEntryTaken (c : CoreId) (q : QueueId) (s : State) : Host.Outcome State Fault Refusal :=
  onHw s (migEntryRow c q)

/-! #### The pool (R323 step 3, R326) -/

def execMigrateBumpDone (c : CoreId) (q : QueueId) (s : State) : Host.Outcome State Fault Refusal :=
  onHw s (migBumpRow c q)

/-! #### The copy and the leaf (R323 steps 4 to 7) -/

def execMigrateCopyDone (c : CoreId) (q : QueueId) (s : State) : Host.Outcome State Fault Refusal :=
  onHw s (migCopyRow c q)

def execMigrateReturnWrite (s : State) : Host.Outcome State Fault Refusal := onHw s migReturnRow

/-! #### The rings' registers (R337, R566) -/

def execMretEnable (by_ : Agent) (value : Word) (s : State) : Host.Outcome State Fault Refusal :=
  onHw s (pkgRegWrite by_ Reg.pcpMretBase (fun a => mretWrite a value))

def execMpoolEnable (by_ : Agent) (pool : Fin 15) (value : Word) (s : State) : Host.Outcome State Fault Refusal :=
  onHw s (pkgRegWrite by_ (fun a => Reg.pcpMpoolBase a pool) (fun a => mpoolWrite a pool value))

end Sys2Proof.Machine
end

