-- ==== Sys2Proof/Machine/Mkc.lean ====
section
/-! DEFINITION. Loading a Mladosh Kernel Code module: the module's form and the checks of its own that end a load with a code
(R242–R245, R248, R251). -/

namespace Sys2Proof.Machine

/-- One section of a module: its type, whether REQUIRED, its bytes; where it lies (R243). -/
structure MkcSect where
  type     : Nat
  required : Bool
  off      : Nat
  size     : Nat
  deriving DecidableEq, Repr

/-- A little-endian field of a byte list. -/
def leField (bs : List Byte) (off n : Nat) : Nat := leNat ((bs.drop off).take n)

/-- Entry i of the section table (R243). -/
def mkcSect (m : List Byte) (i : Nat) : MkcSect :=
  let e := m.drop (64 + 24 * i)
  ⟨leField e 0 4, (leField e 4 4) % 2 == 1, leField e 8 8, leField e 16 8⟩

def mkcSects (m : List Byte) : List MkcSect := (List.range (leField m 12 4)).map (mkcSect m)

/-- A section's bytes. -/
def mkcBytes (m : List Byte) (s : MkcSect) : List Byte := (m.drop s.off).take s.size

/-- Two sections that share a byte. -/
def mkcOverlap (s t : MkcSect) : Bool := s.off < t.off + t.size && t.off < s.off + s.size

/-- Some section shares a byte with a later one. -/
def mkcClash : List MkcSect → Bool
  | [] => false
  | s :: ss => ss.any (fun t => 0 < s.size && 0 < t.size && mkcOverlap s t) || mkcClash ss

/-- Records of n bytes. -/
def recordsOf (n : Nat) (bs : List Byte) : List (List Byte) :=
  (List.range (bs.length / n)).map (fun i => (bs.drop (n * i)).take n)

/-- The records of every section of a type. -/
def mkcRecords (m : List Byte) (type n : Nat) : List (List Byte) :=
  ((mkcSects m).filter (fun s => s.type == type)).flatMap (fun s => recordsOf n (mkcBytes m s))

/-- An operand reference (R244): KIND (0 none, 1 object, 2 kernel parameter, 3 constant, 4 DPT entry), ID, OFFSET. -/
structure MkcRef where
  kind : Nat
  id   : Nat
  off  : Nat
  deriving DecidableEq, Repr

/-- An operation: its code, SCOPE, REL, ACQ, its number of operands, AUX, its operand references, its bytes (R244). -/
structure MkcOp where
  opc   : Nat
  scope : Nat
  rel   : Bool
  acq   : Bool
  nopnd : Nat
  aux   : Nat
  refs  : List MkcRef
  bytes : List Byte
  deriving DecidableEq, Repr

def mkcRef (w : Nat) : MkcRef := ⟨nbits w 63 60, nbits w 59 32, nbits w 31 0⟩

def mkcOp (bs : List Byte) : MkcOp :=
  let w := leField bs 0 8
  ⟨nbits w 63 48, nbits w 47 46, nbits w 45 45 == 1, nbits w 44 44 == 1, nbits w 43 40, nbits w 31 0,
    [1, 2, 3].map (fun i => mkcRef (leField bs (8 * i) 8)), bs⟩

def mkcOps (m : List Byte) : List MkcOp := (mkcRecords m 3 32).map mkcOp

/-- The operation codes of R244. -/
def mkcOpcs : List Nat := [1, 2, 3, 4, 5, 6, 7, 8, 9, 0xA, 0xB, 0xC, 0x10, 0x11, 0x12, 0x13, 0x18, 0x19, 0x1A]

/-- A parameter of an operation, by its place in R244's list. -/
def opAux (o : MkcOp) (i : Nat) : Nat := Config.mkcAux o.opc o.aux i

/-- ROUND_K and SPARSE of a GEMM (R244, R248). -/
def mkcRoundK (o : MkcOp) : Nat := opAux o 3
def mkcSparse (o : MkcOp) : Bool := opAux o 2 == 1

/-- The K elements that one FULL tile of a GEMM holds: twice as many with 4-bit formats (R95), and with SPARSE (R110). -/
def mkcTileK (o : MkcOp) : Nat := 128 * perCell (opAux o 1) * (if mkcSparse o then 2 else 1)

/-- A reference names something there is: a listed object and a byte of it, a parameter a kernel can have, a byte of the
constants, an entry of the table (R243, R244). -/
def mkcRefOk (m : List Byte) (r : MkcRef) : Bool :=
  match r.kind with
  | 1 => (mkcRecords m 4 32).any (fun o => Config.mkcObject o 0 == r.id && decide (r.off < Config.mkcObject o 1))
  | 2 => decide (r.id < 64)
  | 3 => decide (r.off < (((mkcSects m).filter (fun s => s.type == 6)).map (fun s => s.size)).sum)
  | 4 => decide (r.id < 256)
  | _ => false

/-- Whether a WAIT or SIGNAL names a memory semaphore: an object or a parameter (R222, R223, R244). -/
def memSem (o : MkcOp) : Bool := decide (1 ≤ o.nopnd) && o.refs.head?.any (fun r => r.kind == 1 || r.kind == 2)

/-- The number of operations under a FOR or an IF (R244). -/
def opSpan (o : MkcOp) : Nat := opAux o 1

/-- The parameters of an operation have values that the commands it becomes accept (R138, R214–R218, R244, R248, R326)
(log 26, DEDUCED). -/
def mkcAuxOk (o : MkcOp) : Bool :=
  let f := fun i => opAux o i
  let rounding := decide (f 1 ≤ 2 ∧ f 2 ≤ 1 ∧ f 3 ≤ 15)
  match o.opc with
  | 0x01 => meFmt (f 0) && meFmt (f 1) && mePaired (f 0) (f 1) && decide (f 2 ≤ 1) &&
      (mkcRoundK o == 0 || (decide (32 ≤ mkcRoundK o ∧ mkcRoundK o ≤ 512) && mkcRoundK o % 32 == 0))
  | 0x02 => decide (4 ≤ f 0 ∧ f 0 ≤ 9)
  | 0x04 => decide (f 0 ≤ 0x1B) && rounding
  | 0x05 => decide (f 0 ≤ 5) && rounding
  | 0x06 => f 0 == 0 && rounding
  | 0x07 => decide (f 0 ≤ 2 ∧ f 1 ≤ 2)
  | 0x08 | 0x09 => decide (4 ≤ f 0 ∧ f 0 ≤ 4096) && f 0 % 4 == 0
  | 0x0A => decide (1 ≤ f 0 ∧ f 0 ≤ 3) && reduceFmt (f 1)
  | 0x0B | 0x0C => decide (f 0 ≤ 1 ∧ f 1 ≤ 4 ∧ f 2 ≤ 3)
  | 0x10 | 0x11 => memSem o || decide (f 0 ≤ 63 ∧ f 1 ≤ 255)
  | 0x13 => decide (f 0 ≤ 63)
  | 0x18 => decide (f 2 ≤ 1) && (f 2 == 0 || decide (f 0 ≤ 63))
  | 0x19 => decide (f 0 ≤ 5)
  | 0x1A => decide (f 0 ≤ 255)
  | _ => true

/-- An operation whose fields are as R244 and R248 give them: as many references as NOPND says (log 26, DEDUCED). -/
def mkcOpOk (m : List Byte) (o : MkcOp) : Bool :=
  mkcOpcs.contains o.opc && decide (o.nopnd ≤ 3) && (o.refs.take o.nopnd).all (mkcRefOk m) &&
    (o.refs.drop o.nopnd).all (fun r => r.kind == 0) && mkcAuxOk o

/-- The GEMM needs a DEEP stream for its ROUND_K (R248; with 4-bit operands the bounds double, R108); a sparse one has none
(R110) (log 25, DEDUCED). -/
def mkcNeedsDeep (o : MkcOp) : Bool := o.opc == 1 && !mkcSparse o && decide (mkcTileK o < mkcRoundK o)

/-- The GEMM's ROUND_K is beyond every shape. -/
def mkcNoShape (o : MkcOp) : Bool := o.opc == 1 && decide ((if mkcSparse o then 1 else 2) * mkcTileK o < mkcRoundK o)

/-- A sparse GEMM whose tiles are loaded dense for want of SPARSE24 needs a DEEP stream for its ROUND_K (R241). -/
def mkcDeepDense (feat : Word) (o : MkcOp) : Bool :=
  o.opc == 1 && mkcSparse o && !bit feat 0 && decide (128 * perCell (opAux o 1) < mkcRoundK o)

/-- The fields of a KERNELS record: name, first operation, operations, parameters, cores, scratchpad bytes, queues, local
semaphores. -/
def kName (r : List Byte) : Nat := Config.mkcKernel r 0
def kFirst (r : List Byte) : Nat := Config.mkcKernel r 1
def kCount (r : List Byte) : Nat := Config.mkcKernel r 2
def kParams (r : List Byte) : Nat := Config.mkcKernel r 3
def kCores (r : List Byte) : Nat := Config.mkcKernel r 4
def kSpad (r : List Byte) : Nat := Config.mkcKernel r 5
def kQueues (r : List Byte) : Nat := Config.mkcKernel r 6
def kLsems (r : List Byte) : Nat := Config.mkcKernel r 7

def mkcKernels (m : List Byte) : List (List Byte) := mkcRecords m 2 64

/-- The operations of a kernel. -/
def kernelOps (m r : List Byte) : List MkcOp := ((mkcOps m).drop (kFirst r)).take (kCount r)

/-- A name stands in STRINGS with a zero byte at its end. -/
def mkcNamed (m : List Byte) (off : Nat) : Bool :=
  let bs := ((mkcSects m).filter (fun s => s.type == 5)).flatMap (mkcBytes m)
  decide (off < bs.length) && (bs.drop off).contains 0#8

/-- An operation keeps to its kernel's record: the parameters its references and a FOR's count name, its local semaphores, and
the operations under a FOR or an IF, of which `left` follow (R243, R244, R253) (log 26, DEDUCED). -/
def kernelOpOk (r : List Byte) (left : Nat) (o : MkcOp) : Bool :=
  (o.refs.take o.nopnd).all (fun x => x.kind != 2 || decide (x.id < kParams r)) &&
    (if o.opc = 0x10 ∨ o.opc = 0x11 then memSem o || decide (opAux o 0 < kLsems r)
     else if o.opc = 0x18 ∧ opAux o 2 = 1 ∧ kParams r ≤ opAux o 0 then false
     else if o.opc = 0x18 ∨ o.opc = 0x19 then decide (opSpan o ≤ left)
     else true)

/-- A kernel's record keeps the ranges of R243: its name, its operations and what they name (log 26, DEDUCED). -/
def mkcKernelOk (m r : List Byte) : Bool :=
  mkcNamed m (kName r) && decide (kFirst r + kCount r ≤ (mkcOps m).length) && decide (kParams r ≤ 64) &&
    decide (1 ≤ kQueues r ∧ kQueues r ≤ 8) && decide (kLsems r ≤ 64) &&
    (kernelOps m r).zipIdx.all (fun x => kernelOpOk r (kCount r - x.2 - 1) x.1)

/-- An object's record keeps the values of R243: its CLASS, the number of a tier, a format code of R127, an alignment that is
a power of two (log 26, DEDUCED). -/
def mkcObjectOk (r : List Byte) : Bool :=
  let f := Config.mkcObject r
  decide (f 2 ≤ 1 ∧ f 3 ≤ 1 ∧ f 4 ≤ 15) && decide (f 5 = 2 ^ Nat.log2 (f 5))

/-- The header, the digest, the sections, their records and the operations are well formed (R243) (log 26, DEDUCED). -/
def mkcWellFormed (m : List Byte) : Bool :=
  let n := leField m 12 4
  let ss := mkcSects m
  m.take 4 == [0x4D#8, 0x4B#8, 0x43#8, 0#8] && decide (64 ≤ m.length) && decide (1 ≤ n ∧ n ≤ 64) &&
    decide (64 + 24 * n ≤ m.length) && (m.drop 32).take 32 == sha256 (m.drop 64) &&
    ss.all (fun s => decide (s.off + s.size ≤ m.length)) && !mkcClash ss && (mkcOps m).all (mkcOpOk m) &&
    (mkcKernels m).all (mkcKernelOk m) && (mkcRecords m 4 32).all mkcObjectOk

/-- The module's feature records: feature bit, policy, MIN_DPT_INDEX (R242, R243). -/
def mkcFeatureRecords (m : List Byte) : List (Nat × Nat × Nat) :=
  ((mkcSects m).filter (fun s => s.type == 1)).flatMap (fun s =>
    let bs := mkcBytes m s
    (recordsOf 8 (bs.take (8 * Config.mkcFeatures bs))).map (fun r => (leField r 0 1, leField r 1 1, leField r 4 2)))

/-- The module's minimum-value records. -/
def mkcMinima (m : List Byte) : List (Nat × Nat × Nat) :=
  ((mkcSects m).filter (fun s => s.type == 1)).flatMap (fun s =>
    let bs := mkcBytes m s
    (recordsOf 16 (bs.drop (8 * Config.mkcFeatures bs))).map Config.mkcMinimum)

/-- A feature the part lacks and the policy does not do without (R242): the fall-backs are those of R241, and the one of
DEEP stands only where no operation that needs DEEP fixes its K cut. -/
def mkcMissing (feat : Word) (ops : List MkcOp) (r : Nat × Nat × Nat) : Bool :=
  !(decide (r.1 < 64) && bit feat r.1) &&
    (r.2.1 == 0 || (r.2.1 == 1 && (r.1 == 2 || r.1 == 7 || decide (8 ≤ r.1) || (r.1 == 1 && ops.any mkcNeedsDeep))))

/-- The place of the lowest set bit. -/
def lowBit (mask : Nat) : Nat := ((List.range 64).find? (fun i => mask.testBit i)).getD 0

/-- A minimum that exceeds the field of the table it names. -/
def mkcOver (dpt : Nat → Word) (r : Nat × Nat × Nat) : Bool :=
  decide (((dpt (r.1 % 256)).toNat &&& r.2.1) >>> lowBit r.2.1 < r.2.2)

/-- The table's entries 2 to 38. -/
def dptList (dpt : Nat → Word) : List Word := (List.range 37).map (fun i => dpt (i + 2))

/-- Whether the table shows a core as present (R4, R239): its bit in DPT_CORE_MAP_k, its group in DPT_CG. -/
def dptCore (dpt : Nat → Word) (c : Nat) : Bool := bit (dpt (8 + c / 64)) (c % 64) && bit (dpt 7) (c / 8)

/-- The present cores, from those of the group that the placement request names onward (R4, R249, R250) (log 24, DESIGN
CHOICE). -/
def coresFrom (dpt : Nat → Word) (group : Nat) : List Nat :=
  ((List.range 512).map (fun i => (8 * group + i) % 512)).filter (dptCore dpt)

/-- The cores a kernel runs on: as many present ones as it wants, all of them for 0, from the group asked for onward. -/
def kernelCores (dpt : Nat → Word) (group : Nat) (r : List Byte) : List Nat :=
  if kCores r = 0 then coresFrom dpt group else (coresFrom dpt group).take (kCores r)

/-- The cores of a module. -/
def moduleCores (dpt : Nat → Word) (m : List Byte) (group : Nat) : List Nat := (mkcKernels m).flatMap (kernelCores dpt group)

/-- The group asked for has a present core. -/
def groupServes (dpt : Nat → Word) (group : Nat) : Bool := (List.range 8).any (fun i => dptCore dpt (8 * group + i))

/-- The code a load ends with as far as the module and the table decide it (R251), the causes in the order of their codes
after NOT_READY (log 27, DEDUCED) (log 26, DEDUCED). -/
def mkcCode (dpt : Nat → Word) (m : List Byte) (group : Nat) : Nat :=
  let ops := mkcOps m
  let kernels := mkcKernels m
  let major := leField m 4 2
  if bit (dpt 0) 63 = false then 8
  else if mkcWellFormed m = false then 1
  else if major < bits (dpt 4) 15 0 ∨ bits (dpt 4) 31 16 < major then 2
  else if (mkcSects m).any (fun s => s.required && (s.type == 0 || decide (6 < s.type))) then 2
  else if (mkcFeatureRecords m).any (mkcMissing (dpt 5) ops) then 3
  else if (mkcMinima m).any (mkcOver dpt) ∨ (mkcFeatureRecords m).any (fun r => decide (bits (dpt 0) 15 0 ≤ r.2.2)) then 4
  else if ops.any (fun o => mkcNoShape o || ((mkcNeedsDeep o || mkcDeepDense (dpt 5) o) && !(bit (dpt 5) 1 && bit (dpt 16) 3))) then 5
  else if kernels.any (fun r => decide (bits (dpt 19) 31 0 < kSpad r ∨ bits (dpt 21) 7 0 < kQueues r ∨ bits (dpt 24) 63 58 + 1 < kLsems r))
      ∨ bits (dpt 29) 7 0 < Config.mkcCredits m group (dptList dpt)
      ∨ ops.any (fun o => o.opc == 0x13 && decide (Config.mkcCredits m group (dptList dpt) ≤ opAux o 0)) then 6
  else if kernels.any (fun r => decide (bits (dpt 6) 9 0 < kCores r)) ∨ !groupServes dpt group then 7
  else 0

end Sys2Proof.Machine
end

