-- ==== Sys2Proof/Machine/MkcTile.lean ====
section
/-! DEFINITION. The matrix work of a module's operations (R153, R157, R244, R248, R250): output blocks, the cut of K, the
passes, and each tile's load and stream, whose numbers are free within the rules. -/

namespace Sys2Proof.Machine

/-- What a translation depends on beside the operation (R249): the table, the module's bytes, the core, the choices of a module with
DETERMINISTIC = 0, the local semaphores and credit slots it starts from. -/
structure MkcEnv where
  dpt    : Nat → Word
  module : List Byte
  core   : Nat
  choice : Nat
  lsem   : Nat
  slot   : Nat

/-- An operation as the parts of its translation that are open see it: its words, the records of the objects it names with
their TIER and alignment, the constants it names (R243, R244). -/
def opText (m : List Byte) (o : MkcOp) : List Byte :=
  o.bytes ++ (o.refs.take o.nopnd).flatMap (fun r => match r.kind with
    | 1 => ((mkcRecords m 4 32).filter (fun x => Config.mkcObject x 0 == r.id)).flatten
    | 3 => (((mkcSects m).filter (fun s => s.type == 6)).flatMap (mkcBytes m)).drop r.off
    | _ => [])

/-- The address of an operand for a core: an object's lies in the tier it prefers and is aligned as it asks (R243, R320). -/
def refAddr (e : MkcEnv) (r : MkcRef) : Nat :=
  let rec_ := ((mkcRecords e.module 4 32).find? (fun x => Config.mkcObject x 0 == r.id)).getD []
  let al := Config.mkcObject rec_ 5
  if r.kind = 1 then Config.mkcAddr (Config.mkcObject rec_ 3) r.id 0 e.core / al * al + r.off
  else Config.mkcAddr (r.kind + 1) r.id r.off e.core

/-- Whether the table shows a feature (R241). -/
def hasFeat (e : MkcEnv) (i : Nat) : Bool := bit (e.dpt 5) i

/-- Word 0 of a command with its place in an order (R210, R246). -/
def sncHead (eng op scope : Nat) (rel acq : Bool) (msk : Nat) : Word :=
  word (eng * 2 ^ 61 + op * 2 ^ 56 + scope % 4 * 2 ^ 54 + b2n rel * 2 ^ 53 + b2n acq * 2 ^ 52 + msk * 2 ^ 32)

/-- Eight words from the first ones. -/
def sncCmd (ws : List Word) : List Word := ws ++ List.replicate (8 - ws.length) 0

/-- Set a field of a command's word. -/
def sncField (w : List Word) (i hi lo v : Nat) : List Word := modAt (fun x => setBits x hi lo v) w i

/-- The matrix formats of an operation: A and B (R153, R157, R244). -/
def opFmts (o : MkcOp) : Nat × Nat := if o.opc = 2 then (1, 1) else if o.opc = 3 then (9, 9) else (opAux o 0, opAux o 1)

/-! #### Numbers the loader chooses (R250) -/

/-- A number of an operation's translation that the rules leave to the loader (log 24, DESIGN CHOICE). -/
def mkcPick (e : MkcEnv) (o : MkcOp) (path : List Nat) : Nat :=
  Config.mkcNum (opText e.module o) (dptList e.dpt) e.core e.choice path

/-- Bytes of a run, at the 32-byte steps of the engine's operands (R100). -/
def up32 (n : Nat) : Nat := (n + 31) / 32 * 32

/-- A scratchpad address of an operand of so many bytes, inside the scratchpad and aligned (R100, R250). -/
def mkcSpad (e : MkcEnv) (o : MkcOp) (path : List Nat) (size : Nat) : Nat :=
  32 * (mkcPick e o path % ((0x600000 - size) / 32 + 1))

/-! #### The cut of K (R248) -/

/-- Whether a matrix operation takes B as sparse (R244). -/
def opSparse (o : MkcOp) : Bool := o.opc == 1 && mkcSparse o

/-- K elements that a FULL tile of the operation holds (R95, R97, R110). -/
def opTileK (o : MkcOp) : Nat := 128 * perCell (opFmts o).2 * (if opSparse o then 2 else 1)

/-- K elements per chunk: ROUND_K where it fixes them, else the loader's choice up to what one stream takes; the passes of the
split modes are streams of at most a tile (R153, R157, R248). -/
def mkcCut (e : MkcEnv) (o : MkcOp) : Nat :=
  if o.opc = 1 ∧ mkcRoundK o ≠ 0 then mkcRoundK o
  else 32 * (1 + mkcPick e o [0] % ((if o.opc = 1 ∧ !opSparse o then 2 else 1) * opTileK o / 32))

/-- The K elements of an operation, at least one. -/
def opK (e : MkcEnv) (o : MkcOp) : Nat := max 1 (Config.mkcK (opText e.module o))

/-- How many chunks of K an operation has. -/
def opChunks (e : MkcEnv) (o : MkcOp) : Nat := (opK e o + mkcCut e o - 1) / mkcCut e o

/-- The K elements of chunk j: the last may be short, and is filled up with zeros to a multiple of 32 in an MX format (R111)
and of 4 in a sparse one. -/
def chunkK (e : MkcEnv) (o : MkcOp) (j : Nat) : Nat :=
  let k := min (mkcCut e o) (opK e o - j * mkcCut e o)
  if fmtMX (opFmts o).2 then (k + 31) / 32 * 32 else if opSparse o then (k + 3) / 4 * 4 else k

/-! #### Output blocks (R97, R117, R250) -/

/-- An output block: the shape of its tiles, its sub-array, rows, columns, first accumulator row, whether it runs as ME_GEMV. -/
structure MkcBlock where
  shape : Nat
  sub   : Nat
  rows  : Nat
  cols  : Nat
  arow  : Nat
  gemv  : Bool
  deriving DecidableEq, Repr

/-- Output block b as the loader cuts it: FULL, PAIR or QUAD, a QUAD tile holding half as many K elements; FULL for a sparse
operation and for chunks that take DEEP (R97, R110, R248). A vector runs as ME_GEMV where a chunk is one tile of it. -/
def mkcBlock (e : MkcEnv) (o : MkcOp) (b : Nat) : MkcBlock :=
  let p := fun i => mkcPick e o [1, b, i]
  let n := mkcCut e o
  let want := p 0 % 3
  let shape := if opSparse o ∨ opTileK o < n ∨ (want = 2 ∧ opTileK o < 2 * n) then 0 else want
  let sub := p 1 % shapeSubs shape
  if o.opc = 1 ∧ !opSparse o ∧ n ≤ opTileK o ∧ (opFmts o).1 = (opFmts o).2 ∧ p 2 % 2 = 1 then
    let cols := 1 + p 3 % 4096
    ⟨4, 0, 1, cols, p 4 % (2048 - (cols - 1) / 128), true⟩
  else
    let rows := 1 + p 3 % shapeRows shape
    ⟨shape, sub, rows, 1 + p 5 % shapeN shape, subRow shape sub + p 4 % (shapeRows shape + 1 - rows), false⟩

def mkcBlocks (e : MkcEnv) (o : MkcOp) : Nat := 1 + mkcPick e o [2]

/-! #### Tiles and streams (R100, R213) -/

/-- The stride of A's rows and of B's stored rows. -/
def strideA (o : MkcOp) (k : Nat) : Nat := up32 (rowBytes (opFmts o).1 k)
def strideB (o : MkcOp) (cols : Nat) : Nat := up32 (max cols (runBytes (opFmts o).2 (opSparse o) cols 0))

/-- Where a part of A or B of a chunk is staged: one part for a plain product, the halves or the slices of the split modes. -/
def partA (e : MkcEnv) (o : MkcOp) (x : MkcBlock) (b j part : Nat) : Nat :=
  mkcSpad e o [3, b, j, part] (x.rows * strideA o (chunkK e o j))
def partB (e : MkcEnv) (o : MkcOp) (x : MkcBlock) (b j part : Nat) : Nat :=
  mkcSpad e o [4, b, j, part] (storedRows (fmtMX (opFmts o).2) (opSparse o) (chunkK e o j) * strideB o x.cols)

/-- The shape of chunk j's tile: DEEP where it holds more than a FULL one (R248). -/
def chunkShape (o : MkcOp) (x : MkcBlock) (k : Nat) : Nat := if opTileK o < k then 3 else x.shape

/-- The load and the stream of one chunk of a block over parts of A and B: one rounding into each of its entries (R248) (log 24, DESIGN CHOICE). -/
def mkcTile (e : MkcEnv) (o : MkcOp) (b j pa pb : Nat) (acc : Bool) : List (List Word) :=
  let x := mkcBlock e o b
  let k := chunkK e o j
  let f := opFmts o
  let s := chunkShape o x k
  let at_ := word (strideB o x.cols * 2 ^ 32 + partB e o x b j pb)
  if x.gemv then
    [sncCmd [sncHead 1 2 0 false false 0, 0, 0, word (f.2 * 2 ^ 55 + b2n acc * 2 ^ 49 + (k - 1) * 2 ^ 32 + x.arow), at_,
      word ((x.cols - 1) * 2 ^ 32 + partA e o x b j pa)]]
  else
    [sncCmd [sncHead 1 0 0 false false 0, 0, 0,
      word (s * 2 ^ 61 + x.sub * 2 ^ 59 + f.2 * 2 ^ 55 + b2n (opSparse o) * 2 ^ 54 + (k - 1) * 2 ^ 32 + (x.cols - 1) * 2 ^ 16), at_],
     sncCmd [sncHead 1 1 0 false false 0, 0, 0,
      word (s * 2 ^ 61 + x.sub * 2 ^ 59 + f.1 * 2 ^ 55 + f.2 * 2 ^ 51 + b2n (opSparse o) * 2 ^ 50 + b2n acc * 2 ^ 49 + 2 ^ 48 +
        (x.rows - 1) * 2 ^ 32 + x.arow), word (strideA o k * 2 ^ 32 + partA e o x b j pa)]]

/-! #### VE commands around the passes (R152, R158, R214) -/

/-- A scratchpad descriptor, an accumulator range and a memory operand. -/
def descSpad (stride addr : Nat) : Word := word (2 ^ 61 + stride * 2 ^ 37 + addr)
def descAcc (col row : Nat) : Word := word (2 * 2 ^ 61 + col * 2 ^ 11 + row)
def descMem (addr : Nat) : Word := word (3 * 2 ^ 61 + addr % 2 ^ 57)

/-- A VE command: opcode, control word, operands. -/
def veCmd (op func fd f0 f1 f2 : Nat) (sat : Bool) (count rows : Nat) (ds : List Word) : List Word :=
  sncCmd ([sncHead 2 op 0 false false 0, 0, 0,
    word (func * 2 ^ 58 + fd * 2 ^ 54 + f0 * 2 ^ 50 + f1 * 2 ^ 46 + f2 * 2 ^ 42 + b2n sat * 2 ^ 39 + (count - 1) * 2 ^ 16 + (rows - 1))] ++ ds)

/-- The split of an FP32 operand of rows × count into its halves Ah and Al (R152, R170): a VE_CVT, a SUB in FP32 and a VE_CVT (log 24, DESIGN CHOICE). -/
def mkcSplit (e : MkcEnv) (o : MkcOp) (path : List Nat) (count rows stride hi lo : Nat) : List (List Word) :=
  let wide := up32 (4 * count)
  let src := descSpad wide (mkcSpad e o (path ++ [0]) (rows * wide))
  let rest := descSpad wide (mkcSpad e o (path ++ [1]) (rows * wide))
  [veCmd 2 0 9 11 0 0 true count rows [descSpad stride hi, src], veCmd 0 1 11 11 9 0 false count rows [rest, src, descSpad stride hi],
    veCmd 2 0 9 11 0 0 true count rows [descSpad stride lo, rest]]

/-- Where the diagonal sums of a block stand in memory, and the command that adds a pass into D_n (R158, R215). -/
def mkcPlanes (e : MkcEnv) (o : MkcOp) (b : Nat) : Nat := 8 * (mkcPick e o [5, b] % 2 ^ 50)

def mkcDacc (e : MkcEnv) (o : MkcOp) (b n : Nat) : List Word :=
  let x := mkcBlock e o b
  veCmd 6 0 14 13 0 0 false x.cols x.rows
    [descMem (mkcPlanes e o b + n * (8 * x.cols * x.rows)), descAcc (subCol x.shape x.sub) x.arow]

/-- The combination of the sums of a block into FP64 (R158). -/
def mkcXcomb (e : MkcEnv) (o : MkcOp) (b : Nat) : List Word :=
  let x := mkcBlock e o b
  veCmd 7 (opAux o 0) 12 14 13 13 false x.cols x.rows
    [descMem (8 * mkcPick e o [6, b]), descMem (mkcPlanes e o b), descMem (4 * mkcPick e o [7, b]), descMem (4 * mkcPick e o [8, b])]

/-! #### Passes -/

/-- The commands that stage an operand or treat a block's result: of the operation's class, which ones is open. -/
abbrev Staging := List Nat → List (List Word)

/-- A GEMM's block: one stream per chunk, in ascending K (R248). -/
def gemmBlock (e : MkcEnv) (o : MkcOp) (stage : Staging) (b : Nat) : List (List Word) :=
  stage [b, 0] ++ (List.range (opChunks e o)).flatMap (fun j => stage [b, 1, j] ++ mkcTile e o b j 0 0 (j != 0)) ++ stage [b, 2]

/-- An SGEMM's block (R152, R153): the halves of A and B, 0 the high one, then Al · Bh, Ah · Bl and Ah · Bh into the same rows. -/
def sgemmBlock (e : MkcEnv) (o : MkcOp) (stage : Staging) (b : Nat) : List (List Word) :=
  let x := mkcBlock e o b
  let js := List.range (opChunks e o)
  let split := fun j =>
    let k := chunkK e o j
    mkcSplit e o [9, b, j] k x.rows (strideA o k) (partA e o x b j 0) (partA e o x b j 1) ++
      mkcSplit e o [10, b, j] x.cols k (strideB o x.cols) (partB e o x b j 0) (partB e o x b j 1)
  stage [b, 0] ++ js.flatMap (fun j => stage [b, 1, j] ++ split j) ++
    [(1, 0), (0, 1), (0, 0)].zipIdx.flatMap (fun p =>
      js.flatMap (fun j => mkcTile e o b j p.1.1 p.1.2 (p.2 != 0 || j != 0))) ++ stage [b, 2]

/-- The pairs of slices of an XGEMM: t + u ≤ s − 1 (R157). -/
def slicePairs (s : Nat) : List (Nat × Nat) := (List.range s).flatMap (fun t => (List.range (s - t)).map (fun u => (t, u)))

/-- An XGEMM's block (R157, R158): per at most 65,536 K elements and pair of slices an exact INT32 chain, added into D of t + u;
then the combination. -/
def xgemmBlock (e : MkcEnv) (o : MkcOp) (stage : Staging) (b : Nat) : List (List Word) :=
  let per := 65536 / mkcCut e o
  let n := opChunks e o
  stage [b, 0] ++
    (List.range ((n + per - 1) / per)).flatMap (fun g =>
      stage [b, 1, g] ++ (slicePairs (opAux o 0)).flatMap (fun p =>
        ((List.range n).filter (fun j => j / per == g)).flatMap (fun j => mkcTile e o b j p.1 p.2 (j % per != 0)) ++
          [mkcDacc e o b (p.1 + p.2)])) ++
    [mkcXcomb e o b] ++ stage [b, 2]

/-- The matrix work of an operation, block by block (log 24, DESIGN CHOICE). -/
def mkcMatrix (e : MkcEnv) (o : MkcOp) (stage : Staging) : List (List Word) :=
  (List.range (mkcBlocks e o)).flatMap
    (if o.opc = 1 then gemmBlock e o stage else if o.opc = 2 then xgemmBlock e o stage else sgemmBlock e o stage)

end Sys2Proof.Machine
end

