-- ==== Sys2Proof/Machine/MkcSnc.lean ====
section
/-! DEFINITION. What the loader turns a module's operations into (R244, R246, R248, R250): the orderings a module states come
out as it states them; what the rules leave open is free and held to them. -/

namespace Sys2Proof.Machine

/-- The memory semaphore of a WAIT or SIGNAL: its address, where its first operand is an object or a parameter. -/
def opSem (e : MkcEnv) (o : MkcOp) : Option Nat :=
  match o.refs.head? with
  | some r => if 1 ≤ o.nopnd ∧ (r.kind = 1 ∨ r.kind = 2) then some (8 * (refAddr e r / 8 % 2 ^ 54)) else none
  | none => none

/-- WAIT, SIGNAL and FENCE become QFE_FENCEs with the waits and signals of their headers, their SCOPE, REL and ACQ (R244,
R246): a fence signals once everything before it has retired, and nothing after it starts before its wait is met (R225). -/
def sncOrder (e : MkcEnv) (o : MkcOp) : List Word :=
  let h := sncHead 0 1 o.scope o.rel o.acq
  let n := (e.lsem + opAux o 0) % 64
  let v := opAux o 1
  if o.opc = 0x12 then sncCmd [h 0]
  else match opSem e o with
    | some a => sncCmd [h (if o.opc = 0x10 then 1 else 2), word (v % 2 ^ 32), word a]
    | none =>
      sncCmd [h 0, word (if o.opc = 0x10 then 2 ^ 63 + n * 2 ^ 56 + v % 256 * 2 ^ 48 else 2 ^ 47 + n * 2 ^ 40 + v % 256 * 2 ^ 32)]

/-- A fence of the core with nothing else to it. -/
def sncFence : List Word := sncCmd [sncHead 0 1 0 false false 0]

/-- Each command is followed by a fence of the core: the order of a queue alone orders nothing between engines (R69), so the
order of dependent operations and of the commands within one is kept by fences (R246) (log 24, DESIGN CHOICE). -/
def sncSeq (ws : List (List Word)) : List (List Word) := ws.flatMap (fun w => if kop w = (0, 1) then [w] else [w, sncFence])

/-- The commands an operation's class may become (R244). -/
def sncKinds (opc : Nat) : List (Nat × Nat) :=
  let ve := (List.range 9).map (fun i => (2, i))
  match opc with
  | 0x01 => [(4, 0), (4, 3), (4, 4), (1, 0), (1, 1), (1, 2)] ++ ve
  | 0x02 => [(4, 0), (4, 3), (4, 4), (1, 0), (1, 1), (2, 4), (2, 5), (2, 6), (2, 7), (2, 0), (2, 2)]
  | 0x03 => [(4, 0), (4, 3), (4, 4), (1, 0), (1, 1), (1, 2), (2, 0), (2, 2)]
  | 0x04 => [(2, 0)]
  | 0x05 => [(2, 3)]
  | 0x06 => [(2, 2)]
  | 0x07 => [(4, 0), (4, 4), (4, 3)]
  | 0x08 => [(4, 1)]
  | 0x09 => [(4, 2)]
  | 0x0A => [(4, 0)]
  | 0x0B => [(4, 7)]
  | 0x0C => [(4, 8)]
  | _ => []

/-- An operation's parameters stand in its commands (R213, R214, R244). -/
def sncAux (o : MkcOp) (w : List Word) : List Word :=
  let f := fun i => opAux o i
  let rnd := fun x => sncField (sncField (sncField x 3 41 40 (f 1)) 3 39 39 (f 2)) 3 35 32 (f 3)
  match o.opc, kop w with
  | 0x04, (2, 0) | 0x05, (2, 3) | 0x06, (2, 2) => rnd (sncField w 3 63 58 (f 0))
  | 0x07, (4, 0) => sncField (sncField w 6 27 26 (f 0)) 6 25 24 (f 1)
  | 0x08, (4, 1) | 0x09, (4, 2) => sncField w 6 63 48 (f 0)
  | 0x0A, (4, 0) => sncField (sncField w 6 23 20 (f 0)) 6 19 16 (f 1)
  | 0x0B, (4, 7) => sncField (sncField w 5 63 63 (f 0)) 5 55 48 (f 1)
  | 0x0C, (4, 8) => sncField w 7 63 62 (f 2)
  | 0x02, (2, 5) | 0x02, (2, 7) => sncField w 3 63 58 (f 0)
  | _, _ => w

/-! #### Fall-backs (R241) -/

/-- Commands that prepare a fall-back's operand, the last of them writing where the tile is then loaded from: which VE commands
and where is open, at least one stands (log 24, DESIGN CHOICE). -/
def fallPre (e : MkcEnv) (text : List Byte) (feature stride : Nat) (w last : List Word) (ok : List Word → Bool) :
    List (List Word) × Nat :=
  let r := Config.mkcFall text feature w (dptList e.dpt)
  let dst := r.2 / 32 % 2 ^ 17 * 32
  let aim := fun x : List Word => sncField (sncField (sncField x 4 63 61 1) 4 60 37 stride) 4 22 0 dst
  let xs := r.1.filter (fun x => x.length == 8 && ok x && !encodingBad (aim x) false && !usesAbsent (hasFeat e) x)
  (match xs.reverse with
    | [] => [aim last]
    | x :: rest => rest.reverse ++ [aim x], dst)

/-- A command over the stored rows of a tile, from its operand's descriptor. -/
def fallOver (op f : Nat) (w : List Word) (i count rows : Nat) : List Word :=
  let d := descSpad (wf w i 54 32) (wf w i 22 0)
  veCmd op 0 (if f = 3 ∨ f = 4 then 7 else f) f 0 0 false count rows [d, d]

/-- MXFP6 becomes MXFP8 with the element E4M3, converted by VE_CVT, the scales as they are. -/
def fall3 (e : MkcEnv) (text : List Byte) (w : List Word) : List (List Word) :=
  let six := fun f : Nat => f == 3 || f == 4
  let wide := fun (hi lo : Nat) (x : List Word) => if six (wf x 3 hi lo) then sncField x 3 hi lo 7 else x
  let cvt := fun f : Nat => fun x : List Word => kop x == (2, 2) && wf x 3 57 54 == 7 && wf x 3 53 50 == f
  let moved := fun (f : Nat) (i : Nat) (x : List Word) =>
    let st := if i = 4 then 2 * wf w 4 54 32 else 0
    let r := fallPre e text 3 st x (fallOver 2 f w i 128 (if i = 4 ∧ kop w = (1, 1) then wf w 3 42 32 + 1 else 128)) (cvt f)
    r.1 ++ [sncField (if i = 4 then sncField x 4 54 32 st else x) i 22 0 r.2]
  match kop w with
  | (1, 0) => if six (wf w 3 58 55) then moved (wf w 3 58 55) 4 (wide 58 55 w) else [w]
  | (1, 1) => if six (wf w 3 58 55) then moved (wf w 3 58 55) 4 (wide 54 51 (wide 58 55 w)) else [wide 54 51 w]
  | (1, 2) =>
    let f := wf w 3 58 55
    if six f then
      let st := 2 * wf w 4 54 32
      let b := fallPre e text 3 st (wide 58 55 w) (fallOver 2 f w 4 128 128) (cvt f)
      b.1 ++ moved f 5 (sncField (sncField (wide 58 55 w) 4 54 32 st) 4 22 0 b.2)
    else [w]
  | _ => [w]

/-- A sparse tile is expanded by VE commands and loaded dense: in a DEEP tile where it has more rows than FULL holds. -/
def fall0 (e : MkcEnv) (text : List Byte) (w : List Word) : List (List Word) :=
  let deep := fun (tk fmt : Nat) => decide (128 * perCell fmt < tk)
  match kop w with
  | (1, 0) =>
    if wf w 3 54 54 = 1 then
      let r := fallPre e text 0 (wf w 4 54 32) w (fallOver 2 (wf w 3 58 55) w 4 (wf w 3 22 16 + 1) (wf w 3 41 32 + 1)) (fun x => hEng x == 2)
      let x := sncField (sncField w 3 54 54 0) 4 22 0 r.2
      r.1 ++ [if deep (wf w 3 41 32 + 1) (wf w 3 58 55) then sncField x 3 63 61 3 else x]
    else [w]
  | _ => [w]

/-- The streams of tiles that were sparse take them as they were loaded. -/
def fall0Streams : Option Nat → List (List Word) → List (List Word)
  | _, [] => []
  | s, w :: ws => match kop w with
    | (1, 0) => w :: fall0Streams (some (wf w 3 63 61)) ws
    | (1, 1) => (if wf w 3 50 50 = 1 then sncField (sncField w 3 50 50 0) 3 63 61 (s.getD 0) else w) :: fall0Streams s ws
    | _ => w :: fall0Streams s ws

/-- A DEEP tile becomes two FULL ones, its stream two that chain: the second adds. -/
def fall1 : Option (List Word) → List (List Word) → List (List Word)
  | _, [] => []
  | tile, w :: ws =>
    match kop w, tile with
    | (1, 0), _ => if wf w 3 63 61 = 3 then fall1 (some w) ws else w :: fall1 none ws
    | (1, 1), some t =>
      if wf w 3 63 61 = 3 then
        let half := 128 * perCell (wf t 3 58 55)
        let mx := fmtMX (wf t 3 58 55)
        let load1 := sncField (sncField t 3 63 61 0) 3 41 32 (half - 1)
        let load2 := sncField (sncField (sncField t 3 63 61 0) 3 41 32 (wf t 3 41 32 - half)) 4 22 0
          (wf t 4 22 0 + storedRows mx false half * wf t 4 54 32)
        let run1 := sncField (sncField w 3 63 61 0) 3 48 48 1
        let run2 := sncField (sncField run1 3 49 49 1) 4 22 0 (wf w 4 22 0 + rowBytes (wf w 3 58 55) half)
        [load1, run1, load2, run2] ++ fall1 tile ws
      else w :: fall1 tile ws
    | _, _ => w :: fall1 tile ws

/-- HINT 3 becomes HINT 1, a compressed tier-1 object is kept uncompressed. -/
def fallDe (e : MkcEnv) (w : List Word) : List Word :=
  let hints : Bool := kop w == (4, 0) || kop w == (4, 1) || kop w == (4, 2) || kop w == (4, 8)
  let w1 := if !hasFeat e 6 && hints && wf w 7 63 62 == 3 then sncField (sncField w 7 63 62 1) 7 59 48 0 else w
  if !hasFeat e 4 && kop w == (4, 0) then sncField w1 6 15 14 0 else w1

/-- The fall-backs of features the table lacks (R241, R242); the one of DEEP only where ROUND_K leaves the K cut open. -/
def sncFall (e : MkcEnv) (o : MkcOp) (ws : List (List Word)) : List (List Word) :=
  let text := opText e.module o
  let w1 := ws.map (fallDe e)
  let w2 := if hasFeat e 3 then w1 else w1.flatMap (fall3 e text)
  let w3 := if hasFeat e 0 then w2 else fall0Streams none (w2.flatMap (fall0 e text))
  if hasFeat e 1 || mkcRoundK o != 0 then w3 else fall1 none w3

/-- A command orders nothing but by its place, and is not patched but in a segment: semaphores come from WAIT and SIGNAL
(R222, R246, R250). -/
def sncPlain (w : List Word) : List Word := sncField (sncField w 0 33 32 0) 1 63 0 0
def sncUnpatched (w : List Word) : List Word := sncField w 0 46 34 0

/-- A command that the loader may emit for an operation: of its class, with nothing that is an encoding error, with no feature
that the table lacks, and neither a QFE_LOOP nor an SE_BR, which no class has (R241, R244, R250). -/
def sncOk (e : MkcEnv) (o : MkcOp) (w : List Word) : Bool :=
  w.length == 8 && (sncKinds o.opc).contains (kop w) && !encodingBad w false && !usesAbsent (hasFeat e) w

/-- The orderings of an operation stand in its commands: its acquire in the first, its release in the last, its SCOPE in both;
none of the commands orders anything else (R246). -/
def sncOrdered (o : MkcOp) (ws : List (List Word)) : List (List Word) :=
  ws.zipIdx.map (fun x =>
    let first := x.2 == 0
    let last := x.2 + 1 == ws.length
    let w1 := sncField (sncField x.1 0 53 53 (b2n (o.rel && last))) 0 52 52 (b2n (o.acq && first))
    if (o.rel && last) || (o.acq && first) then sncField w1 0 55 54 o.scope else w1)

/-- The commands that the rules leave open, of an operation's class and with its parameters: of a matrix operation those that
stage its operands and treat its results, the whole of another (log 24, DESIGN CHOICE). -/
def sncOpen (e : MkcEnv) (o : MkcOp) (path : List Nat) : List (List Word) :=
  ((Config.mkcBody (opText e.module o) (dptList e.dpt) e.core e.choice path).filter
    (fun w => w.length == 8 && (sncKinds o.opc).contains (kop w) && hEng w != 1)).map (fun w => sncAux o (sncPlain w))

/-- The commands that do an operation's work, with fall-backs for what the part lacks, each one that the loader may emit
(R241, R246, R248, R250) (log 24, DESIGN CHOICE). -/
def sncBody (e : MkcEnv) (o : MkcOp) : List (List Word) :=
  let ws := if 1 ≤ o.opc ∧ o.opc ≤ 3 then mkcMatrix e o (sncOpen e o) else sncOpen e o []
  sncOrdered o ((sncFall e o ws).filter (sncOk e o))

/-- HANDOFF (R244): the receiver posts a slot, the sender takes it and moves the data with CREDIT_END; the acquire stands in
the take, the release in the transfer. -/
def sncHandoff (e : MkcEnv) (o : MkcOp) : List (List Word) :=
  let slot := (e.slot + opAux o 0) % 64
  let target := match o.refs.head? with
    | some r => refAddr e r % 2 ^ 57
    | none => 0
  let move := ((Config.mkcBody (opText e.module o) (dptList e.dpt) e.core e.choice []).filter
    (fun w => w.length == 8 && kop w == (4, 0))).map
    (fun w => fallDe e (sncField (sncField (sncPlain w) 6 13 13 1) 6 12 7 slot))
  let ok := move.filter (fun w => !encodingBad w false && !usesAbsent (hasFeat e) w)
  sncCmd [sncHead 4 5 0 false false 0, 0, 0, word slot, word (opAux o 1 % 2 ^ 62)] ::
    sncOrdered o (sncCmd [sncHead 4 6 0 false false 0, 0, 0, word target, word (65535 * 2 ^ 16 + slot)] :: ok)

/-- The immediate that a DPT operation fixes at load: the field of the table's entry (R244, R245). -/
def dptImm (e : MkcEnv) (o : MkcOp) : Nat :=
  ((e.dpt (opAux o 0 % 256)).toNat &&& opAux o 1) >>> lowBit (opAux o 1)

/-- A DPT operation moves its immediate into a G register of the queue (R244) (log 24, DESIGN CHOICE). -/
def sncDpt (e : MkcEnv) (o : MkcOp) : List Word :=
  sncCmd [sncHead 3 0 o.scope o.rel o.acq 0, 0, 0, word (0x14 * 2 ^ 58 + opAux o 2 % 16 * 2 ^ 48 + 2 ^ 46), word (dptImm e o)]

/-- The predicate of an IF at a depth of nesting: false first, then set by an SE_SETP from its source (R176, R244). The second
runs only where an IF around it holds, so that an IF in another holds only where both do (log 24, DESIGN CHOICE). -/
def sncSetp (o : MkcOp) (depth : Nat) : List (List Word) :=
  let p := 1 + depth % 7
  [sncCmd [sncHead 3 1 0 false false 0, 0, 0, word (2 ^ 58 + p * 2 ^ 48 + 2 ^ 46 + 2 ^ 38)],
   sncCmd [sncHead 3 1 o.scope o.rel o.acq 0, 0, 0,
    word (opAux o 0 % 6 * 2 ^ 58 + p * 2 ^ 48 + opAux o 3 % 16 * 2 ^ 40 + 2 ^ 38), word (opAux o 4)]]

/-- A command runs only where the predicate is true; one that has its predicate from an IF within keeps it. -/
def sncPred (p : Nat) (w : List Word) : List Word :=
  if atFetch w || hPen w || w == sncFence then w else sncField (sncField w 0 51 50 3) 0 49 47 p

/-- The same, but for the command that clears the predicate of an IF within. -/
def predCmd (p : Nat) (w : List Word) : List Word :=
  if kop w = (3, 1) ∧ wf w 3 63 58 = 1 ∧ wf w 3 47 46 = 1 then w else sncPred p w

/-- Predicate the commands of an item. -/
def predItem (p : Nat) : SncItem → SncItem
  | .cmd w => .cmd (predCmd p w)
  | .replay b ps => .replay (b.map (predCmd p)) ps

/-- The commands of items, a replay's once for each of its trips. -/
def itemCmds : SncItem → List (List Word)
  | .cmd w => [w]
  | .replay b ps => (ps.map (fun _ => b)).flatten

/-- The trips of a FOR: a count, or the value of a parameter when the module is loaded (R244) (log 24, DESIGN CHOICE). -/
def opTrips (e : MkcEnv) (o : MkcOp) : Nat := if opAux o 2 = 1 then Config.mkcAddr 3 (opAux o 0) 0 e.core else opAux o 0


/-- A parameter set of a trip, and whether its values run into no field they are not added to: no carry at all (R229,
R250). -/
def tripSet (e : MkcEnv) (o : MkcOp) (t : Nat) : List Word := (Config.mkcParams (opText e.module o) e.core t).take 64

def noCarry (ks : List Word) (w : List Word) : Bool :=
  patchWords (fun i => atD 0 ks i) w ==
    (w.zipIdx).map (fun x => x.1 ||| (atD 0 (patchWords (fun i => atD 0 ks i) (atD 0 w 0 :: List.replicate 7 0)) x.2)) ||
  patchCount w == 0

/-- The commands of a trip, patched with its parameter set; those of a FOR within another keep their marks, so that the set of
the outer trip is added too. -/
def tripCmds (inner : Bool) (ks : List Word) (body : List (List Word)) : List (List Word) :=
  body.map (fun w => let x := patchWords (fun i => atD 0 ks i) w; if inner then x else sncUnpatched x)

/-- The translation of a kernel's operations in their order (R246). A FOR becomes a replay with one parameter set per trip, or
is unrolled when its body is shorter than 4 commands, stands in another FOR's, or has a field that a parameter would carry
out of (R229, R230, R250); one of no trips becomes nothing. -/
def sncOps (e : MkcEnv) : Nat → Bool → Nat → List MkcOp → List SncItem
  | 0, _, _, _ => []
  | _, _, _, [] => []
  | n + 1, inner, depth, o :: rest =>
    if o.opc = 0x18 then
      let body := (sncOps e n true depth (rest.take (opSpan o))).flatMap itemCmds
      let sets := (List.range (opTrips e o)).map (tripSet e o)
      let here :=
        if sets = [] then []
        else if inner ∨ body.length < 4 ∨ !(sets.all (fun ks => body.all (noCarry ks))) then
          (sets.flatMap (fun ks => tripCmds inner ks body)).map .cmd
        else [.replay body sets]
      here ++ sncOps e n inner depth (rest.drop (opSpan o))
    else if o.opc = 0x19 then
      (sncSeq (sncSetp o depth)).map .cmd ++
        (sncOps e n inner (depth + 1) (rest.take (opSpan o))).map (predItem (1 + depth % 7)) ++
        sncOps e n inner depth (rest.drop (opSpan o))
    else
      let ws := if 0x10 ≤ o.opc ∧ o.opc ≤ 0x12 then [sncOrder e o]
        else if o.opc = 0x13 then sncHandoff e o
        else if o.opc = 0x1A then [sncDpt e o]
        else sncBody e o
      (sncSeq (if inner then ws else ws.map sncUnpatched)).map .cmd ++ sncOps e n inner depth rest

/-- A module's commands by core and queue number (R250): each kernel on as many present cores as it wants, all of them for 0,
from the group asked for onward; a kernel's commands stand in one queue, which keeps every order among them (R246) (log 24,
DESIGN CHOICE). -/
def sncModule (dpt : Nat → Word) (m : List Byte) (group choice lsem slot : Nat) : List (Nat × Nat × List SncItem) :=
  (mkcKernels m).zipIdx.flatMap (fun x =>
    (kernelCores dpt group x.1).map (fun c =>
      (c, x.2 % kQueues x.1, sncOps ⟨dpt, m, c, choice, lsem, slot⟩ (2 * kCount x.1 + 1) false 0 (kernelOps m x.1))))

end Sys2Proof.Machine
end

