-- ==== Sys2Proof/Machine/MkcLoad.lean ====
section
/-! DEFINITION. A load: resources apart from those of other contexts, the translation kept, new slots and segments written
(R250–R253). -/

namespace Sys2Proof.Machine

/-! #### Resources (R250, R253) -/

/-- Local semaphores a core needs for a module. -/
def mkcLsems (m : List Byte) : Nat := ((mkcKernels m).map kLsems).foldl max 0

/-- Whether numbers b to b + n − 1 are free, on each of some cores, of what other contexts' loads have taken there: `range`
gives the first and the number of a load's (R222, R253) (log 27, DEDUCED). -/
def rangeFree (hw : Hw) (cores : List Nat) (ctx b n : Nat) (range : KeptSnc → Nat × Nat) : Bool :=
  (hw.kept.filter (fun k => k.live && k.ctx != ctx && k.snc.any (fun e => cores.contains e.1))).all (fun k =>
    decide (b + n ≤ (range k).1) || decide ((range k).1 + (range k).2 ≤ b))

def lsemRange (k : KeptSnc) : Nat × Nat := (k.lsem, k.lsems)
def slotRange (k : KeptSnc) : Nat × Nat := (k.slot, k.slots)

/-- The first ring index that no command has been placed at. -/
def nextPlace (hw : Hw) (c q : Nat) : Nat :=
  let head := rbits hw (Reg.qfeQHead c q) 31 0
  let tail := rbits hw (Reg.qfeQTail c q) 31 0
  let d := fun i : Nat => (i + 2 ^ 32 - head) % 2 ^ 32
  let p := mget (fun _ => 0) hw.placed (8 * c + q)
  if d tail ≤ d p ∧ d p ≤ 2 ^ rbits hw (Reg.qfeQCtrl c q) 12 8 then p else tail

/-- Memory a QFE_REPLAY reads: its segment and its parameter sets, as first bytes and lengths. -/
def replayAreas (seg len pset pcnt reps : Nat) : List (Nat × Nat) := [(seg, 64 * len), (pset, 8 * pcnt * reps)]

/-- The commands that stand in a queue's ring and have not been fetched, up to where a ring is filled. -/
def placedWords (hw : Hw) (c q : Nat) : List (List Word) :=
  let first := (getQueue hw c q).pos
  let n := (nextPlace hw c q + 2 ^ 32 - first) % 2 ^ 32
  (List.range (if n ≤ 2 ^ rbits hw (Reg.qfeQCtrl c q) 12 8 then n else 0)).map (fun i =>
    wordsOf (lineData hw (ringSlot hw c q (first + i) / 64)))

/-- The memory that the replay a queue runs and those that wait in its ring read (R230, R253). -/
def queueAreas (hw : Hw) (c q : Nat) : List (Nat × Nat) :=
  (match (getQueue hw c q).replay with
    | some r => replayAreas r.seg r.len r.pset r.pcnt r.reps
    | none => []) ++
  (placedWords hw c q).flatMap (fun w => if kop w = (0, 9) then
    replayAreas (64 * wf w 3 51 6) (wf w 5 63 48 + 1) (8 * wf w 4 51 3) (wf w 5 46 40) (wf w 5 31 0 + 1) else [])

/-- Memory that a queue of any context has yet to read as a segment or a parameter set (R253) (log 27, DEDUCED). -/
def areaBusy (hw : Hw) (area need : Nat) : Bool :=
  hw.cores.any (fun e => (List.range 8).any (fun q => (getQueue hw e.1 q).st != 0 && (queueAreas hw e.1 q).any (fun a =>
    decide (area < a.1 + a.2 ∧ a.1 < area + need))))

/-- Bytes of segments and parameter sets that a translation may need, each segment at a line. -/
def areaNeed (snc : List (Nat × Nat × List SncItem)) : Nat :=
  (snc.flatMap (fun e => e.2.2)).foldl (fun n i => match i with
    | .cmd _ => n
    | .replay body sets => n + 64 + 64 * body.length + 8 * sets.length * (sets.map List.length).foldl max 0) 0

/-! #### The translation that is kept (R249, R252) -/

/-- The kept translation that serves a load: of the same module under the same digest, for the same request. -/
def keptFor (hw : Hw) (dpt : Nat → Word) (m : List Byte) (r : LoadReq) : Option KeptSnc :=
  hw.kept.find? (fun k => k.meas == (m.drop 32).take 32 && k.digest == dpt 1 && k.group == r.group.val && k.ctx == r.ctx.toNat &&
    k.lsem == r.lsem.val && k.slot == r.slot.val)

/-- Translate, with the choices of R249 drawn anew where DETERMINISTIC is 0; translations under another digest go. -/
def mkcNew (dpt : Nat → Word) (m : List Byte) (r : LoadReq) (hw : Hw) : Hw × KeptSnc :=
  let meas := (m.drop 32).take 32
  let group := r.group.val
  let ctx := r.ctx.toNat
  let free := leField m 8 4 % 2 == 0
  let choice := if free then hw.fresh + 1 else 0
  let k : KeptSnc := ⟨meas, dpt 1, group, ctx, sncModule dpt m group choice r.lsem r.slot, r.lsem, mkcLsems m, r.slot,
    Config.mkcCredits m group (dptList dpt), true⟩
  ({ hw with fresh := if free then hw.fresh + 1 else hw.fresh,
             kept := k :: hw.kept.filter (fun x => !(x.meas == meas && (x.digest != dpt 1 || (x.group == group && x.ctx == ctx)))) }, k)

/-- The translation of a load, kept: the one that is there while its numbers are still its own, else a new one (log 24, DESIGN
CHOICE) (log 67, DESIGN CHOICE). -/
def mkcKeep (dpt : Nat → Word) (m : List Byte) (r : LoadReq) (hw : Hw) : Hw × KeptSnc :=
  match keptFor hw dpt m r with
  | some k =>
    if k.live || (rangeFree hw (k.snc.map (·.1)) r.ctx.toNat k.lsem k.lsems lsemRange &&
        rangeFree hw (k.snc.map (·.1)) r.ctx.toNat k.slot k.slots slotRange) then
      let k1 := { k with live := true }
      ({ hw with kept := hw.kept.map (fun x => if x = k then k1 else x) }, k1)
    else mkcNew dpt m r hw
  | none => mkcNew dpt m r hw

/-! #### Ring slots and segments (R253) -/

/-- The bytes of commands. -/
def wordBytes (ws : List Word) : List Byte := ws.flatMap (fun w => leBytes 8 w.toNat)

/-- The queues of a core that are bound to a context and enabled. -/
def queuesOf (hw : Hw) (c ctx : Nat) : List Nat := (List.range 8).filter (fun q => ctxOf hw c q == ctx && (getQueue hw c q).st != 0)

/-- A store of the loader, which runs on a host core or an external host (log 67, DESIGN CHOICE). -/
def loaderPut (hw : Hw) (a : Nat) (bs : List Byte) : Hw :=
  (postWrites (.pcp (Fin.ofNat 2 hw.pkg.primary)) false ⟨0, 0, 0, 0, false, 0⟩ none (bs.length / 64 + 2) hw a bs).1

/-- Where the memory given for segments goes on, at the next line. -/
def upLine (a : Nat) : Nat := (a + 63) / 64 * 64

/-- The ring command of an item, with its segment and parameter sets written into new memory. -/
def putItem (x : Hw × Nat) : SncItem → (Hw × Nat) × List Word
  | .cmd w => (x, w)
  | .replay body psets =>
    let seg := upLine x.2
    let pset := seg + 64 * body.length
    let n := (psets.map List.length).foldl max 0
    let sets := psets.flatMap (fun p => p ++ List.replicate (n - p.length) 0)
    let hw1 := loaderPut (loaderPut x.1 seg (body.flatMap wordBytes)) pset (wordBytes sets)
    ((hw1, pset + 8 * sets.length),
      sncCmd [word (9 * 2 ^ 56), 0, 0, word seg, word pset,
        word ((body.length - 1) % 2 ^ 16 * 2 ^ 48 + n % 128 * 2 ^ 40 + (psets.length - 1) % 2 ^ 32)])

/-- Room in a ring above what is placed there; a pinned HEAD keeps its slots (R231, R253). -/
def ringRoom (hw : Hw) (c q : Nat) : Nat :=
  2 ^ rbits hw (Reg.qfeQCtrl c q) 12 8 - (nextPlace hw c q + 2 ^ 32 - rbits hw (Reg.qfeQHead c q) 31 0) % 2 ^ 32

/-- One item enters the next slot of a ring. -/
def putSlot (c q : Nat) (x : Hw × Nat) (i : SncItem) : Hw × Nat :=
  let r := putItem x i
  let p := nextPlace r.1.1 c q
  let hw1 := loaderPut r.1.1 (ringSlot r.1.1 c q p) (wordBytes r.2)
  ({ hw1 with placed := mput (fun _ => 0) hw1.placed (8 * c + q) ((p + 1) % 2 ^ 32) }, r.1.2)

/-- The commands of one core and queue number go into new slots of the context's queue, all of them or, where it has no such
queue or no room, none: the host places those later by its own stores (log 67, DESIGN CHOICE). A doorbell starts them. -/
def placeList (ctx : Nat) (x : Hw × Nat) (e : Nat × Nat × List SncItem) : Hw × Nat :=
  match (queuesOf x.1 e.1 ctx)[e.2.1]? with
  | none => x
  | some q => if e.2.2.length ≤ ringRoom x.1 e.1 q then e.2.2.foldl (putSlot e.1 q) x else x

/-! #### The load (R251, R252) -/

/-- The code a load ends with: as the module and the table decide it, the numbers the request gives it free of other contexts',
memory that no replay has yet to read, and the digest read before and after (R251–R253) (log 27, DEDUCED). -/
def loadCode (hw : Hw) (dpt : Nat → Word) (m : List Byte) (r : LoadReq) : Nat :=
  let c := mkcCode dpt m r.group.val
  let ctx := r.ctx.toNat
  if c ≠ 0 then c
  else if r.lsem + mkcLsems m > 64 ∨ r.slot + Config.mkcCredits m r.group.val (dptList dpt) > 64 ∨
      !rangeFree hw (moduleCores dpt m r.group.val) ctx r.lsem (mkcLsems m) lsemRange ∨
      !rangeFree hw (moduleCores dpt m r.group.val) ctx r.slot (Config.mkcCredits m r.group.val (dptList dpt)) slotRange ∨
      areaBusy hw r.area (areaNeed (mkcKeep dpt m r hw).2.snc) then 6
  else if r.digest ≠ dpt 1 then 9
  else 0

/-- What a load that succeeds does: its translation is kept, its commands stand in new ring slots and segments. -/
def mkcDo (dpt : Nat → Word) (m : List Byte) (r : LoadReq) (hw : Hw) : Hw :=
  let k := mkcKeep dpt m r hw
  (k.2.snc.foldl (placeList r.ctx.toNat) (k.1, r.area)).1

/-- A load: its code, and its effect when it succeeds; a failed load writes nothing (R251) (log 19, DEDUCED) (log 24,
DESIGN CHOICE). -/
def mkcLoad (m : List Byte) (r : LoadReq) (hw : Hw) : Hw × Answer :=
  let dpt := fun n => rget hw (Reg.pcpDpt hw.pkg.primary n)
  let code := loadCode hw dpt m r
  (if code = 0 then mkcDo dpt m r hw else hw, .value (word code))

end Sys2Proof.Machine
end

