-- ==== Sys2Proof/Machine/MkcRows.lean ====
section
/-! DEFINITION. The row of Mkc.lean: what a load does to the block. -/

namespace Sys2Proof.Machine

/-- A module is loaded as its request says; the sender reads the code of R251. -/
def execMkcLoad (m : List Byte) (req : LoadReq) (s : State) : Host.Outcome State Fault Refusal :=
  onHw s (mkcLoad m req)

end Sys2Proof.Machine
end

