-- ==== Sys2Proof/Machine/MonitorRows.lean ====
section
/-! DEFINITION. The rows of the Tahr monitor: characters, and the commands as a typed line spells them. -/

namespace Sys2Proof.Machine

/-- A command typed while none runs. -/
def monCommand (c : MonCmd) (s : State) : Host.Outcome State Fault Refusal :=
  onMon s (fun m => m.wait == .idle) (monAct (monRun (some c)))

def execMonChar (ch : BitVec 8) (s : State) : Host.Outcome State Fault Refusal :=
  onMon s (fun _ => true) (monChar (monFeed 256) ch)

/-- Whether the running command waits for a controller. -/
def monWaits (m : Mon) : Bool :=
  match m.wait with
  | .margin _ _ => true
  | .traffic _ => true
  | _ => false

def execMonAbort (s : State) : Host.Outcome State Fault Refusal := onMon s monWaits (fun r => monFeed 257 (monStop r))

def execMonHelp (s : State) : Host.Outcome State Fault Refusal := monCommand .help s
def execMonId (s : State) : Host.Outcome State Fault Refusal := monCommand .id s

def execMonPeek (addr size : Nat) (s : State) : Host.Outcome State Fault Refusal := monCommand (.peek addr size) s

def execMonPoke (addr size : Nat) (value : Word) (s : State) : Host.Outcome State Fault Refusal :=
  monCommand (.poke addr size value.toNat) s

def execMonDump (addr count : Nat) (s : State) : Host.Outcome State Fault Refusal := monCommand (.dump addr count) s

def execMonCnt (die : Option DieId) (core : Option CoreId) (s : State) : Host.Outcome State Fault Refusal :=
  monCommand (.cnt (die.map (·.val)) (core.map (·.val))) s

def execMonPwr (s : State) : Host.Outcome State Fault Refusal := monCommand .pwr s
def execMonLink (s : State) : Host.Outcome State Fault Refusal := monCommand .link s

def execMonMargin (k : CtlId) (unit : Nat) (s : State) : Host.Outcome State Fault Refusal :=
  monCommand (.margin (ctlDie k) (ctlIdx k) unit) s

def execMonTg (k : CtlId) (mask pattern op start len : Nat) (s : State) : Host.Outcome State Fault Refusal :=
  monCommand (.tg (ctlDie k) (ctlIdx k) mask pattern op start len) s

def execMonLog (die : Option DieId) (s : State) : Host.Outcome State Fault Refusal := monCommand (.log (die.map (·.val))) s

def execMonChal (s : State) : Host.Outcome State Fault Refusal := monCommand .chal s
def execMonUpload (count : Nat) (s : State) : Host.Outcome State Fault Refusal := monCommand (.upload count) s

/-- A gap of over 100 ms between the bytes of an upload. -/
def execMonUploadTimeout (s : State) : Host.Outcome State Fault Refusal :=
  onMon s (fun m => match m.wait with
    | .upload _ => true
    | _ => false)
    (fun r => monAct (fun hw sec => MonRun.fail hw { sec with mon := { sec.mon with coming := [], upload := [] } } [] 7) r)

def execMonUnlock (key : Nat) (s : State) : Host.Outcome State Fault Refusal := monCommand (.unlock key) s
def execMonLock (s : State) : Host.Outcome State Fault Refusal := monCommand .lock s
def execMonReset (s : State) : Host.Outcome State Fault Refusal := monCommand .reset s
def execMonRevoke (key : Nat) (s : State) : Host.Outcome State Fault Refusal := monCommand (.revoke key) s

end Sys2Proof.Machine
end

