-- ==== Sys2Proof/Machine/PipelineRows.lean ====
section
/-! DEFINITION. The rows of Pipeline.lean: what each command does to the block. -/

namespace Sys2Proof.Machine

/-! #### Starting (R68, R176, R222–R225, R263) -/

def execCommandRetire (c : CoreId) (q : QueueId) (e : Engine) (s : State) : Host.Outcome State Fault Refusal :=
  onHw s (retireRow c q (engCode e))

def execReleaseComplete (c : CoreId) (q : QueueId) (e : Engine) (s : State) : Host.Outcome State Fault Refusal :=
  onHw s (fun hw => killPass c (releaseRow c q (engCode e) hw))

def execRecordWrite (c : CoreId) (q : QueueId) (s : State) : Host.Outcome State Fault Refusal :=
  onHw s (recordRow c q)

/-! #### Memory waits (R223, R224) -/

def execSemRecheck (c : CoreId) (q : QueueId) (e : Engine) (s : State) : Host.Outcome State Fault Refusal :=
  onHw s fun hw =>
    match headCmd hw c q (engCode e) with
    | none => (hw, .notEnabled)
    | some m => if hMsk m.w = 1 ∧ m.pre.isNone then did (semRead hw c m) else (hw, .notEnabled)

/-- WRITENOTE (R388): the home reports a write to a watched line and the QFE reads its waited words there again. -/
def execWriteNote (c : CoreId) (line : Nat) (s : State) : Host.Outcome State Fault Refusal :=
  onHw s fun hw =>
    match takeNet hw line (.engine c) (fun k => k == .writeNote) with
    | none => (hw, .notEnabled)
    | some (_, rest) =>
      let hw1 := setNet hw rest
      let ms := (getCore hw1 c).cmds.filter (fun m => unstarted m && hMsk m.w == 1 && m.pre.isNone &&
        (match paOf m (hMsem m.w) with
         | some pa => pkgOf hw pa == 0 && localOf pa / 64 == line
         | none => false))
      did (ms.foldl (fun h m => semRead h c m) hw1)

/-- WAIT_TIMEOUT (R224): the head command's waits stay unmet for TMO × 1,024 ACLK from its reaching the head, whatever else
holds it back. -/
def execWaitTimeout (c : CoreId) (q : QueueId) (e : Engine) (s : State) : Host.Outcome State Fault Refusal :=
  onHw s fun hw =>
    match headCmd hw c q (engCode e) with
    | none => (hw, .notEnabled)
    | some m =>
      if rbits hw (Reg.qfeQWtmo c q) 31 0 ≠ 0 ∧ coreAlive hw c ∧ (getQueue hw c q).st = 1 ∧ m.pre.isNone ∧ !m.seenBad ∧
          !(localMet hw c m.w && memMet m) then
        did (endUnstarted hw c m stWaitTimeout)
      else (hw, .notEnabled)

/-! #### The QFE's own commands (R225) -/

def execQfeNop (c : CoreId) (q : QueueId) (s : State) : Host.Outcome State Fault Refusal :=
  onHw s (engineRow c q 0 0x00 qfeCan (fun hw m => some (hw, doneCmd m stSuccess)))

def execQfeFence (c : CoreId) (q : QueueId) (s : State) : Host.Outcome State Fault Refusal :=
  onHw s (engineRow c q 0 0x01 qfeCan (fun hw m =>
    if (getCore hw c).cmds.any (fun x => x.q == m.q && decide (x.id < m.id)) then none
    else some (setQueue hw c m.q { getQueue hw c m.q with ordNext := true }, doneCmd m stSuccess)))

def execQfeRing (c : CoreId) (q : QueueId) (s : State) : Host.Outcome State Fault Refusal :=
  onHw s (engineRow c q 0 0x02 qfeCan (fun hw m =>
    some (hw, doneCmd m (if corePresent hw (wf m.w 3 11 0 / 8) then stSuccess else stAddress))))

def execQfeStop (c : CoreId) (q : QueueId) (s : State) : Host.Outcome State Fault Refusal :=
  onHw s (engineRow c q 0 0x03 qfeCan (fun hw m => some (hw, doneCmd m stStopped)))

end Sys2Proof.Machine
end

