-- ==== Sys2Proof/Machine/PortsRows.lean ====
section
/-! DEFINITION. The rows of Ports.lean: what each command does to the block. -/

namespace Sys2Proof.Machine

def execPortLightDetect (p : PortId) (s : State) : Host.Outcome State Fault Refusal :=
  onHw s (guardHw (fun hw => pState hw p == psDark && portEnabled hw p && laserOk hw p && !(getPort hw p).holdoff && portClock hw p)
    (fun hw => did (setPState hw p psLock)))

/-- Lanes that fail training are marked beside those that failed before (R422, R427); fewer than eight good lanes leave no width. The receive power shown
is free, at least 60 µW on a good lane (R422, R445) (log 74, DESIGN CHOICE). -/
def execLockDone (p : PortId) (failed : BitVec 17) (s : State) : Host.Outcome State Fault Refusal :=
  onHw s (guardHw (fun hw => pState hw p == psLock) (fun hw =>
    let fault := (getLaser hw (p / 2)).fault
    let dark := (if bit fault (2 * (p % 2)) then fiberLanes 0 else []) ++ (if bit fault (2 * (p % 2) + 1) then fiberLanes 1 else [])
    let fails := failed ||| laneFails hw p ||| BitVec.ofNat 17 (maskOf dark)
    let hw1 := rfield hw (Reg.optLaneFail p) 16 0 fails.toNat
    let power := fun l => let v := (Config.freeWord (hw.fresh + l)).toNat
      if bit fails l then v % 65536 else 60 + v % 65476
    let hw2 := foldN 17 { hw1 with fresh := hw1.fresh + 17 } (fun h l => rsetN h (Reg.optLane p l) (b2n (!bit fails l) * 2 ^ 63 +
      (if l < 8 then 0 else 1) * 2 ^ 56 + (if l < 16 then l % 8 else 8) * 2 ^ 48 + power l * 2 ^ 32))
    if (chooseWidth fails).1 = 0 then did (backToDark hw2 p) else did (setPState hw2 p psAlign)))

/-- FEC lock, deskew and the choice of width with its event (R423, R424, R427); lanes that do not align send the port back to
DARK. -/
def execAlignDone (p : PortId) (ok : Bool) (s : State) : Host.Outcome State Fault Refusal :=
  onHw s (guardHw (fun hw => pState hw p == psAlign) (fun hw =>
    let w := chooseWidth (laneFails hw p)
    if ok ∧ w.1 ≠ 0 then did (setPState (widthEvents (setWidth hw p w) p) p psLink) else did (backToDark hw p)))

/-- Retry and the management channel start; the port enters IDENT, sends its nonce (R428) and the lanes that failed training,
on which both ends have to agree (R422), and takes its place in the signing order. -/
def execLinkDone (p : PortId) (s : State) : Host.Outcome State Fault Refusal :=
  onHw s (guardHw (fun hw => pState hw p == psLink) (fun hw =>
    let n := drawNonce hw
    let hw1 := setPort (setPState n.2 p psIdent) p { getPort n.2 p with
      nonceOut := n.1, sent := false, recOk := false, rxNext := 0, txNext := 0, unacked := 0, replays := 0,
      rxNak := false, fill := 0, vcUsed := [], transit := [] }
    let lanes := laneFails hw p
    let hw2 := mgmtOut { hw1 with pkg := { hw1.pkg with identQ := hw1.pkg.identQ.filter (fun x => x != p.val) ++ [p.val] } } p 0 n.1
    did (if lanes = 0 then hw2 else mgmtOut hw2 p 3 (leBytes 3 lanes.toNat))))

/-- A training state exceeded its bound: back to DARK (R427). -/
def execTrainTimeout (p : PortId) (s : State) : Host.Outcome State Fault Refusal :=
  onHw s (guardHw (fun hw => psLock ≤ pState hw p && pState hw p ≤ psIdent)
    (fun hw => did (backToDark (ror hw (Reg.optErr p) 1) p)))

def execRetrainDelay (p : PortId) (s : State) : Host.Outcome State Fault Refusal :=
  onHw s (guardHw (fun hw => pState hw p == psDark && (getPort hw p).holdoff && portEnabled hw p && portClock hw p)
    (fun hw => did (trainStart hw p)))

def execIdentNonce (p : PortId) (nonce : List Byte) (s : State) : Host.Outcome State Fault Refusal :=
  onHw s (guardHw (fun hw => pState hw p == psIdent && nonce.length == 32)
    (fun hw => did (setPort hw p { getPort hw p with nonceIn := nonce })))

/-- The primary has signed the record of the port first in the order (R428); it is sent, and with the partner's
record accepted the exchange is over. -/
def execIdentSignDone (p : PortId) (s : State) : Host.Outcome State Fault Refusal :=
  onHw s (guardHw (fun hw => pState hw p == psIdent && hw.pkg.identQ.head? == some p.val &&
      (getPort hw p).nonceIn.length == 32) (fun hw =>
    let own := ownRecord hw p
    let sig := Config.slhSign hw.idKey (signedBytes own (getPort hw p).nonceIn)
    let hw1 := mgmtOut { hw with pkg := { hw.pkg with identQ := hw.pkg.identQ.tail } } p 1 (identBytes own ++ sig)
    let hw2 := setPort hw1 p { getPort hw1 p with sent := true }
    if (getPort hw2 p).recOk then did (portActive hw2 p) else did hw2))

/-- The partner's record is checked (R429): refused, the port is ISOLATED; accepted, the partner is
shown and the exchange may end (log 13, DEDUCED). -/
def execIdentRecord (p : PortId) (rec_ : IdentRec) (s : State) : Host.Outcome State Fault Refusal :=
  onHw s (guardHw (fun hw => pState hw p == psIdent) (fun hw =>
    match identCheck hw p rec_ with
    | some b =>
      let hw1 := ror (setPState hw p psIsolated) (Reg.optErr p) (2 ^ b)
      let id := rec_.id.toNat % 4096
      did (fabEvent { hw1 with pkg := { hw1.pkg with identQ := hw1.pkg.identQ.filter (fun x => x != p.val) } } 5 p id 0)
    | none =>
      let hw1 := rsetN hw (Reg.optPartner p) (2 ^ 63 + rec_.kind.toNat % 4 * 2 ^ 61 + rec_.level.toNat % 8 * 2 ^ 56 +
        rec_.port.toNat % 256 * 2 ^ 48 + rec_.id.toNat % 4096 * 2 ^ 32 + rec_.up.toNat % 256 * 2 ^ 8 + rec_.down.toNat % 256)
      let hw2 := rset hw1 (Reg.optPartnerKey p) (word (leNat ((sha256 rec_.key).take 8)))
      let hw3 := setPort hw2 p { getPort hw2 p with key := rec_.key, recOk := true }
      if (getPort hw3 p).sent then did (portActive hw3 p) else did hw3))

/-! #### Idle flits, advertisements, VIA entries (R421, R432) -/

def execOptIdleTimer (p : PortId) (s : State) : Host.Outcome State Fault Refusal :=
  onHw s (guardHw (fun hw => psLink ≤ pState hw p && pState hw p != psRepair)
    (fun hw => did { hw with sent := hw.sent ++ [.optFlit p (.idle (BitVec.ofNat 16 (getPort hw p).txNext))] }))

def execAdvertisementSend (p : PortId) (s : State) : Host.Outcome State Fault Refusal :=
  onHw s (guardHw (fun hw => pState hw p == psActive && roleOf hw p == 1)
    (fun hw => did (mgmtOut hw p 2 ((advertList hw).flatMap (fun d => leBytes 2 d)))))

/-- A received advertisement forms or refreshes VIA entries through its sender (R432). -/
def execAdvertisement (p : PortId) (partners : List (BitVec 12)) (s : State) : Host.Outcome State Fault Refusal :=
  onHw s (guardHw (fun hw => pLive hw p && roleOf hw p == 1 && decide (partners.length ≤ 16)) (fun hw =>
    let m := partnerId hw p
    let new := (partners.map (fun d => (d.toNat, m))).filter (fun e => !hw.pkg.via.contains e)
    if new = [] then did hw
    else
      let hw1 := { hw with pkg := { hw.pkg with via := hw.pkg.via ++ new } }
      did (if hw.img.transit then reroute hw hw1 (new.map (·.1)) else hw1)))

/-- A VIA entry not refreshed within 300 ms is removed (R432). -/
def execViaExpire (dest via : BitVec 12) (s : State) : Host.Outcome State Fault Refusal :=
  onHw s (guardHw (fun hw => hw.pkg.via.contains (dest.toNat, via.toNat)) (fun hw =>
    let hw1 := { hw with pkg := { hw.pkg with via := hw.pkg.via.filter (fun e => e != (dest.toNat, via.toNat)) } }
    did (if hw.img.transit then reroute hw hw1 [dest.toNat] else hw1)))

end Sys2Proof.Machine
end

