-- ==== Sys2Proof/Machine/QfeRows.lean ====
section
/-! DEFINITION. The rows of Qfe.lean: what each command does to the block. -/

namespace Sys2Proof.Machine

/-! #### One fetch -/

def execCommandFetch (c : CoreId) (q : QueueId) (s : State) : Host.Outcome State Fault Refusal :=
  onHw s (fetchRow c q)

/-- ENCODING_ERROR_COMPLETE (R564): every earlier command of the queue has started. One that an abort or a kill has ended
completes with that status. -/
def execEncodingErrorComplete (c : CoreId) (q : QueueId) (s : State) : Host.Outcome State Fault Refusal :=
  onHw s fun hw => killPass c (badRow c q hw)

def execCommandIssue (c : CoreId) (q : QueueId) (e : Engine) (s : State) : Host.Outcome State Fault Refusal :=
  onHw s (issueRow c q (engCode e))

/-! #### Queue registers (R220, R221, R226, R235, R566) -/

def execDoorbell (by_ : Agent) (c : CoreId) (value : Word) (s : State) : Host.Outcome State Fault Refusal :=
  onHw s (coreRegWrite by_ c (Reg.qfeDbQueue c) (dbQueueWrite c value))

def execQueueEnable (by_ : Agent) (c : CoreId) (q : QueueId) (value : Word) (s : State) : Host.Outcome State Fault Refusal :=
  onHw s (coreRegWrite by_ c (Reg.qfeQCtrl c q) (qCtrlWrite c q value))

def execQueueDisable (by_ : Agent) (c : CoreId) (q : QueueId) (value : Word) (s : State) : Host.Outcome State Fault Refusal :=
  onHw s (coreRegWrite by_ c (Reg.qfeQCtrl c q) (qCtrlWrite c q value))

def execCqEnable (by_ : Agent) (c : CoreId) (q : QueueId) (value : Word) (s : State) : Host.Outcome State Fault Refusal :=
  onHw s (coreRegWrite by_ c (Reg.qfeQCq c q) (qCqWrite c q value))

def execQueueResume (by_ : Agent) (c : CoreId) (q : QueueId) (s : State) : Host.Outcome State Fault Refusal :=
  onHw s (coreRegWrite by_ c (Reg.qfeQRestart c q) (qRestartWrite c q 1))

def execQueueAbort (by_ : Agent) (c : CoreId) (q : QueueId) (s : State) : Host.Outcome State Fault Refusal :=
  onHw s (coreRegWrite by_ c (Reg.qfeQRestart c q) (qRestartWrite c q 2))

end Sys2Proof.Machine
end

