-- ==== Sys2Proof/Machine/ScalarRows.lean ====
section
/-! DEFINITION. The rows of Scalar.lean: what each command does to the block. -/

namespace Sys2Proof.Machine

/-! #### Registers and operands -/

def execSeOp (c : CoreId) (q : QueueId) (s : State) : Host.Outcome State Fault Refusal :=
  onHw s (engineRow c q 3 0x00 (seCan c) (seOpBody c))

def execSeSetp (c : CoreId) (q : QueueId) (s : State) : Host.Outcome State Fault Refusal :=
  onHw s (engineRow c q 3 0x01 (seCan c) (seSetpBody c))

/-! #### Loads and stores (R72–R77, R174) -/

def execSeLd (c : CoreId) (q : QueueId) (s : State) : Host.Outcome State Fault Refusal :=
  onHw s (engineRow c q 3 0x02 (seCan c) (seLdBody c))

def execSeSt (c : CoreId) (q : QueueId) (s : State) : Host.Outcome State Fault Refusal :=
  onHw s (engineRow c q 3 0x03 (seCan c) (seStBody c))

def execSeZline (c : CoreId) (q : QueueId) (s : State) : Host.Outcome State Fault Refusal :=
  onHw s (engineRow c q 3 0x06 (seCan c) (seZlineBody c))

def execSeAmo (c : CoreId) (q : QueueId) (s : State) : Host.Outcome State Fault Refusal :=
  onHw s (engineRow c q 3 0x04 (seCan c) (seAmoBody c))

/-! #### Branches (R177, R231) -/

def execSeBr (c : CoreId) (q : QueueId) (s : State) : Host.Outcome State Fault Refusal :=
  onHw s (engineRow c q 3 0x05 (seCan c) (seBrBody c))

/-! #### The clock counter (R43, R213) -/

def execSeRdcnt (c : CoreId) (q : QueueId) (s : State) : Host.Outcome State Fault Refusal :=
  onHw s (engineRow c q 3 0x07 (seCan c) (seRdcntBody c))

/-! #### Refills and prefetches (R73, R78, R80) -/

def execL1Refill (c : CoreId) (addr : Nat) (s : State) : Host.Outcome State Fault Refusal :=
  onHw s (refillRow c addr)

/-- PREFETCH_FILL: a prefetched line reaches the side buffer (R80). -/
def execPrefetchFill (c : CoreId) (line : Nat) (s : State) : Host.Outcome State Fault Refusal :=
  onHw s fun hw =>
    if (getCore hw c).pf.contains line then
      match pfArrive hw c line with
      | some h => did h
      | none => (hw, .notEnabled)
    else (hw, .notEnabled)

/-- MB_IDLE_DRAIN: an entry without a store for 1,024 ACLK drains (R77); bad parity kills its context (R83). -/
def execMbIdleDrain (c : CoreId) (granule : Nat) (s : State) : Host.Outcome State Fault Refusal :=
  onHw s fun hw => killPass c <|
    match (getCore hw c).mb.find? (fun e => e.gran == granule) with
    | some e => match mbDrain hw c e with
      | some h => did h
      | none => (hw, .notEnabled)
    | none => (hw, .notEnabled)

end Sys2Proof.Machine
end

