-- ==== Sys2Proof/Machine/ScratchRows.lean ====
section
/-! DEFINITION. The rows of Scratch.lean: what each command does to the block. -/

namespace Sys2Proof.Machine

/-- CREDIT_TAKE_REQUEST: the SPC grants the slot or replies with its state (R197). -/
def execCreditTakeRequest (target : CoreId) (slot : Fin 64) (pkg agent : Fin 4096) (s : State) :
    Host.Outcome State Fault Refusal :=
  onHw s fun hw =>
    if corePresent hw target then
      let r := creditTake hw target slot pkg agent
      (r.1, .value r.2)
    else (hw, .notEnabled)

/-- CREDIT_END_MESSAGE (R198). -/
def execCreditEndMessage (c : CoreId) (slot : Fin 64) (pkg agent : Fin 4096) (s : State) :
    Host.Outcome State Fault Refusal :=
  onHw s (guardHw (fun hw => corePresent hw c) (fun hw => did (creditEnd hw c slot pkg agent)))

def execSpadRemoteWrite (by_ : Agent) (c : CoreId) (off : Nat) (data : List Byte) (s : State) :
    Host.Outcome State Fault Refusal :=
  onHw s (guardHw (fun hw => decide (off + data.length ≤ spadSize ∧ data ≠ [] ∧ by_ ≠ engAgent c) &&
      !regHeld hw by_ (c / 128) (coreWin c + off))
    (spadWriteRow by_ c off data))

/-! #### Slots by register write (R196, R198) -/

def execCreditSlotPost (by_ : Agent) (c : CoreId) (slot : Fin 64) (value : Word) (s : State) :
    Host.Outcome State Fault Refusal :=
  onHw s (guardHw (fun _ => bits value 63 62 != 0)
    (coreRegWrite by_ c (Reg.spcCredit c slot) (creditWrite c slot value)))

def execCreditSlotFree (by_ : Agent) (c : CoreId) (slot : Fin 64) (value : Word) (s : State) :
    Host.Outcome State Fault Refusal :=
  onHw s (guardHw (fun _ => bits value 63 62 == 0)
    (coreRegWrite by_ c (Reg.spcCredit c slot) (creditWrite c slot value)))

/-! #### Bank gating (R201–R203) -/

def execBankGateRequest (by_ : Agent) (c : CoreId) (value : Word) (s : State) : Host.Outcome State Fault Refusal :=
  onHw s (guardHw (fun hw => (value &&& ~~~ rget hw (Reg.spcBankGate c) &&& 0xFFFFFFFFFFFF#64) != 0)
    (coreRegWrite by_ c (Reg.spcBankGate c) (bankGateWrite c value)))

def execBankGateClear (by_ : Agent) (c : CoreId) (value : Word) (s : State) : Host.Outcome State Fault Refusal :=
  onHw s (guardHw (fun hw => (rget hw (Reg.spcBankGate c) &&& ~~~ value) != 0)
    (coreRegWrite by_ c (Reg.spcBankGate c) (bankGateWrite c value)))

/-- BANK_GATED: no slot and no access is left on a requested bank; its contents are lost. -/
def execBankGated (c : CoreId) (bank : Fin 48) (s : State) : Host.Outcome State Fault Refusal :=
  onHw s (guardHw (fun hw => corePresent hw c && decide (groupState hw (c / 8) ≤ 1) &&
      rbit hw (Reg.spcBankGate c) bank && !rbit hw (Reg.spcBankOff c) bank && !bankHeld hw c bank && !bankBusy hw c bank)
    (fun hw => did (bankWipe (ror hw (Reg.spcBankOff c) (2 ^ bank.val)) c bank)))

/-- BANK_WAKE_DONE: the bank is zeroed and accepts accesses again. -/
def execBankWakeDone (c : CoreId) (bank : Fin 48) (s : State) : Host.Outcome State Fault Refusal :=
  onHw s (guardHw (fun hw => bit (getCore hw c).waking bank)
    (fun hw => did (bankWipe (modCore (rclr hw (Reg.spcBankOff c) (2 ^ bank.val)) c (fun t =>
      { t with waking := t.waking &&& ~~~ BitVec.ofNat 48 (2 ^ bank.val) })) c bank)))

end Sys2Proof.Machine
end

