-- ==== Sys2Proof/Machine/VectorRows.lean ====
section
/-! DEFINITION. The rows of Vector.lean: what each command does to the block. -/

namespace Sys2Proof.Machine

/-! #### VE_ELEM (R165, R166) -/

def execVeElem (c : CoreId) (q : QueueId) (s : State) : Host.Outcome State Fault Refusal :=
  onHw s (engineRow c q 2 0x00 (veCan c) (veElemBody c))

/-! #### VE_CMP (R167) -/

def execVeCmp (c : CoreId) (q : QueueId) (s : State) : Host.Outcome State Fault Refusal :=
  onHw s (engineRow c q 2 0x01 (veCan c) (veCmpBody c))

/-! #### VE_CVT (R144–R147) -/

def execVeCvt (c : CoreId) (q : QueueId) (s : State) : Host.Outcome State Fault Refusal :=
  onHw s (engineRow c q 2 0x02 (veCan c) (veCvtBody c))

/-! #### VE_RED (R168) -/

def execVeRed (c : CoreId) (q : QueueId) (s : State) : Host.Outcome State Fault Refusal :=
  onHw s (engineRow c q 2 0x03 (veCan c) (veRedBody c))

/-! #### The exact-slice steps (R155–R159, R171) -/

def execVeExpo (c : CoreId) (q : QueueId) (s : State) : Host.Outcome State Fault Refusal :=
  onHw s (engineRow c q 2 0x04 (veCan c) (veExpoBody c))

def execVeSlice (c : CoreId) (q : QueueId) (s : State) : Host.Outcome State Fault Refusal :=
  onHw s (engineRow c q 2 0x05 (veCan c) (veSliceBody c))

def execVeDacc (c : CoreId) (q : QueueId) (s : State) : Host.Outcome State Fault Refusal :=
  onHw s (engineRow c q 2 0x06 (veCan c) (veDaccBody c))

def execVeXcomb (c : CoreId) (q : QueueId) (s : State) : Host.Outcome State Fault Refusal :=
  onHw s (engineRow c q 2 0x07 (veCan c) (veXcombBody c))

/-! #### VE_ZLINE (R79) -/

def execVeZline (c : CoreId) (q : QueueId) (s : State) : Host.Outcome State Fault Refusal :=
  onHw s (engineRow c q 2 0x08 (veCan c) (veZlineBody c))

end Sys2Proof.Machine
end

