-- ==== Sys2Proof/Machine/Dispatch.lean ====
section
/-! DEFINITION. Which meaning each command has: one arm per constructor of Instr, in the table's order. -/

namespace Sys2Proof.Machine

def exec (i : Instr) (s : State) : Host.Outcome State Fault Refusal :=
  match i with
  | .registerWrite by_ addr size value => Sys2Proof.Machine.execRegisterWrite by_ addr size value s
  | .popLowHalfRead by_ addr => Sys2Proof.Machine.execPopLowHalfRead by_ addr s
  | .pllLoss d gen => Sys2Proof.Machine.execPllLoss d gen s
  | .fatalLineRepeat a => Sys2Proof.Machine.execFatalLineRepeat a s
  | .routeRecomputeDone edge => Sys2Proof.Machine.execRouteRecomputeDone edge s
  | .heartbeatSend a => Sys2Proof.Machine.execHeartbeatSend a s
  | .heartbeatReceive a column => Sys2Proof.Machine.execHeartbeatReceive a column s
  | .heartbeatTimeout a => Sys2Proof.Machine.execHeartbeatTimeout a s
  | .commandFetch c q => Sys2Proof.Machine.execCommandFetch c q s
  | .encodingErrorComplete c q => Sys2Proof.Machine.execEncodingErrorComplete c q s
  | .commandIssue c q e => Sys2Proof.Machine.execCommandIssue c q e s
  | .commandRetire c q e => Sys2Proof.Machine.execCommandRetire c q e s
  | .releaseComplete c q e => Sys2Proof.Machine.execReleaseComplete c q e s
  | .recordWrite c q => Sys2Proof.Machine.execRecordWrite c q s
  | .waitTimeout c q e => Sys2Proof.Machine.execWaitTimeout c q e s
  | .semRecheck c q e => Sys2Proof.Machine.execSemRecheck c q e s
  | .doorbell by_ c value => Sys2Proof.Machine.execDoorbell by_ c value s
  | .queueEnable by_ c q value => Sys2Proof.Machine.execQueueEnable by_ c q value s
  | .queueDisable by_ c q value => Sys2Proof.Machine.execQueueDisable by_ c q value s
  | .cqEnable by_ c q value => Sys2Proof.Machine.execCqEnable by_ c q value s
  | .queueResume by_ c q => Sys2Proof.Machine.execQueueResume by_ c q s
  | .queueAbort by_ c q => Sys2Proof.Machine.execQueueAbort by_ c q s
  | .qfeNop c q => Sys2Proof.Machine.execQfeNop c q s
  | .qfeFence c q => Sys2Proof.Machine.execQfeFence c q s
  | .qfeRing c q => Sys2Proof.Machine.execQfeRing c q s
  | .qfeStop c q => Sys2Proof.Machine.execQfeStop c q s
  | .meLoadw c q => Sys2Proof.Machine.execMeLoadw c q s
  | .meGemm c q => Sys2Proof.Machine.execMeGemm c q s
  | .meStreamEnter c sub => Sys2Proof.Machine.execMeStreamEnter c sub s
  | .meGemv c q => Sys2Proof.Machine.execMeGemv c q s
  | .holdIdleTimeout c => Sys2Proof.Machine.execHoldIdleTimeout c s
  | .holdRampDownStep c => Sys2Proof.Machine.execHoldRampDownStep c s
  | .holdRampUpStep c => Sys2Proof.Machine.execHoldRampUpStep c s
  | .veElem c q => Sys2Proof.Machine.execVeElem c q s
  | .veCmp c q => Sys2Proof.Machine.execVeCmp c q s
  | .veCvt c q => Sys2Proof.Machine.execVeCvt c q s
  | .veRed c q => Sys2Proof.Machine.execVeRed c q s
  | .veExpo c q => Sys2Proof.Machine.execVeExpo c q s
  | .veSlice c q => Sys2Proof.Machine.execVeSlice c q s
  | .veDacc c q => Sys2Proof.Machine.execVeDacc c q s
  | .veXcomb c q => Sys2Proof.Machine.execVeXcomb c q s
  | .veZline c q => Sys2Proof.Machine.execVeZline c q s
  | .seOp c q => Sys2Proof.Machine.execSeOp c q s
  | .seSetp c q => Sys2Proof.Machine.execSeSetp c q s
  | .seLd c q => Sys2Proof.Machine.execSeLd c q s
  | .seSt c q => Sys2Proof.Machine.execSeSt c q s
  | .seAmo c q => Sys2Proof.Machine.execSeAmo c q s
  | .seBr c q => Sys2Proof.Machine.execSeBr c q s
  | .seZline c q => Sys2Proof.Machine.execSeZline c q s
  | .seRdcnt c q => Sys2Proof.Machine.execSeRdcnt c q s
  | .deXfer c q => Sys2Proof.Machine.execDeXfer c q s
  | .deGather c q => Sys2Proof.Machine.execDeGather c q s
  | .deScatter c q => Sys2Proof.Machine.execDeScatter c q s
  | .deFill c q => Sys2Proof.Machine.execDeFill c q s
  | .deCopy c q => Sys2Proof.Machine.execDeCopy c q s
  | .deCreditPost c q => Sys2Proof.Machine.execDeCreditPost c q s
  | .deCreditTake c q => Sys2Proof.Machine.execDeCreditTake c q s
  | .deMigrate c q => Sys2Proof.Machine.execDeMigrate c q s
  | .dePrefetch c q => Sys2Proof.Machine.execDePrefetch c q s
  | .creditTakeRequest target slot pkg agent => Sys2Proof.Machine.execCreditTakeRequest target slot pkg agent s
  | .creditTakeRetry c q => Sys2Proof.Machine.execCreditTakeRetry c q s
  | .creditEndMessage c slot pkg agent => Sys2Proof.Machine.execCreditEndMessage c slot pkg agent s
  | .spadRemoteWrite by_ c off data => Sys2Proof.Machine.execSpadRemoteWrite by_ c off data s
  | .creditSlotPost by_ c slot value => Sys2Proof.Machine.execCreditSlotPost by_ c slot value s
  | .creditSlotFree by_ c slot value => Sys2Proof.Machine.execCreditSlotFree by_ c slot value s
  | .bankGateRequest by_ c value => Sys2Proof.Machine.execBankGateRequest by_ c value s
  | .bankGated c bank => Sys2Proof.Machine.execBankGated c bank s
  | .bankGateClear by_ c value => Sys2Proof.Machine.execBankGateClear by_ c value s
  | .bankWakeDone c bank => Sys2Proof.Machine.execBankWakeDone c bank s
  | .l1Refill c addr => Sys2Proof.Machine.execL1Refill c addr s
  | .prefetchFill c line => Sys2Proof.Machine.execPrefetchFill c line s
  | .mbIdleDrain c granule => Sys2Proof.Machine.execMbIdleDrain c granule s
  | .coreHalt by_ c => Sys2Proof.Machine.execCoreHalt by_ c s
  | .coreResume by_ c => Sys2Proof.Machine.execCoreResume by_ c s
  | .reqOffSet by_ g value => Sys2Proof.Machine.execReqOffSet by_ g value s
  | .reqOffClear by_ g value => Sys2Proof.Machine.execReqOffClear by_ g value s
  | .cgGatingComplete g => Sys2Proof.Machine.execCgGatingComplete g s
  | .cgWakeComplete g => Sys2Proof.Machine.execCgWakeComplete g s
  | .semNodeHoldTimeout d node => Sys2Proof.Machine.execSemNodeHoldTimeout d node s
  | .walkComplete d ctx va => Sys2Proof.Machine.execWalkComplete d ctx va s
  | .faultRecordWrite c => Sys2Proof.Machine.execFaultRecordWrite c s
  | .faultRetry by_ c value => Sys2Proof.Machine.execFaultRetry by_ c value s
  | .faultAbort by_ c value => Sys2Proof.Machine.execFaultAbort by_ c value s
  | .faultRingEnable by_ c value => Sys2Proof.Machine.execFaultRingEnable by_ c value s
  | .wlkCtxBaseWrite by_ d value => Sys2Proof.Machine.execWlkCtxBaseWrite by_ d value s
  | .invalidate by_ d value => Sys2Proof.Machine.execInvalidate by_ d value s
  | .invalidateBump d seq c => Sys2Proof.Machine.execInvalidateBump d seq c s
  | .invalidateCoreAck d seq c => Sys2Proof.Machine.execInvalidateCoreAck d seq c s
  | .invalidateDone d => Sys2Proof.Machine.execInvalidateDone d s
  | .migrateEntryTaken c q => Sys2Proof.Machine.execMigrateEntryTaken c q s
  | .migrateBumpDone c q => Sys2Proof.Machine.execMigrateBumpDone c q s
  | .migrateCopyDone c q => Sys2Proof.Machine.execMigrateCopyDone c q s
  | .migrateReturnWrite => Sys2Proof.Machine.execMigrateReturnWrite s
  | .mretEnable by_ value => Sys2Proof.Machine.execMretEnable by_ value s
  | .mpoolEnable by_ pool value => Sys2Proof.Machine.execMpoolEnable by_ pool value s
  | .mrgCmd by_ k value => Sys2Proof.Machine.execMrgCmd by_ k value s
  | .marginDone k res => Sys2Proof.Machine.execMarginDone k res s
  | .tgRun by_ k value => Sys2Proof.Machine.execTgRun by_ k value s
  | .tgDone k bits errs => Sys2Proof.Machine.execTgDone k bits errs s
  | .driftTrack k adjusted => Sys2Proof.Machine.execDriftTrack k adjusted s
  | .leccWindow k ch count => Sys2Proof.Machine.execLeccWindow k ch count s
  | .hostLoad h addr size => Sys2Proof.Machine.execHostLoad h addr size s
  | .hostStore h addr size value => Sys2Proof.Machine.execHostStore h addr size value s
  | .sbEntryComplete h idx => Sys2Proof.Machine.execSbEntryComplete h idx s
  | .hostAmo h addr size op value => Sys2Proof.Machine.execHostAmo h addr size op value s
  | .fence h kind => Sys2Proof.Machine.execFence h kind s
  | .tlvDb h addr value => Sys2Proof.Machine.execTlvDb h addr value s
  | .tlvStash h addr rs2 => Sys2Proof.Machine.execTlvStash h addr rs2 s
  | .tlvRel h scope => Sys2Proof.Machine.execTlvRel h scope s
  | .tlvAcq h scope => Sys2Proof.Machine.execTlvAcq h scope s
  | .cboClean h addr => Sys2Proof.Machine.execCboClean h addr s
  | .cboFlush h addr => Sys2Proof.Machine.execCboFlush h addr s
  | .cboInval h addr => Sys2Proof.Machine.execCboInval h addr s
  | .cboZero h addr => Sys2Proof.Machine.execCboZero h addr s
  | .prefetchR h addr => Sys2Proof.Machine.execPrefetchR h addr s
  | .prefetchW h addr => Sys2Proof.Machine.execPrefetchW h addr s
  | .prefetchI h addr => Sys2Proof.Machine.execPrefetchI h addr s
  | .hartStop h powerDown => Sys2Proof.Machine.execHartStop h powerDown s
  | .hclBerrLog by_ h high => Sys2Proof.Machine.execHclBerrLog by_ h high s
  | .homeAccept line => Sys2Proof.Machine.execHomeAccept line s
  | .rdShared line agent => Sys2Proof.Machine.execRdShared line agent s
  | .rdUnique line agent => Sys2Proof.Machine.execRdUnique line agent s
  | .rdOnce line agent watch => Sys2Proof.Machine.execRdOnce line agent watch s
  | .wrFull line agent data hint htgt => Sys2Proof.Machine.execWrFull line agent data hint htgt s
  | .wrPartial line agent mask data hint htgt => Sys2Proof.Machine.execWrPartial line agent mask data hint htgt s
  | .atomic line agent op data => Sys2Proof.Machine.execAtomic line agent op data s
  | .wrBack line agent => Sys2Proof.Machine.execWrBack line agent s
  | .evict line agent => Sys2Proof.Machine.execEvict line agent s
  | .snpShared line agent => Sys2Proof.Machine.execSnpShared line agent s
  | .snpInv line agent => Sys2Proof.Machine.execSnpInv line agent s
  | .rspI line agent => Sys2Proof.Machine.execRspI line agent s
  | .rspS line agent => Sys2Proof.Machine.execRspS line agent s
  | .rspData line agent => Sys2Proof.Machine.execRspData line agent s
  | .rspWBInFlight line agent => Sys2Proof.Machine.execRspWBInFlight line agent s
  | .comp line agent => Sys2Proof.Machine.execComp line agent s
  | .compData line agent => Sys2Proof.Machine.execCompData line agent s
  | .compAck line agent => Sys2Proof.Machine.execCompAck line agent s
  | .stashOffer line target => Sys2Proof.Machine.execStashOffer line target s
  | .writeNote c line => Sys2Proof.Machine.execWriteNote c line s
  | .retentionExpire line => Sys2Proof.Machine.execRetentionExpire line s
  | .snoopTimeout line agent => Sys2Proof.Machine.execSnoopTimeout line agent s
  | .slcCtrlWrite by_ d value => Sys2Proof.Machine.execSlcCtrlWrite by_ d value s
  | .cxlMemRequest a hpa req => Sys2Proof.Machine.execCxlMemRequest a hpa req s
  | .bisnpResponse a line rsp => Sys2Proof.Machine.execBisnpResponse a line rsp s
  | .biconflict a line data => Sys2Proof.Machine.execBiconflict a line data s
  | .d2hRequest a line op => Sys2Proof.Machine.execD2hRequest a line op s
  | .erotteFlitReceive m dir crcOk flit badLanes => Sys2Proof.Machine.execErotteFlitReceive m dir crcOk flit badLanes s
  | .erotteIdleTimer m dir => Sys2Proof.Machine.execErotteIdleTimer m dir s
  | .erotteErrorWindow d => Sys2Proof.Machine.execErotteErrorWindow d s
  | .erotteRepairDone m ok failA failB => Sys2Proof.Machine.execErotteRepairDone m ok failA failB s
  | .erotteSidebandFail m => Sys2Proof.Machine.execErotteSidebandFail m s
  | .erotteListRebuildDone edge => Sys2Proof.Machine.execErotteListRebuildDone edge s
  | .laserPoll m rep => Sys2Proof.Machine.execLaserPoll m rep s
  | .laserInterrupt m rep => Sys2Proof.Machine.execLaserInterrupt m rep s
  | .laserModuleRemove m => Sys2Proof.Machine.execLaserModuleRemove m s
  | .laserModuleInsert m rep => Sys2Proof.Machine.execLaserModuleInsert m rep s
  | .portLightDetect p => Sys2Proof.Machine.execPortLightDetect p s
  | .lockDone p failed => Sys2Proof.Machine.execLockDone p failed s
  | .alignDone p ok => Sys2Proof.Machine.execAlignDone p ok s
  | .linkDone p => Sys2Proof.Machine.execLinkDone p s
  | .trainTimeout p => Sys2Proof.Machine.execTrainTimeout p s
  | .retrainDelay p => Sys2Proof.Machine.execRetrainDelay p s
  | .identNonce p nonce => Sys2Proof.Machine.execIdentNonce p nonce s
  | .identSignDone p => Sys2Proof.Machine.execIdentSignDone p s
  | .identRecord p rec_ => Sys2Proof.Machine.execIdentRecord p rec_ s
  | .optFlitReceive p fecOk flit => Sys2Proof.Machine.execOptFlitReceive p fecOk flit s
  | .optIdleTimer p => Sys2Proof.Machine.execOptIdleTimer p s
  | .fecWindow p csym cw corr uncorr => Sys2Proof.Machine.execFecWindow p csym cw corr uncorr s
  | .laneSignalLoss p lane => Sys2Proof.Machine.execLaneSignalLoss p lane s
  | .optRepairDone p => Sys2Proof.Machine.execOptRepairDone p s
  | .optRepairTimeout p => Sys2Proof.Machine.execOptRepairTimeout p s
  | .noFlitTimeout p => Sys2Proof.Machine.execNoFlitTimeout p s
  | .fecLockLoss p => Sys2Proof.Machine.execFecLockLoss p s
  | .mgmtClose p => Sys2Proof.Machine.execMgmtClose p s
  | .adminDown by_ p value => Sys2Proof.Machine.execAdminDown by_ p value s
  | .retrain by_ p value => Sys2Proof.Machine.execRetrain by_ p value s
  | .advertisementSend p => Sys2Proof.Machine.execAdvertisementSend p s
  | .advertisement p partners => Sys2Proof.Machine.execAdvertisement p partners s
  | .viaExpire dest via => Sys2Proof.Machine.execViaExpire dest via s
  | .fabWr p h data => Sys2Proof.Machine.execFabWr p h data s
  | .fabRd p h => Sys2Proof.Machine.execFabRd p h s
  | .fabAtom p h => Sys2Proof.Machine.execFabAtom p h s
  | .fabRed p h data => Sys2Proof.Machine.execFabRed p h data s
  | .fabSemadd p h => Sys2Proof.Machine.execFabSemadd p h s
  | .fabSemwr p h => Sys2Proof.Machine.execFabSemwr p h s
  | .fabCtake p h => Sys2Proof.Machine.execFabCtake p h s
  | .fabCend p h => Sys2Proof.Machine.execFabCend p h s
  | .fabCmp p h => Sys2Proof.Machine.execFabCmp p h s
  | .fabRddata p h data => Sys2Proof.Machine.execFabRddata p h data s
  | .fabAtomrsp p h => Sys2Proof.Machine.execFabAtomrsp p h s
  | .fabCtakersp p h => Sys2Proof.Machine.execFabCtakersp p h s
  | .fabErr p h => Sys2Proof.Machine.execFabErr p h s
  | .fabRequestTimeout tag => Sys2Proof.Machine.execFabRequestTimeout tag s
  | .paceRelease level => Sys2Proof.Machine.execPaceRelease level s
  | .hostBarAccess a bar off size write data poison => Sys2Proof.Machine.execHostBarAccess a bar off size write data poison s
  | .msixTrigger by_ a value => Sys2Proof.Machine.execMsixTrigger by_ a value s
  | .upstreamLinkDown a => Sys2Proof.Machine.execUpstreamLinkDown a s
  | .cxuPerst a => Sys2Proof.Machine.execCxuPerst a s
  | .inboundRequest a req => Sys2Proof.Machine.execInboundRequest a req s
  | .roWriteRelease a => Sys2Proof.Machine.execRoWriteRelease a s
  | .iotWinEnable by_ a w value => Sys2Proof.Machine.execIotWinEnable by_ a w value s
  | .iotInv by_ a value => Sys2Proof.Machine.execIotInv by_ a value s
  | .iotInvDone a => Sys2Proof.Machine.execIotInvDone a s
  | .completionTimeout a tag => Sys2Proof.Machine.execCompletionTimeout a tag s
  | .surpriseDown a dpc => Sys2Proof.Machine.execSurpriseDown a dpc s
  | .presenceChange a present cxl => Sys2Proof.Machine.execPresenceChange a present cxl s
  | .secondaryBusReset a on => Sys2Proof.Machine.execSecondaryBusReset a on s
  | .doeReport a nonce mask => Sys2Proof.Machine.execDoeReport a nonce mask s
  | .doeCerts a off len => Sys2Proof.Machine.execDoeCerts a off len s
  | .vinSample a mv tenMilliAmps => Sys2Proof.Machine.execVinSample a mv tenMilliAmps s
  | .overvoltageTimeout => Sys2Proof.Machine.execOvervoltageTimeout s
  | .sagTimeout => Sys2Proof.Machine.execSagTimeout s
  | .vinGood => Sys2Proof.Machine.execVinGood s
  | .droopDetect g => Sys2Proof.Machine.execDroopDetect g s
  | .droopClear g => Sys2Proof.Machine.execDroopClear g s
  | .slewTick a riseMilliAmps rose => Sys2Proof.Machine.execSlewTick a riseMilliAmps rose s
  | .slewSplit rampN rampS => Sys2Proof.Machine.execSlewSplit rampN rampS s
  | .rampGrant a => Sys2Proof.Machine.execRampGrant a s
  | .peakCheck projected => Sys2Proof.Machine.execPeakCheck projected s
  | .brakeAssert => Sys2Proof.Machine.execBrakeAssert s
  | .brakeCheck watts => Sys2Proof.Machine.execBrakeCheck watts s
  | .brakeRelease => Sys2Proof.Machine.execBrakeRelease s
  | .brakeKStep => Sys2Proof.Machine.execBrakeKStep s
  | .sustainedTick w1s w2ms w1ms => Sys2Proof.Machine.execSustainedTick w1s w2ms w1ms s
  | .targetHoldTimeout => Sys2Proof.Machine.execTargetHoldTimeout s
  | .energyUpdate pkg dies cores => Sys2Proof.Machine.execEnergyUpdate pkg dies cores s
  | .pwrTrimUpdate d measured modelled est tj thr => Sys2Proof.Machine.execPwrTrimUpdate d measured modelled est tj thr s
  | .thermalShutdown => Sys2Proof.Machine.execThermalShutdown s
  | .vinLowRelease => Sys2Proof.Machine.execVinLowRelease s
  | .coldRst => Sys2Proof.Machine.execColdRst s
  | .warmRst => Sys2Proof.Machine.execWarmRst s
  | .pcpResetCold by_ value => Sys2Proof.Machine.execPcpResetCold by_ value s
  | .pcpResetWarm by_ value => Sys2Proof.Machine.execPcpResetWarm by_ value s
  | .bootStepDone cycles input => Sys2Proof.Machine.execBootStepDone cycles input s
  | .bootStepTimeout die gen => Sys2Proof.Machine.execBootStepTimeout die gen s
  | .haltLineRepeat => Sys2Proof.Machine.execHaltLineRepeat s
  | .scrubRead k => Sys2Proof.Machine.execScrubRead k s
  | .ceWindowExpire d => Sys2Proof.Machine.execCeWindowExpire d s
  | .rasInject by_ d value => Sys2Proof.Machine.execRasInject by_ d value s
  | .rasLog by_ d high => Sys2Proof.Machine.execRasLog by_ d high s
  | .spcViolLog by_ c high => Sys2Proof.Machine.execSpcViolLog by_ c high s
  | .qfeErrLog by_ c high => Sys2Proof.Machine.execQfeErrLog by_ c high s
  | .atuErrLog by_ c high => Sys2Proof.Machine.execAtuErrLog by_ c high s
  | .hbmTgErrLog by_ k high => Sys2Proof.Machine.execHbmTgErrLog by_ k high s
  | .lpdTgErrLog by_ k high => Sys2Proof.Machine.execLpdTgErrLog by_ k high s
  | .ertEvtLog by_ d high => Sys2Proof.Machine.execErtEvtLog by_ d high s
  | .pcpMigErrLog by_ high => Sys2Proof.Machine.execPcpMigErrLog by_ high s
  | .pcpFabEvtLog by_ high => Sys2Proof.Machine.execPcpFabEvtLog by_ high s
  | .cxuErrLog by_ a high => Sys2Proof.Machine.execCxuErrLog by_ a high s
  | .cxdErrLog by_ a high => Sys2Proof.Machine.execCxdErrLog by_ a high s
  | .pcpPwrEvtLog by_ high => Sys2Proof.Machine.execPcpPwrEvtLog by_ high s
  | .monChar ch => Sys2Proof.Machine.execMonChar ch s
  | .monAbort => Sys2Proof.Machine.execMonAbort s
  | .monHelp => Sys2Proof.Machine.execMonHelp s
  | .monId => Sys2Proof.Machine.execMonId s
  | .monPeek addr size => Sys2Proof.Machine.execMonPeek addr size s
  | .monPoke addr size value => Sys2Proof.Machine.execMonPoke addr size value s
  | .monDump addr count => Sys2Proof.Machine.execMonDump addr count s
  | .monCnt die core => Sys2Proof.Machine.execMonCnt die core s
  | .monPwr => Sys2Proof.Machine.execMonPwr s
  | .monLink => Sys2Proof.Machine.execMonLink s
  | .monMargin k unit => Sys2Proof.Machine.execMonMargin k unit s
  | .monTg k mask pattern op start len => Sys2Proof.Machine.execMonTg k mask pattern op start len s
  | .monLog die => Sys2Proof.Machine.execMonLog die s
  | .monChal => Sys2Proof.Machine.execMonChal s
  | .monUpload count => Sys2Proof.Machine.execMonUpload count s
  | .monUploadTimeout => Sys2Proof.Machine.execMonUploadTimeout s
  | .monUnlock key => Sys2Proof.Machine.execMonUnlock key s
  | .monLock => Sys2Proof.Machine.execMonLock s
  | .monReset => Sys2Proof.Machine.execMonReset s
  | .monRevoke key => Sys2Proof.Machine.execMonRevoke key s
  | .mkcLoad module_ req => Sys2Proof.Machine.execMkcLoad module_ req s
  | .interruptHandlerEntry h => Sys2Proof.Machine.execInterruptHandlerEntry h s
  | .completionReceived a tag status data poison => Sys2Proof.Machine.execCompletionReceived a tag status data poison s
  | .upstreamLinkUp a cxl => Sys2Proof.Machine.execUpstreamLinkUp a cxl s
  | .cxuPerstRelease a => Sys2Proof.Machine.execCxuPerstRelease a s
  | .hdmDecoderCommit a n base => Sys2Proof.Machine.execHdmDecoderCommit a n base s
  | .mgmtLaneRepair p lane => Sys2Proof.Machine.execMgmtLaneRepair p lane s
  | .targetsReceive targets => Sys2Proof.Machine.execTargetsReceive targets s
  | .ceLogInterval d unit inst => Sys2Proof.Machine.execCeLogInterval d unit inst s

end Sys2Proof.Machine
end

