-- ==== Sys2Proof/Safety.lean ====
section
/-! DEFINITION. The terms claims use: a package that is on, the effect a command has, an engine's command that may be
carried out, the canonical form of memory, the bounds of the security state. -/

namespace Sys2Proof.Machine

/-- The supply is up: commands take effect (R473, R554). -/
def State.on (s : State) : Prop := s.hw.pow.off = 0

/-- The hardware as a command's effect finds it: what the last command sent has gone. -/
def State.now (s : State) : Hw := { s.hw with sent := [] }

/-- The command's next state is that of the hardware `hw` with its answer, the security state as before, and what
follows from it: a package stop, message writes, the monitor's wait. -/
def Effect (i : Instr) (s : State) (hw : Hw) (ans : Answer) : Prop := exec i s = .next (settled s hw s.sec ans)

/-- The same for commands that also change the security state. -/
def EffectSec (i : Instr) (s : State) (hw : Hw) (sec : Sec) (ans : Answer) : Prop :=
  exec i s = .next (settled s hw sec ans)

/-- The monitor's next state after an action of its own. -/
def EffectMon (i : Instr) (s : State) (r : Hw × Sec) : Prop :=
  exec i s = .next { s with hw := r.1, sec := r.2, answer := .done }

/-- Nothing runs at the monitor: it answers and waits for a line (R535). -/
def State.monIdle (s : State) : Prop := monUp s.sec = true ∧ s.sec.mon.wait = .idle

/-- An initiator that may access registers (R60, R505), and the mesh carries its accesses to every die (R30), the primary's among
them. -/
def arrives (hw : Hw) (by_ : Agent) : Bool :=
  mayAccess hw by_ && (List.range 6 ++ [4 + hw.pkg.primary]).all (fun d =>
    [false, true].all (columnOpen hw (dieOfAgent (busAgent hw by_)) d))

/-- The oldest command of a queue for an engine may start, and its work be carried out (R205 step 5). -/
def serves (hw : Hw) (c q eng op : Nat) (can : Hw → Cmd → Bool) (body : Hw → Cmd → Option (Hw × Cmd)) : Bool :=
  match beginCmd hw c q eng op can with
  | some (h, m, none) => (body h m).isSome
  | _ => false

/-- An engine's row has its effect: the command that began, worked by the engine, stands in the core's list as the work
left it; a context the row killed is gone (R83). -/
def Serves (i : Instr) (s : State) (c q eng op : Nat) (can : Hw → Cmd → Bool) (body : Hw → Cmd → Option (Hw × Cmd)) : Prop :=
  ∃ h m h2 m2, beginCmd s.now c q eng op can = some (h, m, none) ∧ body h m = some (h2, m2) ∧
    Effect i s (killPass c (setCmd h2 c m2, .done)).1 .done

/-- The canonical form of the tiers' memory: bytes, poison, markers. -/
def Memory.wf (hw : Hw) : Bool :=
  mwf (tierDefault hw) hw.mem.data && mwf (fun _ => false) hw.mem.poison && mwf (fun _ => 0) hw.mem.marked

/-- The canonical form of a core's scratchpad and accumulators. -/
def Spad.wf (t : Core) : Bool :=
  mwf memDefault t.spad && mwf (fun _ => false) t.spadBad && mwf memDefault t.acc && mwf (fun _ => false) t.accBad

/-- The bounds of the security state: a boot step of R509, at most the 32 steps of FUSE_SVN (R500), six measurement
registers of 32 bytes (R511), a line and a buffer of the monitor within theirs (R535). -/
def Sec.bounded (x : Sec) : Prop :=
  x.step ≤ 10 ∧ x.fuseSvn ≤ 32 ∧ x.meas.length = 6 ∧ (∀ m ∈ x.meas, m.length = 32) ∧ x.mon.line.length ≤ 160 ∧ x.mon.inbuf.length ≤ 256

/-- A blown fuse stays blown, and the least version only rises (R500). -/
def Sec.fusesKept (x y : Sec) : Prop := x.revoked &&& y.revoked = x.revoked ∧ x.fuseSvn ≤ y.fuseSvn

end Sys2Proof.Machine
end

