-- ==== Sys2Proof/Certificates/Slice0/Obligations.lean ====
section
/-! DEFINITION. The statements for the provers: what every command does where it takes effect, the rules of the spec on
registers, memory, engines, coherence, links, power, errors and security, and what every step keeps. -/

open Sys2Proof Sys2Proof.Machine

/-! ### Steps -/

/-- One step takes the command that has waited longest and runs it with the queue's rest; with none waiting the block
idles. The queue is the model's own (log 15). -/
def Obligations.StepRunsFront : Prop :=
  ∀ (c : Instr) (rest : List Instr) (s : State),
    step { s with pending := c :: rest } = exec c { s with pending := rest } ∧ (s.pending = [] → step s = .next s)

/-- A command's effect leaves the queue alone: a step takes exactly one command off its front, none is lost and none is
put in (log 15). -/
def Obligations.QueueFirstInFirstOut : Prop :=
  ∀ (s t : State) (c : Instr) (rest : List Instr), s.pending = c :: rest → step s = .next t → t.pending = rest

/-- Every command ends in a next state, whatever the state: the block stops on none of them and refuses none. The package
stop, a boot halt and a supply fault are states it goes on from (R473, R510, R526). -/
def Obligations.EveryCommandCompletes : Prop := ∀ (i : Instr) (s : State), ∃ t, exec i s = .next t

/-- While the package is off (supply fault or thermal shutdown, R473, R554) a command other than one on the supply finds
nothing: the block and its fuses stand. -/
def Obligations.OffPackageInert : Prop :=
  ∀ (i : Instr) (s : State), s.hw.pow.off ≠ 0 → (∀ a mv x, i ≠ .vinSample a mv x) → i ≠ .vinGood → i ≠ .vinLowRelease →
    exec i s = .next { s with answer := .notEnabled }

/-! ### Command streams -/

/-- Where each of the QFE's own commands completes: it stands oldest in the window of a running queue with its waits
met; a QFE_FENCE besides waits for every earlier command of its queue (R225). -/
def Obligations.QfeCommandsComplete : Prop :=
  ∀ (c : CoreId) (q : QueueId) (s : State), s.on →
    let nop := fun (hw : Hw) (m : Cmd) => some (hw, doneCmd m stSuccess)
    let fence := fun (hw : Hw) (m : Cmd) =>
      if (getCore hw c).cmds.any (fun x => x.q == m.q && decide (x.id < m.id)) then none
      else some (setQueue hw c m.q { getQueue hw c m.q with ordNext := true }, doneCmd m stSuccess)
    let ring := fun (hw : Hw) (m : Cmd) => some (hw, doneCmd m (if corePresent hw (wf m.w 3 11 0 / 8) then stSuccess else stAddress))
    let stop := fun (hw : Hw) (m : Cmd) => some (hw, doneCmd m stStopped)
    (serves s.now c q 0 0 qfeCan nop = true → Serves (.qfeNop c q) s c q 0 0 qfeCan nop) ∧
    (serves s.now c q 0 1 qfeCan fence = true → Serves (.qfeFence c q) s c q 0 1 qfeCan fence) ∧
    (serves s.now c q 0 2 qfeCan ring = true → Serves (.qfeRing c q) s c q 0 2 qfeCan ring) ∧
    (serves s.now c q 0 3 qfeCan stop = true → Serves (.qfeStop c q) s c q 0 3 qfeCan stop)

/-- The scalar engine's commands do their work in the queue's order once they may start (R172–R178): registers,
predicates, loads and stores, atomics, branches, zeroed lines, the clock counter. -/
def Obligations.ScalarCommandsComplete : Prop :=
  ∀ (c : CoreId) (q : QueueId) (s : State), s.on →
    (serves s.now c q 3 0 (seCan c) (seOpBody c) = true → Serves (.seOp c q) s c q 3 0 (seCan c) (seOpBody c)) ∧
    (serves s.now c q 3 1 (seCan c) (seSetpBody c) = true → Serves (.seSetp c q) s c q 3 1 (seCan c) (seSetpBody c)) ∧
    (serves s.now c q 3 2 (seCan c) (seLdBody c) = true → Serves (.seLd c q) s c q 3 2 (seCan c) (seLdBody c)) ∧
    (serves s.now c q 3 3 (seCan c) (seStBody c) = true → Serves (.seSt c q) s c q 3 3 (seCan c) (seStBody c)) ∧
    (serves s.now c q 3 4 (seCan c) (seAmoBody c) = true → Serves (.seAmo c q) s c q 3 4 (seCan c) (seAmoBody c)) ∧
    (serves s.now c q 3 5 (seCan c) (seBrBody c) = true → Serves (.seBr c q) s c q 3 5 (seCan c) (seBrBody c)) ∧
    (serves s.now c q 3 6 (seCan c) (seZlineBody c) = true → Serves (.seZline c q) s c q 3 6 (seCan c) (seZlineBody c)) ∧
    (serves s.now c q 3 7 (seCan c) (seRdcntBody c) = true → Serves (.seRdcnt c q) s c q 3 7 (seCan c) (seRdcntBody c))

/-- The vector engine's commands (R160–R171). -/
def Obligations.VectorCommandsComplete : Prop :=
  ∀ (c : CoreId) (q : QueueId) (s : State), s.on →
    (serves s.now c q 2 0 (veCan c) (veElemBody c) = true → Serves (.veElem c q) s c q 2 0 (veCan c) (veElemBody c)) ∧
    (serves s.now c q 2 1 (veCan c) (veCmpBody c) = true → Serves (.veCmp c q) s c q 2 1 (veCan c) (veCmpBody c)) ∧
    (serves s.now c q 2 2 (veCan c) (veCvtBody c) = true → Serves (.veCvt c q) s c q 2 2 (veCan c) (veCvtBody c)) ∧
    (serves s.now c q 2 3 (veCan c) (veRedBody c) = true → Serves (.veRed c q) s c q 2 3 (veCan c) (veRedBody c)) ∧
    (serves s.now c q 2 4 (veCan c) (veExpoBody c) = true → Serves (.veExpo c q) s c q 2 4 (veCan c) (veExpoBody c)) ∧
    (serves s.now c q 2 5 (veCan c) (veSliceBody c) = true → Serves (.veSlice c q) s c q 2 5 (veCan c) (veSliceBody c)) ∧
    (serves s.now c q 2 6 (veCan c) (veDaccBody c) = true → Serves (.veDacc c q) s c q 2 6 (veCan c) (veDaccBody c)) ∧
    (serves s.now c q 2 7 (veCan c) (veXcombBody c) = true → Serves (.veXcomb c q) s c q 2 7 (veCan c) (veXcombBody c)) ∧
    (serves s.now c q 2 8 (veCan c) (veZlineBody c) = true → Serves (.veZline c q) s c q 2 8 (veCan c) (veZlineBody c))

/-- The DMA engine's commands (R191–R200, R217, R218, R322, R389). -/
def Obligations.DmaCommandsComplete : Prop :=
  ∀ (c : CoreId) (q : QueueId) (s : State), s.on →
    (serves s.now c q 4 0 (deCan c) (deXferBody c) = true → Serves (.deXfer c q) s c q 4 0 (deCan c) (deXferBody c)) ∧
    (serves s.now c q 4 1 (deCan c) (tableBody c false) = true → Serves (.deGather c q) s c q 4 1 (deCan c) (tableBody c false)) ∧
    (serves s.now c q 4 2 (deCan c) (tableBody c true) = true → Serves (.deScatter c q) s c q 4 2 (deCan c) (tableBody c true)) ∧
    (serves s.now c q 4 3 (deCan c) (deFillBody c) = true → Serves (.deFill c q) s c q 4 3 (deCan c) (deFillBody c)) ∧
    (serves s.now c q 4 4 (deCan c) (deCopyBody c) = true → Serves (.deCopy c q) s c q 4 4 (deCan c) (deCopyBody c)) ∧
    (serves s.now c q 4 5 (deCan c) (deCreditPostBody c) = true → Serves (.deCreditPost c q) s c q 4 5 (deCan c) (deCreditPostBody c)) ∧
    (serves s.now c q 4 6 (deCan c) (deCreditTakeBody c) = true → Serves (.deCreditTake c q) s c q 4 6 (deCan c) (deCreditTakeBody c)) ∧
    (serves s.now c q 4 7 (deCan c) deMigrateBody = true → Serves (.deMigrate c q) s c q 4 7 (deCan c) deMigrateBody) ∧
    (serves s.now c q 4 8 (deCan c) (dePrefetchBody c) = true → Serves (.dePrefetch c q) s c q 4 8 (deCan c) (dePrefetchBody c))

/-- The matrix engine: loads and streams start (R101, R106), a stream enters its sub-array (R102–R104), and the HOLD
policy ramps the idle array down to 5 % and, once granted, up to 85 %, ten points a step (R119). -/
def Obligations.MatrixCommandsComplete : Prop :=
  ∀ (c : CoreId) (q : QueueId) (sub : Fin 4) (s : State), s.on →
    let me := (getCore s.now c).me
    (serves s.now c q 1 0 (meCan c) (meLoadwBody c) = true → Serves (.meLoadw c q) s c q 1 0 (meCan c) (meLoadwBody c)) ∧
    (serves s.now c q 1 1 (meCan c) (meGemmBody c) = true → Serves (.meGemm c q) s c q 1 1 (meCan c) (meGemmBody c)) ∧
    (serves s.now c q 1 2 (meCan c) (meGemvBody c) = true → Serves (.meGemv c q) s c q 1 2 (meCan c) (meGemvBody c)) ∧
    (∀ y, (getSub me sub).assigned = some y → (coreAlive s.now c && mayEnter s.now c sub y && (findCmd s.now c y.cmd).isSome) = true →
      Effect (.meStreamEnter c sub) s (enterRow c sub s.now).1 .done) ∧
    ((rbit s.now (Reg.mePolicy c) 0 && coreAlive s.now c && me.hold == 1 && meQuiet me) = true →
      Effect (.holdIdleTimeout c) s (setMe s.now c { me with hold := 2 }) .done) ∧
    (me.hold = 2 → 15 < me.level →
      Effect (.holdRampDownStep c) s (setMe s.now c { me with level := me.level - 10 }) .done) ∧
    (me.hold = 2 → me.level ≤ 15 → Effect (.holdRampDownStep c) s (setMe s.now c { me with level := 5, hold := 0 }) .done) ∧
    (me.hold = 3 → me.granted = true → me.level < 75 →
      Effect (.holdRampUpStep c) s (setMe s.now c { me with level := me.level + 10 }) .done) ∧
    (me.hold = 3 → me.granted = true → 75 ≤ me.level →
      Effect (.holdRampUpStep c) s (setMe s.now c { me with level := 85, hold := 1, granted := false }) .done)
/-- The pipeline of a queue (R205, R226, R262, R282, R564): a fetch reads and takes a slot; an encoding error, oldest of
its unstarted commands, completes; a command enters its engine's FIFO; one whose work is done and whose record has an
entry shows what is left of its tile writes (R270) and gives its signals and record, or starts its release when it has one;
a release completes once its drains are
accepted, as it ended or, where a drain killed its context, as discarded (R83); the oldest record enters its ring while there is room and its place can be written, TAIL moves on with its PHASE
turning at the end of the ring, the interrupt follows. -/
def Obligations.PipelineCompletes : Prop :=
  ∀ (c : CoreId) (q : QueueId) (e : Engine) (s : State), s.on →
    let hw := s.now
    (∀ h, mayFetch hw c q = true → fetchingCmd hw c q = none → (getQueue hw c q).loop = none → fetchSlot hw c q = some h →
      Effect (.commandFetch c q) s h .done) ∧
    (∀ m, (getCore hw c).cmds.find? (fun m : Cmd => decide (m.q = q.val) && unstarted m) = some m → m.stage = .bad →
      m.status = 0 → recRoom hw c m = true → releases m = false → coreStarts hw c = true → (getQueue hw c q).st = 1 →
      Effect (.encodingErrorComplete c q) s
        (killPass c (retireCmd hw c (afterDrain hw c { m with status := stEncoding }), .done)).1 .done) ∧
    (∀ m, e ≠ .qfe → (getCore hw c).cmds.find? (fun m : Cmd => m.q == q.val && hEng m.w == engCode e && m.stage == .window) = some m →
      (coreStarts hw c && !m.old && !m.walking && !faulted (getCore hw c) m.id && hMsk m.w != 1) = true →
      (getQueue hw c q).st = 1 → fifoUsed hw c (engCode e) < fifoSize (engCode e) →
      Effect (.commandIssue c q e) s (setCmd hw c { m with stage := .fifo }) .done) ∧
    (∀ m0 m w, coreAlive hw c = true → oldest hw c q (engCode e) (fun m => workDone m && recRoom hw c m) = some m0 →
      landLate hw c m0 = some (w, m) → owesEnd m = false →
      (releases m = false → Effect (.commandRetire c q e) s (retireCmd w c m) .done) ∧
      (releases m = true → kop m.w ≠ (0, 0x01) →
        Effect (.commandRetire c q e) s
          (setCmd (meLeave w c m) c { m with stage := .releasing ((getCore w c).mb.map (·.gran)), resv := wantsRec w c m }) .done)) ∧
    (∀ m l h, oldest hw c q (engCode e) (fun m => match m.stage with | .releasing _ => true | _ => false) = some m →
      m.stage = .releasing l → ringHeld hw c m = false →
      mbDrainAll hw c ((getCore hw c).mb.filter (fun x => l.contains x.gran)) = some h →
      Effect (.releaseComplete c q e) s (killPass c (retireCmd h c (afterDrain h c m), .done)).1 .done) ∧
    (∀ r h, (getCore hw c).recs.find? (fun r => r.q == q.val) = some r →
      let cq := rget hw (Reg.qfeQCq c q)
      let n := 2 ^ bits cq 4 0
      let tail := (rget hw (Reg.qfeQCqTail c q)).toNat % 2 ^ 32
      let phase := rbits hw (Reg.qfeQCqTail c q) 32 32
      let next := (tail + 1) % 2 ^ 32
      bit cq 7 = true → (tail + 2 ^ 32 - rbits hw (Reg.qfeQCqHead c q) 31 0) % 2 ^ 32 < n →
      pocWriteN 2 hw (engAgent c) (256 * bits cq 51 8 + 16 * (tail % n))
        (leBytes 8 (r.w0.toNat + phase * 2 ^ 63) ++ leBytes 8 r.w1.toNat) false 0 0 = some h →
      let h2 := modCore (rsetN h (Reg.qfeQCqTail c q) (next + (if next % n = 0 then 1 - phase else phase) * 2 ^ 32)) c
        (fun t => { t with recs := t.recs.erase r })
      Effect (.recordWrite c q) s
        (if r.cint then message h2 (c / 128) (Reg.qfeMsiAddr c) ((rget hw (Reg.qfeMsiData c)).toNat + q) else h2) .done)

/-- Waits on memory (R223, R224, R388): a recheck or the home's note reads the waited word again; a wait unmet for its
bound completes with WAIT_TIMEOUT. -/
def Obligations.WaitsComplete : Prop :=
  ∀ (c : CoreId) (q : QueueId) (e : Engine) (s : State), s.on →
    let hw := s.now
    (∀ m, headCmd hw c q (engCode e) = some m → hMsk m.w = 1 → m.pre.isNone = true →
      Effect (.semRecheck c q e) s (semRead hw c m) .done) ∧
    (∀ m, headCmd hw c q (engCode e) = some m → rbits hw (Reg.qfeQWtmo c q) 31 0 ≠ 0 → coreAlive hw c = true →
      (getQueue hw c q).st = 1 → m.pre.isNone = true → m.seenBad = false → (localMet hw c m.w && memMet m) = false →
      Effect (.waitTimeout c q e) s (endUnstarted hw c m stWaitTimeout) .done) ∧
    (∀ line m rest, takeNet hw line (.engine c) (fun k => k == .writeNote) = some (m, rest) →
      Effect (.writeNote c line) s (((getCore (setNet hw rest) c).cmds.filter (fun m => unstarted m && hMsk m.w == 1 && m.pre.isNone &&
        (match paOf m (hMsem m.w) with
         | some pa => pkgOf hw pa == 0 && localOf pa / 64 == line
         | none => false))).foldl (fun h m => semRead h c m) (setNet hw rest)) .done)

/-- Queue registers (R219–R221, R226, R235): a doorbell within the ring moves TAIL; enabling an OFF queue whose ring
fits starts it at slot 0; an idle queue turned off is OFF; completion ring; RESUME and ABORT of a stopped queue. -/
def Obligations.QueueRegistersComplete : Prop :=
  ∀ (by_ : Agent) (c : CoreId) (q : QueueId) (v : Word) (s : State), s.on → arrives s.now by_ = true → corePresent s.now c = true →
    let hw := s.now
    let size := bits v 12 8
    let new := size * 256 + bits v 1 0
    let clear := fun h : Hw => rsetN (rsetN h (Reg.qfeQErr c q) 0) (Reg.qfeQStopCode c q) 0
    Effect (.doorbell by_ c v) s (ringDoorbell hw c (bits v 34 32) (bits v 31 0)) .done ∧
    ((getQueue hw c q).st = 0 → bit v 0 = true → 6 ≤ size → size ≤ 16 →
      ringFits (4096 * rbits hw (Reg.qfeQRing c q) 51 12) (64 * 2 ^ size) = true →
      Effect (.queueEnable by_ c q v) s (enableQueue (rsetN hw (Reg.qfeQCtrl c q) new) c q) .done) ∧
    ((getQueue hw c q).st = 1 → bit v 0 = false → size = rbits hw (Reg.qfeQCtrl c q) 12 8 → queueIdle hw c q = true →
      Effect (.queueDisable by_ c q v) s
        (setQueue (rsetN hw (Reg.qfeQCtrl c q) new) c q { getQueue hw c q with st := 0 }) .done) ∧
    ((getQueue hw c q).st = 0 → bit v 7 = true → 4 ≤ bits v 4 0 → bits v 4 0 ≤ 16 →
      ringFits (256 * bits v 51 8) (16 * 2 ^ bits v 4 0) = true →
      Effect (.cqEnable by_ c q v) s
        (rsetN (rsetN (rsetN hw (Reg.qfeQCq c q) (256 * bits v 51 8 + 128 * bits v 7 7 + bits v 4 0)) (Reg.qfeQCqHead c q) 0)
          (Reg.qfeQCqTail c q) (2 ^ 32)) .done) ∧
    ((getQueue hw c q).st = 2 → rbits hw (Reg.qfeQErr c q) 59 52 ≠ 0x20 →
      Effect (.queueResume by_ c q) s (clear (setQueue hw c q { getQueue hw c q with st := 1 })) .done) ∧
    ((getQueue hw c q).st = 2 →
      Effect (.queueAbort by_ c q) s
        (clear (setQueue (abortQueue hw c q) c q { getQueue (abortQueue hw c q) c q with st := 1 })) .done)

/-! ### Scratchpad, cores, groups -/

/-- The scratchpad's rows (R193–R203): a take is granted or answered with the slot's state, an END advances its slot,
a write from outside lands, a slot is posted or freed by register, a bank is asked to gate, gates, is asked back, and
wakes zeroed. -/
def Obligations.ScratchpadCompletes : Prop :=
  ∀ (by_ : Agent) (c : CoreId) (q : QueueId) (slot : Fin 64) (pkg agent : Fin 4096) (bank : Fin 48) (v : Word) (s : State),
    s.on → corePresent s.now c = true →
    let hw := s.now
    let x := slotOf v
    Effect (.creditTakeRequest c slot pkg agent) s (creditTake hw c slot pkg agent).1 (.value (creditTake hw c slot pkg agent).2) ∧
    Effect (.creditEndMessage c slot pkg agent) s (creditEnd hw c slot pkg agent) .done ∧
    (∀ off data h, off + data.length ≤ spadSize → data ≠ [] → by_ ≠ engAgent c → regHeld hw by_ (c / 128) (coreWin c + off) = false →
      spadWriteBy hw by_ c off data = (h, .ok) →
      Effect (.spadRemoteWrite by_ c off data) s h .done) ∧
    (arrives hw by_ = true → (x.state = 1 ∨ x.state = 2) → postErr hw c slot x = 0 →
      Effect (.creditSlotPost by_ c slot v) s (rset hw (Reg.spcCredit c slot) (v &&& 0xEFFFFFFFFFE1FFFF#64)) .done) ∧
    (arrives hw by_ = true → bits v 63 62 = 0 →
      Effect (.creditSlotFree by_ c slot v) s (rset hw (Reg.spcCredit c slot) 0) .done) ∧
    (∀ m left pa b, coreAlive hw c = true → oldest hw c q 4 (fun m => match m.work with
        | .take _ _ false => m.stage == .started
        | _ => false) = some m → m.work = .take left pa b → left ≠ 0 →
      ¬(pkgOf hw pa = 0 ∧ dmaHeld hw c (localOf pa) = true) →
      Effect (.creditTakeRetry c q) s (setCmd (takeOnce hw c { m with work := .none } left pa).1 c
        (takeOnce hw c { m with work := .none } left pa).2) .done) ∧
    (arrives hw by_ = true → (v &&& ~~~ rget hw (Reg.spcBankGate c) &&& 0xFFFFFFFFFFFF#64) ≠ 0 →
      Effect (.bankGateRequest by_ c v) s (bankGateWrite c v hw).1 .done) ∧
    (arrives hw by_ = true → (rget hw (Reg.spcBankGate c) &&& ~~~ v) ≠ 0 →
      Effect (.bankGateClear by_ c v) s (bankGateWrite c v hw).1 .done) ∧
    ((decide (groupState hw (c / 8) ≤ 1) && rbit hw (Reg.spcBankGate c) bank && !rbit hw (Reg.spcBankOff c) bank &&
        !bankHeld hw c bank && !bankBusy hw c bank) = true →
      Effect (.bankGated c bank) s (bankWipe (ror hw (Reg.spcBankOff c) (2 ^ bank.val)) c bank) .done) ∧
    (bit (getCore hw c).waking bank = true →
      Effect (.bankWakeDone c bank) s (bankWipe (modCore (rclr hw (Reg.spcBankOff c) (2 ^ bank.val)) c (fun t =>
        { t with waking := t.waking &&& ~~~ BitVec.ofNat 48 (2 ^ bank.val) })) c bank) .done)

/-- L1 (R73, R77, R80): a refill sector arrives, a prefetched line reaches the side buffer, an idle entry of the merging
buffer drains. -/
def Obligations.L1Completes : Prop :=
  ∀ (c : CoreId) (s : State), s.on →
    let hw := s.now
    (∀ addr r x, (getCore hw c).refills.find? (fun r => r.sectors.head? == some (addr / 64)) = some r →
      pocRead hw (engAgent c) (addr / 64) false = some x →
      Effect (.l1Refill c addr) s (refillRow c addr hw).1 .done) ∧
    (∀ line h, (getCore hw c).pf.contains line = true → pfArrive hw c line = some h →
      Effect (.prefetchFill c line) s h .done) ∧
    (∀ gran e h, (getCore hw c).mb.find? (fun e => e.gran == gran) = some e → mbDrain hw c e = some h →
      Effect (.mbIdleDrain c gran) s (killPass c (h, .done)).1 .done)

/-- Cores and groups (R85–R92): HALT and resume, a power request set and cleared, gating once every core is quiet, and
the wake's end. -/
def Obligations.GroupsComplete : Prop :=
  ∀ (by_ : Agent) (c : CoreId) (g : GroupId) (v : Word) (s : State), s.on →
    let hw := s.now
    (arrives hw by_ = true → corePresent hw c = true →
      Effect (.coreHalt by_ c) s (coreCtrlWrite c 1 hw).1 .done ∧
      Effect (.coreResume by_ c) s
        (if coreFenced hw c then rsetN hw (Reg.coreCtrl c) 0 else rset (rsetN hw (Reg.coreCtrl c) 0) (Reg.coreHaltCause c) 0)
        .done) ∧
    (arrives hw by_ = true → groupPresent hw g = true → bit v 0 = true → groupState hw g = 0 →
      Effect (.reqOffSet by_ g v) s (holdOff (setGroup (rsetN hw (Reg.cgPwrCtrl g) (bits v 1 0)) g 1) g) .done) ∧
    (arrives hw by_ = true → groupPresent hw g = true → bit v 0 = false → groupState hw g = 1 →
      Effect (.reqOffClear by_ g v) s (setGroup (rsetN hw (Reg.cgPwrCtrl g) (bits v 1 0)) g 0) .done) ∧
    (∀ h, groupPresent hw g = true → groupState hw g = 1 → (List.range 8).all (fun i => coreQuiet hw (8 * g + i)) = true →
      mbDrainCores ((List.range 8).map (8 * g.val + ·)) hw = some h →
      let h2 := ((List.range 8).foldl (fun r i => killPass (8 * g + i) r) (h, Answer.done)).1
      Effect (.cgGatingComplete g) s (foldN 8 (setGroup h2 g 2) (fun h i => coreOff h (8 * g + i))) .done) ∧
    (groupState hw g = 3 → hw.ramps.contains (512 + g.val) = false →
      Effect (.cgWakeComplete g) s (groupWake g hw) .done)

/-! ### Translation and migration -/

/-- Faults, walks and INVALIDATE (R285–R309): a walk's answer reaches its cores; a fault's record enters the ring; RESUME
retries or aborts; the ring and the context base are set while idle; INVALIDATE is queued, bumps each core, is
acknowledged and ends; a node of the combining tree passes its oldest sum up (R280). -/
def Obligations.TranslationCompletes : Prop :=
  ∀ (by_ : Agent) (c : CoreId) (d : DieId) (v : Word) (s : State), s.on →
    let hw := s.now
    (∀ ctx va x, (getTree hw d).walks.any (fun r => r.ctx == ctx.toNat && r.va == va.toNat) = true →
      walkWith (walkRead d ctx.toNat) (walkNote d ctx.toNat) hw ctx.toNat va.toNat = some x →
      migrating hw ctx.toNat x.2 = false → Effect (.walkComplete d ctx va) s (walkRow d ctx.toNat va.toNat hw).1 .done) ∧
    (∀ n f h, nextRecord (getCore hw c) = some (n, f) →
      let base := rget hw (Reg.atuFltBase c)
      let size := 2 ^ bits base 4 0
      let tail := rbits hw (Reg.atuFltTail c) 31 0
      let phase := rbits hw (Reg.atuFltTail c) 32 32
      let next := (tail + 1) % 2 ^ 32
      coreAlive hw c = true → bit base 7 = true → (tail + 2 ^ 32 - rbits hw (Reg.atuFltHead c) 31 0) % 2 ^ 32 < size →
      pocWriteN 2 hw (engAgent c) (4096 * bits base 51 12 + 32 * (tail % size))
        (leBytes 8 ((1 - phase) * 2 ^ 63 + faultWord0 c n f) ++ leBytes 8 f.va ++ leBytes 8 f.entry.toNat ++
          leBytes 8 (f.seq % 2 ^ 32 * 2 ^ 32 + f.index % 2 ^ 32)) false 0 0 = some h →
      Effect (.faultRecordWrite c) s (message (recordDone
        (rsetN h (Reg.atuFltTail c) (next + (if next % size = 0 then 1 - phase else phase) * 2 ^ 32)) c n f)
        (c / 128) (Reg.atuMsiAddr c) (rget hw (Reg.atuMsiData c)).toNat) .done) ∧
    (arrives hw by_ = true → corePresent hw c = true →
      (∀ f, slotGet (getCore hw c) (bits v 2 0) = some f → f.seq % 65536 = bits v 31 16 →
        (bits v 9 8 = 1 → Effect (.faultRetry by_ c v) s
          (fifoAll (wakeWaiters (f.reqs.foldl (fun h id => translateAgain h c id) (slotFree hw c (bits v 2 0) f)) c) c) .done) ∧
        (bits v 9 8 = 2 → Effect (.faultAbort by_ c v) s
          (fifoAll (wakeWaiters (abortReqs (slotFree hw c (bits v 2 0) f) c f.reqs) c) c) .done)) ∧
      (bit (rget hw (Reg.atuFltBase c)) 7 = false → bit v 7 = true → 4 ≤ bits v 4 0 → bits v 4 0 ≤ 12 →
        ringFits (4096 * bits v 51 12) (32 * 2 ^ bits v 4 0) = true →
        Effect (.faultRingEnable by_ c v) s (rsetN (rsetN (rsetN hw (Reg.atuFltBase c)
          (4096 * bits v 51 12 + 128 * bits v 7 7 + bits v 4 0)) (Reg.atuFltHead c) 0) (Reg.atuFltTail c) 0) .done)) ∧
    (arrives hw by_ = true → d.val < 4 →
      (anyQueueOn hw = false → bits v 4 0 ≤ 16 → ringFits (4096 * bits v 51 12) (32 * 2 ^ bits v 4 0) = true →
        Effect (.wlkCtxBaseWrite by_ d v) s
          (foldN 4 hw (fun h x => rsetN h (Reg.wlkCtxBase x) (4096 * bits v 51 12 + bits v 4 0))) .done) ∧
      ((getTree hw d).invs.length < 16 → Effect (.invalidate by_ d v) s (invReqWrite d v hw).1 .done)) ∧
    (∀ (seq : BitVec 32) r, findInv hw d seq.toNat = some r → r.toBump.contains c.val = true →
      Effect (.invalidateBump d seq c) s (modInv (bumpCore hw c r.ctx (invLo r) (invHi r)) d seq.toNat
        (fun x => { x with toBump := x.toBump.filter (· != c.val), waits := x.waits ++ startedIn hw c r.ctx (invLo r) (invHi r) })) .done) ∧
    (∀ (seq : BitVec 32) r, findInv hw d seq.toNat = some r → (r.toBump.contains c.val || !r.toAck.contains c.val || !drained hw c r) = false →
      (getCore hw c).mb = [] →
      Effect (.invalidateCoreAck d seq c) s (killPass c (modInv (modCore hw c (fun t =>
        { t with trackers := t.trackers.filter (fun k => k.ctx != r.ctx) })) d seq.toNat
        (fun x => { x with toAck := x.toAck.filter (· != c.val) }), .done)).1 .done) ∧
    (∀ r rest, (getTree hw d).invs = r :: rest → r.toAck = [] → bit (rget hw (Reg.wlkInvDoneAddr d)) 0 = false →
      Effect (.invalidateDone d) s (setTree (rfield hw (Reg.wlkInvSeq d) 31 0 r.seq) d { getTree hw d with invs := rest }) .done) ∧
    (∀ (node : Fin 21) a rest, mget (fun _ => []) (getTree hw d).nodes node.val = a :: rest →
      (node.val = 20 → lineHeld hw (engAgent (128 * d)) (a.addr / 64) = false) →
      let hw1 := setTree hw d { getTree hw d with nodes := mput (fun _ => []) (getTree hw d).nodes node.val rest }
      Effect (.semNodeHoldTimeout d node) s (if node.val = 20 then treeOut hw1 d a else treeAdd hw1 d (nodeParent node) a) .done)
/-- DE_MIGRATE's steps (R322–R326, R337): an entry is taken while one is free and no entry overlaps, the page's holders
drain and a frame is taken, the page is copied and its leaf switched, a return entry is written; the rings' bases. -/
def Obligations.MigrationCompletes : Prop :=
  ∀ (by_ : Agent) (c : CoreId) (q : QueueId) (pool : Fin 15) (v : Word) (s : State), s.on →
    let hw := s.now
    let ctx := ctxOf hw c q
    (∀ m p rest, migAt hw c q (fun w => w == .migEntry) = some m → m.left = p :: rest → coreAlive hw c = true →
      hw.migs.length < 16 → hw.migs.any (fun e => e.ctx == ctx &&
        decide (e.page.va < p.va + 2 ^ p.log2 ∧ p.va < e.page.va + 2 ^ e.page.log2)) = false →
      let hw1 := { hw with migs := hw.migs ++ [⟨c, m.id, ctx, freshPage hw p⟩] }
      Effect (.migrateEntryTaken c q) s (setCmd ((presentCores hw1).foldl (fun h x => bumpCore h x ctx p.va (p.va + 2 ^ p.log2)) hw1) c
        { m with left := rest, work := .migBump }) .done) ∧
    (∀ m e h, migAt hw c q (fun w => w == .migBump) = some m → migOf hw c m.id = some e →
      pageHeld hw e.ctx e.page = false → drainCtx e.ctx (presentCores hw) hw = some h →
      let pool := poolOf m.w e.page
      let base := rget h (Reg.pcpMpoolBase hw.pkg.primary pool)
      let head := rbits h (Reg.pcpMpoolHead hw.pkg.primary pool) 31 0
      let tail := rbits h (Reg.pcpMpoolTail hw.pkg.primary pool) 31 0
      (head = tail →
        Effect (.migrateBumpDone c q) s (killPass c (migStop (migLog h 1 pool e.ctx c) c m stOperand, .done)).1 .done) ∧
      (∀ h2 bs, bit base 7 = true → head ≠ tail →
        pocReadN 2 h (engAgent c) (4096 * bits base 51 12 + 8 * (head % 2 ^ bits base 4 0)) 8 = some (h2, bs, false) →
        leNat bs % 2 ^ e.page.log2 = 0 → leNat bs + 2 ^ e.page.log2 ≤ 0x00C000000000 →
        t0Region (rsetN h2 (Reg.pcpMpoolHead hw.pkg.primary pool) ((head + 1) % 2 ^ 32)) (leNat bs) = migUnit m.w →
        Effect (.migrateBumpDone c q) s
          (killPass c (setCmd (rsetN h2 (Reg.pcpMpoolHead hw.pkg.primary pool) ((head + 1) % 2 ^ 32)) c
            { m with work := .migCopy (leNat bs) }, .done)).1 .done)) ∧
    (∀ m e dst x h, migAt hw c q (fun w => match w with | .migCopy _ => true | _ => false) = some m → m.work = .migCopy dst →
      migOf hw c m.id = some e → sigHeld hw e.page = false →
      copyLines c (localOf e.page.pa) dst (2 ^ e.page.log2 / 64) hw false = some x →
      leafWrites c dst (leafAddrs e.page) x.1 = some h →
      Effect (.migrateCopyDone c q) s (migCopyRow c q hw).1 .done) ∧
    (∀ r rest h, hw.migRets = r :: rest → bit (rget hw (Reg.pcpMretBase hw.pkg.primary)) 7 = true →
      (rbits hw (Reg.pcpMretTail hw.pkg.primary) 31 0 + 2 ^ 32 - rbits hw (Reg.pcpMretHead hw.pkg.primary) 31 0) % 2 ^ 32
        < 2 ^ bits (rget hw (Reg.pcpMretBase hw.pkg.primary)) 4 0 →
      let at_ := 4096 * bits (rget hw (Reg.pcpMretBase hw.pkg.primary)) 51 12 +
        16 * (rbits hw (Reg.pcpMretTail hw.pkg.primary) 31 0 % 2 ^ bits (rget hw (Reg.pcpMretBase hw.pkg.primary)) 4 0)
      pocWriteN 2 (l1Drop hw r.core at_ 16) (engAgent r.core) at_
        (leBytes 8 (r.w0.toNat + (1 - rbits hw (Reg.pcpMretTail hw.pkg.primary) 32 32) * 2 ^ 63) ++ leBytes 8 r.w1.toNat) false 0 0 = some h →
      Effect .migrateReturnWrite s (migReturnRow hw).1 .done) ∧
    (arrives hw by_ = true →
      Effect (.mretEnable by_ v) s (mretWrite hw.pkg.primary v hw).1 .done ∧
      Effect (.mpoolEnable by_ pool v) s (mpoolWrite hw.pkg.primary pool v hw).1 .done)

/-! ### Memory bring-up -/

/-- The controllers in TEST and in service (R339–R352): a margining run starts and ends, the traffic generator starts and
ends, drift tracking adjusts, a window of link ECC is reported. -/
def Obligations.MemoryControllersComplete : Prop :=
  ∀ (by_ : Agent) (k : CtlId) (v : Word) (s : State), s.on →
    let hw := s.now
    let t := getCtl hw k
    (arrives hw by_ = true → testRefusal hw k = 0 →
      Effect (.mrgCmd by_ k v) s (setCtl hw k { t with op := 1, unit := if k.val < 12 then bits v 4 0 else bits v 2 0 }) .done ∧
      (bit v 0 = true → Effect (.tgRun by_ k v) s (tgCtrlWrite k v hw).1 .done)) ∧
    (∀ res r, res.find? (fun r => r.unit == t.unit) = some r → t.op = 1 →
      Effect (.marginDone k res) s (marginDone k r hw) .done) ∧
    (∀ n errs, t.op = 2 → Effect (.tgDone k n errs) s (tgDone k n errs hw) .done) ∧
    (ctlState hw k = 4 → t.selfRef = false →
      Effect (.driftTrack k true) s (radd hw (ctlTrackCnt k) 1) .done ∧
      Effect (.driftTrack k false) s hw .done ∧
      (∀ ch n, 12 ≤ k.val → Effect (.leccWindow k ch n) s (leccWindow k ch n hw) .done))

/-! ### Harts -/

/-- A running hart's accesses to main memory within one line (R355, R358, R384): a load of bytes it holds or has buffered
reads them; a store to a line it owns enters the store buffer once earlier loads have returned; the oldest buffered store of
a granule is written into the held line; an AMO reads the old value and leaves the new one in the held line. A line a hart
uses stands in its L1D; what reads the line first meets the bit errors that stand in it (R356, R518). -/
def Obligations.HartAccessesComplete : Prop :=
  ∀ (h : HartId) (a size : Nat) (v : Word) (s : State), s.on →
    let hw := hartScan s.now h (a / 64)
    let t := getHart hw h
    hartRuns t = true → t.ioLoad = none →
    (∀ bs, scalarSize size = true → a < 2 ^ 52 → cacheableAt a size = true → a / 64 = (a + size - 1) / 64 →
      loadStart t a size = ⟨a, size, bs.map some, false⟩ → t.miss.contains (a / 64, .zero) = false →
      Effect (.hostLoad h a size) s (if (hartLine t (a / 64)).isSome then setHart hw h (dcacheUse t (a / 64)) else hw)
        (.value (word (leNat bs)))) ∧
    (let u := getHart s.now h
     hartLoads u = false → scalarSize size = true → a < 2 ^ 52 → cacheableAt a size = true → a % 64 + size ≤ 64 →
      (hartOwns u (a / 64)).isSome = true → (sbStores (sbEnter u (a / 64) (a % 64) (leBytes size v.toNat))).length ≤ 32 →
      Effect (.hostStore h a size v) s (setHart s.now h (sbEnter u (a / 64) (a % 64) (leBytes size v.toNat))) .done) ∧
    (∀ (i : Fin 32) e l, e.addr / 64 = a / 64 → sbPlace (getHart s.now h).sb i.val false = some (e, false) → e.kind = .cacheable →
      ((sbStores (getHart s.now h)).take i.val).any (fun x => x.kind == .cacheable && x.addr == e.addr) = false →
      hartOwns t (e.addr / 64) = some l →
      Effect (.sbEntryComplete h i) s (sbDone (setHart hw h (dcacheUse (setLine t (e.addr / 64)
        (some ⟨.m, mergeBytes e.mask 0 l.data e.data, l.poison && e.mask != fullMask⟩)) (e.addr / 64))) h i) .done) ∧
    (∀ fn l, fn ≠ .cas → (size = 4 ∨ size = 8) → a % size = 0 → a < 2 ^ 52 → cacheableAt a size = true →
      loadsOut t = false → sbHolds t (a / 64) = false → sbMarked t = false → hartOwns t (a / 64) = some l → l.poison = false →
      Effect (.hostAmo h a size (.amo fn) v) s
        (setHart hw h (dcacheUse (setLine t (a / 64) (some { l with st := .m, data := amoBytes fn size (a % 64) l.data v })) (a / 64)))
        (.value (word (leNat (slice l.data (a % 64) size)))))

/-- Where LR and SC differ (R384): SC succeeds and answers 0 where the hart still owns the line and its reservation names
the access, else it fails and answers 1 with memory as it was; either way the reservation is gone. -/
def Obligations.StoreConditional : Prop :=
  ∀ (h : HartId) (a size : Nat) (v : Word) (s : State), s.on →
    let hw := hartScan s.now h (a / 64)
    let t := getHart hw h
    hartRuns t = true → loadsOut t = false → (size = 4 ∨ size = 8) → a % size = 0 → a < 2 ^ 52 → cacheableAt a size = true →
    sbHolds t (a / 64) = false → sbMarked t = false →
    (∀ l, hartOwns t (a / 64) = some l → t.resv = some (a, size) →
      Effect (.hostAmo h a size .sc v) s (setHart hw h { dcacheUse (setLine t (a / 64)
        (some { l with st := .m, data := splice l.data (a % 64) (leBytes size v.toNat) })) (a / 64) with resv := none }) (.value 0)) ∧
    (t.resv ≠ some (a, size) → Effect (.hostAmo h a size .sc v) s (setHart hw h { t with resv := none }) (.value 1)) ∧
    (∀ l, hartOwns t (a / 64) = some l → l.poison = false →
      Effect (.hostAmo h a size .lr v) s (setHart hw h { dcacheUse t (a / 64) with resv := some (a, size) })
        (.value (word (leNat (slice l.data (a % 64) size)))))

/-- Barriers and Xtlvq of a running hart (R360–R369): a fence, a doorbell to a window, releases and acquires, the
handler's and the stop's drain begin and, with nothing outstanding, end at once; TLV.STASH offers a line to a hart. -/
def Obligations.HartBarriersComplete : Prop :=
  ∀ (h : HartId) (s : State), s.on →
    let hw := s.now
    let t := getHart hw h
    hartRuns t = true →
    (∀ k, let r := barrier h .fence (setHart hw h { t with orderNext := t.orderNext || fenceOrders k,
                                                           icache := if k = .fenceI then [] else t.icache })
      Effect (.fence h k) s r.1 r.2) ∧
    (∀ a v g b, hartLoads t = false → a % 8 = 0 → a < 2 ^ 52 → locate a = .reg g b → Effect (.tlvDb h a v) s (barrier h (.tlvDb a v) hw).1 .done) ∧
    (hartLoads t = false →
      Effect (.tlvRel h .core) s (setHart hw h { t with
        orderNext := true, sb := if sbStores t = [] then [] else t.sb ++ [⟨.orderMark, 0, 0, 0, [], none, false⟩] }) .done ∧
      Effect (.tlvAcq h .core) s hw .done) ∧
    (∀ sc, sc ≠ .core →
      Effect (.tlvRel h sc) s (barrier h .tlvRel (setHart hw h { t with orderNext := true })).1
        (barrier h .tlvRel (setHart hw h { t with orderNext := true })).2 ∧
      Effect (.tlvAcq h sc) s (barrier h .tlvAcq hw).1 (barrier h .tlvAcq hw).2) ∧
    (∀ a (rs2 : Word), a < 2 ^ 52 → inTier a = true → hartCut (hartScan hw h (a / 64)) h (a / 64) = false → bits rs2 13 12 = 2 →
      bits rs2 6 0 < 72 →
      Effect (.tlvStash h a rs2) s (offerTo (hartScan hw h (a / 64)) (a / 64) (.hart (Fin.ofNat 72 (bits rs2 6 0)))) .done) ∧
    (hartPending hw h = true → Effect (.interruptHandlerEntry h) s (barrier h .handler hw).1 (barrier h .handler hw).2) ∧
    (∀ pd, t.stopped = false → Effect (.hartStop h pd) s (barrier h (.stop pd) hw).1 (barrier h (.stop pd) hw).2)

/-- Cache-block operations of a running hart with no buffered store to the block and no load outstanding (R357): a dirty copy goes home and stays
clean (clean), goes home and leaves the hart (flush, and inval as flush), becomes zero where it is owned (zero);
prefetches ask the home for a line the hart lacks. -/
def Obligations.CacheBlocksComplete : Prop :=
  ∀ (h : HartId) (a : Nat) (s : State), s.on →
    let line := a / 64
    let hw := hartScan s.now h line
    let t := getHart hw h
    hartRuns t = true → hartLoads t = false → sbHolds t line = false → sbMarked t = false → a < 2 ^ 52 → inTier a = true →
    (∀ l, hartLine t line = some l → l.st = .m → (wbufLine t line).isNone = true → (getHome hw line).busy = none →
      (getHome hw line).queue = [] →
      Effect (.cboClean h a) s (dirtyIn (setHart hw h (setLine t line (some { l with st := .e }))) line l.data l.poison) .done ∧
      Effect (.cboFlush h a) s (arriveWrBack (hartDrop hw h line l) line (.hart h) l.data l.poison) .done ∧
      Effect (.cboInval h a) s (arriveWrBack (hartDrop hw h line l) line (.hart h) l.data l.poison) .done) ∧
    (let u := getHart s.now h
     ((hartOwns u line).isSome = true →
      Effect (.cboZero h a) s (setHart s.now h (dcacheUse (setLine u line (some ⟨.m, List.replicate 64 0, false⟩)) line)) .done) ∧
     (hartCut s.now h line = false → hartLine u line = none →
      Effect (.prefetchR h a) s (hartAsk s.now h line false (.prefetch false)) .done ∧
      Effect (.prefetchW h a) s (hartAsk s.now h line true (.prefetch false)) .done)) ∧
    (let w := fetchScan s.now h line
     hartCut w h line = false → hartLine (getHart w h) line = none →
      Effect (.prefetchI h a) s (hartAsk w h line false (.prefetch true)) .done)

/-! ### Coherence -/

/-- Requests of live agents reach the home of their line (R376–R385); the home takes the oldest waiting one of a line while a
tracker is free and no request came to the slice's input before it that could go. -/
def Obligations.CoherenceRequestsComplete : Prop :=
  ∀ (line : Nat) (ag : Agent) (s : State), s.on →
    let hw := s.now
    inTier (64 * line) = true →
    ((agentDead hw ag || fencedHome hw ag (64 * line)) = false →
      (∀ a : AceloId, (ag = .upstream a ∨ ag = .cxlDev a) →
        Effect (.rdShared line ag) s (homeArrive hw (mkReq .rdShared ag line)) .done ∧
        Effect (.rdUnique line ag) s (homeArrive hw (mkReq .rdUnique ag line)) .done) ∧
      (∀ watch, Effect (.rdOnce line ag watch) s (homeArrive hw { mkReq .rdOnce ag line with watch := watch }) .done) ∧
      (∀ mask data hint htgt, writesThrough ag = true → data.length = 64 →
        Effect (.wrFull line ag data hint htgt) s (homeArrive hw { mkReq .wrFull ag line with
          mask := fullMask, data := data, hint := hint.toNat, htgt := htgt.toNat }) .done ∧
        Effect (.wrPartial line ag mask data hint htgt) s (homeArrive hw { mkReq .wrPartial ag line with
          mask := mask, data := data, hint := hint.toNat, htgt := htgt.toNat }) .done) ∧
      (∀ op data, atomOk op = true →
        Effect (.atomic line ag op data) s (homeArrive hw { mkReq .atomic ag line with op := some op, data := data }) .done)) ∧
    (∀ req, (getHome hw line).busy = none → nextReq hw line = some req → mayAccept hw line = true → agentDead hw req.agent = false →
      (needsEntry hw req = false ∨ filtFull hw line = false) →
      Effect (.homeAccept line) s (acceptReq (leaveQueue hw req) req) .done)

/-- Messages of the protocol under way reach their ends (R378, R383–R388, R391–R395): evictions, snoops at harts, plain
responses the home awaits, completions at their requesters, the acknowledgement that frees a line, stash offers, and the
bound on an external agent's response. -/
def Obligations.CoherenceMessagesComplete : Prop :=
  ∀ (line : Nat) (h : HartId) (s : State), s.on →
    let hw := s.now
    let ag : Agent := .hart h
    let t := getHart hw h
    let took := fun (k : MsgKind) (m : Msg) (rest : List Msg) => takeNet hw line ag (fun x => x == k) = some (m, rest)
    (∀ l, takeNet hw line ag (fun k => match k with | .wrBack _ => true | _ => false) = none →
      hartLine (getHart (hartScan hw h line) h) line = some l → l.st = .m → (wbufLine t line).isNone = true →
      Effect (.wrBack line ag) s (arriveWrBack (hartDrop (hartScan hw h line) h line l) line ag l.data l.poison) .done) ∧
    (∀ l, hartLine t line = some l → l.st = .e →
      Effect (.evict line ag) s (arriveEvict (setHart hw h (hartLose t line)) line ag) .done) ∧
    (∀ m rest, took .snpShared m rest → Effect (.snpShared line ag) s (hartSnooped (setNet hw rest) h line false) .done) ∧
    (∀ m rest, took .snpInv m rest → Effect (.snpInv line ag) s (hartSnooped (setNet hw rest) h line true) .done) ∧
    (∀ m rest, took .rspI m rest → awaits hw line ag = true →
      Effect (.rspI line ag) s (respondedI (setNet hw rest) line ag) .done) ∧
    (∀ m rest, took .rspS m rest → awaits hw line ag = true →
      Effect (.rspS line ag) s (responded (setNet hw rest) line ag) .done) ∧
    (∀ m rest k data, takeNet hw line ag (fun k => match k with | .rspData _ _ => true | _ => false) = some (m, rest) →
      m.kind = .rspData k data → awaits hw line ag = true →
      Effect (.rspData line ag) s (dataResponse (setNet hw rest) line ag data (linePoison hw line)) .done) ∧
    (∀ m rest b, took .rspWBInFlight m rest → (getHome (setNet hw rest) line).busy = some b → b.waiting.contains ag = true → b.held = none →
      Effect (.rspWBInFlight line ag) s (setHome (setNet hw rest) line { getHome (setNet hw rest) line with
        busy := some { b with inFlight := true } }) .done) ∧
    (∀ m rest, took .comp m rest →
      Effect (.comp line ag) s (barSettle (setNet hw rest) h) .done) ∧
    (∀ m rest g hd data p, takeNet hw line ag (fun k => match k with | .compData .. => true | _ => false) = some (m, rest) →
      m.kind = .compData (some g) hd data p →
      let r := trapped h (hartInstall (setNet hw rest) h line g hd data p)
      Effect (.compData line ag) s (barSettle r.1 h) r.2) ∧
    (∀ m rest b, took .compAck m rest → (getHome hw line).busy = some b → b.ackFrom = some ag →
      Effect (.compAck line ag) s (setHome (setNet hw rest) line { getHome hw line with busy := none }) .done) ∧
    (∀ m rest, took .stashOffer m rest →
      let hw1 := setNet hw rest
      let declines : Bool := t.off || (hartLine t line).isSome || decide (t.offers.length ≥ 8)
      (declines = true → Effect (.stashOffer line ag) s hw1 .done) ∧
      (declines = false → hartCut hw1 h line = false → (wbufLine t line).isNone = true →
        Effect (.stashOffer line ag) s (hartRequest (setHart hw1 h { t with offers := t.offers ++ [line] }) h line false .stash) .done)) ∧
    (∀ (c : CoreId) m rest, takeNet hw line (.engine c) (fun k => k == .stashOffer) = some (m, rest) →
      let hw1 := setNet hw rest
      let there : Bool := corePresent hw1 c && groupState hw1 (c / 8) == 0
      (there = false → Effect (.stashOffer line (.engine c)) s hw1 .done) ∧
      (there = true →
        ((getCore hw c).pf.contains (line / 2) || (getCore hw c).side.any (fun x => x.line == line / 2) ||
          (getCore hw c).l1.any (fun x => x.line == line / 2)) = false →
        Effect (.stashOffer line (.engine c)) s (modCore hw1 c (fun t => { t with pf := t.pf ++ [line / 2] })) .done)) ∧
    ((slcList hw line).any (fun b => b.blk == line / 2 && b.retain) = true →
      Effect (.retentionExpire line) s (setSlcList hw (homeSlice hw (64 * line)) ((slcList hw line).map (fun b =>
        if b.blk == line / 2 then { b with retain := false } else b))) .done) ∧
    (∀ a : AceloId, awaits hw line (.cxlDev a) = true → agentDead hw (.cxlDev a) = false →
      Effect (.snoopTimeout line (.cxlDev a)) s (declareDead (snoopExpired hw line (.cxlDev a)) (.cxlDev a)) .done) ∧
    (∀ (by_ : Agent) (d : DieId) (v : Word), arrives hw by_ = true → 1 ≤ bits v 8 0 → bits v 8 0 ≤ 256 →
      Effect (.slcCtrlWrite by_ d v) s (foldN 6 hw (fun w d => rsetN w (Reg.slcCtrl d) (bits v 8 0))) .done)

/-- External coherent agents (R393, R394, R449): a CXL.mem read and write at a committed line, a host's snoop response,
a crossing write-back, a device's D2H read. -/
def Obligations.CxlAgentsComplete : Prop :=
  ∀ (a : AceloId) (line : Nat) (s : State), s.on →
    let hw := s.now
    inTier (64 * line) = true →
    (∀ (hpa : Word), rbits hw (Reg.cxuStatus a) 49 48 = 1 → hdmLine hw a hpa.toNat = some line →
      (agentDead hw (.upstream a) || fencedHome hw (.upstream a) (64 * line)) = false →
      Effect (.cxlMemRequest a hpa .rdShared) s (homeArrive hw (mkReq .rdShared (.upstream a) line)) .done ∧
      (∀ mask data, data.length = 64 → awaits hw line (.upstream a) = false → Effect (.cxlMemRequest a hpa (.wr mask data false)) s
        (homeArrive hw { mkReq (if mask = fullMask then .wrFull else .wrPartial) (.upstream a) line with
          mask := mask, data := data, poison := false }) .done)) ∧
    (awaits hw line (.upstream a) = true → agentDead hw (.upstream a) = false →
      Effect (.bisnpResponse a line .rspI) s (extResponse line (.upstream a) .rspI hw).1 (extResponse line (.upstream a) .rspI hw).2 ∧
      (∀ data, data.length = 64 → lineHeld hw (.upstream a) line = false → takeHeld hw line (.upstream a) = none →
        Effect (.biconflict a line data) s (crossing (setPoison hw line false) line (.upstream a) data) .done)) ∧
    ((rbits hw (Reg.cxdStatus a) 53 52 = 1 ∨ rbits hw (Reg.cxdStatus a) 53 52 = 2) →
      (agentDead hw (.cxlDev a) || fencedHome hw (.cxlDev a) (64 * line)) = false →
      Effect (.d2hRequest a line .rdShared) s (homeArrive hw (mkReq .rdShared (.cxlDev a) line)) .done)
/-! ### Erotte links -/

/-- A live module's flits (R398–R410): a data flit that its sender has sent is taken and acknowledged where it comes in order, an
idle receiver acknowledges, a window of charged errors ends at each die, a repair ends, a sideband failure retires the
module and its receivers report, an edge's list is rebuilt and its held flits go, then its routes; a die that these leave
without a path halts the boot at step 6 (R30, R510). -/
def Obligations.ErotteCompletes : Prop :=
  ∀ (m : ModuleId) (dir : Bool) (d : DieId) (edge : Fin 8) (s : State), s.on →
    let hw := s.now
    (modLive hw m = true →
      (∀ ok flit bad, flitSent hw m dir flit = true →
        Effect (.erotteFlitReceive m dir ok flit bad) s (ertFlit m dir ok flit bad hw) .done) ∧
      Effect (.erotteIdleTimer m dir) s (ertSend hw m (!dir) .idle 0) .done ∧
      Effect (.erotteSidebandFail m) s (ertReport (retire hw m false 0) m) .done) ∧
    Effect (.erotteErrorWindow d) s (foldN 64 hw (fun h m =>
      let clear := fun (w : Hw) (dir : Bool) =>
        if rxDie m dir = d.val then setMDir w m dir { getMDir w m dir with errs := [] } else w
      clear (clear h false) true)) .done ∧
    (modState hw m = 5 → ∀ ok failA failB, Effect (.erotteRepairDone m ok failA failB) s (repairDone m ok failB failA hw) .done) ∧
    (bit hw.ert.rebuild edge = true → Effect (.erotteListRebuildDone edge) s
      (flushHeld { hw with ert := { hw.ert with rebuild := hw.ert.rebuild &&& ~~~ BitVec.ofNat 8 (2 ^ edge.val) } } edge) .done) ∧
    (bit hw.ert.routing edge = true → bit hw.ert.rebuild edge = false →
      (cutOff (rerouted edge hw) = none ∨ s.sec.step ≠ 5 → Effect (.routeRecomputeDone edge) s (routesDone edge hw) .done) ∧
      (∀ die, cutOff (rerouted edge hw) = some die → s.sec.step = 5 → s.sec.halts = [] →
        let r := halt hw.pkg.primary (haltWord 9 6 die 0) (rerouted edge hw, s.sec)
        EffectSec (.routeRecomputeDone edge) s r.1 r.2 .done))

/-! ### Optical ports -/

/-- A port trains (R416, R419, R426–R428): modules report and come and go; light, lock, alignment and link in turn; a
bound passed sends it back; nonces, the signature and the partner's record; a wait ends; administration. -/
def Obligations.PortTrainingCompletes : Prop :=
  ∀ (by_ : Agent) (p : PortId) (m : Fin 8) (v : Word) (s : State), s.on →
    let hw := s.now
    let st := pState hw p
    (∀ rep, (getLaser hw m).present = true →
      Effect (.laserPoll m rep) s (laserReport m rep hw) .done ∧ Effect (.laserInterrupt m rep) s (laserReport m rep hw) .done) ∧
    ((getLaser hw m).present = true → Effect (.laserModuleRemove m) s
      (foldN 2 (showLaser (setLaser hw m { Laser.reset with present := false }) m)
        (fun h i => if pState h (2 * m + i) = psDisabled then h else linkLost h (2 * m + i) 4)) .done) ∧
    (∀ rep, (getLaser hw m).present = false → Effect (.laserModuleInsert m rep) s
      (foldN 2 (laserReport m rep (setLaser hw m { Laser.reset with present := true }))
        (fun h i => if pState h (2 * m + i) = psDark then trainStart h (2 * m + i) else h)) .done) ∧
    (st = psDark → portEnabled hw p = true → laserOk hw p = true → (getPort hw p).holdoff = false → portClock hw p = true →
      Effect (.portLightDetect p) s (setPState hw p psLock) .done) ∧
    (∀ failed : BitVec 17, st = psLock → bits (getLaser hw (p / 2)).fault 3 0 = 0 → (chooseWidth (failed ||| laneFails hw p ||| 0)).1 ≠ 0 →
      ∃ h, Effect (.lockDone p failed) s h .done ∧ pState h p = psAlign) ∧
    (st = psAlign → (chooseWidth (laneFails hw p)).1 ≠ 0 →
      Effect (.alignDone p true) s (setPState (widthEvents (setWidth hw p (chooseWidth (laneFails hw p))) p) p psLink) .done) ∧
    (st = psAlign → Effect (.alignDone p false) s (backToDark hw p) .done) ∧
    (st = psLink → ∃ h, Effect (.linkDone p) s h .done ∧ pState h p = psIdent ∧ (getPort h p).sent = false ∧
      (getPort h p).recOk = false ∧ h.pkg.identQ.getLast? = some p.val ∧ h.sent = .mgmt p 0 (getPort h p).nonceOut ::
        (if laneFails hw p = 0 then [] else [.mgmt p 3 (leBytes 3 (laneFails hw p).toNat)])) ∧
    ((psLock ≤ st && st ≤ psIdent) = true → Effect (.trainTimeout p) s (backToDark (ror hw (Reg.optErr p) 1) p) .done) ∧
    (st = psDark → (getPort hw p).holdoff = true → portEnabled hw p = true → portClock hw p = true →
      Effect (.retrainDelay p) s (trainStart hw p) .done) ∧
    (∀ nonce, st = psIdent → nonce.length = 32 →
      Effect (.identNonce p nonce) s (setPort hw p { getPort hw p with nonceIn := nonce }) .done) ∧
    (st = psIdent → hw.pkg.identQ.head? = some p.val → (getPort hw p).nonceIn.length = 32 →
      (getPort hw p).recOk = false →
      let own := ownRecord hw p
      let h := mgmtOut { hw with pkg := { hw.pkg with identQ := hw.pkg.identQ.tail } } p 1
        (identBytes own ++ Config.slhSign hw.idKey (signedBytes own (getPort hw p).nonceIn))
      Effect (.identSignDone p) s (setPort h p { getPort h p with sent := true }) .done) ∧
    (∀ r, st = psIdent →
      let refused := fun b : Nat =>
        let hw1 := ror (setPState hw p psIsolated) (Reg.optErr p) (2 ^ b)
        let id := r.id.toNat % 4096
        fabEvent { hw1 with pkg := { hw1.pkg with identQ := hw1.pkg.identQ.filter (fun x => x != p.val) } } 5 p id 0
      let hw1 := rsetN hw (Reg.optPartner p) (2 ^ 63 + r.kind.toNat % 4 * 2 ^ 61 + r.level.toNat % 8 * 2 ^ 56 +
        r.port.toNat % 256 * 2 ^ 48 + r.id.toNat % 4096 * 2 ^ 32 + r.up.toNat % 256 * 2 ^ 8 + r.down.toNat % 256)
      let hw2 := rset hw1 (Reg.optPartnerKey p) (word (leNat ((sha256 r.key).take 8)))
      let hw3 := setPort hw2 p { getPort hw p with key := r.key, recOk := true }
      Effect (.identRecord p r) s (match identCheck hw p r with
        | some b => refused b
        | none => if (getPort hw p).sent then portActive hw3 p else hw3) .done) ∧
    (arrives hw by_ = true →
      Effect (.adminDown by_ p v) s (optCtrlWrite p v hw).1 (optCtrlWrite p v hw).2 ∧
      Effect (.retrain by_ p v) s (optCmdWrite p v hw).1 (optCmdWrite p v hw).2)

/-- A port that carries traffic (R420–R423, R432, R441–R443): flits and idle flits, a FEC window, a lost lane and its
repair, the three losses of a link and the partner's close, the partner's advertisement and this package's own, an expired
route. -/
def Obligations.PortTrafficCompletes : Prop :=
  ∀ (p : PortId) (lane : Fin 17) (s : State), s.on →
    let hw := s.now
    let st := pState hw p
    let t := getPort hw p
    (psLink ≤ st → st ≠ psRepair →
      (∀ seq : BitVec 16, seq.toNat = t.rxNext → Effect (.optFlitReceive p true (.data seq)) s
        { setPort (radd hw (Reg.optRxFlitCnt p) 1) p { t with rxNext := (t.rxNext + 1) % 65536, rxNak := false } with
          sent := [.optFlit p (.ack (BitVec.ofNat 16 (t.rxNext + 1)))] } .done) ∧
      (∀ flit, Effect (.optFlitReceive p false flit) s
        { setPort hw p { t with rxNak := true } with sent := [.optFlit p (.nak (BitVec.ofNat 16 t.rxNext))] } .done) ∧
      Effect (.optIdleTimer p) s { hw with sent := [.optFlit p (.idle (BitVec.ofNat 16 t.txNext))] } .done ∧
      Effect (.noFlitTimeout p) s (linkLost hw p 1) .done) ∧
    (psLink ≤ st →
      (∀ csym cw corr uncorr, (List.range 17).filter (fun l => decide (atD 0 csym l > hw.img.laneLimit)) = [] →
        Effect (.fecWindow p csym cw corr uncorr) s (foldN 17
          (radd (radd (radd hw (Reg.optFecCwCnt p) cw) (Reg.optFecCorrCnt p) corr) (Reg.optFecUncorrCnt p) uncorr)
          (fun h l => rfield h (Reg.optLane p l) 31 0 (atD 0 csym l))) .done) ∧
      Effect (.mgmtLaneRepair p lane) s (failLanes hw p (BitVec.ofNat 17 (2 ^ lane.val))) .done ∧
      Effect (.fecLockLoss p) s (linkLost hw p 2) .done) ∧
    (psLock ≤ st → Effect (.laneSignalLoss p lane) s (laneDark p lane hw) .done) ∧
    (st = psRepair →
      (let w := chooseWidth (laneFails hw p)
       let hw1 := setPState (setWidth hw p w) p psActive
       let hw2 := setPort hw1 p { getPort hw1 p with repairing := 0 }
       let id := partnerId hw p
       Effect (.optRepairDone p) s (resendHeld (if w.1 = 1 ∧ pWidth hw p = 2 then portEvent hw2 3 p id 0
         else if w.2.1 ∧ rbit hw (Reg.optStatus p) 12 = false then portEvent hw2 2 p id 0 else portEvent hw2 9 p id 0)) .done) ∧
      Effect (.optRepairTimeout p) s (portDown hw p 4) .done) ∧
    (psIdent ≤ st → Effect (.mgmtClose p) s (linkLost hw p 5) .done) ∧
    (st = psActive → roleOf hw p = 1 → Effect (.advertisementSend p) s
      (mgmtOut hw p 2 ((advertList hw).flatMap (fun d => leBytes 2 d))) .done) ∧
    (∀ partners, pLive hw p = true → roleOf hw p = 1 → partners.length ≤ 16 → hw.img.transit = false →
      Effect (.advertisement p partners) s { hw with pkg := { hw.pkg with
        via := hw.pkg.via ++ (partners.map (fun d => (d.toNat, partnerId hw p))).filter (fun e => !hw.pkg.via.contains e) } } .done) ∧
    (∀ dest via, hw.pkg.via.contains (dest.toNat, via.toNat) = true → hw.img.transit = false →
      Effect (.viaExpire dest via) s { hw with pkg := { hw.pkg with
        via := hw.pkg.via.filter (fun e => e != (dest.toNat, via.toNat)) } } .done)
/-! ### Messages of other packages -/

/-- Requests of other packages at an ACTIVE port (R433–R439), addressed to this package: a write and a read of a tier
line, an atomic, a reduction, both semaphore updates, credits of a present core's slot, each with its reply; and the
levelled sender lets its oldest held message go (R435). -/
def Obligations.FabricRequestsComplete : Prop :=
  ∀ (p : PortId) (h : FabHdr) (s : State), s.on →
    let hw := s.now
    let a := h.addr.toNat
    pState hw p = psActive → h.dst = hw.img.pkgId → fabCut hw p h = false → fabHeld hw p h = false →
    (∀ data w, data.length = fabLen h → fabInBlock h = true → locate a = .tier0 →
      tierWrite 8 hw (fabAgent h) a data false h.hint.toNat h.htgt.toNat (fabRoe hw h) = some w →
      Effect (.fabWr p h data) s (fabReply w h 0x10 0 0 []) .done) ∧
    (∀ w bs, fabInBlock h = true → locate a = .tier0 →
      tierRead h.hint.toNat h.htgt.toNat 8 hw (fabAgent h) a (fabLen h) (fabRoe hw h) = some (w, bs, false) →
      Effect (.fabRd p h) s (fabReply w h 0x11 0 0 bs) .done) ∧
    (∀ fn r, amoFn h.func.toNat = some fn → fabLen h = 8 → inTier a = true → a % 8 = 0 →
      pocServe hw { mkReq .atomic (fabAgent h) (a / 64) with
        op := some (.amo fn 8 (a % 64) h.opnd h.cmp), roe := roePath hw a 8 } = some r → r.poison = false →
      Effect (.fabAtom p h) s (fabReply r.hw h 0x12 0 (word (leNat (slice r.old (a % 64) 8))) []) .done) ∧
    (∀ data w, data.length = fabLen h → fabInBlock h = true → atomOk (.reduce h.rop.toNat h.rfmt.toNat 0) = true →
      a % (fmtBits h.rfmt.toNat / 8) = 0 → fabLen h % (fmtBits h.rfmt.toNat / 8) = 0 → inTier a = true →
      reduceN ⟨h.rop.toNat, h.rfmt.toNat, h.hint.toNat, h.htgt.toNat, h.elem, 0⟩ (fabAgent h) (fabRoe hw h) 8 hw a data = some (w, false) →
      Effect (.fabRed p h data) s (fabReply w h 0x10 0 0 []) .done) ∧
    (∀ r, inTier a = true → a % 8 = 0 →
      pocServe hw { mkReq .atomic (fabAgent h) (a / 64) with
        op := some (.amo .add 8 (a % 64) h.opnd 0), roe := roePath hw a 8 } = some r → r.poison = false →
      Effect (.fabSemadd p h) s (fabReply r.hw h 0x10 0 0 []) .done) ∧
    (∀ r, inTier a = true → a % 8 = 0 →
      pocServe hw { mkReq .atomic (fabAgent h) (a / 64) with
        op := some (.amo .swap 8 (a % 64) h.opnd 0), roe := roePath hw a 8 } = some r → r.poison = false →
      Effect (.fabSemwr p h) s (fabReply r.hw h 0x10 0 0 []) .done) ∧
    (∀ c off, locate a = .spad c off → corePresent hw c = true →
      (let r := creditTake hw c (bits h.opnd 5 0) h.src.toNat h.agent.toNat
       Effect (.fabCtake p h) s (fabReply r.1 h 0x13 0 r.2 []) .done) ∧
      Effect (.fabCend p h) s (fabReply (creditEnd hw c (bits h.opnd 5 0) h.src.toNat h.agent.toNat) h 0x10 0 0 []) .done) ∧
    (∀ (level : Fin 5) m, paceNext hw level = some m →
      Effect (.paceRelease level) s (codecSweep (fabEmit { hw with pkg := { hw.pkg with
        held := hw.pkg.held.filter (fun x => x != m), tokens := mput (fun _ => 65536) hw.pkg.tokens level 65536 } } m.op m.hdr m.data m.req)) .done)

/-- A response that one of this package's requests awaits ends it (R439, R440): success, data, an atomic's old value, a
credit's grant, an error; a request that none answers in time ends as unreachable (R443). -/
def Obligations.FabricResponsesComplete : Prop :=
  ∀ (p : PortId) (h : FabHdr) (r : FabReq) (s : State), s.on →
    let hw := s.now
    let hw1 := { hw with pkg := { hw.pkg with fabReqs := hw.pkg.fabReqs.filter (fun x => x.tag != r.tag) } }
    (pState hw p = psActive → h.dst = hw.img.pkgId → hw.pkg.fabReqs.find? (fun r => r.tag == h.tag.toNat) = some r →
      responseHeld hw (4 + p / 8) r = false →
      Effect (.fabCmp p h) s (fabEnd hw1 r stSuccess [] 0) .done ∧
      (∀ data, Effect (.fabRddata p h data) s (fabEnd hw1 r stSuccess data 0) .done) ∧
      Effect (.fabAtomrsp p h) s (fabEnd hw1 r stSuccess [] h.opnd) .done ∧
      Effect (.fabCtakersp p h) s (fabEnd hw1 r stSuccess [] h.opnd) .done ∧
      Effect (.fabErr p h) s (fabEnd hw1 r (errStatus h.status.toNat) [] 0) .done) ∧
    (∀ tag : BitVec 20, hw.pkg.fabReqs.find? (fun r => r.tag == tag.toNat) = some r →
      Effect (.fabRequestTimeout tag) s (fabEnd hw1 r stUnreachable [] 0) .done)

/-! ### CXL ports -/

/-- The upstream port (R447–R451, R459, R513, R547): training ends once boot has, the host reads and writes MSI-X bytes
through BAR4, commits a decoder, fires a vector, reads its report and certificates; the link goes down, PERST comes and
goes. -/
def Obligations.UpstreamPortCompletes : Prop :=
  ∀ (by_ : Agent) (a : AceloId) (s : State), s.on →
    let hw := s.now
    (∀ cxl, cxuMode hw a = 0 → (getAcelo hw a).perst = false → 10 ≤ s.sec.step → rbit hw (Reg.clkPllStatus (4 + a)) 40 = true →
      let hw1 := touch (touch hw (Reg.cxuRxFlitCnt a)) (Reg.cxuTxFlitCnt a)
      Effect (.upstreamLinkUp a cxl) s (linkTrained (rfield hw1 (Reg.cxuStatus a) 49 48 (if cxl then 1 else 2)) (Reg.cxuStatus a)) .done) ∧
    (cxuMode hw a ≠ 0 → portFenced hw (.upstream a) = false →
      (∀ off size, off + size ≤ 65536 →
        Effect (.hostBarAccess a 2 off size false [] false) s hw (.bytes (bar4Read hw a off size)) ∧
        (∀ data, data.length = size → Effect (.hostBarAccess a 2 off size true data false) s (bar4Write hw a off data) .done)) ∧
      (10 ≤ s.sec.step → (getAcelo hw a).doe = none →
        (∀ nonce mask, nonce.length = 32 → hw.pkg.identQ ≠ [] →
          Effect (.doeReport a nonce mask) s (setAcelo hw a { getAcelo hw a with doe := some (nonce, mask) }) .pending) ∧
        (∀ nonce mask, nonce.length = 32 → hw.pkg.identQ = [] → Effect (.doeReport a nonce mask) s hw
          (.bytes (reportBytes hw s.sec nonce mask ++ Config.slhSign hw.idKey (reportBytes hw s.sec nonce mask)))) ∧
        (∀ off len, len ≤ 4096 → Effect (.doeCerts a off len) s hw (.bytes (slice hw.idCert off len))))) ∧
    (cxuMode hw a ≠ 0 → Effect (.upstreamLinkDown a) s (cxuDown hw a) .done) ∧
    (cxuMode hw a = 0 → Effect (.cxuPerst a) s (setAcelo hw a { getAcelo hw a with perst := true }) .done) ∧
    ((getAcelo hw a).perst = true → Effect (.cxuPerstRelease a) s (setAcelo hw a { getAcelo hw a with perst := false }) .done) ∧
    (∀ (n : Fin 2) (base : Word), cxuMode hw a = 1 → base.toNat % 2 ^ 28 = 0 →
      Effect (.hdmDecoderCommit a n base) s (ror (rset hw (if n.val = 0 then Reg.cxuHdmBase0 a else Reg.cxuHdmBase1 a) base)
        (Reg.cxuStatus a) (2 ^ (40 + n.val))) .done) ∧
    (∀ v, arrives hw by_ = true → Effect (.msixTrigger by_ a v) s (msixFire hw a (bits v 10 0)) .done)

/-- The downstream port (R452–R468): a device's read through a placement window, a held write released, windows armed,
an invalidation asked for and done, an outstanding request expired or completed, loss, presence and the secondary reset. -/
def Obligations.DownstreamPortCompletes : Prop :=
  ∀ (by_ : Agent) (a : AceloId) (s : State), s.on →
    let hw := s.now
    let t := getAcelo hw a
    (∀ (req : InbReq) w x, rbits hw (Reg.cxdStatus a) 41 40 ≠ 0 → rbit hw (Reg.cxdStatus a) 33 = false → req.len ≠ 0 →
      req.addr.toNat % 4096 + req.len ≤ 4096 → req.write = false → req.pasid = false → winFind hw a req = some w →
      rbit hw (Reg.iotWinTgt a w) 1 = true → locate (winTgt hw a w + (req.addr.toNat - winBase hw a w)) = .tier0 →
      fencedHome hw (.adapter a) (winTgt hw a w + (req.addr.toNat - winBase hw a w)) = false →
      pocReadN (req.len / 64 + 2) (radd hw (Reg.cxdInbCnt a) 1) (.adapter a) (winTgt hw a w + (req.addr.toNat - winBase hw a w)) req.len = some x →
      Effect (.inboundRequest a req) s (consumed x.1 (.adapter a) (winTgt hw a w + (req.addr.toNat - winBase hw a w)) x.2.2) (if x.2.2 then .poisoned x.2.1 else .bytes x.2.1)) ∧
    (∀ x rest, t.roHeld = x :: rest → inboundHeld hw a x.tgt = false → adapterBusy hw a x.seq = false →
      Effect (.roWriteRelease a) s (inboundWrite (setAcelo hw a { t with roHeld := rest }) a x) .done) ∧
    (arrives hw by_ = true →
      (∀ (w : Fin 256) v, bit v 0 = true → Effect (.iotWinEnable by_ a w v) s (iotTgtWrite a w v hw).1 (iotTgtWrite a w v hw).2) ∧
      (∀ v, Effect (.iotInv by_ a v) s (iotInvWrite a v hw).1 (iotInvWrite a v hw).2)) ∧
    (∀ w n rest, t.inv = (w, n) :: rest → adapterBusy hw a n = false → t.roHeld.any (fun h => h.win == w && decide (h.seq < n)) = false →
      Effect (.iotInvDone a) s (setAcelo (rfield hw (Reg.iotInvSeq a) 31 0 (rbits hw (Reg.iotInvSeq a) 31 0 + 1)) a
        { t with inv := rest }) .done) ∧
    (∀ tag r h, takeDs hw a tag = some (r, h) → Effect (.completionTimeout a tag) s (dsExpired h a r).1 (dsExpired h a r).2) ∧
    (∀ tag r h data ag, takeDs hw a tag = some (r, h) → r.who = .agent ag →
      Effect (.completionReceived a tag .success data false) s h (.value (word (leNat data)))) ∧
    (∀ dpc, rbits hw (Reg.cxdStatus a) 41 40 ≠ 0 → Effect (.surpriseDown a dpc) s (cxdDown a dpc hw) .done) ∧
    (let hw0 := if rbits hw (Reg.cxdStatus a) 41 40 = 0 then deviceGone hw a else cxdDown a false hw
     let hw1 := rfield (rfield hw0 (Reg.cxdStatus a) 32 32 0) (Reg.cxdStatus a) 53 52 0
     let hw3 := linkDark (rfield hw1 (Reg.cxdStatus a) 41 40 0) (Reg.cxdStatus a)
     ∀ link, Effect (.presenceChange a false link) s
       (message hw3 (4 + a) (Reg.cxdMsiAddr a) (rget hw3 (Reg.cxdMsiData a)).toNat) .done) ∧
    (Effect (.secondaryBusReset a true) s (linkDark (rfield (setAcelo hw a { t with cxdPerst := true, roHeld := [] })
      (Reg.cxdStatus a) 41 40 0) (Reg.cxdStatus a)) .done ∧
     Effect (.secondaryBusReset a false) s (setAcelo hw a { t with cxdPerst := false }) .done)
/-! ### Power -/

/-- The supply and the governor (R470–R495): a sample within range is taken, a droop stretches a group and ends, ticks of
the slew limiter and its split, grants, the peak path, the brake asserted, measured, released and lifted step by step, the
sustained loop, held and received targets, energies and the power model's trim. -/
def Obligations.PowerCompletes : Prop :=
  ∀ (a : AceloId) (g : GroupId) (d : DieId) (s : State), s.on →
    let hw := s.now
    (activeGroup hw g = true → (getGp hw g).droop = 1 →
      Effect (.droopDetect g) s (radd (setGp hw g { getGp hw g with droop := 2 }) (Reg.cgDroopCnt g) 1) .done) ∧
    ((getGp hw g).droop ≠ 1 → Effect (.droopClear g) s (setGp hw g { getGp hw g with droop := 1 }) .done) ∧
    (∀ rise rose, Effect (.slewTick a rise rose) s (slewTick a rise rose hw) .done) ∧
    (∀ n m, Effect (.slewSplit n m) s (slewSplit n m hw) .done) ∧
    (∀ e x, hw.ramps.find? (fun e => rampHalf e == a.val) = some e → grantCost hw a e = some x →
      Effect (.rampGrant a) s (rampGrant a hw).1 .done) ∧
    (∀ w, Effect (.peakCheck w) s (peakCheck w hw) .done) ∧
    (hw.pow.brake = false → 1 ≤ s.sec.step → Effect .brakeAssert s (brakeAssert hw) .done) ∧
    (hw.pow.brake = true →
      (∀ w, Effect (.brakeCheck w) s (brakeCheck w hw) .done) ∧ Effect .brakeRelease s (brakeRelease hw) .done) ∧
    (hw.pow.brake = false → (List.range 64).any (fun g => (getGp hw g).brake != 1) = true →
      Effect .brakeKStep s (brakeStep hw) .done) ∧
    (∀ x y z, 6 ≤ s.sec.step → pcpRuns hw hw.pkg.primary = true → Effect (.sustainedTick x y z) s (sustained x y z hw) .done) ∧
    Effect .targetHoldTimeout s hw .done ∧
    (∀ t, pcpRuns hw (1 - hw.pkg.primary) = true → Effect (.targetsReceive t) s (targetsApply t hw) .done) ∧
    (∀ pkg dies cores, energyOk hw pkg cores = true → Effect (.energyUpdate pkg dies cores) s (energyUpdate pkg dies cores hw) .done) ∧
    (∀ me mo est tj thr, 0 < mo → Effect (.pwrTrimUpdate d me mo est tj thr) s (trimUpdate d me mo est tj thr hw) .done)

/-- What takes the supply away and gives it back (R470–R473, R546, R554): a sample, an overvoltage or sag past its bound,
thermal shutdown, VIN good again, VIN low releasing the thermal pin. -/
def Obligations.SupplyCompletes : Prop :=
  ∀ (a : AceloId) (mv ma : Nat) (s : State),
    let hw := s.now
    (s.on → (vinTake hw a mv ma).2 = none →
      Effect (.vinSample a mv ma) s (vinTake hw a mv ma).1 .done) ∧
    (s.on → (15000 < (getHalf hw 0).mv ∨ 15000 < (getHalf hw 1).mv) →
      EffectSec .overvoltageTimeout s (railsDown 1 1 hw s.sec).1 (railsDown 1 1 hw s.sec).2 .done) ∧
    (s.on → hw.pow.sag = true → EffectSec .sagTimeout s (railsDown 1 4 hw s.sec).1 (railsDown 1 4 hw s.sec).2 .done) ∧
    (s.on → EffectSec .thermalShutdown s (railsDown 2 0 hw s.sec).1 (railsDown 2 0 hw s.sec).2 .done) ∧
    (s.hw.pow.off ≠ 0 → s.hw.pow.therm = false →
      exec .vinGood s = .next { s with hw := (vinGood hw s.sec).1, sec := (vinGood hw s.sec).2.1, answer := .done }) ∧
    (s.hw.pow.therm = true → exec .vinLowRelease s = .next { s with
      hw := { hw with pow := { hw.pow with therm := false } }, answer := .done })

/-! ### Boot, resets, errors -/

/-- Boot and resets (R506–R515): the reset button and PCP_RESET's two kinds, a boot step that ends and one that passes its
bound, a halt's line. -/
def Obligations.BootCompletes : Prop :=
  ∀ (by_ : Agent) (v : Word) (s : State), s.on →
    let hw := s.now
    EffectSec .coldRst s (coldReset 2 hw s.sec).1 (coldReset 2 hw s.sec).2 .done ∧
    (1 ≤ s.sec.step → EffectSec .warmRst s (warmReset 5 hw s.sec).1 (warmReset 5 hw s.sec).2 .done) ∧
    (1 ≤ s.sec.step → mayAccess hw by_ = true → bits v 63 48 = 0xA5C3 →
      (bits v 1 0 = 1 → EffectSec (.pcpResetCold by_ v) s (coldReset 4 hw s.sec).1 (coldReset 4 hw s.sec).2 .done) ∧
      (bits v 1 0 = 2 → EffectSec (.pcpResetWarm by_ v) s (warmReset 4 hw s.sec).1 (warmReset 4 hw s.sec).2 .done)) ∧
    (∀ (cycles : BitVec 32) inp r, s.sec.halts = [] → s.sec.maint = false → s.sec.step < 10 →
      bootEffect (s.sec.step + 1) cycles.toNat inp (hw, s.sec) = some r →
      EffectSec (.bootStepDone cycles inp) s (bootStep cycles inp hw s.sec).1 (bootStep cycles inp hw s.sec).2.1 .done) ∧
    (∀ (die : DieId) (gen : Fin 256), s.sec.halts = [] → s.sec.maint = false → s.sec.step = 1 → gen.val < 48 →
      let r := halt hw.pkg.primary (haltWord 6 2 die gen) (hw, s.sec)
      EffectSec (.bootStepTimeout die gen) s r.1 r.2 .done) ∧
    (s.sec.halts ≠ [] → Effect .haltLineRepeat s { hw with sent := s.sec.halts.map (fun h => .mon h.1 (haltLine h.2)) } .done)

/-- Errors and liveness (R30, R32, R37, R504, R517–R526, R561): a generator lost, heartbeats sent on both columns by a PCP
that works, received and missed, a fatal line said again, a scrub read, windows of corrected errors (that bit errors come
about with a window is the model's own, log 65), an injection armed. -/
def Obligations.ErrorsComplete : Prop :=
  ∀ (by_ : Agent) (a : AceloId) (d : DieId) (k : CtlId) (gen : Fin 48) (v : Word) (s : State), s.on →
    let hw := s.now
    (rbit hw (Reg.clkPllStatus d) gen = true → Effect (.pllLoss d gen) s (pllLoss d gen hw) .done) ∧
    (hw.stop = true → hw.fatal.any (fun f => halfOfDie f.1 == a.val) = true → Effect (.fatalLineRepeat a) s
      { hw with sent := (hw.fatal.filter (fun f => halfOfDie f.1 == a.val)).map (fun f => fatalText f.1 f.2) } .done) ∧
    (6 ≤ s.sec.step →
      (mget (fun _ => 0) hw.pcpFlip a = 0 → rbit hw (Reg.clkPllStatus (4 + a)) 17 = true →
        Effect (.heartbeatSend a) s { hw with sent := [.heartbeat a false, .heartbeat a true] } .done) ∧
      (∀ col, pcpRuns hw a = true → columnOpen hw (5 - a) (4 + a) col = true →
        Effect (.heartbeatReceive a col) s (heartbeatIn a hw) .done) ∧
      (pcpRuns hw a = true → rbit hw (Reg.pcpHbStatus a) 0 = false → Effect (.heartbeatTimeout a) s (heartbeatLost a hw) .done)) ∧
    (ctlState hw k = 4 → (getCtl hw k).selfRef = false → bit hw.img.errPolicy 2 = false →
      Effect (.scrubRead k) s (scrubStep k hw) .done) ∧
    Effect (.ceWindowExpire d) s (strike d (setDie hw d { getDie hw d with ceCount := 0, storm := false })) .done ∧
    (∀ (unit : BitVec 6) (inst : BitVec 12), (getDie hw d).ceLogged.contains (unit.toNat, inst.toNat) = true →
      Effect (.ceLogInterval d unit inst) s (setDie hw d { getDie hw d with
        ceLogged := (getDie hw d).ceLogged.filter (fun x => x != (unit.toNat, inst.toNat)) }) .done) ∧
    (arrives hw by_ = true → Effect (.rasInject by_ d v) s (injectWrite d v hw).1 (injectWrite d v hw).2)

/-- Reading a POP register (R461, R562): the oldest entry leaves and is the value read, its high half where the high half
is asked for; the block gives 0 when it is empty. -/
def Obligations.PopReads : Prop :=
  ∀ (by_ : Agent) (high : Bool) (s : State), s.on → arrives s.now by_ = true →
    let hw := s.now
    let pop := fun (i : Instr) (addr : Nat) =>
      let r := logPop hw by_ addr
      Effect i s r.2 (.value (if high then r.1.1 >>> 32 else r.1.1))
    (∀ d : DieId, pop (.rasLog by_ d high) (Reg.rasLog d) ∧ pop (.ertEvtLog by_ d high) (Reg.ertEvtLog d)) ∧
    (∀ c : CoreId, corePresent hw c = true → pop (.spcViolLog by_ c high) (Reg.spcViolLog c) ∧
      pop (.qfeErrLog by_ c high) (Reg.qfeErrLog c) ∧ pop (.atuErrLog by_ c high) (Reg.atuErrLog c)) ∧
    (∀ k : Fin 12, pop (.hbmTgErrLog by_ k high) (ctlTgErrLog k)) ∧
    (∀ k : Fin 16, pop (.lpdTgErrLog by_ k high) (ctlTgErrLog (12 + k))) ∧
    pop (.pcpMigErrLog by_ high) (Reg.pcpMigErrLog hw.pkg.primary) ∧
    pop (.pcpFabEvtLog by_ high) (Reg.pcpFabEvtLog hw.pkg.primary) ∧
    pop (.pcpPwrEvtLog by_ high) (Reg.pcpPwrEvtLog hw.pkg.primary) ∧
    (∀ a : AceloId, pop (.cxuErrLog by_ a high) (Reg.cxuErrLog a) ∧ pop (.cxdErrLog by_ a high) (Reg.cxdErrLog a)) ∧
    (∀ h : HartId, Effect (.hclBerrLog by_ h high) s (berrPop hw by_ h).2
      (.value (if high then (berrPop hw by_ h).1.1 >>> 32 else (berrPop hw by_ h).1.1)))

/-- Register accesses without a row of their own (R12, R14, R562). Every 64-bit write, and every aligned 32-bit write, to a
register of the window completes: one to a read-only or POP register changes nothing; any other has the register's own
effect on the value the write amounts to. A whole write clears the bits it names of a W1C register and sets an RW register
of a core's engines. A 32-bit read of the low half of a POP register removes nothing and gives the low half of what this
initiator's last POP read took. A hart's read of its `time` CSR, for which no row stands, gives what the REF counter of its
own Acelo then holds (R48). -/
def Obligations.RegisterAccessesComplete : Prop :=
  ∀ (by_ : Agent) (addr : Nat) (v : Word) (s : State), s.on →
    let hw := s.now
    (inRegWindow addr = true →
      let r := busWrite by_ (.agent by_) addr 8 v hw s.sec
      EffectSec (.registerWrite by_ addr 8 v) s r.1 r.2.1 r.2.2) ∧
    (∀ h : HartId, (csrRead hw h 0xC01).2 = rget (csrRead hw h 0xC01).1 (Reg.clkRefCnt (hartDie h))) ∧
    (∀ b off row n, arrives hw by_ = true → blkOf hw addr = some (b, off) → rowAt hw b (off - off % 8) = some (row, n) →
      (∀ size, regAccessOk off size = true →
        let o := off - off % 8
        let w := widened row (rget hw (blkAddr b o)) off size v
        (row.acc = .ro ∨ row.acc = .pop → Effect (.registerWrite by_ addr size v) s hw .done) ∧
        (row.acc ≠ .ro → row.acc ≠ .pop →
          let half := if size = 4 then halfWrite b o (off % 8 == 4) w row hw else none
          (∀ h, half = some h → Effect (.registerWrite by_ addr size v) s h .done) ∧
          (half = none →
            (∀ c sub, b = .core c sub → Effect (.registerWrite by_ addr size v) s (coreWrite c sub o row w hw).1 .done) ∧
            (∀ d k, b = .die d k → ¬ (k = 0x50 ∧ o = 0xE028) →
              Effect (.registerWrite by_ addr size v) s (dieWrite d k o row w hw).1 .done) ∧
            (∀ d, b = .die d 0x50 → o = 0xE028 →
              let r := pcpResetWrite w hw s.sec
              EffectSec (.registerWrite by_ addr size v) s r.1 r.2.1 .done)))) ∧
      (off % 8 = 0 →
        (row.acc = .pop →
          Effect (.popLowHalfRead by_ addr) s hw (.value (word (bits (lastPopped hw by_ (blkAddr b off)).1 31 0)))) ∧
        (row.acc = .w1c →
          Effect (.registerWrite by_ addr 8 v) s
            (rset hw (blkAddr b off) (rget hw (blkAddr b off) &&& ~~~ (v &&& word row.mask))) .done) ∧
        (∀ c sub, b = .core c sub → 4 ≤ sub → row.acc = .rw →
          Effect (.registerWrite by_ addr 8 v) s (rset hw (blkAddr b off) (v &&& word row.mask)) .done))) ∧
    (arrives hw by_ = true → ∀ d : DieId,
      Effect (.popLowHalfRead by_ (Reg.rasLog d)) s hw (.value (word (bits (lastPopped hw by_ (Reg.rasLog d)).1 31 0))) ∧
      Effect (.registerWrite by_ (Reg.rasLog d) 8 v) s hw .done)

/-! ### The Tahr monitor, the loader -/

/-- A command typed while none runs, at a monitor that answers (R535–R541), prints its lines and final line. -/
def Obligations.MonitorCompletes : Prop :=
  ∀ (s : State), s.on → s.monIdle →
    let ran := fun (i : Instr) (c : MonCmd) => EffectMon i s (monAct (monRun (some c)) (s.now, s.sec))
    ran .monHelp .help ∧ ran .monId .id ∧ ran .monPwr .pwr ∧ ran .monLink .link ∧ ran .monChal .chal ∧ ran .monLock .lock ∧
    ran .monReset .reset ∧
    (∀ a n, ran (.monPeek a n) (.peek a n) ∧ ran (.monDump a n) (.dump a n)) ∧
    (∀ a n (v : Word), ran (.monPoke a n v) (.poke a n v.toNat)) ∧
    (∀ (d : Option DieId) (c : Option CoreId), ran (.monCnt d c) (.cnt (d.map (·.val)) (c.map (·.val))) ∧
      ran (.monLog d) (.log (d.map (·.val)))) ∧
    (∀ (k : CtlId) u, ran (.monMargin k u) (.margin (ctlDie k) (ctlIdx k) u)) ∧
    (∀ (k : CtlId) m p o b l, ran (.monTg k m p o b l) (.tg (ctlDie k) (ctlIdx k) m p o b l)) ∧
    (∀ n, ran (.monUpload n) (.upload n) ∧ ran (.monUnlock n) (.unlock n) ∧ ran (.monRevoke n) (.revoke n)) ∧
    (∀ ch, EffectMon (.monChar ch) s (monTyped ch (s.now, s.sec)))

/-- What reaches the monitor while a command of its own waits (R536, R539): 0x03 ends a wait for a controller with ERR 0D
ABORT and what was typed meanwhile is taken; a gap in an upload ends it with ERR 07 TIMEOUT and clears the buffer. -/
def Obligations.MonitorWaitsEnd : Prop :=
  ∀ (s : State), s.on → monUp s.sec = true →
    (monWaits s.sec.mon = true → EffectMon .monAbort s (monFeed 257 (monStop (s.now, s.sec)))) ∧
    (∀ n, s.sec.mon.wait = .upload n → EffectMon .monUploadTimeout s
      (monAct (fun hw sec => MonRun.fail hw { sec with mon := { sec.mon with coming := [], upload := [] } } [] 7) (s.now, s.sec)))

/-- R251: a load ends with its code. One that fails leaves the hardware as it was; one that succeeds keeps its
translation under the module's MEAS and the table's digest (R252) and puts its commands into new ring slots and segments
(R253). The table must be ready, and one that no longer has the digest read before the translation ends no load well. The
translation a load keeps shares no local semaphore and no credit slot of a core with a live one of another context (R253). -/
def Obligations.LoaderCompletes : Prop :=
  ∀ (m : List Byte) (q : LoadReq) (s : State), s.on →
    let dpt := fun n => rget s.now (Reg.pcpDpt s.now.pkg.primary n)
    let i : Instr := .mkcLoad m q
    let code := loadCode s.now dpt m q
    let ctx := q.ctx.toNat
    let cores := moduleCores dpt m q.group.val
    let meet := fun (k x : KeptSnc) => ∃ c ∈ k.snc.map (·.1), c ∈ x.snc.map (·.1)
    let apart := fun (range : KeptSnc → Nat × Nat) (k x : KeptSnc) =>
      (range k).1 + (range k).2 ≤ (range x).1 ∨ (range x).1 + (range x).2 ≤ (range k).1
    Effect i s (if code = 0 then mkcDo dpt m q s.now else s.now) (.value (word code)) ∧
    (code ≠ 0 → Effect i s s.now (.value (word code))) ∧
    (bit (dpt 0) 63 = false → code = 8) ∧ (q.digest ≠ dpt 1 → code ≠ 0) ∧
    (rangeFree s.now cores ctx q.lsem (mkcLsems m) lsemRange = false → code ≠ 0) ∧
    (rangeFree s.now cores ctx q.slot (Config.mkcCredits m q.group.val (dptList dpt)) slotRange = false → code ≠ 0) ∧
    (rangeFree s.now cores ctx q.lsem (mkcLsems m) lsemRange = true →
      rangeFree s.now cores ctx q.slot (Config.mkcCredits m q.group.val (dptList dpt)) slotRange = true →
      (∀ k ∈ s.hw.kept, ∀ x ∈ s.hw.kept, k.live = true → x.live = true → k.ctx ≠ x.ctx → meet k x → apart lsemRange k x ∧ apart slotRange k x) →
      let r := mkcKeep dpt m q s.now
      r.2 ∈ r.1.kept ∧ r.2.live = true ∧ r.2.meas = (m.drop 32).take 32 ∧ r.2.digest = dpt 1 ∧ r.2.ctx = ctx ∧
      (∀ x ∈ r.1.kept, x.live = true → x.ctx ≠ ctx → meet r.2 x → apart lsemRange r.2 x ∧ apart slotRange r.2 x))

/-! ### Security, boot and resets -/

/-- Fuses only rise: whatever the command, a revocation bit stays blown and FUSE_SVN does not fall, nor pass its 32 steps
(R500, R502). -/
def Obligations.FusesOnlyRise : Prop :=
  ∀ s t : State, s.sec.fuseSvn ≤ 32 → step s = .next t → Sec.fusesKept s.sec t.sec ∧ t.sec.fuseSvn ≤ 32

/-- The security state keeps its bounds at every step: boot step, fuse counter, the six measurement registers of 32 bytes,
the monitor's line of 160 and buffer of 256 characters (R500, R509, R511, R535). -/
def Obligations.SecurityStateBounded : Prop :=
  ∀ s t : State, Sec.bounded s.sec → step s = .next t → Sec.bounded t.sec

/-- The state right after a cold reset has these bounds. -/
def Obligations.SecurityBoundedAtReset : Prop := Sec.bounded State.reset.sec

/-- On a production-locked part a LOCKED monitor stays LOCKED, whatever the command, unless a signature under a key of the
image verifies over a challenge bound to the part's identity key (R537, R539). -/
def Obligations.UnlockNeedsSignature : Prop :=
  ∀ s t : State, s.hw.locked = true → s.sec.mon.unlocked = false → step s = .next t →
    (∀ key ∈ t.sec.monKeys, ∀ nonce sig : List Byte,
      Config.slhVerify key (ascii "TLV-TAHR-1" ++ nonce ++ t.hw.idKey) sig = false) → t.sec.mon.unlocked = false

/-- After boot step 8 no command writes or extends a measurement register; only a reset clears them (R511). -/
def Obligations.MeasurementsFinal : Prop :=
  ∀ s t : State, 8 ≤ s.sec.step → step s = .next t → 2 ≤ t.sec.step → t.sec.meas = s.sec.meas

/-- What COLD_RST_N leaves (R506, R511, R514, R537): memory listing nothing, every core as at power-on with its queues
OFF, scratchpad and credits cleared, the boot at its start, measurements zero, the monitor LOCKED exactly on a
production-locked part, the fuses, the reset cause. -/
def Obligations.ColdResetLeaves : Prop :=
  ∀ s t : State, s.on → exec .coldRst s = .next t →
    (t.hw.mem.data = [] ∧ t.hw.mem.poison = [] ∧ t.hw.mem.slc = [] ∧ t.hw.mem.filt = []) ∧
    (∀ c, getCore t.hw c = Core.reset) ∧ (∀ c q, (getQueue t.hw c q).st = 0) ∧
    (∀ c n : Nat, c < 512 → n < 64 → (getSlot t.hw c n).state = 0) ∧ (∀ h, getHart t.hw h = Hart.reset) ∧
    t.hw.fenced = 0 ∧ t.hw.stop = false ∧ t.hw.present = s.hw.present ∧ t.hw.locked = s.hw.locked ∧
    t.sec.step = 0 ∧ t.sec.cold = true ∧ (∀ m ∈ t.sec.meas, m = List.replicate 32 0) ∧
    t.sec.mon.unlocked = !s.hw.locked ∧ t.sec.mon.wait = .idle ∧
    t.sec.revoked = s.sec.revoked ∧ t.sec.fuseSvn = s.sec.fuseSvn ∧
    (∀ a : AceloId, (rget t.hw (Reg.pcpRstCause a)).toNat = s.hw.fenced.toNat * 2 ^ 12 + 0x21)

/-- What WARM_RST_N keeps and clears (R506, R511, R537): with nothing in flight, buffered or dirty at the cores, the
combining trees and the harts, and no message write under way, tier memory and its poison are as before; queues are OFF, credits EMPTY, the boot goes on at
step 2, measurements are zero, the monitor is LOCKED exactly on a production-locked part, the fuses stand. -/
def Obligations.WarmResetKeepsMemory : Prop :=
  ∀ s t : State, s.on → 1 ≤ s.sec.step →
    (∀ c, (getCore s.hw c).mb = [] ∧ (getCore s.hw c).recs = [] ∧ ∀ m ∈ (getCore s.hw c).cmds, m.stage = .fetching) →
    (∀ d, ∀ e ∈ (getTree s.hw d).nodes, e.2 = []) →
    (∀ h, (getHart s.hw h).sb = [] ∧ (getHart s.hw h).wbuf = [] ∧
      ∀ e ∈ (getHart s.hw h).lines, ∀ l, e.2 = some l → l.st ≠ .m) → s.hw.msgs = [] →
    exec .warmRst s = .next t →
    t.hw.mem.data = s.hw.mem.data ∧ t.hw.mem.poison = s.hw.mem.poison ∧ t.hw.mem.traffic = s.hw.mem.traffic ∧
    (∀ c q, (getQueue t.hw c q).st = 0) ∧ (∀ c, (getCore t.hw c).spad = [] ∧ (getCore t.hw c).acc = []) ∧
    (∀ c n : Nat, c < 512 → n < 64 → (getSlot t.hw c n).state = 0) ∧
    t.sec.step = 1 ∧ t.sec.cold = false ∧ (∀ m ∈ t.sec.meas, m = List.replicate 32 0) ∧
    t.sec.mon.unlocked = !s.hw.locked ∧ t.sec.revoked = s.sec.revoked ∧ t.sec.fuseSvn = s.sec.fuseSvn

/-! ### Placement of addresses -/

/-- Where a tier-0 address lies (R313–R315): with L GiB local to each compute die, the stack, the pseudo-channel and the
offset by the formulas of R315 in the interleaved and in a local region, each within its range, and no two addresses at
one place, as the place gives the address back. -/
def Obligations.TierZeroPlaces : Prop :=
  ∀ l a : Nat, l % 3 = 0 → l ≤ 192 → a < 768 * gib →
    let r := decodeT0 l a
    let p := fun v : Nat => (v % 32) ^^^ (v / 32 % 32) ^^^ (v / 1024 % 32)
    (a < (768 - 4 * l) * gib →
      r = (a / 256 % 12, p (a / 256 / 12), 256 * (a / 256 / 12 / 32) + a % 256)) ∧
    (∀ d o : Nat, d < 4 → o < l * gib → a = (768 - 4 * l + d * l) * gib + o →
      r = (3 * d + o / 256 % 3, p (o / 256 / 3), (64 - l / 3) * gib / 32 + 256 * (o / 256 / 3 / 32) + o % 256)) ∧
    r.1 < 12 ∧ r.2.1 < 32 ∧ r.2.2 < 2 * gib ∧ encodeT0 l r.1 r.2.1 r.2.2 = a

/-- Where a tier-1 address lies (R313, R314, R316): the device, the channel and the offset by the formulas of R316, each
within its range; the place gives the address back. -/
def Obligations.TierOnePlaces : Prop :=
  ∀ m a : Nat, m % 8 = 0 → m ≤ 1024 → 0x010000000000 ≤ a → a < 0x010000000000 + 2048 * gib →
    let r := decodeT1 m a
    let x := a - 0x010000000000
    let ch := fun v : Nat => (v % 8) ^^^ (v / 8 % 8) ^^^ (v / 64 % 8)
    (x < (2048 - 2 * m) * gib → r = (x / 256 % 16, ch (x / 256 / 16), 256 * (x / 256 / 16 / 8) + x % 256)) ∧
    (∀ n o : Nat, n < 2 → o < m * gib → x = (2048 - 2 * m + n * m) * gib + o →
      r = (8 * n + o / 256 % 8, ch (o / 256 / 8), (128 - m / 8) * gib / 8 + 256 * (o / 256 / 8 / 8) + o % 256)) ∧
    r.1 < 16 ∧ r.2.1 < 8 ∧ r.2.2 < 16 * gib ∧ encodeT1 m r.1 r.2.1 r.2.2 = a

/-- The home slice of a tier address (R372): both lines of a 128-byte block have the same home; on a compute die it is
the XOR of the 7-bit fields of A >> 7, on an Acelo of its 5-bit fields, under the die's name. -/
def Obligations.HomeSlices : Prop :=
  ∀ (hw : Hw) (a : Nat), inTier a = true →
    let u := a / 128
    let f := nbits u
    (∀ b : Nat, b / 128 = u → homeSlice hw b = homeSlice hw a) ∧
    (a < 0x00C000000000 → homeDie hw a < 4) ∧ (0x010000000000 ≤ a → homeDie hw a = 4 ∨ homeDie hw a = 5) ∧
    (homeDie hw a < 4 → homeSlice hw a = 128 * homeDie hw a +
      (f 6 0 ^^^ f 13 7 ^^^ f 20 14 ^^^ f 27 21 ^^^ f 34 28 ^^^ f 41 35 ^^^ f 44 42)) ∧
    (4 ≤ homeDie hw a → homeSlice hw a = 128 * homeDie hw a +
      (f 4 0 ^^^ f 9 5 ^^^ f 14 10 ^^^ f 19 15 ^^^ f 24 20 ^^^ f 29 25 ^^^ f 34 30 ^^^ f 39 35 ^^^ f 44 40)) ∧
    homeSlice hw a < 128 * homeDie hw a + (if homeDie hw a < 4 then 128 else 32)

/-- R20: host cores are numbered 12 × cluster + core, core 0–11; clusters 0–2 are on AID-N, die 4, and clusters 3–5 on
AID-S, die 5. -/
def Obligations.HartNumbering : Prop :=
  ∀ h : HartId, h.val = 12 * hartCl h + hartIdx h ∧ hartIdx h < 12 ∧ hartCl h < 6 ∧
    (hartCl h ≤ 2 → hartDie h = 4) ∧ (3 ≤ hartCl h → hartDie h = 5)

/-! ### Registers of the engines -/

/-- POP registers serve their readers one at a time (R461, R529): each takes the oldest entry and leaves the rest, two
readers in turn take two entries, an empty register gives 0 and stays empty; what a reader's companion register shows
is the entry that reader took, whatever another reader takes after it; other registers' entries stay. -/
def Obligations.PopTakesOldest : Prop :=
  ∀ (hw : Hw) (i j : Agent) (a : Nat), initiatorNo i ≠ initiatorNo j →
    let r := logPop hw i a
    let r2 := logPop r.2 j a
    (logGet hw a = [] → r.1 = (0, 0) ∧ logGet r.2 a = [] ∧ lastPopped r.2 i a = (0, 0)) ∧
    (∀ e es, logGet hw a = e :: es → r.1 = e ∧ logGet r.2 a = es ∧ lastPopped r.2 i a = e) ∧
    (∀ e e2 es, logGet hw a = e :: e2 :: es → r2.1 = e2 ∧ logGet r2.2 a = es ∧
      lastPopped r2.2 i a = e ∧ lastPopped r2.2 j a = e2) ∧
    (∀ b, b ≠ a → logGet r.2 b = logGet hw b ∧ lastPopped r.2 i b = lastPopped hw i b) ∧
    r.2.regs = hw.regs ∧ r.2.mem = hw.mem ∧ r.2.cores = hw.cores ∧ r.2.harts = hw.harts

/-- Doorbells (R220): a present queue that is not OFF takes a new TAIL that lies beyond the old one and within the ring,
and ignores any other; two producers may ring in either order. -/
def Obligations.DoorbellsCommute : Prop :=
  ∀ (hw : Hw) (c : CoreId) (q : QueueId) (a b : Nat), a < 2 ^ 32 → b < 2 ^ 32 →
    let tail := fun h : Hw => (rget h (Reg.qfeQTail c q)).toNat
    let head := (rget hw (Reg.qfeQHead c q)).toNat
    let d := fun x : Nat => (x + 2 ^ 32 - head) % 2 ^ 32
    let n := rbits hw (Reg.qfeQCtrl c q) 12 8
    head < 2 ^ 32 → tail hw < 2 ^ 32 → (getQueue hw c q).st ≠ 0 →
      tail (ringDoorbell hw c q a) = (if d (tail hw) < d a ∧ d a ≤ 2 ^ n then a else tail hw) ∧
      tail (ringDoorbell (ringDoorbell hw c q a) c q b) = tail (ringDoorbell (ringDoorbell hw c q b) c q a)

/-- A credit goes to one sender (R197): a take is granted exactly when the slot is POSTED and for ANY or for the sender;
the slot is then HELD by that sender with ANY cleared and its range unchanged, a second take of it changes nothing and
reads HELD, and no other register changes. A take that is not granted changes nothing. -/
def Obligations.CreditGoesToOne : Prop :=
  ∀ (hw : Hw) (c : CoreId) (n : Fin 64) (pkg agent pkg2 agent2 : Fin 4096),
    let x := getSlot hw c n
    let r := creditTake hw c n pkg agent
    let y := getSlot r.1 c n
    (x.state = 1 ∧ (x.any = true ∨ (x.pkg = pkg ∧ x.agent = agent)) →
      y = ⟨2, false, pkg, agent, x.len, x.off⟩ ∧ slotOf r.2 = y ∧
      creditTake r.1 c n pkg2 agent2 = (r.1, word (2 * 2 ^ 62)) ∧
      (∀ a, a ≠ Reg.spcCredit c n → rget r.1 a = rget hw a)) ∧
    (¬(x.state = 1 ∧ (x.any = true ∨ (x.pkg = pkg ∧ x.agent = agent))) → r = (hw, word (x.state * 2 ^ 62)))

/-- The frame of the scalar engine's register commands (R172, R173, R213, R222): SE_OP writes no register but the queue's
G registers, SE_SETP none but its predicates, SE_RDCNT besides the clock counter it reads; each may take a local
semaphore it waited on. Memory, harts, ports, every other core and this core's scratchpad and accumulators stay. -/
def Obligations.ScalarFrame : Prop :=
  ∀ (c : CoreId) (q : QueueId) (i : Instr) (s t : State),
    (i = .seOp c q ∨ i = .seSetp c q ∨ i = .seRdcnt c q) → s.hw.msgs = [] → s.sec.mon.wait = .idle →
    (getCore s.hw c).killed = [] → (∀ m ∈ (getCore s.hw c).cmds, m.seenBad = false ∧ m.flip = 0) → exec i s = .next t →
    (∀ a : Nat, (∀ n : Nat, n < 64 → a ≠ Reg.qfeLsem c n) →
      (i = .seOp c q → (∀ n : Nat, n < 16 → a ≠ Reg.seG c (16 * q + n)) → rget t.hw a = rget s.hw a) ∧
      (i = .seSetp c q → a ≠ Reg.sePred c q → rget t.hw a = rget s.hw a) ∧
      (i = .seRdcnt c q → (∀ n : Nat, n < 16 → a ≠ Reg.seG c (16 * q + n)) →
        a ≠ Reg.clkAclkCnt (c / 128) (c % 128 / 8) → rget t.hw a = rget s.hw a)) ∧
    (∀ d : Nat, d ≠ c → getCore t.hw d = getCore s.hw d) ∧
    (getCore t.hw c).spad = (getCore s.hw c).spad ∧ (getCore t.hw c).acc = (getCore s.hw c).acc ∧
    t.hw.mem = s.hw.mem ∧ t.hw.harts = s.hw.harts ∧ t.hw.ports = s.hw.ports ∧ t.hw.logs = s.hw.logs ∧ t.sec = s.sec

/-- The frame of a write into a scratchpad from outside that lands under a credit (R193, R200): the written bytes read
back, every other byte of that scratchpad reads as before, the 8-byte units it covers are free of poison and of bit errors,
no other unit gains or loses one, and nothing else of the core and of the package changes but the model's own tally of
accesses (log 4). A write of part of a word meets no bit error there (one would be corrected or poison the word, R190). -/
def Obligations.SpadWriteFrame : Prop :=
  ∀ (by_ : Agent) (c : CoreId) (off : Nat) (data : List Byte) (h : Hw) (s t : State),
    s.on → s.hw.msgs = [] → s.sec.mon.wait = .idle → off + data.length ≤ spadSize → data ≠ [] → by_ ≠ engAgent c →
    regHeld s.now by_ (c / 128) (coreWin c + off) = false →
    let x := getCore s.hw c
    let y := getCore t.hw c
    (off % 8 = 0 ∨ flipOf x.spadFlip (off / 8) = 0) →
    ((off + data.length) % 8 = 0 ∨ flipOf x.spadFlip ((off + data.length - 1) / 8) = 0) →
    spadWriteBy s.now by_ c off data = (h, .ok) → exec (.spadRemoteWrite by_ c off data) s = .next t →
    (∀ i : Nat, mget memDefault y.spad i =
      if off ≤ i ∧ i < off + data.length then data.getD (i - off) 0 else mget memDefault x.spad i) ∧
    (∀ u : Nat, off ≤ 8 * u → 8 * u + 8 ≤ off + data.length → mget (fun _ => false) y.spadBad u = false) ∧
    (∀ u : Nat, flipOf y.spadFlip u = if off ≤ 8 * u ∧ 8 * u + 8 ≤ off + data.length then 0 else flipOf x.spadFlip u) ∧
    { y with spad := x.spad, spadBad := x.spadBad, spadFlip := x.spadFlip, begun := x.begun } = x ∧
    (∀ d : Nat, d ≠ c → getCore t.hw d = getCore s.hw d) ∧
    { t.hw with cores := s.hw.cores } = s.now ∧ t.sec = s.sec

/-! ### Arithmetic -/

/-- The matrix array's float sum does not depend on the order of its terms (R140). -/
def Obligations.MatrixSumsCommute : Prop :=
  ∀ ts us : List XNum, ts.Perm us → meSum ts = meSum us

/-- Float codes and values agree (R128–R130): in each format a code that is no NaN, subnormal codes, both zeros and
infinities among them, is what its exact value rounds to, without a flag; every NaN is written as the one pattern. -/
def Obligations.FloatCodesRoundTrip : Prop :=
  ∀ f ∈ [f64, f32, fbf16, f16, fE5M2, fE4M3, fE3M2, fE2M3, fE2M1], ∀ b : Nat, b < 2 ^ (1 + f.eb + f.mb) →
    (fdec f b ≠ .nan → fenc f rne (fdec f b) = (b, 0)) ∧ (fdec f b = .nan → fenc f rne (fdec f b) = (fnan f, 0))

/-! ### Error records -/

/-- R528: after writing a record, a die's RAS block sends RAS_MSI_DATA + CLASS to RAS_MSI_ADDR where the class's bit of
RAS_MSI_MASK is set (an address of zero disables the message, R61); each upstream port whose link is up reports PKG records as
fatal, CTX and UE records as non-fatal, and no other class. A record that finds the log full is counted only (R531). Harts get
nothing from it. -/
def Obligations.RecordEnters : Prop :=
  ∀ (hw : Hw) (d : DieId) (cls unit cause inst agent ctx pkg addr : Nat), 1 ≤ cls → cls ≤ 6 →
    let r := rasWrite hw d cls unit cause inst agent ctx pkg addr
    let target := (rget hw (Reg.rasMsiAddr d)).toNat
    let sends : Prop := rbit hw (Reg.rasMsiMask d) cls = true ∧ target ≠ 0
    let room := (logGet hw (Reg.rasLog d)).length < 32
    let aers := fun fatal => if room then
      ((List.range 2).filter (fun a => rbits hw (Reg.cxuStatus a) 49 48 != 0)).map (fun a => Out.aer a fatal) else []
    (room →
      logGet r (Reg.rasLog d) = logGet hw (Reg.rasLog d) ++ [(rasWord0 cls unit cause inst agent ctx, rasWord1 pkg addr)] ∧
      (sends → r.msgs = hw.msgs ++ [⟨d, target, ((rget hw (Reg.rasMsiData d)).toNat + cls) % 2 ^ 32⟩]) ∧
      (¬sends → r.msgs = hw.msgs)) ∧
    (¬room → logGet r (Reg.rasLog d) = logGet hw (Reg.rasLog d) ∧ r.msgs = hw.msgs ∧
      rget r (Reg.rasOvfCnt d) = rget (radd hw (Reg.rasOvfCnt d) 1) (Reg.rasOvfCnt d)) ∧
    (cls = clsPKG → r.sent = hw.sent ++ aers true ++ [fatalText d (rasWord0 cls unit cause inst agent ctx)]) ∧
    (cls = clsCTX ∨ cls = clsUE → r.sent = hw.sent ++ aers false) ∧
    (cls ≠ clsPKG → cls ≠ clsCTX → cls ≠ clsUE → r.sent = hw.sent) ∧ r.harts = hw.harts
end

