-- ==== Sys2Proof/Laws/Effects.lean ====
section
/-! SUPPORT. Each wrapper once: what a command that goes through it answers, and what follows from an effect that starts no
package stop and raises no message. -/

namespace Sys2Proof.Machine

variable {i : Instr} {s : State}

/-- With the package on, a hardware command answers the effect, settled. -/
theorem onHw_on {f : Hw → Hw × Answer} (hon : s.on) : onHw s f = .next (settled s (f s.now).1 s.sec (f s.now).2) := by
  have hon' : s.hw.pow.off = 0 := hon
  unfold onHw
  rw [if_neg (by simp [hon'])]
  rfl

theorem onAll_on {f : Hw → Sec → Hw × Sec × Answer} (hon : s.on) :
    onAll s f = .next (settled s (f s.now s.sec).1 (f s.now s.sec).2.1 (f s.now s.sec).2.2) := by
  have hon' : s.hw.pow.off = 0 := hon
  unfold onAll
  rw [if_neg (by simp [hon'])]
  rfl

theorem onMon_on {c : Mon → Bool} {f : Hw × Sec → Hw × Sec} (hon : s.on) (h2 : monUp s.sec = true) (hc : c s.sec.mon = true) :
    onMon s c f = .next { s with hw := (f (s.now, s.sec)).1, sec := (f (s.now, s.sec)).2, answer := .done } := by
  have hon' : s.hw.pow.off = 0 := hon
  unfold onMon
  rw [if_neg (by simp [hon']), if_neg (by simp [h2, hc])]
  rfl

/-- With the package off, nothing but the answer changes. -/
theorem onHw_off {f : Hw → Hw × Answer} (hoff : s.hw.pow.off ≠ 0) : onHw s f = .next (offState s) := by
  unfold onHw
  rw [if_pos hoff]

theorem onAll_off {f : Hw → Sec → Hw × Sec × Answer} (hoff : s.hw.pow.off ≠ 0) : onAll s f = .next (offState s) := by
  unfold onAll
  rw [if_pos hoff]

theorem onMon_off {c : Mon → Bool} {f : Hw × Sec → Hw × Sec} (hoff : s.hw.pow.off ≠ 0) : onMon s c f = .next (offState s) := by
  unfold onMon
  rw [if_pos hoff]

/-- A hardware command has the effect its function gives. -/
theorem effect_onHw {f : Hw → Hw × Answer} {hw : Hw} {ans : Answer} (hi : exec i s = onHw s f) (hon : s.on)
    (h : f s.now = (hw, ans)) : Effect i s hw ans := by
  unfold Effect
  rw [hi, onHw_on hon, h]

theorem effect_onAll {f : Hw → Sec → Hw × Sec × Answer} {hw : Hw} {sec : Sec} {ans : Answer} (hi : exec i s = onAll s f)
    (hon : s.on) (h : f s.now s.sec = (hw, sec, ans)) : EffectSec i s hw sec ans := by
  unfold EffectSec
  rw [hi, onAll_on hon, h]

/-- An engine's row has the effect of its command's work. -/
theorem serves_row {c q eng op : Nat} {can : Hw → Cmd → Bool} {body : Hw → Cmd → Option (Hw × Cmd)}
    (hi : exec i s = onHw s (engineRow c q eng op can body)) (hon : s.on) (h : serves s.now c q eng op can body = true) :
    Serves i s c q eng op can body := by
  unfold serves at h
  split at h
  · rename_i w m hb
    obtain ⟨x, hx⟩ := Option.isSome_iff_exists.mp h
    refine ⟨w, m, x.1, x.2, hb, hx, ?_⟩
    have he : engineRow c q eng op can body s.now = killPass c (did (setCmd x.1 c x.2)) := by
      unfold engineRow
      rw [hb]
      simp only [hx]
    have ha : (killPass c (did (setCmd x.1 c x.2))).2 = Answer.done := by
      unfold killPass did
      dsimp only
      split <;> rfl
    unfold Effect
    rw [hi, onHw_on hon, he, ha]
    rfl
  · simp at h

/-- No message waits: settling changes nothing. -/
theorem settle_quiet {hw : Hw} (h : hw.msgs = []) : ∀ n, settle n hw = hw := by
  intro n
  cases n with
  | zero => rfl
  | succ n => simp [settle, h]

/-- An effect that starts no package stop and leaves no message under way is what the command leaves. -/
theorem finish_quiet {old hw : Hw} (hm : hw.msgs = []) (hs : hw.stop = old.stop) : finish old hw = hw := by
  have h1 : stopAll old hw = hw := by
    unfold stopAll
    rw [hs]
    cases old.stop <;> simp
  have h2 : stopAll (if hw.stop then hw else old) hw = hw := by
    unfold stopAll
    cases hh : hw.stop
    · simp
    · simp [hh]
  unfold finish
  dsimp only
  rw [h1, settle_quiet hm, h2, settle_quiet hm]

/-- The monitor idle, an effect that starts no stop and no message is the whole next state. -/
theorem settled_quiet {hw : Hw} {sec : Sec} {ans : Answer} (hm : hw.msgs = []) (hs : hw.stop = s.hw.stop)
    (hw0 : sec.mon.wait = .idle) : settled s hw sec ans = { s with hw := hw, sec := sec, answer := ans } := by
  unfold settled
  rw [finish_quiet hm hs]
  unfold monSettle
  rw [if_pos hw0]

/-- Settling leaves the queue. -/
@[simp] theorem settled_pending {hw : Hw} {sec : Sec} {ans : Answer} : (settled s hw sec ans).pending = s.pending := rfl

@[simp] theorem settled_answer {hw : Hw} {sec : Sec} {ans : Answer} : (settled s hw sec ans).answer = ans := rfl

/-- Every answer of the wrappers: off, or an effect, settled, with the queue as before. -/
theorem onHw_next {f : Hw → Hw × Answer} {t : State} (h : onHw s f = .next t) :
    t = offState s ∨ ∃ hw ans, t = settled s hw s.sec ans := by
  unfold onHw at h
  split at h
  · exact .inl (by injection h with h; exact h.symm)
  · exact .inr ⟨_, _, by injection h with h; exact h.symm⟩

theorem onAll_next {f : Hw → Sec → Hw × Sec × Answer} {t : State} (h : onAll s f = .next t) :
    t = offState s ∨ (s.on ∧ t = settled s (f s.now s.sec).1 (f s.now s.sec).2.1 (f s.now s.sec).2.2) := by
  by_cases hoff : s.hw.pow.off = 0
  · rw [onAll_on hoff] at h
    exact .inr ⟨hoff, by injection h with h; exact h.symm⟩
  · rw [onAll_off hoff] at h
    exact .inl (by injection h with h; exact h.symm)

end Sys2Proof.Machine
end

