-- ==== Sys2Proof/Laws/Maps.lean ====
section
/-! SUPPORT. Sparse maps: reading after writing, and that every operation keeps the canonical form. -/

namespace Sys2Proof.Machine

variable {α : Type}

theorem mget_merase_self (d : Nat → α) (m : FMap α) (k : Nat) : mget d (merase m k) k = d k := by
  induction m with
  | nil => rfl
  | cons e m ih =>
    obtain ⟨k', v⟩ := e
    by_cases h : k' = k
    · simp [merase, h, ih]
    · simp [merase, h, mget, ih]

theorem mget_merase_ne (d : Nat → α) (m : FMap α) (k j : Nat) (hj : j ≠ k) : mget d (merase m k) j = mget d m j := by
  induction m with
  | nil => rfl
  | cons e m ih =>
    obtain ⟨k', v⟩ := e
    by_cases h : k' = k
    · subst h
      simp [merase, ih, mget, Ne.symm hj]
    · simp only [merase, h, if_false, mget, ih]

theorem mget_minsert_self (d : Nat → α) (m : FMap α) (k : Nat) (v : α) (h : ∀ e ∈ m, e.1 ≠ k) :
    mget d (minsert m k v) k = v := by
  induction m with
  | nil => simp [minsert, mget]
  | cons e m ih =>
    obtain ⟨k', v'⟩ := e
    have h1 : k' ≠ k := h (k', v') (by simp)
    have h2 : ∀ e ∈ m, e.1 ≠ k := fun e he => h e (by simp [he])
    by_cases hk : k < k'
    · simp [minsert, hk, mget]
    · simp [minsert, hk, mget, h1, ih h2]

theorem mget_minsert_ne (d : Nat → α) (m : FMap α) (k j : Nat) (v : α) (hj : j ≠ k) :
    mget d (minsert m k v) j = mget d m j := by
  induction m with
  | nil => simp [minsert, mget, Ne.symm hj]
  | cons e m ih =>
    obtain ⟨k', v'⟩ := e
    by_cases hk : k < k'
    · simp [minsert, hk, mget, Ne.symm hj]
    · simp only [minsert, hk, if_false, mget, ih]

theorem merase_mem {m : FMap α} {k : Nat} {e : Nat × α} (h : e ∈ merase m k) : e ∈ m ∧ e.1 ≠ k := by
  induction m with
  | nil => simp [merase] at h
  | cons x m ih =>
    obtain ⟨k', v⟩ := x
    by_cases hk : k' = k
    · simp only [merase, hk, if_true] at h
      exact ⟨by simp [(ih h).1], (ih h).2⟩
    · simp only [merase, hk, if_false, List.mem_cons] at h
      rcases h with rfl | h
      · exact ⟨by simp, hk⟩
      · exact ⟨by simp [(ih h).1], (ih h).2⟩

variable [DecidableEq α]

/-- What is written is read. -/
@[simp] theorem mget_mput_self (d : Nat → α) (m : FMap α) (k : Nat) (v : α) : mget d (mput d m k v) k = v := by
  unfold mput
  by_cases h : v = d k
  · simp [h, mget_merase_self]
  · simp only [h, if_false]
    exact mget_minsert_self d _ k v (fun e he => (merase_mem he).2)

/-- Every other key reads as before. -/
theorem mget_mput_ne (d : Nat → α) (m : FMap α) (k j : Nat) (v : α) (hj : j ≠ k) : mget d (mput d m k v) j = mget d m j := by
  unfold mput
  by_cases h : v = d k
  · simp [h, mget_merase_ne d m k j hj]
  · simp [h, mget_minsert_ne d _ k j v hj, mget_merase_ne d m k j hj]

theorem mwf_cons {d : Nat → α} {k : Nat} {v : α} {m : FMap α} :
    mwf d ((k, v) :: m) = true ↔ v ≠ d k ∧ (∀ e ∈ m, k < e.1) ∧ mwf d m = true := by
  simp [mwf, and_assoc]

theorem mwf_filter (d : Nat → α) (m : FMap α) (p : Nat × α → Bool) (h : mwf d m = true) : mwf d (m.filter p) = true := by
  induction m with
  | nil => rfl
  | cons e m ih =>
    obtain ⟨k, v⟩ := e
    obtain ⟨h1, h2, h3⟩ := mwf_cons.mp h
    by_cases hp : p (k, v) = true
    · rw [List.filter_cons_of_pos hp]
      exact mwf_cons.mpr ⟨h1, fun e he => h2 e (List.mem_filter.mp he).1, ih h3⟩
    · rw [List.filter_cons_of_neg hp]
      exact ih h3

theorem mwf_merase (d : Nat → α) (m : FMap α) (k : Nat) (h : mwf d m = true) : mwf d (merase m k) = true := by
  induction m with
  | nil => rfl
  | cons e m ih =>
    obtain ⟨k', v⟩ := e
    obtain ⟨h1, h2, h3⟩ := mwf_cons.mp h
    by_cases hk : k' = k
    · simp only [merase, hk, if_true]
      exact ih h3
    · simp only [merase, hk, if_false]
      exact mwf_cons.mpr ⟨h1, fun e he => h2 e (merase_mem he).1, ih h3⟩

omit [DecidableEq α] in
theorem minsert_mem {m : FMap α} {k : Nat} {v : α} {e : Nat × α} (h : e ∈ minsert m k v) : e = (k, v) ∨ e ∈ m := by
  induction m with
  | nil => simpa [minsert] using h
  | cons x m ih =>
    obtain ⟨k', v'⟩ := x
    by_cases hk : k < k'
    · simp only [minsert, hk, if_true, List.mem_cons] at h
      simpa using h
    · simp only [minsert, hk, if_false, List.mem_cons] at h
      rcases h with rfl | h
      · simp
      · rcases ih h with rfl | h
        · simp
        · simp [h]

theorem mwf_minsert (d : Nat → α) (m : FMap α) (k : Nat) (v : α) (hv : v ≠ d k) (hk : ∀ e ∈ m, e.1 ≠ k)
    (h : mwf d m = true) : mwf d (minsert m k v) = true := by
  induction m with
  | nil => simp [minsert, mwf, hv]
  | cons e m ih =>
    obtain ⟨k', v'⟩ := e
    obtain ⟨h1, h2, h3⟩ := mwf_cons.mp h
    have hne : k' ≠ k := hk (k', v') (by simp)
    by_cases hlt : k < k'
    · simp only [minsert, hlt, if_true]
      refine mwf_cons.mpr ⟨hv, fun e he => ?_, h⟩
      rcases List.mem_cons.mp he with rfl | he
      · exact hlt
      · exact Nat.lt_trans hlt (h2 e he)
    · simp only [minsert, hlt, if_false]
      refine mwf_cons.mpr ⟨h1, fun e he => ?_, ih (fun e he => hk e (by simp [he])) h3⟩
      rcases minsert_mem he with rfl | he
      · show k' < k
        omega
      · exact h2 e he

/-- Writing keeps the canonical form. -/
theorem mwf_mput (d : Nat → α) (m : FMap α) (k : Nat) (v : α) (h : mwf d m = true) : mwf d (mput d m k v) = true := by
  unfold mput
  by_cases hv : v = d k
  · simp only [hv, if_true]
    exact mwf_merase d m k h
  · simp only [hv, if_false]
    exact mwf_minsert d _ k v hv (fun e he => (merase_mem he).2) (mwf_merase d m k h)

theorem mwf_mmod (d : Nat → α) (m : FMap α) (k : Nat) (f : α → α) (h : mwf d m = true) : mwf d (mmod d m k f) = true :=
  mwf_mput d m k _ h

end Sys2Proof.Machine
end

