-- ==== Sys2Proof/Laws/State.lean ====
section
/-! SUPPORT. What each update of the hardware leaves: one lemma per field per update; and what it writes is read. -/

namespace Sys2Proof.Machine

variable (hw : Hw)

/-! #### rset -/

@[simp] theorem rset_logs (a : Nat) (v : Word) : (rset hw a v).logs = hw.logs := rfl
@[simp] theorem rset_lastPop (a : Nat) (v : Word) : (rset hw a v).lastPop = hw.lastPop := rfl
@[simp] theorem rset_fresh (a : Nat) (v : Word) : (rset hw a v).fresh = hw.fresh := rfl
@[simp] theorem rset_mem (a : Nat) (v : Word) : (rset hw a v).mem = hw.mem := rfl
@[simp] theorem rset_harts (a : Nat) (v : Word) : (rset hw a v).harts = hw.harts := rfl
@[simp] theorem rset_cores (a : Nat) (v : Word) : (rset hw a v).cores = hw.cores := rfl
@[simp] theorem rset_groups (a : Nat) (v : Word) : (rset hw a v).groups = hw.groups := rfl
@[simp] theorem rset_parts (a : Nat) (v : Word) : (rset hw a v).parts = hw.parts := rfl
@[simp] theorem rset_trees (a : Nat) (v : Word) : (rset hw a v).trees = hw.trees := rfl
@[simp] theorem rset_migs (a : Nat) (v : Word) : (rset hw a v).migs = hw.migs := rfl
@[simp] theorem rset_migRets (a : Nat) (v : Word) : (rset hw a v).migRets = hw.migRets := rfl
@[simp] theorem rset_portsUp (a : Nat) (v : Word) : (rset hw a v).portsUp = hw.portsUp := rfl
@[simp] theorem rset_ramps (a : Nat) (v : Word) : (rset hw a v).ramps = hw.ramps := rfl
@[simp] theorem rset_fenced (a : Nat) (v : Word) : (rset hw a v).fenced = hw.fenced := rfl
@[simp] theorem rset_gpow (a : Nat) (v : Word) : (rset hw a v).gpow = hw.gpow := rfl
@[simp] theorem rset_halves (a : Nat) (v : Word) : (rset hw a v).halves = hw.halves := rfl
@[simp] theorem rset_pow (a : Nat) (v : Word) : (rset hw a v).pow = hw.pow := rfl
@[simp] theorem rset_ctls (a : Nat) (v : Word) : (rset hw a v).ctls = hw.ctls := rfl
@[simp] theorem rset_ert (a : Nat) (v : Word) : (rset hw a v).ert = hw.ert := rfl
@[simp] theorem rset_dies (a : Nat) (v : Word) : (rset hw a v).dies = hw.dies := rfl
@[simp] theorem rset_ports (a : Nat) (v : Word) : (rset hw a v).ports = hw.ports := rfl
@[simp] theorem rset_lasers (a : Nat) (v : Word) : (rset hw a v).lasers = hw.lasers := rfl
@[simp] theorem rset_acelos (a : Nat) (v : Word) : (rset hw a v).acelos = hw.acelos := rfl
@[simp] theorem rset_pkg (a : Nat) (v : Word) : (rset hw a v).pkg = hw.pkg := rfl
@[simp] theorem rset_img (a : Nat) (v : Word) : (rset hw a v).img = hw.img := rfl
@[simp] theorem rset_present (a : Nat) (v : Word) : (rset hw a v).present = hw.present := rfl
@[simp] theorem rset_locked (a : Nat) (v : Word) : (rset hw a v).locked = hw.locked := rfl
@[simp] theorem rset_stop (a : Nat) (v : Word) : (rset hw a v).stop = hw.stop := rfl
@[simp] theorem rset_fatal (a : Nat) (v : Word) : (rset hw a v).fatal = hw.fatal := rfl
@[simp] theorem rset_msgs (a : Nat) (v : Word) : (rset hw a v).msgs = hw.msgs := rfl
@[simp] theorem rset_imsic (a : Nat) (v : Word) : (rset hw a v).imsic = hw.imsic := rfl
@[simp] theorem rset_bar4 (a : Nat) (v : Word) : (rset hw a v).bar4 = hw.bar4 := rfl
@[simp] theorem rset_idKey (a : Nat) (v : Word) : (rset hw a v).idKey = hw.idKey := rfl
@[simp] theorem rset_idCert (a : Nat) (v : Word) : (rset hw a v).idCert = hw.idCert := rfl
@[simp] theorem rset_deadHarts (a : Nat) (v : Word) : (rset hw a v).deadHarts = hw.deadHarts := rfl
@[simp] theorem rset_clk (a : Nat) (v : Word) : (rset hw a v).clk = hw.clk := rfl
@[simp] theorem rset_pcpFlip (a : Nat) (v : Word) : (rset hw a v).pcpFlip = hw.pcpFlip := rfl
@[simp] theorem rset_retired (a : Nat) (v : Word) : (rset hw a v).retired = hw.retired := rfl
@[simp] theorem rset_tallied (a : Nat) (v : Word) : (rset hw a v).tallied = hw.tallied := rfl
@[simp] theorem rset_kept (a : Nat) (v : Word) : (rset hw a v).kept = hw.kept := rfl
@[simp] theorem rset_placed (a : Nat) (v : Word) : (rset hw a v).placed = hw.placed := rfl
@[simp] theorem rset_sent (a : Nat) (v : Word) : (rset hw a v).sent = hw.sent := rfl

/-! #### rsetN -/

@[simp] theorem rsetN_logs (a v : Nat) : (rsetN hw a v).logs = hw.logs := rset_logs hw a _
@[simp] theorem rsetN_lastPop (a v : Nat) : (rsetN hw a v).lastPop = hw.lastPop := rset_lastPop hw a _
@[simp] theorem rsetN_fresh (a v : Nat) : (rsetN hw a v).fresh = hw.fresh := rset_fresh hw a _
@[simp] theorem rsetN_mem (a v : Nat) : (rsetN hw a v).mem = hw.mem := rset_mem hw a _
@[simp] theorem rsetN_harts (a v : Nat) : (rsetN hw a v).harts = hw.harts := rset_harts hw a _
@[simp] theorem rsetN_cores (a v : Nat) : (rsetN hw a v).cores = hw.cores := rset_cores hw a _
@[simp] theorem rsetN_groups (a v : Nat) : (rsetN hw a v).groups = hw.groups := rset_groups hw a _
@[simp] theorem rsetN_parts (a v : Nat) : (rsetN hw a v).parts = hw.parts := rset_parts hw a _
@[simp] theorem rsetN_trees (a v : Nat) : (rsetN hw a v).trees = hw.trees := rset_trees hw a _
@[simp] theorem rsetN_migs (a v : Nat) : (rsetN hw a v).migs = hw.migs := rset_migs hw a _
@[simp] theorem rsetN_migRets (a v : Nat) : (rsetN hw a v).migRets = hw.migRets := rset_migRets hw a _
@[simp] theorem rsetN_portsUp (a v : Nat) : (rsetN hw a v).portsUp = hw.portsUp := rset_portsUp hw a _
@[simp] theorem rsetN_ramps (a v : Nat) : (rsetN hw a v).ramps = hw.ramps := rset_ramps hw a _
@[simp] theorem rsetN_fenced (a v : Nat) : (rsetN hw a v).fenced = hw.fenced := rset_fenced hw a _
@[simp] theorem rsetN_gpow (a v : Nat) : (rsetN hw a v).gpow = hw.gpow := rset_gpow hw a _
@[simp] theorem rsetN_halves (a v : Nat) : (rsetN hw a v).halves = hw.halves := rset_halves hw a _
@[simp] theorem rsetN_pow (a v : Nat) : (rsetN hw a v).pow = hw.pow := rset_pow hw a _
@[simp] theorem rsetN_ctls (a v : Nat) : (rsetN hw a v).ctls = hw.ctls := rset_ctls hw a _
@[simp] theorem rsetN_ert (a v : Nat) : (rsetN hw a v).ert = hw.ert := rset_ert hw a _
@[simp] theorem rsetN_dies (a v : Nat) : (rsetN hw a v).dies = hw.dies := rset_dies hw a _
@[simp] theorem rsetN_ports (a v : Nat) : (rsetN hw a v).ports = hw.ports := rset_ports hw a _
@[simp] theorem rsetN_lasers (a v : Nat) : (rsetN hw a v).lasers = hw.lasers := rset_lasers hw a _
@[simp] theorem rsetN_acelos (a v : Nat) : (rsetN hw a v).acelos = hw.acelos := rset_acelos hw a _
@[simp] theorem rsetN_pkg (a v : Nat) : (rsetN hw a v).pkg = hw.pkg := rset_pkg hw a _
@[simp] theorem rsetN_img (a v : Nat) : (rsetN hw a v).img = hw.img := rset_img hw a _
@[simp] theorem rsetN_present (a v : Nat) : (rsetN hw a v).present = hw.present := rset_present hw a _
@[simp] theorem rsetN_locked (a v : Nat) : (rsetN hw a v).locked = hw.locked := rset_locked hw a _
@[simp] theorem rsetN_stop (a v : Nat) : (rsetN hw a v).stop = hw.stop := rset_stop hw a _
@[simp] theorem rsetN_fatal (a v : Nat) : (rsetN hw a v).fatal = hw.fatal := rset_fatal hw a _
@[simp] theorem rsetN_msgs (a v : Nat) : (rsetN hw a v).msgs = hw.msgs := rset_msgs hw a _
@[simp] theorem rsetN_imsic (a v : Nat) : (rsetN hw a v).imsic = hw.imsic := rset_imsic hw a _
@[simp] theorem rsetN_bar4 (a v : Nat) : (rsetN hw a v).bar4 = hw.bar4 := rset_bar4 hw a _
@[simp] theorem rsetN_idKey (a v : Nat) : (rsetN hw a v).idKey = hw.idKey := rset_idKey hw a _
@[simp] theorem rsetN_idCert (a v : Nat) : (rsetN hw a v).idCert = hw.idCert := rset_idCert hw a _
@[simp] theorem rsetN_deadHarts (a v : Nat) : (rsetN hw a v).deadHarts = hw.deadHarts := rset_deadHarts hw a _
@[simp] theorem rsetN_clk (a v : Nat) : (rsetN hw a v).clk = hw.clk := rset_clk hw a _
@[simp] theorem rsetN_pcpFlip (a v : Nat) : (rsetN hw a v).pcpFlip = hw.pcpFlip := rset_pcpFlip hw a _
@[simp] theorem rsetN_retired (a v : Nat) : (rsetN hw a v).retired = hw.retired := rset_retired hw a _
@[simp] theorem rsetN_tallied (a v : Nat) : (rsetN hw a v).tallied = hw.tallied := rset_tallied hw a _
@[simp] theorem rsetN_kept (a v : Nat) : (rsetN hw a v).kept = hw.kept := rset_kept hw a _
@[simp] theorem rsetN_placed (a v : Nat) : (rsetN hw a v).placed = hw.placed := rset_placed hw a _
@[simp] theorem rsetN_sent (a v : Nat) : (rsetN hw a v).sent = hw.sent := rset_sent hw a _

/-! #### rfield -/

@[simp] theorem rfield_logs (a hi lo v : Nat) : (rfield hw a hi lo v).logs = hw.logs := rset_logs hw a _
@[simp] theorem rfield_lastPop (a hi lo v : Nat) : (rfield hw a hi lo v).lastPop = hw.lastPop := rset_lastPop hw a _
@[simp] theorem rfield_fresh (a hi lo v : Nat) : (rfield hw a hi lo v).fresh = hw.fresh := rset_fresh hw a _
@[simp] theorem rfield_mem (a hi lo v : Nat) : (rfield hw a hi lo v).mem = hw.mem := rset_mem hw a _
@[simp] theorem rfield_harts (a hi lo v : Nat) : (rfield hw a hi lo v).harts = hw.harts := rset_harts hw a _
@[simp] theorem rfield_cores (a hi lo v : Nat) : (rfield hw a hi lo v).cores = hw.cores := rset_cores hw a _
@[simp] theorem rfield_groups (a hi lo v : Nat) : (rfield hw a hi lo v).groups = hw.groups := rset_groups hw a _
@[simp] theorem rfield_parts (a hi lo v : Nat) : (rfield hw a hi lo v).parts = hw.parts := rset_parts hw a _
@[simp] theorem rfield_trees (a hi lo v : Nat) : (rfield hw a hi lo v).trees = hw.trees := rset_trees hw a _
@[simp] theorem rfield_migs (a hi lo v : Nat) : (rfield hw a hi lo v).migs = hw.migs := rset_migs hw a _
@[simp] theorem rfield_migRets (a hi lo v : Nat) : (rfield hw a hi lo v).migRets = hw.migRets := rset_migRets hw a _
@[simp] theorem rfield_portsUp (a hi lo v : Nat) : (rfield hw a hi lo v).portsUp = hw.portsUp := rset_portsUp hw a _
@[simp] theorem rfield_ramps (a hi lo v : Nat) : (rfield hw a hi lo v).ramps = hw.ramps := rset_ramps hw a _
@[simp] theorem rfield_fenced (a hi lo v : Nat) : (rfield hw a hi lo v).fenced = hw.fenced := rset_fenced hw a _
@[simp] theorem rfield_gpow (a hi lo v : Nat) : (rfield hw a hi lo v).gpow = hw.gpow := rset_gpow hw a _
@[simp] theorem rfield_halves (a hi lo v : Nat) : (rfield hw a hi lo v).halves = hw.halves := rset_halves hw a _
@[simp] theorem rfield_pow (a hi lo v : Nat) : (rfield hw a hi lo v).pow = hw.pow := rset_pow hw a _
@[simp] theorem rfield_ctls (a hi lo v : Nat) : (rfield hw a hi lo v).ctls = hw.ctls := rset_ctls hw a _
@[simp] theorem rfield_ert (a hi lo v : Nat) : (rfield hw a hi lo v).ert = hw.ert := rset_ert hw a _
@[simp] theorem rfield_dies (a hi lo v : Nat) : (rfield hw a hi lo v).dies = hw.dies := rset_dies hw a _
@[simp] theorem rfield_ports (a hi lo v : Nat) : (rfield hw a hi lo v).ports = hw.ports := rset_ports hw a _
@[simp] theorem rfield_lasers (a hi lo v : Nat) : (rfield hw a hi lo v).lasers = hw.lasers := rset_lasers hw a _
@[simp] theorem rfield_acelos (a hi lo v : Nat) : (rfield hw a hi lo v).acelos = hw.acelos := rset_acelos hw a _
@[simp] theorem rfield_pkg (a hi lo v : Nat) : (rfield hw a hi lo v).pkg = hw.pkg := rset_pkg hw a _
@[simp] theorem rfield_img (a hi lo v : Nat) : (rfield hw a hi lo v).img = hw.img := rset_img hw a _
@[simp] theorem rfield_present (a hi lo v : Nat) : (rfield hw a hi lo v).present = hw.present := rset_present hw a _
@[simp] theorem rfield_locked (a hi lo v : Nat) : (rfield hw a hi lo v).locked = hw.locked := rset_locked hw a _
@[simp] theorem rfield_stop (a hi lo v : Nat) : (rfield hw a hi lo v).stop = hw.stop := rset_stop hw a _
@[simp] theorem rfield_fatal (a hi lo v : Nat) : (rfield hw a hi lo v).fatal = hw.fatal := rset_fatal hw a _
@[simp] theorem rfield_msgs (a hi lo v : Nat) : (rfield hw a hi lo v).msgs = hw.msgs := rset_msgs hw a _
@[simp] theorem rfield_imsic (a hi lo v : Nat) : (rfield hw a hi lo v).imsic = hw.imsic := rset_imsic hw a _
@[simp] theorem rfield_bar4 (a hi lo v : Nat) : (rfield hw a hi lo v).bar4 = hw.bar4 := rset_bar4 hw a _
@[simp] theorem rfield_idKey (a hi lo v : Nat) : (rfield hw a hi lo v).idKey = hw.idKey := rset_idKey hw a _
@[simp] theorem rfield_idCert (a hi lo v : Nat) : (rfield hw a hi lo v).idCert = hw.idCert := rset_idCert hw a _
@[simp] theorem rfield_deadHarts (a hi lo v : Nat) : (rfield hw a hi lo v).deadHarts = hw.deadHarts := rset_deadHarts hw a _
@[simp] theorem rfield_clk (a hi lo v : Nat) : (rfield hw a hi lo v).clk = hw.clk := rset_clk hw a _
@[simp] theorem rfield_pcpFlip (a hi lo v : Nat) : (rfield hw a hi lo v).pcpFlip = hw.pcpFlip := rset_pcpFlip hw a _
@[simp] theorem rfield_retired (a hi lo v : Nat) : (rfield hw a hi lo v).retired = hw.retired := rset_retired hw a _
@[simp] theorem rfield_tallied (a hi lo v : Nat) : (rfield hw a hi lo v).tallied = hw.tallied := rset_tallied hw a _
@[simp] theorem rfield_kept (a hi lo v : Nat) : (rfield hw a hi lo v).kept = hw.kept := rset_kept hw a _
@[simp] theorem rfield_placed (a hi lo v : Nat) : (rfield hw a hi lo v).placed = hw.placed := rset_placed hw a _
@[simp] theorem rfield_sent (a hi lo v : Nat) : (rfield hw a hi lo v).sent = hw.sent := rset_sent hw a _

/-! #### radd -/

@[simp] theorem radd_logs (a n : Nat) : (radd hw a n).logs = hw.logs := rset_logs hw a _
@[simp] theorem radd_lastPop (a n : Nat) : (radd hw a n).lastPop = hw.lastPop := rset_lastPop hw a _
@[simp] theorem radd_fresh (a n : Nat) : (radd hw a n).fresh = hw.fresh := rset_fresh hw a _
@[simp] theorem radd_mem (a n : Nat) : (radd hw a n).mem = hw.mem := rset_mem hw a _
@[simp] theorem radd_harts (a n : Nat) : (radd hw a n).harts = hw.harts := rset_harts hw a _
@[simp] theorem radd_cores (a n : Nat) : (radd hw a n).cores = hw.cores := rset_cores hw a _
@[simp] theorem radd_groups (a n : Nat) : (radd hw a n).groups = hw.groups := rset_groups hw a _
@[simp] theorem radd_parts (a n : Nat) : (radd hw a n).parts = hw.parts := rset_parts hw a _
@[simp] theorem radd_trees (a n : Nat) : (radd hw a n).trees = hw.trees := rset_trees hw a _
@[simp] theorem radd_migs (a n : Nat) : (radd hw a n).migs = hw.migs := rset_migs hw a _
@[simp] theorem radd_migRets (a n : Nat) : (radd hw a n).migRets = hw.migRets := rset_migRets hw a _
@[simp] theorem radd_portsUp (a n : Nat) : (radd hw a n).portsUp = hw.portsUp := rset_portsUp hw a _
@[simp] theorem radd_ramps (a n : Nat) : (radd hw a n).ramps = hw.ramps := rset_ramps hw a _
@[simp] theorem radd_fenced (a n : Nat) : (radd hw a n).fenced = hw.fenced := rset_fenced hw a _
@[simp] theorem radd_gpow (a n : Nat) : (radd hw a n).gpow = hw.gpow := rset_gpow hw a _
@[simp] theorem radd_halves (a n : Nat) : (radd hw a n).halves = hw.halves := rset_halves hw a _
@[simp] theorem radd_pow (a n : Nat) : (radd hw a n).pow = hw.pow := rset_pow hw a _
@[simp] theorem radd_ctls (a n : Nat) : (radd hw a n).ctls = hw.ctls := rset_ctls hw a _
@[simp] theorem radd_ert (a n : Nat) : (radd hw a n).ert = hw.ert := rset_ert hw a _
@[simp] theorem radd_dies (a n : Nat) : (radd hw a n).dies = hw.dies := rset_dies hw a _
@[simp] theorem radd_ports (a n : Nat) : (radd hw a n).ports = hw.ports := rset_ports hw a _
@[simp] theorem radd_lasers (a n : Nat) : (radd hw a n).lasers = hw.lasers := rset_lasers hw a _
@[simp] theorem radd_acelos (a n : Nat) : (radd hw a n).acelos = hw.acelos := rset_acelos hw a _
@[simp] theorem radd_pkg (a n : Nat) : (radd hw a n).pkg = hw.pkg := rset_pkg hw a _
@[simp] theorem radd_img (a n : Nat) : (radd hw a n).img = hw.img := rset_img hw a _
@[simp] theorem radd_present (a n : Nat) : (radd hw a n).present = hw.present := rset_present hw a _
@[simp] theorem radd_locked (a n : Nat) : (radd hw a n).locked = hw.locked := rset_locked hw a _
@[simp] theorem radd_stop (a n : Nat) : (radd hw a n).stop = hw.stop := rset_stop hw a _
@[simp] theorem radd_fatal (a n : Nat) : (radd hw a n).fatal = hw.fatal := rset_fatal hw a _
@[simp] theorem radd_msgs (a n : Nat) : (radd hw a n).msgs = hw.msgs := rset_msgs hw a _
@[simp] theorem radd_imsic (a n : Nat) : (radd hw a n).imsic = hw.imsic := rset_imsic hw a _
@[simp] theorem radd_bar4 (a n : Nat) : (radd hw a n).bar4 = hw.bar4 := rset_bar4 hw a _
@[simp] theorem radd_idKey (a n : Nat) : (radd hw a n).idKey = hw.idKey := rset_idKey hw a _
@[simp] theorem radd_idCert (a n : Nat) : (radd hw a n).idCert = hw.idCert := rset_idCert hw a _
@[simp] theorem radd_deadHarts (a n : Nat) : (radd hw a n).deadHarts = hw.deadHarts := rset_deadHarts hw a _
@[simp] theorem radd_clk (a n : Nat) : (radd hw a n).clk = hw.clk := rset_clk hw a _
@[simp] theorem radd_pcpFlip (a n : Nat) : (radd hw a n).pcpFlip = hw.pcpFlip := rset_pcpFlip hw a _
@[simp] theorem radd_retired (a n : Nat) : (radd hw a n).retired = hw.retired := rset_retired hw a _
@[simp] theorem radd_tallied (a n : Nat) : (radd hw a n).tallied = hw.tallied := rset_tallied hw a _
@[simp] theorem radd_kept (a n : Nat) : (radd hw a n).kept = hw.kept := rset_kept hw a _
@[simp] theorem radd_placed (a n : Nat) : (radd hw a n).placed = hw.placed := rset_placed hw a _
@[simp] theorem radd_sent (a n : Nat) : (radd hw a n).sent = hw.sent := rset_sent hw a _

/-! #### ror -/

@[simp] theorem ror_logs (a m : Nat) : (ror hw a m).logs = hw.logs := rset_logs hw a _
@[simp] theorem ror_lastPop (a m : Nat) : (ror hw a m).lastPop = hw.lastPop := rset_lastPop hw a _
@[simp] theorem ror_fresh (a m : Nat) : (ror hw a m).fresh = hw.fresh := rset_fresh hw a _
@[simp] theorem ror_mem (a m : Nat) : (ror hw a m).mem = hw.mem := rset_mem hw a _
@[simp] theorem ror_harts (a m : Nat) : (ror hw a m).harts = hw.harts := rset_harts hw a _
@[simp] theorem ror_cores (a m : Nat) : (ror hw a m).cores = hw.cores := rset_cores hw a _
@[simp] theorem ror_groups (a m : Nat) : (ror hw a m).groups = hw.groups := rset_groups hw a _
@[simp] theorem ror_parts (a m : Nat) : (ror hw a m).parts = hw.parts := rset_parts hw a _
@[simp] theorem ror_trees (a m : Nat) : (ror hw a m).trees = hw.trees := rset_trees hw a _
@[simp] theorem ror_migs (a m : Nat) : (ror hw a m).migs = hw.migs := rset_migs hw a _
@[simp] theorem ror_migRets (a m : Nat) : (ror hw a m).migRets = hw.migRets := rset_migRets hw a _
@[simp] theorem ror_portsUp (a m : Nat) : (ror hw a m).portsUp = hw.portsUp := rset_portsUp hw a _
@[simp] theorem ror_ramps (a m : Nat) : (ror hw a m).ramps = hw.ramps := rset_ramps hw a _
@[simp] theorem ror_fenced (a m : Nat) : (ror hw a m).fenced = hw.fenced := rset_fenced hw a _
@[simp] theorem ror_gpow (a m : Nat) : (ror hw a m).gpow = hw.gpow := rset_gpow hw a _
@[simp] theorem ror_halves (a m : Nat) : (ror hw a m).halves = hw.halves := rset_halves hw a _
@[simp] theorem ror_pow (a m : Nat) : (ror hw a m).pow = hw.pow := rset_pow hw a _
@[simp] theorem ror_ctls (a m : Nat) : (ror hw a m).ctls = hw.ctls := rset_ctls hw a _
@[simp] theorem ror_ert (a m : Nat) : (ror hw a m).ert = hw.ert := rset_ert hw a _
@[simp] theorem ror_dies (a m : Nat) : (ror hw a m).dies = hw.dies := rset_dies hw a _
@[simp] theorem ror_ports (a m : Nat) : (ror hw a m).ports = hw.ports := rset_ports hw a _
@[simp] theorem ror_lasers (a m : Nat) : (ror hw a m).lasers = hw.lasers := rset_lasers hw a _
@[simp] theorem ror_acelos (a m : Nat) : (ror hw a m).acelos = hw.acelos := rset_acelos hw a _
@[simp] theorem ror_pkg (a m : Nat) : (ror hw a m).pkg = hw.pkg := rset_pkg hw a _
@[simp] theorem ror_img (a m : Nat) : (ror hw a m).img = hw.img := rset_img hw a _
@[simp] theorem ror_present (a m : Nat) : (ror hw a m).present = hw.present := rset_present hw a _
@[simp] theorem ror_locked (a m : Nat) : (ror hw a m).locked = hw.locked := rset_locked hw a _
@[simp] theorem ror_stop (a m : Nat) : (ror hw a m).stop = hw.stop := rset_stop hw a _
@[simp] theorem ror_fatal (a m : Nat) : (ror hw a m).fatal = hw.fatal := rset_fatal hw a _
@[simp] theorem ror_msgs (a m : Nat) : (ror hw a m).msgs = hw.msgs := rset_msgs hw a _
@[simp] theorem ror_imsic (a m : Nat) : (ror hw a m).imsic = hw.imsic := rset_imsic hw a _
@[simp] theorem ror_bar4 (a m : Nat) : (ror hw a m).bar4 = hw.bar4 := rset_bar4 hw a _
@[simp] theorem ror_idKey (a m : Nat) : (ror hw a m).idKey = hw.idKey := rset_idKey hw a _
@[simp] theorem ror_idCert (a m : Nat) : (ror hw a m).idCert = hw.idCert := rset_idCert hw a _
@[simp] theorem ror_deadHarts (a m : Nat) : (ror hw a m).deadHarts = hw.deadHarts := rset_deadHarts hw a _
@[simp] theorem ror_clk (a m : Nat) : (ror hw a m).clk = hw.clk := rset_clk hw a _
@[simp] theorem ror_pcpFlip (a m : Nat) : (ror hw a m).pcpFlip = hw.pcpFlip := rset_pcpFlip hw a _
@[simp] theorem ror_retired (a m : Nat) : (ror hw a m).retired = hw.retired := rset_retired hw a _
@[simp] theorem ror_tallied (a m : Nat) : (ror hw a m).tallied = hw.tallied := rset_tallied hw a _
@[simp] theorem ror_kept (a m : Nat) : (ror hw a m).kept = hw.kept := rset_kept hw a _
@[simp] theorem ror_placed (a m : Nat) : (ror hw a m).placed = hw.placed := rset_placed hw a _
@[simp] theorem ror_sent (a m : Nat) : (ror hw a m).sent = hw.sent := rset_sent hw a _

/-! #### rclr -/

@[simp] theorem rclr_logs (a m : Nat) : (rclr hw a m).logs = hw.logs := rset_logs hw a _
@[simp] theorem rclr_lastPop (a m : Nat) : (rclr hw a m).lastPop = hw.lastPop := rset_lastPop hw a _
@[simp] theorem rclr_fresh (a m : Nat) : (rclr hw a m).fresh = hw.fresh := rset_fresh hw a _
@[simp] theorem rclr_mem (a m : Nat) : (rclr hw a m).mem = hw.mem := rset_mem hw a _
@[simp] theorem rclr_harts (a m : Nat) : (rclr hw a m).harts = hw.harts := rset_harts hw a _
@[simp] theorem rclr_cores (a m : Nat) : (rclr hw a m).cores = hw.cores := rset_cores hw a _
@[simp] theorem rclr_groups (a m : Nat) : (rclr hw a m).groups = hw.groups := rset_groups hw a _
@[simp] theorem rclr_parts (a m : Nat) : (rclr hw a m).parts = hw.parts := rset_parts hw a _
@[simp] theorem rclr_trees (a m : Nat) : (rclr hw a m).trees = hw.trees := rset_trees hw a _
@[simp] theorem rclr_migs (a m : Nat) : (rclr hw a m).migs = hw.migs := rset_migs hw a _
@[simp] theorem rclr_migRets (a m : Nat) : (rclr hw a m).migRets = hw.migRets := rset_migRets hw a _
@[simp] theorem rclr_portsUp (a m : Nat) : (rclr hw a m).portsUp = hw.portsUp := rset_portsUp hw a _
@[simp] theorem rclr_ramps (a m : Nat) : (rclr hw a m).ramps = hw.ramps := rset_ramps hw a _
@[simp] theorem rclr_fenced (a m : Nat) : (rclr hw a m).fenced = hw.fenced := rset_fenced hw a _
@[simp] theorem rclr_gpow (a m : Nat) : (rclr hw a m).gpow = hw.gpow := rset_gpow hw a _
@[simp] theorem rclr_halves (a m : Nat) : (rclr hw a m).halves = hw.halves := rset_halves hw a _
@[simp] theorem rclr_pow (a m : Nat) : (rclr hw a m).pow = hw.pow := rset_pow hw a _
@[simp] theorem rclr_ctls (a m : Nat) : (rclr hw a m).ctls = hw.ctls := rset_ctls hw a _
@[simp] theorem rclr_ert (a m : Nat) : (rclr hw a m).ert = hw.ert := rset_ert hw a _
@[simp] theorem rclr_dies (a m : Nat) : (rclr hw a m).dies = hw.dies := rset_dies hw a _
@[simp] theorem rclr_ports (a m : Nat) : (rclr hw a m).ports = hw.ports := rset_ports hw a _
@[simp] theorem rclr_lasers (a m : Nat) : (rclr hw a m).lasers = hw.lasers := rset_lasers hw a _
@[simp] theorem rclr_acelos (a m : Nat) : (rclr hw a m).acelos = hw.acelos := rset_acelos hw a _
@[simp] theorem rclr_pkg (a m : Nat) : (rclr hw a m).pkg = hw.pkg := rset_pkg hw a _
@[simp] theorem rclr_img (a m : Nat) : (rclr hw a m).img = hw.img := rset_img hw a _
@[simp] theorem rclr_present (a m : Nat) : (rclr hw a m).present = hw.present := rset_present hw a _
@[simp] theorem rclr_locked (a m : Nat) : (rclr hw a m).locked = hw.locked := rset_locked hw a _
@[simp] theorem rclr_stop (a m : Nat) : (rclr hw a m).stop = hw.stop := rset_stop hw a _
@[simp] theorem rclr_fatal (a m : Nat) : (rclr hw a m).fatal = hw.fatal := rset_fatal hw a _
@[simp] theorem rclr_msgs (a m : Nat) : (rclr hw a m).msgs = hw.msgs := rset_msgs hw a _
@[simp] theorem rclr_imsic (a m : Nat) : (rclr hw a m).imsic = hw.imsic := rset_imsic hw a _
@[simp] theorem rclr_bar4 (a m : Nat) : (rclr hw a m).bar4 = hw.bar4 := rset_bar4 hw a _
@[simp] theorem rclr_idKey (a m : Nat) : (rclr hw a m).idKey = hw.idKey := rset_idKey hw a _
@[simp] theorem rclr_idCert (a m : Nat) : (rclr hw a m).idCert = hw.idCert := rset_idCert hw a _
@[simp] theorem rclr_deadHarts (a m : Nat) : (rclr hw a m).deadHarts = hw.deadHarts := rset_deadHarts hw a _
@[simp] theorem rclr_clk (a m : Nat) : (rclr hw a m).clk = hw.clk := rset_clk hw a _
@[simp] theorem rclr_pcpFlip (a m : Nat) : (rclr hw a m).pcpFlip = hw.pcpFlip := rset_pcpFlip hw a _
@[simp] theorem rclr_retired (a m : Nat) : (rclr hw a m).retired = hw.retired := rset_retired hw a _
@[simp] theorem rclr_tallied (a m : Nat) : (rclr hw a m).tallied = hw.tallied := rset_tallied hw a _
@[simp] theorem rclr_kept (a m : Nat) : (rclr hw a m).kept = hw.kept := rset_kept hw a _
@[simp] theorem rclr_placed (a m : Nat) : (rclr hw a m).placed = hw.placed := rset_placed hw a _
@[simp] theorem rclr_sent (a m : Nat) : (rclr hw a m).sent = hw.sent := rset_sent hw a _

/-! #### setHart -/

@[simp] theorem setHart_regs (h : Nat) (v : Hart) : (setHart hw h v).regs = hw.regs := rfl
@[simp] theorem setHart_logs (h : Nat) (v : Hart) : (setHart hw h v).logs = hw.logs := rfl
@[simp] theorem setHart_lastPop (h : Nat) (v : Hart) : (setHart hw h v).lastPop = hw.lastPop := rfl
@[simp] theorem setHart_fresh (h : Nat) (v : Hart) : (setHart hw h v).fresh = hw.fresh := rfl
@[simp] theorem setHart_mem (h : Nat) (v : Hart) : (setHart hw h v).mem = hw.mem := rfl
@[simp] theorem setHart_cores (h : Nat) (v : Hart) : (setHart hw h v).cores = hw.cores := rfl
@[simp] theorem setHart_groups (h : Nat) (v : Hart) : (setHart hw h v).groups = hw.groups := rfl
@[simp] theorem setHart_parts (h : Nat) (v : Hart) : (setHart hw h v).parts = hw.parts := rfl
@[simp] theorem setHart_trees (h : Nat) (v : Hart) : (setHart hw h v).trees = hw.trees := rfl
@[simp] theorem setHart_migs (h : Nat) (v : Hart) : (setHart hw h v).migs = hw.migs := rfl
@[simp] theorem setHart_migRets (h : Nat) (v : Hart) : (setHart hw h v).migRets = hw.migRets := rfl
@[simp] theorem setHart_portsUp (h : Nat) (v : Hart) : (setHart hw h v).portsUp = hw.portsUp := rfl
@[simp] theorem setHart_ramps (h : Nat) (v : Hart) : (setHart hw h v).ramps = hw.ramps := rfl
@[simp] theorem setHart_fenced (h : Nat) (v : Hart) : (setHart hw h v).fenced = hw.fenced := rfl
@[simp] theorem setHart_gpow (h : Nat) (v : Hart) : (setHart hw h v).gpow = hw.gpow := rfl
@[simp] theorem setHart_halves (h : Nat) (v : Hart) : (setHart hw h v).halves = hw.halves := rfl
@[simp] theorem setHart_pow (h : Nat) (v : Hart) : (setHart hw h v).pow = hw.pow := rfl
@[simp] theorem setHart_ctls (h : Nat) (v : Hart) : (setHart hw h v).ctls = hw.ctls := rfl
@[simp] theorem setHart_ert (h : Nat) (v : Hart) : (setHart hw h v).ert = hw.ert := rfl
@[simp] theorem setHart_dies (h : Nat) (v : Hart) : (setHart hw h v).dies = hw.dies := rfl
@[simp] theorem setHart_ports (h : Nat) (v : Hart) : (setHart hw h v).ports = hw.ports := rfl
@[simp] theorem setHart_lasers (h : Nat) (v : Hart) : (setHart hw h v).lasers = hw.lasers := rfl
@[simp] theorem setHart_acelos (h : Nat) (v : Hart) : (setHart hw h v).acelos = hw.acelos := rfl
@[simp] theorem setHart_pkg (h : Nat) (v : Hart) : (setHart hw h v).pkg = hw.pkg := rfl
@[simp] theorem setHart_img (h : Nat) (v : Hart) : (setHart hw h v).img = hw.img := rfl
@[simp] theorem setHart_present (h : Nat) (v : Hart) : (setHart hw h v).present = hw.present := rfl
@[simp] theorem setHart_locked (h : Nat) (v : Hart) : (setHart hw h v).locked = hw.locked := rfl
@[simp] theorem setHart_stop (h : Nat) (v : Hart) : (setHart hw h v).stop = hw.stop := rfl
@[simp] theorem setHart_fatal (h : Nat) (v : Hart) : (setHart hw h v).fatal = hw.fatal := rfl
@[simp] theorem setHart_msgs (h : Nat) (v : Hart) : (setHart hw h v).msgs = hw.msgs := rfl
@[simp] theorem setHart_imsic (h : Nat) (v : Hart) : (setHart hw h v).imsic = hw.imsic := rfl
@[simp] theorem setHart_bar4 (h : Nat) (v : Hart) : (setHart hw h v).bar4 = hw.bar4 := rfl
@[simp] theorem setHart_idKey (h : Nat) (v : Hart) : (setHart hw h v).idKey = hw.idKey := rfl
@[simp] theorem setHart_idCert (h : Nat) (v : Hart) : (setHart hw h v).idCert = hw.idCert := rfl
@[simp] theorem setHart_deadHarts (h : Nat) (v : Hart) : (setHart hw h v).deadHarts = hw.deadHarts := rfl
@[simp] theorem setHart_clk (h : Nat) (v : Hart) : (setHart hw h v).clk = hw.clk := rfl
@[simp] theorem setHart_pcpFlip (h : Nat) (v : Hart) : (setHart hw h v).pcpFlip = hw.pcpFlip := rfl
@[simp] theorem setHart_retired (h : Nat) (v : Hart) : (setHart hw h v).retired = hw.retired := rfl
@[simp] theorem setHart_tallied (h : Nat) (v : Hart) : (setHart hw h v).tallied = hw.tallied := rfl
@[simp] theorem setHart_kept (h : Nat) (v : Hart) : (setHart hw h v).kept = hw.kept := rfl
@[simp] theorem setHart_placed (h : Nat) (v : Hart) : (setHart hw h v).placed = hw.placed := rfl
@[simp] theorem setHart_sent (h : Nat) (v : Hart) : (setHart hw h v).sent = hw.sent := rfl

/-! #### setCore -/

@[simp] theorem setCore_regs (c : Nat) (v : Core) : (setCore hw c v).regs = hw.regs := rfl
@[simp] theorem setCore_logs (c : Nat) (v : Core) : (setCore hw c v).logs = hw.logs := rfl
@[simp] theorem setCore_lastPop (c : Nat) (v : Core) : (setCore hw c v).lastPop = hw.lastPop := rfl
@[simp] theorem setCore_fresh (c : Nat) (v : Core) : (setCore hw c v).fresh = hw.fresh := rfl
@[simp] theorem setCore_mem (c : Nat) (v : Core) : (setCore hw c v).mem = hw.mem := rfl
@[simp] theorem setCore_harts (c : Nat) (v : Core) : (setCore hw c v).harts = hw.harts := rfl
@[simp] theorem setCore_groups (c : Nat) (v : Core) : (setCore hw c v).groups = hw.groups := rfl
@[simp] theorem setCore_parts (c : Nat) (v : Core) : (setCore hw c v).parts = hw.parts := rfl
@[simp] theorem setCore_trees (c : Nat) (v : Core) : (setCore hw c v).trees = hw.trees := rfl
@[simp] theorem setCore_migs (c : Nat) (v : Core) : (setCore hw c v).migs = hw.migs := rfl
@[simp] theorem setCore_migRets (c : Nat) (v : Core) : (setCore hw c v).migRets = hw.migRets := rfl
@[simp] theorem setCore_portsUp (c : Nat) (v : Core) : (setCore hw c v).portsUp = hw.portsUp := rfl
@[simp] theorem setCore_ramps (c : Nat) (v : Core) : (setCore hw c v).ramps = hw.ramps := rfl
@[simp] theorem setCore_fenced (c : Nat) (v : Core) : (setCore hw c v).fenced = hw.fenced := rfl
@[simp] theorem setCore_gpow (c : Nat) (v : Core) : (setCore hw c v).gpow = hw.gpow := rfl
@[simp] theorem setCore_halves (c : Nat) (v : Core) : (setCore hw c v).halves = hw.halves := rfl
@[simp] theorem setCore_pow (c : Nat) (v : Core) : (setCore hw c v).pow = hw.pow := rfl
@[simp] theorem setCore_ctls (c : Nat) (v : Core) : (setCore hw c v).ctls = hw.ctls := rfl
@[simp] theorem setCore_ert (c : Nat) (v : Core) : (setCore hw c v).ert = hw.ert := rfl
@[simp] theorem setCore_dies (c : Nat) (v : Core) : (setCore hw c v).dies = hw.dies := rfl
@[simp] theorem setCore_ports (c : Nat) (v : Core) : (setCore hw c v).ports = hw.ports := rfl
@[simp] theorem setCore_lasers (c : Nat) (v : Core) : (setCore hw c v).lasers = hw.lasers := rfl
@[simp] theorem setCore_acelos (c : Nat) (v : Core) : (setCore hw c v).acelos = hw.acelos := rfl
@[simp] theorem setCore_pkg (c : Nat) (v : Core) : (setCore hw c v).pkg = hw.pkg := rfl
@[simp] theorem setCore_img (c : Nat) (v : Core) : (setCore hw c v).img = hw.img := rfl
@[simp] theorem setCore_present (c : Nat) (v : Core) : (setCore hw c v).present = hw.present := rfl
@[simp] theorem setCore_locked (c : Nat) (v : Core) : (setCore hw c v).locked = hw.locked := rfl
@[simp] theorem setCore_stop (c : Nat) (v : Core) : (setCore hw c v).stop = hw.stop := rfl
@[simp] theorem setCore_fatal (c : Nat) (v : Core) : (setCore hw c v).fatal = hw.fatal := rfl
@[simp] theorem setCore_msgs (c : Nat) (v : Core) : (setCore hw c v).msgs = hw.msgs := rfl
@[simp] theorem setCore_imsic (c : Nat) (v : Core) : (setCore hw c v).imsic = hw.imsic := rfl
@[simp] theorem setCore_bar4 (c : Nat) (v : Core) : (setCore hw c v).bar4 = hw.bar4 := rfl
@[simp] theorem setCore_idKey (c : Nat) (v : Core) : (setCore hw c v).idKey = hw.idKey := rfl
@[simp] theorem setCore_idCert (c : Nat) (v : Core) : (setCore hw c v).idCert = hw.idCert := rfl
@[simp] theorem setCore_deadHarts (c : Nat) (v : Core) : (setCore hw c v).deadHarts = hw.deadHarts := rfl
@[simp] theorem setCore_clk (c : Nat) (v : Core) : (setCore hw c v).clk = hw.clk := rfl
@[simp] theorem setCore_pcpFlip (c : Nat) (v : Core) : (setCore hw c v).pcpFlip = hw.pcpFlip := rfl
@[simp] theorem setCore_retired (c : Nat) (v : Core) : (setCore hw c v).retired = hw.retired := rfl
@[simp] theorem setCore_tallied (c : Nat) (v : Core) : (setCore hw c v).tallied = hw.tallied := rfl
@[simp] theorem setCore_kept (c : Nat) (v : Core) : (setCore hw c v).kept = hw.kept := rfl
@[simp] theorem setCore_placed (c : Nat) (v : Core) : (setCore hw c v).placed = hw.placed := rfl
@[simp] theorem setCore_sent (c : Nat) (v : Core) : (setCore hw c v).sent = hw.sent := rfl

/-! #### setTree -/

@[simp] theorem setTree_regs (d : Nat) (v : Tree) : (setTree hw d v).regs = hw.regs := rfl
@[simp] theorem setTree_logs (d : Nat) (v : Tree) : (setTree hw d v).logs = hw.logs := rfl
@[simp] theorem setTree_lastPop (d : Nat) (v : Tree) : (setTree hw d v).lastPop = hw.lastPop := rfl
@[simp] theorem setTree_fresh (d : Nat) (v : Tree) : (setTree hw d v).fresh = hw.fresh := rfl
@[simp] theorem setTree_mem (d : Nat) (v : Tree) : (setTree hw d v).mem = hw.mem := rfl
@[simp] theorem setTree_harts (d : Nat) (v : Tree) : (setTree hw d v).harts = hw.harts := rfl
@[simp] theorem setTree_cores (d : Nat) (v : Tree) : (setTree hw d v).cores = hw.cores := rfl
@[simp] theorem setTree_groups (d : Nat) (v : Tree) : (setTree hw d v).groups = hw.groups := rfl
@[simp] theorem setTree_parts (d : Nat) (v : Tree) : (setTree hw d v).parts = hw.parts := rfl
@[simp] theorem setTree_migs (d : Nat) (v : Tree) : (setTree hw d v).migs = hw.migs := rfl
@[simp] theorem setTree_migRets (d : Nat) (v : Tree) : (setTree hw d v).migRets = hw.migRets := rfl
@[simp] theorem setTree_portsUp (d : Nat) (v : Tree) : (setTree hw d v).portsUp = hw.portsUp := rfl
@[simp] theorem setTree_ramps (d : Nat) (v : Tree) : (setTree hw d v).ramps = hw.ramps := rfl
@[simp] theorem setTree_fenced (d : Nat) (v : Tree) : (setTree hw d v).fenced = hw.fenced := rfl
@[simp] theorem setTree_gpow (d : Nat) (v : Tree) : (setTree hw d v).gpow = hw.gpow := rfl
@[simp] theorem setTree_halves (d : Nat) (v : Tree) : (setTree hw d v).halves = hw.halves := rfl
@[simp] theorem setTree_pow (d : Nat) (v : Tree) : (setTree hw d v).pow = hw.pow := rfl
@[simp] theorem setTree_ctls (d : Nat) (v : Tree) : (setTree hw d v).ctls = hw.ctls := rfl
@[simp] theorem setTree_ert (d : Nat) (v : Tree) : (setTree hw d v).ert = hw.ert := rfl
@[simp] theorem setTree_dies (d : Nat) (v : Tree) : (setTree hw d v).dies = hw.dies := rfl
@[simp] theorem setTree_ports (d : Nat) (v : Tree) : (setTree hw d v).ports = hw.ports := rfl
@[simp] theorem setTree_lasers (d : Nat) (v : Tree) : (setTree hw d v).lasers = hw.lasers := rfl
@[simp] theorem setTree_acelos (d : Nat) (v : Tree) : (setTree hw d v).acelos = hw.acelos := rfl
@[simp] theorem setTree_pkg (d : Nat) (v : Tree) : (setTree hw d v).pkg = hw.pkg := rfl
@[simp] theorem setTree_img (d : Nat) (v : Tree) : (setTree hw d v).img = hw.img := rfl
@[simp] theorem setTree_present (d : Nat) (v : Tree) : (setTree hw d v).present = hw.present := rfl
@[simp] theorem setTree_locked (d : Nat) (v : Tree) : (setTree hw d v).locked = hw.locked := rfl
@[simp] theorem setTree_stop (d : Nat) (v : Tree) : (setTree hw d v).stop = hw.stop := rfl
@[simp] theorem setTree_fatal (d : Nat) (v : Tree) : (setTree hw d v).fatal = hw.fatal := rfl
@[simp] theorem setTree_msgs (d : Nat) (v : Tree) : (setTree hw d v).msgs = hw.msgs := rfl
@[simp] theorem setTree_imsic (d : Nat) (v : Tree) : (setTree hw d v).imsic = hw.imsic := rfl
@[simp] theorem setTree_bar4 (d : Nat) (v : Tree) : (setTree hw d v).bar4 = hw.bar4 := rfl
@[simp] theorem setTree_idKey (d : Nat) (v : Tree) : (setTree hw d v).idKey = hw.idKey := rfl
@[simp] theorem setTree_idCert (d : Nat) (v : Tree) : (setTree hw d v).idCert = hw.idCert := rfl
@[simp] theorem setTree_deadHarts (d : Nat) (v : Tree) : (setTree hw d v).deadHarts = hw.deadHarts := rfl
@[simp] theorem setTree_clk (d : Nat) (v : Tree) : (setTree hw d v).clk = hw.clk := rfl
@[simp] theorem setTree_pcpFlip (d : Nat) (v : Tree) : (setTree hw d v).pcpFlip = hw.pcpFlip := rfl
@[simp] theorem setTree_retired (d : Nat) (v : Tree) : (setTree hw d v).retired = hw.retired := rfl
@[simp] theorem setTree_tallied (d : Nat) (v : Tree) : (setTree hw d v).tallied = hw.tallied := rfl
@[simp] theorem setTree_kept (d : Nat) (v : Tree) : (setTree hw d v).kept = hw.kept := rfl
@[simp] theorem setTree_placed (d : Nat) (v : Tree) : (setTree hw d v).placed = hw.placed := rfl
@[simp] theorem setTree_sent (d : Nat) (v : Tree) : (setTree hw d v).sent = hw.sent := rfl

/-! #### setGroup -/

@[simp] theorem setGroup_regs (g st : Nat) : (setGroup hw g st).regs = hw.regs := rfl
@[simp] theorem setGroup_logs (g st : Nat) : (setGroup hw g st).logs = hw.logs := rfl
@[simp] theorem setGroup_lastPop (g st : Nat) : (setGroup hw g st).lastPop = hw.lastPop := rfl
@[simp] theorem setGroup_fresh (g st : Nat) : (setGroup hw g st).fresh = hw.fresh := rfl
@[simp] theorem setGroup_mem (g st : Nat) : (setGroup hw g st).mem = hw.mem := rfl
@[simp] theorem setGroup_harts (g st : Nat) : (setGroup hw g st).harts = hw.harts := rfl
@[simp] theorem setGroup_cores (g st : Nat) : (setGroup hw g st).cores = hw.cores := rfl
@[simp] theorem setGroup_parts (g st : Nat) : (setGroup hw g st).parts = hw.parts := rfl
@[simp] theorem setGroup_trees (g st : Nat) : (setGroup hw g st).trees = hw.trees := rfl
@[simp] theorem setGroup_migs (g st : Nat) : (setGroup hw g st).migs = hw.migs := rfl
@[simp] theorem setGroup_migRets (g st : Nat) : (setGroup hw g st).migRets = hw.migRets := rfl
@[simp] theorem setGroup_portsUp (g st : Nat) : (setGroup hw g st).portsUp = hw.portsUp := rfl
@[simp] theorem setGroup_ramps (g st : Nat) : (setGroup hw g st).ramps = hw.ramps := rfl
@[simp] theorem setGroup_fenced (g st : Nat) : (setGroup hw g st).fenced = hw.fenced := rfl
@[simp] theorem setGroup_gpow (g st : Nat) : (setGroup hw g st).gpow = hw.gpow := rfl
@[simp] theorem setGroup_halves (g st : Nat) : (setGroup hw g st).halves = hw.halves := rfl
@[simp] theorem setGroup_pow (g st : Nat) : (setGroup hw g st).pow = hw.pow := rfl
@[simp] theorem setGroup_ctls (g st : Nat) : (setGroup hw g st).ctls = hw.ctls := rfl
@[simp] theorem setGroup_ert (g st : Nat) : (setGroup hw g st).ert = hw.ert := rfl
@[simp] theorem setGroup_dies (g st : Nat) : (setGroup hw g st).dies = hw.dies := rfl
@[simp] theorem setGroup_ports (g st : Nat) : (setGroup hw g st).ports = hw.ports := rfl
@[simp] theorem setGroup_lasers (g st : Nat) : (setGroup hw g st).lasers = hw.lasers := rfl
@[simp] theorem setGroup_acelos (g st : Nat) : (setGroup hw g st).acelos = hw.acelos := rfl
@[simp] theorem setGroup_pkg (g st : Nat) : (setGroup hw g st).pkg = hw.pkg := rfl
@[simp] theorem setGroup_img (g st : Nat) : (setGroup hw g st).img = hw.img := rfl
@[simp] theorem setGroup_present (g st : Nat) : (setGroup hw g st).present = hw.present := rfl
@[simp] theorem setGroup_locked (g st : Nat) : (setGroup hw g st).locked = hw.locked := rfl
@[simp] theorem setGroup_stop (g st : Nat) : (setGroup hw g st).stop = hw.stop := rfl
@[simp] theorem setGroup_fatal (g st : Nat) : (setGroup hw g st).fatal = hw.fatal := rfl
@[simp] theorem setGroup_msgs (g st : Nat) : (setGroup hw g st).msgs = hw.msgs := rfl
@[simp] theorem setGroup_imsic (g st : Nat) : (setGroup hw g st).imsic = hw.imsic := rfl
@[simp] theorem setGroup_bar4 (g st : Nat) : (setGroup hw g st).bar4 = hw.bar4 := rfl
@[simp] theorem setGroup_idKey (g st : Nat) : (setGroup hw g st).idKey = hw.idKey := rfl
@[simp] theorem setGroup_idCert (g st : Nat) : (setGroup hw g st).idCert = hw.idCert := rfl
@[simp] theorem setGroup_deadHarts (g st : Nat) : (setGroup hw g st).deadHarts = hw.deadHarts := rfl
@[simp] theorem setGroup_clk (g st : Nat) : (setGroup hw g st).clk = hw.clk := rfl
@[simp] theorem setGroup_pcpFlip (g st : Nat) : (setGroup hw g st).pcpFlip = hw.pcpFlip := rfl
@[simp] theorem setGroup_retired (g st : Nat) : (setGroup hw g st).retired = hw.retired := rfl
@[simp] theorem setGroup_tallied (g st : Nat) : (setGroup hw g st).tallied = hw.tallied := rfl
@[simp] theorem setGroup_kept (g st : Nat) : (setGroup hw g st).kept = hw.kept := rfl
@[simp] theorem setGroup_placed (g st : Nat) : (setGroup hw g st).placed = hw.placed := rfl
@[simp] theorem setGroup_sent (g st : Nat) : (setGroup hw g st).sent = hw.sent := rfl

/-! #### setDie -/

@[simp] theorem setDie_regs (d : Nat) (v : Die) : (setDie hw d v).regs = hw.regs := rfl
@[simp] theorem setDie_logs (d : Nat) (v : Die) : (setDie hw d v).logs = hw.logs := rfl
@[simp] theorem setDie_lastPop (d : Nat) (v : Die) : (setDie hw d v).lastPop = hw.lastPop := rfl
@[simp] theorem setDie_fresh (d : Nat) (v : Die) : (setDie hw d v).fresh = hw.fresh := rfl
@[simp] theorem setDie_mem (d : Nat) (v : Die) : (setDie hw d v).mem = hw.mem := rfl
@[simp] theorem setDie_harts (d : Nat) (v : Die) : (setDie hw d v).harts = hw.harts := rfl
@[simp] theorem setDie_cores (d : Nat) (v : Die) : (setDie hw d v).cores = hw.cores := rfl
@[simp] theorem setDie_groups (d : Nat) (v : Die) : (setDie hw d v).groups = hw.groups := rfl
@[simp] theorem setDie_parts (d : Nat) (v : Die) : (setDie hw d v).parts = hw.parts := rfl
@[simp] theorem setDie_trees (d : Nat) (v : Die) : (setDie hw d v).trees = hw.trees := rfl
@[simp] theorem setDie_migs (d : Nat) (v : Die) : (setDie hw d v).migs = hw.migs := rfl
@[simp] theorem setDie_migRets (d : Nat) (v : Die) : (setDie hw d v).migRets = hw.migRets := rfl
@[simp] theorem setDie_portsUp (d : Nat) (v : Die) : (setDie hw d v).portsUp = hw.portsUp := rfl
@[simp] theorem setDie_ramps (d : Nat) (v : Die) : (setDie hw d v).ramps = hw.ramps := rfl
@[simp] theorem setDie_fenced (d : Nat) (v : Die) : (setDie hw d v).fenced = hw.fenced := rfl
@[simp] theorem setDie_gpow (d : Nat) (v : Die) : (setDie hw d v).gpow = hw.gpow := rfl
@[simp] theorem setDie_halves (d : Nat) (v : Die) : (setDie hw d v).halves = hw.halves := rfl
@[simp] theorem setDie_pow (d : Nat) (v : Die) : (setDie hw d v).pow = hw.pow := rfl
@[simp] theorem setDie_ctls (d : Nat) (v : Die) : (setDie hw d v).ctls = hw.ctls := rfl
@[simp] theorem setDie_ert (d : Nat) (v : Die) : (setDie hw d v).ert = hw.ert := rfl
@[simp] theorem setDie_ports (d : Nat) (v : Die) : (setDie hw d v).ports = hw.ports := rfl
@[simp] theorem setDie_lasers (d : Nat) (v : Die) : (setDie hw d v).lasers = hw.lasers := rfl
@[simp] theorem setDie_acelos (d : Nat) (v : Die) : (setDie hw d v).acelos = hw.acelos := rfl
@[simp] theorem setDie_pkg (d : Nat) (v : Die) : (setDie hw d v).pkg = hw.pkg := rfl
@[simp] theorem setDie_img (d : Nat) (v : Die) : (setDie hw d v).img = hw.img := rfl
@[simp] theorem setDie_present (d : Nat) (v : Die) : (setDie hw d v).present = hw.present := rfl
@[simp] theorem setDie_locked (d : Nat) (v : Die) : (setDie hw d v).locked = hw.locked := rfl
@[simp] theorem setDie_stop (d : Nat) (v : Die) : (setDie hw d v).stop = hw.stop := rfl
@[simp] theorem setDie_fatal (d : Nat) (v : Die) : (setDie hw d v).fatal = hw.fatal := rfl
@[simp] theorem setDie_msgs (d : Nat) (v : Die) : (setDie hw d v).msgs = hw.msgs := rfl
@[simp] theorem setDie_imsic (d : Nat) (v : Die) : (setDie hw d v).imsic = hw.imsic := rfl
@[simp] theorem setDie_bar4 (d : Nat) (v : Die) : (setDie hw d v).bar4 = hw.bar4 := rfl
@[simp] theorem setDie_idKey (d : Nat) (v : Die) : (setDie hw d v).idKey = hw.idKey := rfl
@[simp] theorem setDie_idCert (d : Nat) (v : Die) : (setDie hw d v).idCert = hw.idCert := rfl
@[simp] theorem setDie_deadHarts (d : Nat) (v : Die) : (setDie hw d v).deadHarts = hw.deadHarts := rfl
@[simp] theorem setDie_clk (d : Nat) (v : Die) : (setDie hw d v).clk = hw.clk := rfl
@[simp] theorem setDie_pcpFlip (d : Nat) (v : Die) : (setDie hw d v).pcpFlip = hw.pcpFlip := rfl
@[simp] theorem setDie_retired (d : Nat) (v : Die) : (setDie hw d v).retired = hw.retired := rfl
@[simp] theorem setDie_tallied (d : Nat) (v : Die) : (setDie hw d v).tallied = hw.tallied := rfl
@[simp] theorem setDie_kept (d : Nat) (v : Die) : (setDie hw d v).kept = hw.kept := rfl
@[simp] theorem setDie_placed (d : Nat) (v : Die) : (setDie hw d v).placed = hw.placed := rfl
@[simp] theorem setDie_sent (d : Nat) (v : Die) : (setDie hw d v).sent = hw.sent := rfl

/-! #### setPort -/

@[simp] theorem setPort_regs (p : Nat) (v : Port) : (setPort hw p v).regs = hw.regs := rfl
@[simp] theorem setPort_logs (p : Nat) (v : Port) : (setPort hw p v).logs = hw.logs := rfl
@[simp] theorem setPort_lastPop (p : Nat) (v : Port) : (setPort hw p v).lastPop = hw.lastPop := rfl
@[simp] theorem setPort_fresh (p : Nat) (v : Port) : (setPort hw p v).fresh = hw.fresh := rfl
@[simp] theorem setPort_mem (p : Nat) (v : Port) : (setPort hw p v).mem = hw.mem := rfl
@[simp] theorem setPort_harts (p : Nat) (v : Port) : (setPort hw p v).harts = hw.harts := rfl
@[simp] theorem setPort_cores (p : Nat) (v : Port) : (setPort hw p v).cores = hw.cores := rfl
@[simp] theorem setPort_groups (p : Nat) (v : Port) : (setPort hw p v).groups = hw.groups := rfl
@[simp] theorem setPort_parts (p : Nat) (v : Port) : (setPort hw p v).parts = hw.parts := rfl
@[simp] theorem setPort_trees (p : Nat) (v : Port) : (setPort hw p v).trees = hw.trees := rfl
@[simp] theorem setPort_migs (p : Nat) (v : Port) : (setPort hw p v).migs = hw.migs := rfl
@[simp] theorem setPort_migRets (p : Nat) (v : Port) : (setPort hw p v).migRets = hw.migRets := rfl
@[simp] theorem setPort_portsUp (p : Nat) (v : Port) : (setPort hw p v).portsUp = hw.portsUp := rfl
@[simp] theorem setPort_ramps (p : Nat) (v : Port) : (setPort hw p v).ramps = hw.ramps := rfl
@[simp] theorem setPort_fenced (p : Nat) (v : Port) : (setPort hw p v).fenced = hw.fenced := rfl
@[simp] theorem setPort_gpow (p : Nat) (v : Port) : (setPort hw p v).gpow = hw.gpow := rfl
@[simp] theorem setPort_halves (p : Nat) (v : Port) : (setPort hw p v).halves = hw.halves := rfl
@[simp] theorem setPort_pow (p : Nat) (v : Port) : (setPort hw p v).pow = hw.pow := rfl
@[simp] theorem setPort_ctls (p : Nat) (v : Port) : (setPort hw p v).ctls = hw.ctls := rfl
@[simp] theorem setPort_ert (p : Nat) (v : Port) : (setPort hw p v).ert = hw.ert := rfl
@[simp] theorem setPort_dies (p : Nat) (v : Port) : (setPort hw p v).dies = hw.dies := rfl
@[simp] theorem setPort_lasers (p : Nat) (v : Port) : (setPort hw p v).lasers = hw.lasers := rfl
@[simp] theorem setPort_acelos (p : Nat) (v : Port) : (setPort hw p v).acelos = hw.acelos := rfl
@[simp] theorem setPort_pkg (p : Nat) (v : Port) : (setPort hw p v).pkg = hw.pkg := rfl
@[simp] theorem setPort_img (p : Nat) (v : Port) : (setPort hw p v).img = hw.img := rfl
@[simp] theorem setPort_present (p : Nat) (v : Port) : (setPort hw p v).present = hw.present := rfl
@[simp] theorem setPort_locked (p : Nat) (v : Port) : (setPort hw p v).locked = hw.locked := rfl
@[simp] theorem setPort_stop (p : Nat) (v : Port) : (setPort hw p v).stop = hw.stop := rfl
@[simp] theorem setPort_fatal (p : Nat) (v : Port) : (setPort hw p v).fatal = hw.fatal := rfl
@[simp] theorem setPort_msgs (p : Nat) (v : Port) : (setPort hw p v).msgs = hw.msgs := rfl
@[simp] theorem setPort_imsic (p : Nat) (v : Port) : (setPort hw p v).imsic = hw.imsic := rfl
@[simp] theorem setPort_bar4 (p : Nat) (v : Port) : (setPort hw p v).bar4 = hw.bar4 := rfl
@[simp] theorem setPort_idKey (p : Nat) (v : Port) : (setPort hw p v).idKey = hw.idKey := rfl
@[simp] theorem setPort_idCert (p : Nat) (v : Port) : (setPort hw p v).idCert = hw.idCert := rfl
@[simp] theorem setPort_deadHarts (p : Nat) (v : Port) : (setPort hw p v).deadHarts = hw.deadHarts := rfl
@[simp] theorem setPort_clk (p : Nat) (v : Port) : (setPort hw p v).clk = hw.clk := rfl
@[simp] theorem setPort_pcpFlip (p : Nat) (v : Port) : (setPort hw p v).pcpFlip = hw.pcpFlip := rfl
@[simp] theorem setPort_retired (p : Nat) (v : Port) : (setPort hw p v).retired = hw.retired := rfl
@[simp] theorem setPort_tallied (p : Nat) (v : Port) : (setPort hw p v).tallied = hw.tallied := rfl
@[simp] theorem setPort_kept (p : Nat) (v : Port) : (setPort hw p v).kept = hw.kept := rfl
@[simp] theorem setPort_placed (p : Nat) (v : Port) : (setPort hw p v).placed = hw.placed := rfl
@[simp] theorem setPort_sent (p : Nat) (v : Port) : (setPort hw p v).sent = hw.sent := rfl

/-! #### setLaser -/

@[simp] theorem setLaser_regs (m : Nat) (v : Laser) : (setLaser hw m v).regs = hw.regs := rfl
@[simp] theorem setLaser_logs (m : Nat) (v : Laser) : (setLaser hw m v).logs = hw.logs := rfl
@[simp] theorem setLaser_lastPop (m : Nat) (v : Laser) : (setLaser hw m v).lastPop = hw.lastPop := rfl
@[simp] theorem setLaser_fresh (m : Nat) (v : Laser) : (setLaser hw m v).fresh = hw.fresh := rfl
@[simp] theorem setLaser_mem (m : Nat) (v : Laser) : (setLaser hw m v).mem = hw.mem := rfl
@[simp] theorem setLaser_harts (m : Nat) (v : Laser) : (setLaser hw m v).harts = hw.harts := rfl
@[simp] theorem setLaser_cores (m : Nat) (v : Laser) : (setLaser hw m v).cores = hw.cores := rfl
@[simp] theorem setLaser_groups (m : Nat) (v : Laser) : (setLaser hw m v).groups = hw.groups := rfl
@[simp] theorem setLaser_parts (m : Nat) (v : Laser) : (setLaser hw m v).parts = hw.parts := rfl
@[simp] theorem setLaser_trees (m : Nat) (v : Laser) : (setLaser hw m v).trees = hw.trees := rfl
@[simp] theorem setLaser_migs (m : Nat) (v : Laser) : (setLaser hw m v).migs = hw.migs := rfl
@[simp] theorem setLaser_migRets (m : Nat) (v : Laser) : (setLaser hw m v).migRets = hw.migRets := rfl
@[simp] theorem setLaser_portsUp (m : Nat) (v : Laser) : (setLaser hw m v).portsUp = hw.portsUp := rfl
@[simp] theorem setLaser_ramps (m : Nat) (v : Laser) : (setLaser hw m v).ramps = hw.ramps := rfl
@[simp] theorem setLaser_fenced (m : Nat) (v : Laser) : (setLaser hw m v).fenced = hw.fenced := rfl
@[simp] theorem setLaser_gpow (m : Nat) (v : Laser) : (setLaser hw m v).gpow = hw.gpow := rfl
@[simp] theorem setLaser_halves (m : Nat) (v : Laser) : (setLaser hw m v).halves = hw.halves := rfl
@[simp] theorem setLaser_pow (m : Nat) (v : Laser) : (setLaser hw m v).pow = hw.pow := rfl
@[simp] theorem setLaser_ctls (m : Nat) (v : Laser) : (setLaser hw m v).ctls = hw.ctls := rfl
@[simp] theorem setLaser_ert (m : Nat) (v : Laser) : (setLaser hw m v).ert = hw.ert := rfl
@[simp] theorem setLaser_dies (m : Nat) (v : Laser) : (setLaser hw m v).dies = hw.dies := rfl
@[simp] theorem setLaser_ports (m : Nat) (v : Laser) : (setLaser hw m v).ports = hw.ports := rfl
@[simp] theorem setLaser_acelos (m : Nat) (v : Laser) : (setLaser hw m v).acelos = hw.acelos := rfl
@[simp] theorem setLaser_pkg (m : Nat) (v : Laser) : (setLaser hw m v).pkg = hw.pkg := rfl
@[simp] theorem setLaser_img (m : Nat) (v : Laser) : (setLaser hw m v).img = hw.img := rfl
@[simp] theorem setLaser_present (m : Nat) (v : Laser) : (setLaser hw m v).present = hw.present := rfl
@[simp] theorem setLaser_locked (m : Nat) (v : Laser) : (setLaser hw m v).locked = hw.locked := rfl
@[simp] theorem setLaser_stop (m : Nat) (v : Laser) : (setLaser hw m v).stop = hw.stop := rfl
@[simp] theorem setLaser_fatal (m : Nat) (v : Laser) : (setLaser hw m v).fatal = hw.fatal := rfl
@[simp] theorem setLaser_msgs (m : Nat) (v : Laser) : (setLaser hw m v).msgs = hw.msgs := rfl
@[simp] theorem setLaser_imsic (m : Nat) (v : Laser) : (setLaser hw m v).imsic = hw.imsic := rfl
@[simp] theorem setLaser_bar4 (m : Nat) (v : Laser) : (setLaser hw m v).bar4 = hw.bar4 := rfl
@[simp] theorem setLaser_idKey (m : Nat) (v : Laser) : (setLaser hw m v).idKey = hw.idKey := rfl
@[simp] theorem setLaser_idCert (m : Nat) (v : Laser) : (setLaser hw m v).idCert = hw.idCert := rfl
@[simp] theorem setLaser_deadHarts (m : Nat) (v : Laser) : (setLaser hw m v).deadHarts = hw.deadHarts := rfl
@[simp] theorem setLaser_clk (m : Nat) (v : Laser) : (setLaser hw m v).clk = hw.clk := rfl
@[simp] theorem setLaser_pcpFlip (m : Nat) (v : Laser) : (setLaser hw m v).pcpFlip = hw.pcpFlip := rfl
@[simp] theorem setLaser_retired (m : Nat) (v : Laser) : (setLaser hw m v).retired = hw.retired := rfl
@[simp] theorem setLaser_tallied (m : Nat) (v : Laser) : (setLaser hw m v).tallied = hw.tallied := rfl
@[simp] theorem setLaser_kept (m : Nat) (v : Laser) : (setLaser hw m v).kept = hw.kept := rfl
@[simp] theorem setLaser_placed (m : Nat) (v : Laser) : (setLaser hw m v).placed = hw.placed := rfl
@[simp] theorem setLaser_sent (m : Nat) (v : Laser) : (setLaser hw m v).sent = hw.sent := rfl

/-! #### setAcelo -/

@[simp] theorem setAcelo_regs (a : Nat) (v : Acelo) : (setAcelo hw a v).regs = hw.regs := rfl
@[simp] theorem setAcelo_logs (a : Nat) (v : Acelo) : (setAcelo hw a v).logs = hw.logs := rfl
@[simp] theorem setAcelo_lastPop (a : Nat) (v : Acelo) : (setAcelo hw a v).lastPop = hw.lastPop := rfl
@[simp] theorem setAcelo_fresh (a : Nat) (v : Acelo) : (setAcelo hw a v).fresh = hw.fresh := rfl
@[simp] theorem setAcelo_mem (a : Nat) (v : Acelo) : (setAcelo hw a v).mem = hw.mem := rfl
@[simp] theorem setAcelo_harts (a : Nat) (v : Acelo) : (setAcelo hw a v).harts = hw.harts := rfl
@[simp] theorem setAcelo_cores (a : Nat) (v : Acelo) : (setAcelo hw a v).cores = hw.cores := rfl
@[simp] theorem setAcelo_groups (a : Nat) (v : Acelo) : (setAcelo hw a v).groups = hw.groups := rfl
@[simp] theorem setAcelo_parts (a : Nat) (v : Acelo) : (setAcelo hw a v).parts = hw.parts := rfl
@[simp] theorem setAcelo_trees (a : Nat) (v : Acelo) : (setAcelo hw a v).trees = hw.trees := rfl
@[simp] theorem setAcelo_migs (a : Nat) (v : Acelo) : (setAcelo hw a v).migs = hw.migs := rfl
@[simp] theorem setAcelo_migRets (a : Nat) (v : Acelo) : (setAcelo hw a v).migRets = hw.migRets := rfl
@[simp] theorem setAcelo_portsUp (a : Nat) (v : Acelo) : (setAcelo hw a v).portsUp = hw.portsUp := rfl
@[simp] theorem setAcelo_ramps (a : Nat) (v : Acelo) : (setAcelo hw a v).ramps = hw.ramps := rfl
@[simp] theorem setAcelo_fenced (a : Nat) (v : Acelo) : (setAcelo hw a v).fenced = hw.fenced := rfl
@[simp] theorem setAcelo_gpow (a : Nat) (v : Acelo) : (setAcelo hw a v).gpow = hw.gpow := rfl
@[simp] theorem setAcelo_halves (a : Nat) (v : Acelo) : (setAcelo hw a v).halves = hw.halves := rfl
@[simp] theorem setAcelo_pow (a : Nat) (v : Acelo) : (setAcelo hw a v).pow = hw.pow := rfl
@[simp] theorem setAcelo_ctls (a : Nat) (v : Acelo) : (setAcelo hw a v).ctls = hw.ctls := rfl
@[simp] theorem setAcelo_ert (a : Nat) (v : Acelo) : (setAcelo hw a v).ert = hw.ert := rfl
@[simp] theorem setAcelo_dies (a : Nat) (v : Acelo) : (setAcelo hw a v).dies = hw.dies := rfl
@[simp] theorem setAcelo_ports (a : Nat) (v : Acelo) : (setAcelo hw a v).ports = hw.ports := rfl
@[simp] theorem setAcelo_lasers (a : Nat) (v : Acelo) : (setAcelo hw a v).lasers = hw.lasers := rfl
@[simp] theorem setAcelo_pkg (a : Nat) (v : Acelo) : (setAcelo hw a v).pkg = hw.pkg := rfl
@[simp] theorem setAcelo_img (a : Nat) (v : Acelo) : (setAcelo hw a v).img = hw.img := rfl
@[simp] theorem setAcelo_present (a : Nat) (v : Acelo) : (setAcelo hw a v).present = hw.present := rfl
@[simp] theorem setAcelo_locked (a : Nat) (v : Acelo) : (setAcelo hw a v).locked = hw.locked := rfl
@[simp] theorem setAcelo_stop (a : Nat) (v : Acelo) : (setAcelo hw a v).stop = hw.stop := rfl
@[simp] theorem setAcelo_fatal (a : Nat) (v : Acelo) : (setAcelo hw a v).fatal = hw.fatal := rfl
@[simp] theorem setAcelo_msgs (a : Nat) (v : Acelo) : (setAcelo hw a v).msgs = hw.msgs := rfl
@[simp] theorem setAcelo_imsic (a : Nat) (v : Acelo) : (setAcelo hw a v).imsic = hw.imsic := rfl
@[simp] theorem setAcelo_bar4 (a : Nat) (v : Acelo) : (setAcelo hw a v).bar4 = hw.bar4 := rfl
@[simp] theorem setAcelo_idKey (a : Nat) (v : Acelo) : (setAcelo hw a v).idKey = hw.idKey := rfl
@[simp] theorem setAcelo_idCert (a : Nat) (v : Acelo) : (setAcelo hw a v).idCert = hw.idCert := rfl
@[simp] theorem setAcelo_deadHarts (a : Nat) (v : Acelo) : (setAcelo hw a v).deadHarts = hw.deadHarts := rfl
@[simp] theorem setAcelo_clk (a : Nat) (v : Acelo) : (setAcelo hw a v).clk = hw.clk := rfl
@[simp] theorem setAcelo_pcpFlip (a : Nat) (v : Acelo) : (setAcelo hw a v).pcpFlip = hw.pcpFlip := rfl
@[simp] theorem setAcelo_retired (a : Nat) (v : Acelo) : (setAcelo hw a v).retired = hw.retired := rfl
@[simp] theorem setAcelo_tallied (a : Nat) (v : Acelo) : (setAcelo hw a v).tallied = hw.tallied := rfl
@[simp] theorem setAcelo_kept (a : Nat) (v : Acelo) : (setAcelo hw a v).kept = hw.kept := rfl
@[simp] theorem setAcelo_placed (a : Nat) (v : Acelo) : (setAcelo hw a v).placed = hw.placed := rfl
@[simp] theorem setAcelo_sent (a : Nat) (v : Acelo) : (setAcelo hw a v).sent = hw.sent := rfl

/-! #### setCtl -/

@[simp] theorem setCtl_regs (k : Nat) (v : Ctl) : (setCtl hw k v).regs = hw.regs := rfl
@[simp] theorem setCtl_logs (k : Nat) (v : Ctl) : (setCtl hw k v).logs = hw.logs := rfl
@[simp] theorem setCtl_lastPop (k : Nat) (v : Ctl) : (setCtl hw k v).lastPop = hw.lastPop := rfl
@[simp] theorem setCtl_fresh (k : Nat) (v : Ctl) : (setCtl hw k v).fresh = hw.fresh := rfl
@[simp] theorem setCtl_mem (k : Nat) (v : Ctl) : (setCtl hw k v).mem = hw.mem := rfl
@[simp] theorem setCtl_harts (k : Nat) (v : Ctl) : (setCtl hw k v).harts = hw.harts := rfl
@[simp] theorem setCtl_cores (k : Nat) (v : Ctl) : (setCtl hw k v).cores = hw.cores := rfl
@[simp] theorem setCtl_groups (k : Nat) (v : Ctl) : (setCtl hw k v).groups = hw.groups := rfl
@[simp] theorem setCtl_parts (k : Nat) (v : Ctl) : (setCtl hw k v).parts = hw.parts := rfl
@[simp] theorem setCtl_trees (k : Nat) (v : Ctl) : (setCtl hw k v).trees = hw.trees := rfl
@[simp] theorem setCtl_migs (k : Nat) (v : Ctl) : (setCtl hw k v).migs = hw.migs := rfl
@[simp] theorem setCtl_migRets (k : Nat) (v : Ctl) : (setCtl hw k v).migRets = hw.migRets := rfl
@[simp] theorem setCtl_portsUp (k : Nat) (v : Ctl) : (setCtl hw k v).portsUp = hw.portsUp := rfl
@[simp] theorem setCtl_ramps (k : Nat) (v : Ctl) : (setCtl hw k v).ramps = hw.ramps := rfl
@[simp] theorem setCtl_fenced (k : Nat) (v : Ctl) : (setCtl hw k v).fenced = hw.fenced := rfl
@[simp] theorem setCtl_gpow (k : Nat) (v : Ctl) : (setCtl hw k v).gpow = hw.gpow := rfl
@[simp] theorem setCtl_halves (k : Nat) (v : Ctl) : (setCtl hw k v).halves = hw.halves := rfl
@[simp] theorem setCtl_pow (k : Nat) (v : Ctl) : (setCtl hw k v).pow = hw.pow := rfl
@[simp] theorem setCtl_ert (k : Nat) (v : Ctl) : (setCtl hw k v).ert = hw.ert := rfl
@[simp] theorem setCtl_dies (k : Nat) (v : Ctl) : (setCtl hw k v).dies = hw.dies := rfl
@[simp] theorem setCtl_ports (k : Nat) (v : Ctl) : (setCtl hw k v).ports = hw.ports := rfl
@[simp] theorem setCtl_lasers (k : Nat) (v : Ctl) : (setCtl hw k v).lasers = hw.lasers := rfl
@[simp] theorem setCtl_acelos (k : Nat) (v : Ctl) : (setCtl hw k v).acelos = hw.acelos := rfl
@[simp] theorem setCtl_pkg (k : Nat) (v : Ctl) : (setCtl hw k v).pkg = hw.pkg := rfl
@[simp] theorem setCtl_img (k : Nat) (v : Ctl) : (setCtl hw k v).img = hw.img := rfl
@[simp] theorem setCtl_present (k : Nat) (v : Ctl) : (setCtl hw k v).present = hw.present := rfl
@[simp] theorem setCtl_locked (k : Nat) (v : Ctl) : (setCtl hw k v).locked = hw.locked := rfl
@[simp] theorem setCtl_stop (k : Nat) (v : Ctl) : (setCtl hw k v).stop = hw.stop := rfl
@[simp] theorem setCtl_fatal (k : Nat) (v : Ctl) : (setCtl hw k v).fatal = hw.fatal := rfl
@[simp] theorem setCtl_msgs (k : Nat) (v : Ctl) : (setCtl hw k v).msgs = hw.msgs := rfl
@[simp] theorem setCtl_imsic (k : Nat) (v : Ctl) : (setCtl hw k v).imsic = hw.imsic := rfl
@[simp] theorem setCtl_bar4 (k : Nat) (v : Ctl) : (setCtl hw k v).bar4 = hw.bar4 := rfl
@[simp] theorem setCtl_idKey (k : Nat) (v : Ctl) : (setCtl hw k v).idKey = hw.idKey := rfl
@[simp] theorem setCtl_idCert (k : Nat) (v : Ctl) : (setCtl hw k v).idCert = hw.idCert := rfl
@[simp] theorem setCtl_deadHarts (k : Nat) (v : Ctl) : (setCtl hw k v).deadHarts = hw.deadHarts := rfl
@[simp] theorem setCtl_clk (k : Nat) (v : Ctl) : (setCtl hw k v).clk = hw.clk := rfl
@[simp] theorem setCtl_pcpFlip (k : Nat) (v : Ctl) : (setCtl hw k v).pcpFlip = hw.pcpFlip := rfl
@[simp] theorem setCtl_retired (k : Nat) (v : Ctl) : (setCtl hw k v).retired = hw.retired := rfl
@[simp] theorem setCtl_tallied (k : Nat) (v : Ctl) : (setCtl hw k v).tallied = hw.tallied := rfl
@[simp] theorem setCtl_kept (k : Nat) (v : Ctl) : (setCtl hw k v).kept = hw.kept := rfl
@[simp] theorem setCtl_placed (k : Nat) (v : Ctl) : (setCtl hw k v).placed = hw.placed := rfl
@[simp] theorem setCtl_sent (k : Nat) (v : Ctl) : (setCtl hw k v).sent = hw.sent := rfl

/-! #### setGp -/

@[simp] theorem setGp_regs (g : Nat) (v : GPow) : (setGp hw g v).regs = hw.regs := rfl
@[simp] theorem setGp_logs (g : Nat) (v : GPow) : (setGp hw g v).logs = hw.logs := rfl
@[simp] theorem setGp_lastPop (g : Nat) (v : GPow) : (setGp hw g v).lastPop = hw.lastPop := rfl
@[simp] theorem setGp_fresh (g : Nat) (v : GPow) : (setGp hw g v).fresh = hw.fresh := rfl
@[simp] theorem setGp_mem (g : Nat) (v : GPow) : (setGp hw g v).mem = hw.mem := rfl
@[simp] theorem setGp_harts (g : Nat) (v : GPow) : (setGp hw g v).harts = hw.harts := rfl
@[simp] theorem setGp_cores (g : Nat) (v : GPow) : (setGp hw g v).cores = hw.cores := rfl
@[simp] theorem setGp_groups (g : Nat) (v : GPow) : (setGp hw g v).groups = hw.groups := rfl
@[simp] theorem setGp_parts (g : Nat) (v : GPow) : (setGp hw g v).parts = hw.parts := rfl
@[simp] theorem setGp_trees (g : Nat) (v : GPow) : (setGp hw g v).trees = hw.trees := rfl
@[simp] theorem setGp_migs (g : Nat) (v : GPow) : (setGp hw g v).migs = hw.migs := rfl
@[simp] theorem setGp_migRets (g : Nat) (v : GPow) : (setGp hw g v).migRets = hw.migRets := rfl
@[simp] theorem setGp_portsUp (g : Nat) (v : GPow) : (setGp hw g v).portsUp = hw.portsUp := rfl
@[simp] theorem setGp_ramps (g : Nat) (v : GPow) : (setGp hw g v).ramps = hw.ramps := rfl
@[simp] theorem setGp_fenced (g : Nat) (v : GPow) : (setGp hw g v).fenced = hw.fenced := rfl
@[simp] theorem setGp_halves (g : Nat) (v : GPow) : (setGp hw g v).halves = hw.halves := rfl
@[simp] theorem setGp_pow (g : Nat) (v : GPow) : (setGp hw g v).pow = hw.pow := rfl
@[simp] theorem setGp_ctls (g : Nat) (v : GPow) : (setGp hw g v).ctls = hw.ctls := rfl
@[simp] theorem setGp_ert (g : Nat) (v : GPow) : (setGp hw g v).ert = hw.ert := rfl
@[simp] theorem setGp_dies (g : Nat) (v : GPow) : (setGp hw g v).dies = hw.dies := rfl
@[simp] theorem setGp_ports (g : Nat) (v : GPow) : (setGp hw g v).ports = hw.ports := rfl
@[simp] theorem setGp_lasers (g : Nat) (v : GPow) : (setGp hw g v).lasers = hw.lasers := rfl
@[simp] theorem setGp_acelos (g : Nat) (v : GPow) : (setGp hw g v).acelos = hw.acelos := rfl
@[simp] theorem setGp_pkg (g : Nat) (v : GPow) : (setGp hw g v).pkg = hw.pkg := rfl
@[simp] theorem setGp_img (g : Nat) (v : GPow) : (setGp hw g v).img = hw.img := rfl
@[simp] theorem setGp_present (g : Nat) (v : GPow) : (setGp hw g v).present = hw.present := rfl
@[simp] theorem setGp_locked (g : Nat) (v : GPow) : (setGp hw g v).locked = hw.locked := rfl
@[simp] theorem setGp_stop (g : Nat) (v : GPow) : (setGp hw g v).stop = hw.stop := rfl
@[simp] theorem setGp_fatal (g : Nat) (v : GPow) : (setGp hw g v).fatal = hw.fatal := rfl
@[simp] theorem setGp_msgs (g : Nat) (v : GPow) : (setGp hw g v).msgs = hw.msgs := rfl
@[simp] theorem setGp_imsic (g : Nat) (v : GPow) : (setGp hw g v).imsic = hw.imsic := rfl
@[simp] theorem setGp_bar4 (g : Nat) (v : GPow) : (setGp hw g v).bar4 = hw.bar4 := rfl
@[simp] theorem setGp_idKey (g : Nat) (v : GPow) : (setGp hw g v).idKey = hw.idKey := rfl
@[simp] theorem setGp_idCert (g : Nat) (v : GPow) : (setGp hw g v).idCert = hw.idCert := rfl
@[simp] theorem setGp_deadHarts (g : Nat) (v : GPow) : (setGp hw g v).deadHarts = hw.deadHarts := rfl
@[simp] theorem setGp_clk (g : Nat) (v : GPow) : (setGp hw g v).clk = hw.clk := rfl
@[simp] theorem setGp_pcpFlip (g : Nat) (v : GPow) : (setGp hw g v).pcpFlip = hw.pcpFlip := rfl
@[simp] theorem setGp_retired (g : Nat) (v : GPow) : (setGp hw g v).retired = hw.retired := rfl
@[simp] theorem setGp_kept (g : Nat) (v : GPow) : (setGp hw g v).kept = hw.kept := rfl
@[simp] theorem setGp_placed (g : Nat) (v : GPow) : (setGp hw g v).placed = hw.placed := rfl
@[simp] theorem setGp_sent (g : Nat) (v : GPow) : (setGp hw g v).sent = hw.sent := rfl

/-! #### touch -/

@[simp] theorem touch_regs (a : Nat) : (touch hw a).regs = hw.regs := rfl
@[simp] theorem touch_logs (a : Nat) : (touch hw a).logs = hw.logs := rfl
@[simp] theorem touch_lastPop (a : Nat) : (touch hw a).lastPop = hw.lastPop := rfl
@[simp] theorem touch_fresh (a : Nat) : (touch hw a).fresh = hw.fresh := rfl
@[simp] theorem touch_mem (a : Nat) : (touch hw a).mem = hw.mem := rfl
@[simp] theorem touch_harts (a : Nat) : (touch hw a).harts = hw.harts := rfl
@[simp] theorem touch_cores (a : Nat) : (touch hw a).cores = hw.cores := rfl
@[simp] theorem touch_groups (a : Nat) : (touch hw a).groups = hw.groups := rfl
@[simp] theorem touch_parts (a : Nat) : (touch hw a).parts = hw.parts := rfl
@[simp] theorem touch_trees (a : Nat) : (touch hw a).trees = hw.trees := rfl
@[simp] theorem touch_migs (a : Nat) : (touch hw a).migs = hw.migs := rfl
@[simp] theorem touch_migRets (a : Nat) : (touch hw a).migRets = hw.migRets := rfl
@[simp] theorem touch_portsUp (a : Nat) : (touch hw a).portsUp = hw.portsUp := rfl
@[simp] theorem touch_ramps (a : Nat) : (touch hw a).ramps = hw.ramps := rfl
@[simp] theorem touch_fenced (a : Nat) : (touch hw a).fenced = hw.fenced := rfl
@[simp] theorem touch_gpow (a : Nat) : (touch hw a).gpow = hw.gpow := rfl
@[simp] theorem touch_halves (a : Nat) : (touch hw a).halves = hw.halves := rfl
@[simp] theorem touch_pow (a : Nat) : (touch hw a).pow = hw.pow := rfl
@[simp] theorem touch_ctls (a : Nat) : (touch hw a).ctls = hw.ctls := rfl
@[simp] theorem touch_ert (a : Nat) : (touch hw a).ert = hw.ert := rfl
@[simp] theorem touch_dies (a : Nat) : (touch hw a).dies = hw.dies := rfl
@[simp] theorem touch_ports (a : Nat) : (touch hw a).ports = hw.ports := rfl
@[simp] theorem touch_lasers (a : Nat) : (touch hw a).lasers = hw.lasers := rfl
@[simp] theorem touch_acelos (a : Nat) : (touch hw a).acelos = hw.acelos := rfl
@[simp] theorem touch_pkg (a : Nat) : (touch hw a).pkg = hw.pkg := rfl
@[simp] theorem touch_img (a : Nat) : (touch hw a).img = hw.img := rfl
@[simp] theorem touch_present (a : Nat) : (touch hw a).present = hw.present := rfl
@[simp] theorem touch_locked (a : Nat) : (touch hw a).locked = hw.locked := rfl
@[simp] theorem touch_stop (a : Nat) : (touch hw a).stop = hw.stop := rfl
@[simp] theorem touch_fatal (a : Nat) : (touch hw a).fatal = hw.fatal := rfl
@[simp] theorem touch_msgs (a : Nat) : (touch hw a).msgs = hw.msgs := rfl
@[simp] theorem touch_imsic (a : Nat) : (touch hw a).imsic = hw.imsic := rfl
@[simp] theorem touch_bar4 (a : Nat) : (touch hw a).bar4 = hw.bar4 := rfl
@[simp] theorem touch_idKey (a : Nat) : (touch hw a).idKey = hw.idKey := rfl
@[simp] theorem touch_idCert (a : Nat) : (touch hw a).idCert = hw.idCert := rfl
@[simp] theorem touch_deadHarts (a : Nat) : (touch hw a).deadHarts = hw.deadHarts := rfl
@[simp] theorem touch_clk (a : Nat) : (touch hw a).clk = hw.clk := rfl
@[simp] theorem touch_pcpFlip (a : Nat) : (touch hw a).pcpFlip = hw.pcpFlip := rfl
@[simp] theorem touch_retired (a : Nat) : (touch hw a).retired = hw.retired := rfl
@[simp] theorem touch_kept (a : Nat) : (touch hw a).kept = hw.kept := rfl
@[simp] theorem touch_placed (a : Nat) : (touch hw a).placed = hw.placed := rfl
@[simp] theorem touch_sent (a : Nat) : (touch hw a).sent = hw.sent := rfl

/-! #### setHalf -/

@[simp] theorem setHalf_regs (a : Nat) (v : Half) : (setHalf hw a v).regs = hw.regs := rfl
@[simp] theorem setHalf_logs (a : Nat) (v : Half) : (setHalf hw a v).logs = hw.logs := rfl
@[simp] theorem setHalf_lastPop (a : Nat) (v : Half) : (setHalf hw a v).lastPop = hw.lastPop := rfl
@[simp] theorem setHalf_fresh (a : Nat) (v : Half) : (setHalf hw a v).fresh = hw.fresh := rfl
@[simp] theorem setHalf_mem (a : Nat) (v : Half) : (setHalf hw a v).mem = hw.mem := rfl
@[simp] theorem setHalf_harts (a : Nat) (v : Half) : (setHalf hw a v).harts = hw.harts := rfl
@[simp] theorem setHalf_cores (a : Nat) (v : Half) : (setHalf hw a v).cores = hw.cores := rfl
@[simp] theorem setHalf_groups (a : Nat) (v : Half) : (setHalf hw a v).groups = hw.groups := rfl
@[simp] theorem setHalf_parts (a : Nat) (v : Half) : (setHalf hw a v).parts = hw.parts := rfl
@[simp] theorem setHalf_trees (a : Nat) (v : Half) : (setHalf hw a v).trees = hw.trees := rfl
@[simp] theorem setHalf_migs (a : Nat) (v : Half) : (setHalf hw a v).migs = hw.migs := rfl
@[simp] theorem setHalf_migRets (a : Nat) (v : Half) : (setHalf hw a v).migRets = hw.migRets := rfl
@[simp] theorem setHalf_portsUp (a : Nat) (v : Half) : (setHalf hw a v).portsUp = hw.portsUp := rfl
@[simp] theorem setHalf_ramps (a : Nat) (v : Half) : (setHalf hw a v).ramps = hw.ramps := rfl
@[simp] theorem setHalf_fenced (a : Nat) (v : Half) : (setHalf hw a v).fenced = hw.fenced := rfl
@[simp] theorem setHalf_gpow (a : Nat) (v : Half) : (setHalf hw a v).gpow = hw.gpow := rfl
@[simp] theorem setHalf_pow (a : Nat) (v : Half) : (setHalf hw a v).pow = hw.pow := rfl
@[simp] theorem setHalf_ctls (a : Nat) (v : Half) : (setHalf hw a v).ctls = hw.ctls := rfl
@[simp] theorem setHalf_ert (a : Nat) (v : Half) : (setHalf hw a v).ert = hw.ert := rfl
@[simp] theorem setHalf_dies (a : Nat) (v : Half) : (setHalf hw a v).dies = hw.dies := rfl
@[simp] theorem setHalf_ports (a : Nat) (v : Half) : (setHalf hw a v).ports = hw.ports := rfl
@[simp] theorem setHalf_lasers (a : Nat) (v : Half) : (setHalf hw a v).lasers = hw.lasers := rfl
@[simp] theorem setHalf_acelos (a : Nat) (v : Half) : (setHalf hw a v).acelos = hw.acelos := rfl
@[simp] theorem setHalf_pkg (a : Nat) (v : Half) : (setHalf hw a v).pkg = hw.pkg := rfl
@[simp] theorem setHalf_img (a : Nat) (v : Half) : (setHalf hw a v).img = hw.img := rfl
@[simp] theorem setHalf_present (a : Nat) (v : Half) : (setHalf hw a v).present = hw.present := rfl
@[simp] theorem setHalf_locked (a : Nat) (v : Half) : (setHalf hw a v).locked = hw.locked := rfl
@[simp] theorem setHalf_stop (a : Nat) (v : Half) : (setHalf hw a v).stop = hw.stop := rfl
@[simp] theorem setHalf_fatal (a : Nat) (v : Half) : (setHalf hw a v).fatal = hw.fatal := rfl
@[simp] theorem setHalf_msgs (a : Nat) (v : Half) : (setHalf hw a v).msgs = hw.msgs := rfl
@[simp] theorem setHalf_imsic (a : Nat) (v : Half) : (setHalf hw a v).imsic = hw.imsic := rfl
@[simp] theorem setHalf_bar4 (a : Nat) (v : Half) : (setHalf hw a v).bar4 = hw.bar4 := rfl
@[simp] theorem setHalf_idKey (a : Nat) (v : Half) : (setHalf hw a v).idKey = hw.idKey := rfl
@[simp] theorem setHalf_idCert (a : Nat) (v : Half) : (setHalf hw a v).idCert = hw.idCert := rfl
@[simp] theorem setHalf_deadHarts (a : Nat) (v : Half) : (setHalf hw a v).deadHarts = hw.deadHarts := rfl
@[simp] theorem setHalf_clk (a : Nat) (v : Half) : (setHalf hw a v).clk = hw.clk := rfl
@[simp] theorem setHalf_pcpFlip (a : Nat) (v : Half) : (setHalf hw a v).pcpFlip = hw.pcpFlip := rfl
@[simp] theorem setHalf_retired (a : Nat) (v : Half) : (setHalf hw a v).retired = hw.retired := rfl
@[simp] theorem setHalf_tallied (a : Nat) (v : Half) : (setHalf hw a v).tallied = hw.tallied := rfl
@[simp] theorem setHalf_kept (a : Nat) (v : Half) : (setHalf hw a v).kept = hw.kept := rfl
@[simp] theorem setHalf_placed (a : Nat) (v : Half) : (setHalf hw a v).placed = hw.placed := rfl
@[simp] theorem setHalf_sent (a : Nat) (v : Half) : (setHalf hw a v).sent = hw.sent := rfl

/-! #### setMDir -/

@[simp] theorem setMDir_logs (m : Nat) (dir : Bool) (v : MDir) : (setMDir hw m dir v).logs = hw.logs := by unfold setMDir; simp only [rfield_logs]
@[simp] theorem setMDir_lastPop (m : Nat) (dir : Bool) (v : MDir) : (setMDir hw m dir v).lastPop = hw.lastPop := by unfold setMDir; simp only [rfield_lastPop]
@[simp] theorem setMDir_fresh (m : Nat) (dir : Bool) (v : MDir) : (setMDir hw m dir v).fresh = hw.fresh := by unfold setMDir; simp only [rfield_fresh]
@[simp] theorem setMDir_mem (m : Nat) (dir : Bool) (v : MDir) : (setMDir hw m dir v).mem = hw.mem := by unfold setMDir; simp only [rfield_mem]
@[simp] theorem setMDir_harts (m : Nat) (dir : Bool) (v : MDir) : (setMDir hw m dir v).harts = hw.harts := by unfold setMDir; simp only [rfield_harts]
@[simp] theorem setMDir_cores (m : Nat) (dir : Bool) (v : MDir) : (setMDir hw m dir v).cores = hw.cores := by unfold setMDir; simp only [rfield_cores]
@[simp] theorem setMDir_groups (m : Nat) (dir : Bool) (v : MDir) : (setMDir hw m dir v).groups = hw.groups := by unfold setMDir; simp only [rfield_groups]
@[simp] theorem setMDir_parts (m : Nat) (dir : Bool) (v : MDir) : (setMDir hw m dir v).parts = hw.parts := by unfold setMDir; simp only [rfield_parts]
@[simp] theorem setMDir_trees (m : Nat) (dir : Bool) (v : MDir) : (setMDir hw m dir v).trees = hw.trees := by unfold setMDir; simp only [rfield_trees]
@[simp] theorem setMDir_migs (m : Nat) (dir : Bool) (v : MDir) : (setMDir hw m dir v).migs = hw.migs := by unfold setMDir; simp only [rfield_migs]
@[simp] theorem setMDir_migRets (m : Nat) (dir : Bool) (v : MDir) : (setMDir hw m dir v).migRets = hw.migRets := by unfold setMDir; simp only [rfield_migRets]
@[simp] theorem setMDir_portsUp (m : Nat) (dir : Bool) (v : MDir) : (setMDir hw m dir v).portsUp = hw.portsUp := by unfold setMDir; simp only [rfield_portsUp]
@[simp] theorem setMDir_ramps (m : Nat) (dir : Bool) (v : MDir) : (setMDir hw m dir v).ramps = hw.ramps := by unfold setMDir; simp only [rfield_ramps]
@[simp] theorem setMDir_fenced (m : Nat) (dir : Bool) (v : MDir) : (setMDir hw m dir v).fenced = hw.fenced := by unfold setMDir; simp only [rfield_fenced]
@[simp] theorem setMDir_gpow (m : Nat) (dir : Bool) (v : MDir) : (setMDir hw m dir v).gpow = hw.gpow := by unfold setMDir; simp only [rfield_gpow]
@[simp] theorem setMDir_halves (m : Nat) (dir : Bool) (v : MDir) : (setMDir hw m dir v).halves = hw.halves := by unfold setMDir; simp only [rfield_halves]
@[simp] theorem setMDir_pow (m : Nat) (dir : Bool) (v : MDir) : (setMDir hw m dir v).pow = hw.pow := by unfold setMDir; simp only [rfield_pow]
@[simp] theorem setMDir_ctls (m : Nat) (dir : Bool) (v : MDir) : (setMDir hw m dir v).ctls = hw.ctls := by unfold setMDir; simp only [rfield_ctls]
@[simp] theorem setMDir_dies (m : Nat) (dir : Bool) (v : MDir) : (setMDir hw m dir v).dies = hw.dies := by unfold setMDir; simp only [rfield_dies]
@[simp] theorem setMDir_ports (m : Nat) (dir : Bool) (v : MDir) : (setMDir hw m dir v).ports = hw.ports := by unfold setMDir; simp only [rfield_ports]
@[simp] theorem setMDir_lasers (m : Nat) (dir : Bool) (v : MDir) : (setMDir hw m dir v).lasers = hw.lasers := by unfold setMDir; simp only [rfield_lasers]
@[simp] theorem setMDir_acelos (m : Nat) (dir : Bool) (v : MDir) : (setMDir hw m dir v).acelos = hw.acelos := by unfold setMDir; simp only [rfield_acelos]
@[simp] theorem setMDir_pkg (m : Nat) (dir : Bool) (v : MDir) : (setMDir hw m dir v).pkg = hw.pkg := by unfold setMDir; simp only [rfield_pkg]
@[simp] theorem setMDir_img (m : Nat) (dir : Bool) (v : MDir) : (setMDir hw m dir v).img = hw.img := by unfold setMDir; simp only [rfield_img]
@[simp] theorem setMDir_present (m : Nat) (dir : Bool) (v : MDir) : (setMDir hw m dir v).present = hw.present := by unfold setMDir; simp only [rfield_present]
@[simp] theorem setMDir_locked (m : Nat) (dir : Bool) (v : MDir) : (setMDir hw m dir v).locked = hw.locked := by unfold setMDir; simp only [rfield_locked]
@[simp] theorem setMDir_stop (m : Nat) (dir : Bool) (v : MDir) : (setMDir hw m dir v).stop = hw.stop := by unfold setMDir; simp only [rfield_stop]
@[simp] theorem setMDir_fatal (m : Nat) (dir : Bool) (v : MDir) : (setMDir hw m dir v).fatal = hw.fatal := by unfold setMDir; simp only [rfield_fatal]
@[simp] theorem setMDir_msgs (m : Nat) (dir : Bool) (v : MDir) : (setMDir hw m dir v).msgs = hw.msgs := by unfold setMDir; simp only [rfield_msgs]
@[simp] theorem setMDir_imsic (m : Nat) (dir : Bool) (v : MDir) : (setMDir hw m dir v).imsic = hw.imsic := by unfold setMDir; simp only [rfield_imsic]
@[simp] theorem setMDir_bar4 (m : Nat) (dir : Bool) (v : MDir) : (setMDir hw m dir v).bar4 = hw.bar4 := by unfold setMDir; simp only [rfield_bar4]
@[simp] theorem setMDir_idKey (m : Nat) (dir : Bool) (v : MDir) : (setMDir hw m dir v).idKey = hw.idKey := by unfold setMDir; simp only [rfield_idKey]
@[simp] theorem setMDir_idCert (m : Nat) (dir : Bool) (v : MDir) : (setMDir hw m dir v).idCert = hw.idCert := by unfold setMDir; simp only [rfield_idCert]
@[simp] theorem setMDir_deadHarts (m : Nat) (dir : Bool) (v : MDir) : (setMDir hw m dir v).deadHarts = hw.deadHarts := by unfold setMDir; simp only [rfield_deadHarts]
@[simp] theorem setMDir_clk (m : Nat) (dir : Bool) (v : MDir) : (setMDir hw m dir v).clk = hw.clk := by unfold setMDir; simp only [rfield_clk]
@[simp] theorem setMDir_pcpFlip (m : Nat) (dir : Bool) (v : MDir) : (setMDir hw m dir v).pcpFlip = hw.pcpFlip := by unfold setMDir; simp only [rfield_pcpFlip]
@[simp] theorem setMDir_retired (m : Nat) (dir : Bool) (v : MDir) : (setMDir hw m dir v).retired = hw.retired := by unfold setMDir; simp only [rfield_retired]
@[simp] theorem setMDir_tallied (m : Nat) (dir : Bool) (v : MDir) : (setMDir hw m dir v).tallied = hw.tallied := by unfold setMDir; simp only [rfield_tallied]
@[simp] theorem setMDir_kept (m : Nat) (dir : Bool) (v : MDir) : (setMDir hw m dir v).kept = hw.kept := by unfold setMDir; simp only [rfield_kept]
@[simp] theorem setMDir_placed (m : Nat) (dir : Bool) (v : MDir) : (setMDir hw m dir v).placed = hw.placed := by unfold setMDir; simp only [rfield_placed]
@[simp] theorem setMDir_sent (m : Nat) (dir : Bool) (v : MDir) : (setMDir hw m dir v).sent = hw.sent := by unfold setMDir; simp only [rfield_sent]

/-! #### writeBytes -/

@[simp] theorem writeBytes_regs (a : Nat) (bs : List Byte) : (writeBytes hw a bs).regs = hw.regs := rfl
@[simp] theorem writeBytes_logs (a : Nat) (bs : List Byte) : (writeBytes hw a bs).logs = hw.logs := rfl
@[simp] theorem writeBytes_lastPop (a : Nat) (bs : List Byte) : (writeBytes hw a bs).lastPop = hw.lastPop := rfl
@[simp] theorem writeBytes_fresh (a : Nat) (bs : List Byte) : (writeBytes hw a bs).fresh = hw.fresh := rfl
@[simp] theorem writeBytes_harts (a : Nat) (bs : List Byte) : (writeBytes hw a bs).harts = hw.harts := rfl
@[simp] theorem writeBytes_cores (a : Nat) (bs : List Byte) : (writeBytes hw a bs).cores = hw.cores := rfl
@[simp] theorem writeBytes_groups (a : Nat) (bs : List Byte) : (writeBytes hw a bs).groups = hw.groups := rfl
@[simp] theorem writeBytes_parts (a : Nat) (bs : List Byte) : (writeBytes hw a bs).parts = hw.parts := rfl
@[simp] theorem writeBytes_trees (a : Nat) (bs : List Byte) : (writeBytes hw a bs).trees = hw.trees := rfl
@[simp] theorem writeBytes_migs (a : Nat) (bs : List Byte) : (writeBytes hw a bs).migs = hw.migs := rfl
@[simp] theorem writeBytes_migRets (a : Nat) (bs : List Byte) : (writeBytes hw a bs).migRets = hw.migRets := rfl
@[simp] theorem writeBytes_portsUp (a : Nat) (bs : List Byte) : (writeBytes hw a bs).portsUp = hw.portsUp := rfl
@[simp] theorem writeBytes_ramps (a : Nat) (bs : List Byte) : (writeBytes hw a bs).ramps = hw.ramps := rfl
@[simp] theorem writeBytes_fenced (a : Nat) (bs : List Byte) : (writeBytes hw a bs).fenced = hw.fenced := rfl
@[simp] theorem writeBytes_gpow (a : Nat) (bs : List Byte) : (writeBytes hw a bs).gpow = hw.gpow := rfl
@[simp] theorem writeBytes_halves (a : Nat) (bs : List Byte) : (writeBytes hw a bs).halves = hw.halves := rfl
@[simp] theorem writeBytes_pow (a : Nat) (bs : List Byte) : (writeBytes hw a bs).pow = hw.pow := rfl
@[simp] theorem writeBytes_ctls (a : Nat) (bs : List Byte) : (writeBytes hw a bs).ctls = hw.ctls := rfl
@[simp] theorem writeBytes_ert (a : Nat) (bs : List Byte) : (writeBytes hw a bs).ert = hw.ert := rfl
@[simp] theorem writeBytes_dies (a : Nat) (bs : List Byte) : (writeBytes hw a bs).dies = hw.dies := rfl
@[simp] theorem writeBytes_ports (a : Nat) (bs : List Byte) : (writeBytes hw a bs).ports = hw.ports := rfl
@[simp] theorem writeBytes_lasers (a : Nat) (bs : List Byte) : (writeBytes hw a bs).lasers = hw.lasers := rfl
@[simp] theorem writeBytes_acelos (a : Nat) (bs : List Byte) : (writeBytes hw a bs).acelos = hw.acelos := rfl
@[simp] theorem writeBytes_pkg (a : Nat) (bs : List Byte) : (writeBytes hw a bs).pkg = hw.pkg := rfl
@[simp] theorem writeBytes_img (a : Nat) (bs : List Byte) : (writeBytes hw a bs).img = hw.img := rfl
@[simp] theorem writeBytes_present (a : Nat) (bs : List Byte) : (writeBytes hw a bs).present = hw.present := rfl
@[simp] theorem writeBytes_locked (a : Nat) (bs : List Byte) : (writeBytes hw a bs).locked = hw.locked := rfl
@[simp] theorem writeBytes_stop (a : Nat) (bs : List Byte) : (writeBytes hw a bs).stop = hw.stop := rfl
@[simp] theorem writeBytes_fatal (a : Nat) (bs : List Byte) : (writeBytes hw a bs).fatal = hw.fatal := rfl
@[simp] theorem writeBytes_msgs (a : Nat) (bs : List Byte) : (writeBytes hw a bs).msgs = hw.msgs := rfl
@[simp] theorem writeBytes_imsic (a : Nat) (bs : List Byte) : (writeBytes hw a bs).imsic = hw.imsic := rfl
@[simp] theorem writeBytes_bar4 (a : Nat) (bs : List Byte) : (writeBytes hw a bs).bar4 = hw.bar4 := rfl
@[simp] theorem writeBytes_idKey (a : Nat) (bs : List Byte) : (writeBytes hw a bs).idKey = hw.idKey := rfl
@[simp] theorem writeBytes_idCert (a : Nat) (bs : List Byte) : (writeBytes hw a bs).idCert = hw.idCert := rfl
@[simp] theorem writeBytes_deadHarts (a : Nat) (bs : List Byte) : (writeBytes hw a bs).deadHarts = hw.deadHarts := rfl
@[simp] theorem writeBytes_clk (a : Nat) (bs : List Byte) : (writeBytes hw a bs).clk = hw.clk := rfl
@[simp] theorem writeBytes_pcpFlip (a : Nat) (bs : List Byte) : (writeBytes hw a bs).pcpFlip = hw.pcpFlip := rfl
@[simp] theorem writeBytes_retired (a : Nat) (bs : List Byte) : (writeBytes hw a bs).retired = hw.retired := rfl
@[simp] theorem writeBytes_tallied (a : Nat) (bs : List Byte) : (writeBytes hw a bs).tallied = hw.tallied := rfl
@[simp] theorem writeBytes_kept (a : Nat) (bs : List Byte) : (writeBytes hw a bs).kept = hw.kept := rfl
@[simp] theorem writeBytes_placed (a : Nat) (bs : List Byte) : (writeBytes hw a bs).placed = hw.placed := rfl
@[simp] theorem writeBytes_sent (a : Nat) (bs : List Byte) : (writeBytes hw a bs).sent = hw.sent := rfl
@[simp] theorem writeBytes_mem_poison (a : Nat) (bs : List Byte) : (writeBytes hw a bs).mem.poison = hw.mem.poison := rfl
@[simp] theorem writeBytes_mem_slc (a : Nat) (bs : List Byte) : (writeBytes hw a bs).mem.slc = hw.mem.slc := rfl
@[simp] theorem writeBytes_mem_filt (a : Nat) (bs : List Byte) : (writeBytes hw a bs).mem.filt = hw.mem.filt := rfl
@[simp] theorem writeBytes_mem_homes (a : Nat) (bs : List Byte) : (writeBytes hw a bs).mem.homes = hw.mem.homes := rfl
@[simp] theorem writeBytes_mem_watches (a : Nat) (bs : List Byte) : (writeBytes hw a bs).mem.watches = hw.mem.watches := rfl
@[simp] theorem writeBytes_mem_net (a : Nat) (bs : List Byte) : (writeBytes hw a bs).mem.net = hw.mem.net := rfl
@[simp] theorem writeBytes_mem_armed (a : Nat) (bs : List Byte) : (writeBytes hw a bs).mem.armed = hw.mem.armed := rfl
@[simp] theorem writeBytes_mem_marked (a : Nat) (bs : List Byte) : (writeBytes hw a bs).mem.marked = hw.mem.marked := rfl
@[simp] theorem writeBytes_mem_traffic (a : Nat) (bs : List Byte) : (writeBytes hw a bs).mem.traffic = hw.mem.traffic := rfl
@[simp] theorem writeBytes_mem_slcFlip (a : Nat) (bs : List Byte) : (writeBytes hw a bs).mem.slcFlip = hw.mem.slcFlip := rfl
@[simp] theorem writeBytes_mem_tagFlip (a : Nat) (bs : List Byte) : (writeBytes hw a bs).mem.tagFlip = hw.mem.tagFlip := rfl
@[simp] theorem writeBytes_mem_filtFlip (a : Nat) (bs : List Byte) : (writeBytes hw a bs).mem.filtFlip = hw.mem.filtFlip := rfl

/-! #### setPoison -/

@[simp] theorem setPoison_regs (line : Nat) (p : Bool) : (setPoison hw line p).regs = hw.regs := rfl
@[simp] theorem setPoison_logs (line : Nat) (p : Bool) : (setPoison hw line p).logs = hw.logs := rfl
@[simp] theorem setPoison_lastPop (line : Nat) (p : Bool) : (setPoison hw line p).lastPop = hw.lastPop := rfl
@[simp] theorem setPoison_fresh (line : Nat) (p : Bool) : (setPoison hw line p).fresh = hw.fresh := rfl
@[simp] theorem setPoison_harts (line : Nat) (p : Bool) : (setPoison hw line p).harts = hw.harts := rfl
@[simp] theorem setPoison_cores (line : Nat) (p : Bool) : (setPoison hw line p).cores = hw.cores := rfl
@[simp] theorem setPoison_groups (line : Nat) (p : Bool) : (setPoison hw line p).groups = hw.groups := rfl
@[simp] theorem setPoison_parts (line : Nat) (p : Bool) : (setPoison hw line p).parts = hw.parts := rfl
@[simp] theorem setPoison_trees (line : Nat) (p : Bool) : (setPoison hw line p).trees = hw.trees := rfl
@[simp] theorem setPoison_migs (line : Nat) (p : Bool) : (setPoison hw line p).migs = hw.migs := rfl
@[simp] theorem setPoison_migRets (line : Nat) (p : Bool) : (setPoison hw line p).migRets = hw.migRets := rfl
@[simp] theorem setPoison_portsUp (line : Nat) (p : Bool) : (setPoison hw line p).portsUp = hw.portsUp := rfl
@[simp] theorem setPoison_ramps (line : Nat) (p : Bool) : (setPoison hw line p).ramps = hw.ramps := rfl
@[simp] theorem setPoison_fenced (line : Nat) (p : Bool) : (setPoison hw line p).fenced = hw.fenced := rfl
@[simp] theorem setPoison_gpow (line : Nat) (p : Bool) : (setPoison hw line p).gpow = hw.gpow := rfl
@[simp] theorem setPoison_halves (line : Nat) (p : Bool) : (setPoison hw line p).halves = hw.halves := rfl
@[simp] theorem setPoison_pow (line : Nat) (p : Bool) : (setPoison hw line p).pow = hw.pow := rfl
@[simp] theorem setPoison_ctls (line : Nat) (p : Bool) : (setPoison hw line p).ctls = hw.ctls := rfl
@[simp] theorem setPoison_ert (line : Nat) (p : Bool) : (setPoison hw line p).ert = hw.ert := rfl
@[simp] theorem setPoison_dies (line : Nat) (p : Bool) : (setPoison hw line p).dies = hw.dies := rfl
@[simp] theorem setPoison_ports (line : Nat) (p : Bool) : (setPoison hw line p).ports = hw.ports := rfl
@[simp] theorem setPoison_lasers (line : Nat) (p : Bool) : (setPoison hw line p).lasers = hw.lasers := rfl
@[simp] theorem setPoison_acelos (line : Nat) (p : Bool) : (setPoison hw line p).acelos = hw.acelos := rfl
@[simp] theorem setPoison_pkg (line : Nat) (p : Bool) : (setPoison hw line p).pkg = hw.pkg := rfl
@[simp] theorem setPoison_img (line : Nat) (p : Bool) : (setPoison hw line p).img = hw.img := rfl
@[simp] theorem setPoison_present (line : Nat) (p : Bool) : (setPoison hw line p).present = hw.present := rfl
@[simp] theorem setPoison_locked (line : Nat) (p : Bool) : (setPoison hw line p).locked = hw.locked := rfl
@[simp] theorem setPoison_stop (line : Nat) (p : Bool) : (setPoison hw line p).stop = hw.stop := rfl
@[simp] theorem setPoison_fatal (line : Nat) (p : Bool) : (setPoison hw line p).fatal = hw.fatal := rfl
@[simp] theorem setPoison_msgs (line : Nat) (p : Bool) : (setPoison hw line p).msgs = hw.msgs := rfl
@[simp] theorem setPoison_imsic (line : Nat) (p : Bool) : (setPoison hw line p).imsic = hw.imsic := rfl
@[simp] theorem setPoison_bar4 (line : Nat) (p : Bool) : (setPoison hw line p).bar4 = hw.bar4 := rfl
@[simp] theorem setPoison_idKey (line : Nat) (p : Bool) : (setPoison hw line p).idKey = hw.idKey := rfl
@[simp] theorem setPoison_idCert (line : Nat) (p : Bool) : (setPoison hw line p).idCert = hw.idCert := rfl
@[simp] theorem setPoison_deadHarts (line : Nat) (p : Bool) : (setPoison hw line p).deadHarts = hw.deadHarts := rfl
@[simp] theorem setPoison_clk (line : Nat) (p : Bool) : (setPoison hw line p).clk = hw.clk := rfl
@[simp] theorem setPoison_pcpFlip (line : Nat) (p : Bool) : (setPoison hw line p).pcpFlip = hw.pcpFlip := rfl
@[simp] theorem setPoison_retired (line : Nat) (p : Bool) : (setPoison hw line p).retired = hw.retired := rfl
@[simp] theorem setPoison_tallied (line : Nat) (p : Bool) : (setPoison hw line p).tallied = hw.tallied := rfl
@[simp] theorem setPoison_kept (line : Nat) (p : Bool) : (setPoison hw line p).kept = hw.kept := rfl
@[simp] theorem setPoison_placed (line : Nat) (p : Bool) : (setPoison hw line p).placed = hw.placed := rfl
@[simp] theorem setPoison_sent (line : Nat) (p : Bool) : (setPoison hw line p).sent = hw.sent := rfl
@[simp] theorem setPoison_mem_data (line : Nat) (p : Bool) : (setPoison hw line p).mem.data = hw.mem.data := rfl
@[simp] theorem setPoison_mem_slc (line : Nat) (p : Bool) : (setPoison hw line p).mem.slc = hw.mem.slc := rfl
@[simp] theorem setPoison_mem_filt (line : Nat) (p : Bool) : (setPoison hw line p).mem.filt = hw.mem.filt := rfl
@[simp] theorem setPoison_mem_homes (line : Nat) (p : Bool) : (setPoison hw line p).mem.homes = hw.mem.homes := rfl
@[simp] theorem setPoison_mem_watches (line : Nat) (p : Bool) : (setPoison hw line p).mem.watches = hw.mem.watches := rfl
@[simp] theorem setPoison_mem_net (line : Nat) (p : Bool) : (setPoison hw line p).mem.net = hw.mem.net := rfl
@[simp] theorem setPoison_mem_armed (line : Nat) (p : Bool) : (setPoison hw line p).mem.armed = hw.mem.armed := rfl
@[simp] theorem setPoison_mem_marked (line : Nat) (p : Bool) : (setPoison hw line p).mem.marked = hw.mem.marked := rfl
@[simp] theorem setPoison_mem_traffic (line : Nat) (p : Bool) : (setPoison hw line p).mem.traffic = hw.mem.traffic := rfl
@[simp] theorem setPoison_mem_slcFlip (line : Nat) (p : Bool) : (setPoison hw line p).mem.slcFlip = hw.mem.slcFlip := rfl
@[simp] theorem setPoison_mem_tagFlip (line : Nat) (p : Bool) : (setPoison hw line p).mem.tagFlip = hw.mem.tagFlip := rfl
@[simp] theorem setPoison_mem_filtFlip (line : Nat) (p : Bool) : (setPoison hw line p).mem.filtFlip = hw.mem.filtFlip := rfl

/-! #### setHome -/

@[simp] theorem setHome_regs (line : Nat) (v : Home) : (setHome hw line v).regs = hw.regs := rfl
@[simp] theorem setHome_logs (line : Nat) (v : Home) : (setHome hw line v).logs = hw.logs := rfl
@[simp] theorem setHome_lastPop (line : Nat) (v : Home) : (setHome hw line v).lastPop = hw.lastPop := rfl
@[simp] theorem setHome_fresh (line : Nat) (v : Home) : (setHome hw line v).fresh = hw.fresh := rfl
@[simp] theorem setHome_harts (line : Nat) (v : Home) : (setHome hw line v).harts = hw.harts := rfl
@[simp] theorem setHome_cores (line : Nat) (v : Home) : (setHome hw line v).cores = hw.cores := rfl
@[simp] theorem setHome_groups (line : Nat) (v : Home) : (setHome hw line v).groups = hw.groups := rfl
@[simp] theorem setHome_parts (line : Nat) (v : Home) : (setHome hw line v).parts = hw.parts := rfl
@[simp] theorem setHome_trees (line : Nat) (v : Home) : (setHome hw line v).trees = hw.trees := rfl
@[simp] theorem setHome_migs (line : Nat) (v : Home) : (setHome hw line v).migs = hw.migs := rfl
@[simp] theorem setHome_migRets (line : Nat) (v : Home) : (setHome hw line v).migRets = hw.migRets := rfl
@[simp] theorem setHome_portsUp (line : Nat) (v : Home) : (setHome hw line v).portsUp = hw.portsUp := rfl
@[simp] theorem setHome_ramps (line : Nat) (v : Home) : (setHome hw line v).ramps = hw.ramps := rfl
@[simp] theorem setHome_fenced (line : Nat) (v : Home) : (setHome hw line v).fenced = hw.fenced := rfl
@[simp] theorem setHome_gpow (line : Nat) (v : Home) : (setHome hw line v).gpow = hw.gpow := rfl
@[simp] theorem setHome_halves (line : Nat) (v : Home) : (setHome hw line v).halves = hw.halves := rfl
@[simp] theorem setHome_pow (line : Nat) (v : Home) : (setHome hw line v).pow = hw.pow := rfl
@[simp] theorem setHome_ctls (line : Nat) (v : Home) : (setHome hw line v).ctls = hw.ctls := rfl
@[simp] theorem setHome_ert (line : Nat) (v : Home) : (setHome hw line v).ert = hw.ert := rfl
@[simp] theorem setHome_dies (line : Nat) (v : Home) : (setHome hw line v).dies = hw.dies := rfl
@[simp] theorem setHome_ports (line : Nat) (v : Home) : (setHome hw line v).ports = hw.ports := rfl
@[simp] theorem setHome_lasers (line : Nat) (v : Home) : (setHome hw line v).lasers = hw.lasers := rfl
@[simp] theorem setHome_acelos (line : Nat) (v : Home) : (setHome hw line v).acelos = hw.acelos := rfl
@[simp] theorem setHome_pkg (line : Nat) (v : Home) : (setHome hw line v).pkg = hw.pkg := rfl
@[simp] theorem setHome_img (line : Nat) (v : Home) : (setHome hw line v).img = hw.img := rfl
@[simp] theorem setHome_present (line : Nat) (v : Home) : (setHome hw line v).present = hw.present := rfl
@[simp] theorem setHome_locked (line : Nat) (v : Home) : (setHome hw line v).locked = hw.locked := rfl
@[simp] theorem setHome_stop (line : Nat) (v : Home) : (setHome hw line v).stop = hw.stop := rfl
@[simp] theorem setHome_fatal (line : Nat) (v : Home) : (setHome hw line v).fatal = hw.fatal := rfl
@[simp] theorem setHome_msgs (line : Nat) (v : Home) : (setHome hw line v).msgs = hw.msgs := rfl
@[simp] theorem setHome_imsic (line : Nat) (v : Home) : (setHome hw line v).imsic = hw.imsic := rfl
@[simp] theorem setHome_bar4 (line : Nat) (v : Home) : (setHome hw line v).bar4 = hw.bar4 := rfl
@[simp] theorem setHome_idKey (line : Nat) (v : Home) : (setHome hw line v).idKey = hw.idKey := rfl
@[simp] theorem setHome_idCert (line : Nat) (v : Home) : (setHome hw line v).idCert = hw.idCert := rfl
@[simp] theorem setHome_deadHarts (line : Nat) (v : Home) : (setHome hw line v).deadHarts = hw.deadHarts := rfl
@[simp] theorem setHome_clk (line : Nat) (v : Home) : (setHome hw line v).clk = hw.clk := rfl
@[simp] theorem setHome_pcpFlip (line : Nat) (v : Home) : (setHome hw line v).pcpFlip = hw.pcpFlip := rfl
@[simp] theorem setHome_retired (line : Nat) (v : Home) : (setHome hw line v).retired = hw.retired := rfl
@[simp] theorem setHome_tallied (line : Nat) (v : Home) : (setHome hw line v).tallied = hw.tallied := rfl
@[simp] theorem setHome_kept (line : Nat) (v : Home) : (setHome hw line v).kept = hw.kept := rfl
@[simp] theorem setHome_placed (line : Nat) (v : Home) : (setHome hw line v).placed = hw.placed := rfl
@[simp] theorem setHome_sent (line : Nat) (v : Home) : (setHome hw line v).sent = hw.sent := rfl
@[simp] theorem setHome_mem_data (line : Nat) (v : Home) : (setHome hw line v).mem.data = hw.mem.data := rfl
@[simp] theorem setHome_mem_poison (line : Nat) (v : Home) : (setHome hw line v).mem.poison = hw.mem.poison := rfl
@[simp] theorem setHome_mem_slc (line : Nat) (v : Home) : (setHome hw line v).mem.slc = hw.mem.slc := rfl
@[simp] theorem setHome_mem_filt (line : Nat) (v : Home) : (setHome hw line v).mem.filt = hw.mem.filt := rfl
@[simp] theorem setHome_mem_watches (line : Nat) (v : Home) : (setHome hw line v).mem.watches = hw.mem.watches := rfl
@[simp] theorem setHome_mem_net (line : Nat) (v : Home) : (setHome hw line v).mem.net = hw.mem.net := rfl
@[simp] theorem setHome_mem_armed (line : Nat) (v : Home) : (setHome hw line v).mem.armed = hw.mem.armed := rfl
@[simp] theorem setHome_mem_marked (line : Nat) (v : Home) : (setHome hw line v).mem.marked = hw.mem.marked := rfl
@[simp] theorem setHome_mem_traffic (line : Nat) (v : Home) : (setHome hw line v).mem.traffic = hw.mem.traffic := rfl
@[simp] theorem setHome_mem_slcFlip (line : Nat) (v : Home) : (setHome hw line v).mem.slcFlip = hw.mem.slcFlip := rfl
@[simp] theorem setHome_mem_tagFlip (line : Nat) (v : Home) : (setHome hw line v).mem.tagFlip = hw.mem.tagFlip := rfl
@[simp] theorem setHome_mem_filtFlip (line : Nat) (v : Home) : (setHome hw line v).mem.filtFlip = hw.mem.filtFlip := rfl

/-! #### setSlcList -/

@[simp] theorem setSlcList_regs (sl : Nat) (l : List SlcBlock) : (setSlcList hw sl l).regs = hw.regs := rfl
@[simp] theorem setSlcList_logs (sl : Nat) (l : List SlcBlock) : (setSlcList hw sl l).logs = hw.logs := rfl
@[simp] theorem setSlcList_lastPop (sl : Nat) (l : List SlcBlock) : (setSlcList hw sl l).lastPop = hw.lastPop := rfl
@[simp] theorem setSlcList_fresh (sl : Nat) (l : List SlcBlock) : (setSlcList hw sl l).fresh = hw.fresh := rfl
@[simp] theorem setSlcList_harts (sl : Nat) (l : List SlcBlock) : (setSlcList hw sl l).harts = hw.harts := rfl
@[simp] theorem setSlcList_cores (sl : Nat) (l : List SlcBlock) : (setSlcList hw sl l).cores = hw.cores := rfl
@[simp] theorem setSlcList_groups (sl : Nat) (l : List SlcBlock) : (setSlcList hw sl l).groups = hw.groups := rfl
@[simp] theorem setSlcList_parts (sl : Nat) (l : List SlcBlock) : (setSlcList hw sl l).parts = hw.parts := rfl
@[simp] theorem setSlcList_trees (sl : Nat) (l : List SlcBlock) : (setSlcList hw sl l).trees = hw.trees := rfl
@[simp] theorem setSlcList_migs (sl : Nat) (l : List SlcBlock) : (setSlcList hw sl l).migs = hw.migs := rfl
@[simp] theorem setSlcList_migRets (sl : Nat) (l : List SlcBlock) : (setSlcList hw sl l).migRets = hw.migRets := rfl
@[simp] theorem setSlcList_portsUp (sl : Nat) (l : List SlcBlock) : (setSlcList hw sl l).portsUp = hw.portsUp := rfl
@[simp] theorem setSlcList_ramps (sl : Nat) (l : List SlcBlock) : (setSlcList hw sl l).ramps = hw.ramps := rfl
@[simp] theorem setSlcList_fenced (sl : Nat) (l : List SlcBlock) : (setSlcList hw sl l).fenced = hw.fenced := rfl
@[simp] theorem setSlcList_gpow (sl : Nat) (l : List SlcBlock) : (setSlcList hw sl l).gpow = hw.gpow := rfl
@[simp] theorem setSlcList_halves (sl : Nat) (l : List SlcBlock) : (setSlcList hw sl l).halves = hw.halves := rfl
@[simp] theorem setSlcList_pow (sl : Nat) (l : List SlcBlock) : (setSlcList hw sl l).pow = hw.pow := rfl
@[simp] theorem setSlcList_ctls (sl : Nat) (l : List SlcBlock) : (setSlcList hw sl l).ctls = hw.ctls := rfl
@[simp] theorem setSlcList_ert (sl : Nat) (l : List SlcBlock) : (setSlcList hw sl l).ert = hw.ert := rfl
@[simp] theorem setSlcList_dies (sl : Nat) (l : List SlcBlock) : (setSlcList hw sl l).dies = hw.dies := rfl
@[simp] theorem setSlcList_ports (sl : Nat) (l : List SlcBlock) : (setSlcList hw sl l).ports = hw.ports := rfl
@[simp] theorem setSlcList_lasers (sl : Nat) (l : List SlcBlock) : (setSlcList hw sl l).lasers = hw.lasers := rfl
@[simp] theorem setSlcList_acelos (sl : Nat) (l : List SlcBlock) : (setSlcList hw sl l).acelos = hw.acelos := rfl
@[simp] theorem setSlcList_pkg (sl : Nat) (l : List SlcBlock) : (setSlcList hw sl l).pkg = hw.pkg := rfl
@[simp] theorem setSlcList_img (sl : Nat) (l : List SlcBlock) : (setSlcList hw sl l).img = hw.img := rfl
@[simp] theorem setSlcList_present (sl : Nat) (l : List SlcBlock) : (setSlcList hw sl l).present = hw.present := rfl
@[simp] theorem setSlcList_locked (sl : Nat) (l : List SlcBlock) : (setSlcList hw sl l).locked = hw.locked := rfl
@[simp] theorem setSlcList_stop (sl : Nat) (l : List SlcBlock) : (setSlcList hw sl l).stop = hw.stop := rfl
@[simp] theorem setSlcList_fatal (sl : Nat) (l : List SlcBlock) : (setSlcList hw sl l).fatal = hw.fatal := rfl
@[simp] theorem setSlcList_msgs (sl : Nat) (l : List SlcBlock) : (setSlcList hw sl l).msgs = hw.msgs := rfl
@[simp] theorem setSlcList_imsic (sl : Nat) (l : List SlcBlock) : (setSlcList hw sl l).imsic = hw.imsic := rfl
@[simp] theorem setSlcList_bar4 (sl : Nat) (l : List SlcBlock) : (setSlcList hw sl l).bar4 = hw.bar4 := rfl
@[simp] theorem setSlcList_idKey (sl : Nat) (l : List SlcBlock) : (setSlcList hw sl l).idKey = hw.idKey := rfl
@[simp] theorem setSlcList_idCert (sl : Nat) (l : List SlcBlock) : (setSlcList hw sl l).idCert = hw.idCert := rfl
@[simp] theorem setSlcList_deadHarts (sl : Nat) (l : List SlcBlock) : (setSlcList hw sl l).deadHarts = hw.deadHarts := rfl
@[simp] theorem setSlcList_clk (sl : Nat) (l : List SlcBlock) : (setSlcList hw sl l).clk = hw.clk := rfl
@[simp] theorem setSlcList_pcpFlip (sl : Nat) (l : List SlcBlock) : (setSlcList hw sl l).pcpFlip = hw.pcpFlip := rfl
@[simp] theorem setSlcList_retired (sl : Nat) (l : List SlcBlock) : (setSlcList hw sl l).retired = hw.retired := rfl
@[simp] theorem setSlcList_tallied (sl : Nat) (l : List SlcBlock) : (setSlcList hw sl l).tallied = hw.tallied := rfl
@[simp] theorem setSlcList_kept (sl : Nat) (l : List SlcBlock) : (setSlcList hw sl l).kept = hw.kept := rfl
@[simp] theorem setSlcList_placed (sl : Nat) (l : List SlcBlock) : (setSlcList hw sl l).placed = hw.placed := rfl
@[simp] theorem setSlcList_sent (sl : Nat) (l : List SlcBlock) : (setSlcList hw sl l).sent = hw.sent := rfl
@[simp] theorem setSlcList_mem_data (sl : Nat) (l : List SlcBlock) : (setSlcList hw sl l).mem.data = hw.mem.data := rfl
@[simp] theorem setSlcList_mem_poison (sl : Nat) (l : List SlcBlock) : (setSlcList hw sl l).mem.poison = hw.mem.poison := rfl
@[simp] theorem setSlcList_mem_filt (sl : Nat) (l : List SlcBlock) : (setSlcList hw sl l).mem.filt = hw.mem.filt := rfl
@[simp] theorem setSlcList_mem_homes (sl : Nat) (l : List SlcBlock) : (setSlcList hw sl l).mem.homes = hw.mem.homes := rfl
@[simp] theorem setSlcList_mem_watches (sl : Nat) (l : List SlcBlock) : (setSlcList hw sl l).mem.watches = hw.mem.watches := rfl
@[simp] theorem setSlcList_mem_net (sl : Nat) (l : List SlcBlock) : (setSlcList hw sl l).mem.net = hw.mem.net := rfl
@[simp] theorem setSlcList_mem_armed (sl : Nat) (l : List SlcBlock) : (setSlcList hw sl l).mem.armed = hw.mem.armed := rfl
@[simp] theorem setSlcList_mem_marked (sl : Nat) (l : List SlcBlock) : (setSlcList hw sl l).mem.marked = hw.mem.marked := rfl
@[simp] theorem setSlcList_mem_traffic (sl : Nat) (l : List SlcBlock) : (setSlcList hw sl l).mem.traffic = hw.mem.traffic := rfl
@[simp] theorem setSlcList_mem_slcFlip (sl : Nat) (l : List SlcBlock) : (setSlcList hw sl l).mem.slcFlip = hw.mem.slcFlip := rfl
@[simp] theorem setSlcList_mem_tagFlip (sl : Nat) (l : List SlcBlock) : (setSlcList hw sl l).mem.tagFlip = hw.mem.tagFlip := rfl
@[simp] theorem setSlcList_mem_filtFlip (sl : Nat) (l : List SlcBlock) : (setSlcList hw sl l).mem.filtFlip = hw.mem.filtFlip := rfl

/-! #### setNet -/

@[simp] theorem setNet_regs (n : List Msg) : (setNet hw n).regs = hw.regs := rfl
@[simp] theorem setNet_logs (n : List Msg) : (setNet hw n).logs = hw.logs := rfl
@[simp] theorem setNet_lastPop (n : List Msg) : (setNet hw n).lastPop = hw.lastPop := rfl
@[simp] theorem setNet_fresh (n : List Msg) : (setNet hw n).fresh = hw.fresh := rfl
@[simp] theorem setNet_harts (n : List Msg) : (setNet hw n).harts = hw.harts := rfl
@[simp] theorem setNet_cores (n : List Msg) : (setNet hw n).cores = hw.cores := rfl
@[simp] theorem setNet_groups (n : List Msg) : (setNet hw n).groups = hw.groups := rfl
@[simp] theorem setNet_parts (n : List Msg) : (setNet hw n).parts = hw.parts := rfl
@[simp] theorem setNet_trees (n : List Msg) : (setNet hw n).trees = hw.trees := rfl
@[simp] theorem setNet_migs (n : List Msg) : (setNet hw n).migs = hw.migs := rfl
@[simp] theorem setNet_migRets (n : List Msg) : (setNet hw n).migRets = hw.migRets := rfl
@[simp] theorem setNet_portsUp (n : List Msg) : (setNet hw n).portsUp = hw.portsUp := rfl
@[simp] theorem setNet_ramps (n : List Msg) : (setNet hw n).ramps = hw.ramps := rfl
@[simp] theorem setNet_fenced (n : List Msg) : (setNet hw n).fenced = hw.fenced := rfl
@[simp] theorem setNet_gpow (n : List Msg) : (setNet hw n).gpow = hw.gpow := rfl
@[simp] theorem setNet_halves (n : List Msg) : (setNet hw n).halves = hw.halves := rfl
@[simp] theorem setNet_pow (n : List Msg) : (setNet hw n).pow = hw.pow := rfl
@[simp] theorem setNet_ctls (n : List Msg) : (setNet hw n).ctls = hw.ctls := rfl
@[simp] theorem setNet_ert (n : List Msg) : (setNet hw n).ert = hw.ert := rfl
@[simp] theorem setNet_dies (n : List Msg) : (setNet hw n).dies = hw.dies := rfl
@[simp] theorem setNet_ports (n : List Msg) : (setNet hw n).ports = hw.ports := rfl
@[simp] theorem setNet_lasers (n : List Msg) : (setNet hw n).lasers = hw.lasers := rfl
@[simp] theorem setNet_acelos (n : List Msg) : (setNet hw n).acelos = hw.acelos := rfl
@[simp] theorem setNet_pkg (n : List Msg) : (setNet hw n).pkg = hw.pkg := rfl
@[simp] theorem setNet_img (n : List Msg) : (setNet hw n).img = hw.img := rfl
@[simp] theorem setNet_present (n : List Msg) : (setNet hw n).present = hw.present := rfl
@[simp] theorem setNet_locked (n : List Msg) : (setNet hw n).locked = hw.locked := rfl
@[simp] theorem setNet_stop (n : List Msg) : (setNet hw n).stop = hw.stop := rfl
@[simp] theorem setNet_fatal (n : List Msg) : (setNet hw n).fatal = hw.fatal := rfl
@[simp] theorem setNet_msgs (n : List Msg) : (setNet hw n).msgs = hw.msgs := rfl
@[simp] theorem setNet_imsic (n : List Msg) : (setNet hw n).imsic = hw.imsic := rfl
@[simp] theorem setNet_bar4 (n : List Msg) : (setNet hw n).bar4 = hw.bar4 := rfl
@[simp] theorem setNet_idKey (n : List Msg) : (setNet hw n).idKey = hw.idKey := rfl
@[simp] theorem setNet_idCert (n : List Msg) : (setNet hw n).idCert = hw.idCert := rfl
@[simp] theorem setNet_deadHarts (n : List Msg) : (setNet hw n).deadHarts = hw.deadHarts := rfl
@[simp] theorem setNet_clk (n : List Msg) : (setNet hw n).clk = hw.clk := rfl
@[simp] theorem setNet_pcpFlip (n : List Msg) : (setNet hw n).pcpFlip = hw.pcpFlip := rfl
@[simp] theorem setNet_retired (n : List Msg) : (setNet hw n).retired = hw.retired := rfl
@[simp] theorem setNet_tallied (n : List Msg) : (setNet hw n).tallied = hw.tallied := rfl
@[simp] theorem setNet_kept (n : List Msg) : (setNet hw n).kept = hw.kept := rfl
@[simp] theorem setNet_placed (n : List Msg) : (setNet hw n).placed = hw.placed := rfl
@[simp] theorem setNet_sent (n : List Msg) : (setNet hw n).sent = hw.sent := rfl
@[simp] theorem setNet_mem_data (n : List Msg) : (setNet hw n).mem.data = hw.mem.data := rfl
@[simp] theorem setNet_mem_poison (n : List Msg) : (setNet hw n).mem.poison = hw.mem.poison := rfl
@[simp] theorem setNet_mem_slc (n : List Msg) : (setNet hw n).mem.slc = hw.mem.slc := rfl
@[simp] theorem setNet_mem_filt (n : List Msg) : (setNet hw n).mem.filt = hw.mem.filt := rfl
@[simp] theorem setNet_mem_homes (n : List Msg) : (setNet hw n).mem.homes = hw.mem.homes := rfl
@[simp] theorem setNet_mem_watches (n : List Msg) : (setNet hw n).mem.watches = hw.mem.watches := rfl
@[simp] theorem setNet_mem_armed (n : List Msg) : (setNet hw n).mem.armed = hw.mem.armed := rfl
@[simp] theorem setNet_mem_marked (n : List Msg) : (setNet hw n).mem.marked = hw.mem.marked := rfl
@[simp] theorem setNet_mem_traffic (n : List Msg) : (setNet hw n).mem.traffic = hw.mem.traffic := rfl
@[simp] theorem setNet_mem_slcFlip (n : List Msg) : (setNet hw n).mem.slcFlip = hw.mem.slcFlip := rfl
@[simp] theorem setNet_mem_tagFlip (n : List Msg) : (setNet hw n).mem.tagFlip = hw.mem.tagFlip := rfl
@[simp] theorem setNet_mem_filtFlip (n : List Msg) : (setNet hw n).mem.filtFlip = hw.mem.filtFlip := rfl

/-! #### What is written is read; the rest reads as before -/

@[simp] theorem rget_rset_self (a : Nat) (v : Word) : rget (rset hw a v) a = v := mget_mput_self _ _ _ _
theorem rget_rset_ne (a j : Nat) (v : Word) (h : j ≠ a) : rget (rset hw a v) j = rget hw j := mget_mput_ne _ _ _ _ _ h
@[simp] theorem getHart_setHart_self (x : Nat) (v : Hart) : getHart (setHart hw x v) x = v := mget_mput_self _ _ _ _
theorem getHart_setHart_ne (x j : Nat) (v : Hart) (h : j ≠ x) : getHart (setHart hw x v) j = getHart hw j := mget_mput_ne _ _ _ _ _ h
@[simp] theorem getCore_setCore_self (c : Nat) (v : Core) : getCore (setCore hw c v) c = v := mget_mput_self _ _ _ _
theorem getCore_setCore_ne (c j : Nat) (v : Core) (h : j ≠ c) : getCore (setCore hw c v) j = getCore hw j := mget_mput_ne _ _ _ _ _ h
@[simp] theorem getTree_setTree_self (d : Nat) (v : Tree) : getTree (setTree hw d v) d = v := mget_mput_self _ _ _ _
theorem getTree_setTree_ne (d j : Nat) (v : Tree) (h : j ≠ d) : getTree (setTree hw d v) j = getTree hw j := mget_mput_ne _ _ _ _ _ h
@[simp] theorem groupRaw_setGroup_self (g : Nat) (v : Nat) : groupRaw (setGroup hw g v) g = v := mget_mput_self _ _ _ _
theorem groupRaw_setGroup_ne (g j : Nat) (v : Nat) (h : j ≠ g) : groupRaw (setGroup hw g v) j = groupRaw hw j := mget_mput_ne _ _ _ _ _ h
@[simp] theorem getDie_setDie_self (d : Nat) (v : Die) : getDie (setDie hw d v) d = v := mget_mput_self _ _ _ _
theorem getDie_setDie_ne (d j : Nat) (v : Die) (h : j ≠ d) : getDie (setDie hw d v) j = getDie hw j := mget_mput_ne _ _ _ _ _ h
@[simp] theorem getPort_setPort_self (p : Nat) (v : Port) : getPort (setPort hw p v) p = v := mget_mput_self _ _ _ _
theorem getPort_setPort_ne (p j : Nat) (v : Port) (h : j ≠ p) : getPort (setPort hw p v) j = getPort hw j := mget_mput_ne _ _ _ _ _ h
@[simp] theorem getLaser_setLaser_self (m : Nat) (v : Laser) : getLaser (setLaser hw m v) m = v := mget_mput_self _ _ _ _
theorem getLaser_setLaser_ne (m j : Nat) (v : Laser) (h : j ≠ m) : getLaser (setLaser hw m v) j = getLaser hw j := mget_mput_ne _ _ _ _ _ h
@[simp] theorem getAcelo_setAcelo_self (a : Nat) (v : Acelo) : getAcelo (setAcelo hw a v) a = v := mget_mput_self _ _ _ _
theorem getAcelo_setAcelo_ne (a j : Nat) (v : Acelo) (h : j ≠ a) : getAcelo (setAcelo hw a v) j = getAcelo hw j := mget_mput_ne _ _ _ _ _ h
@[simp] theorem getCtl_setCtl_self (k : Nat) (v : Ctl) : getCtl (setCtl hw k v) k = v := mget_mput_self _ _ _ _
theorem getCtl_setCtl_ne (k j : Nat) (v : Ctl) (h : j ≠ k) : getCtl (setCtl hw k v) j = getCtl hw j := mget_mput_ne _ _ _ _ _ h
@[simp] theorem getGp_setGp_self (g : Nat) (v : GPow) : getGp (setGp hw g v) g = v := mget_mput_self _ _ _ _
theorem getGp_setGp_ne (g j : Nat) (v : GPow) (h : j ≠ g) : getGp (setGp hw g v) j = getGp hw j := mget_mput_ne _ _ _ _ _ h
@[simp] theorem getHalf_setHalf_self (a : Nat) (v : Half) : getHalf (setHalf hw a v) a = v := mget_mput_self _ _ _ _
theorem getHalf_setHalf_ne (a j : Nat) (v : Half) (h : j ≠ a) : getHalf (setHalf hw a v) j = getHalf hw j := mget_mput_ne _ _ _ _ _ h
@[simp] theorem getHome_setHome_self (line : Nat) (v : Home) : getHome (setHome hw line v) line = v := mget_mput_self _ _ _ _
theorem getHome_setHome_ne (line j : Nat) (v : Home) (h : j ≠ line) : getHome (setHome hw line v) j = getHome hw j := mget_mput_ne _ _ _ _ _ h

/-! #### Registers and records through other updates -/

@[simp] theorem getCore_rset (a : Nat) (v : Word) (x : Nat) : getCore (rset hw a v) x = getCore hw x := rfl
@[simp] theorem getHart_rset (a : Nat) (v : Word) (x : Nat) : getHart (rset hw a v) x = getHart hw x := rfl
@[simp] theorem getCore_rsetN (a v : Nat) (x : Nat) : getCore (rsetN hw a v) x = getCore hw x := rfl
@[simp] theorem getHart_rsetN (a v : Nat) (x : Nat) : getHart (rsetN hw a v) x = getHart hw x := rfl
@[simp] theorem getCore_rfield (a hi lo v : Nat) (x : Nat) : getCore (rfield hw a hi lo v) x = getCore hw x := rfl
@[simp] theorem getHart_rfield (a hi lo v : Nat) (x : Nat) : getHart (rfield hw a hi lo v) x = getHart hw x := rfl
@[simp] theorem getCore_radd (a n : Nat) (x : Nat) : getCore (radd hw a n) x = getCore hw x := rfl
@[simp] theorem getHart_radd (a n : Nat) (x : Nat) : getHart (radd hw a n) x = getHart hw x := rfl
@[simp] theorem getCore_ror (a m : Nat) (x : Nat) : getCore (ror hw a m) x = getCore hw x := rfl
@[simp] theorem getHart_ror (a m : Nat) (x : Nat) : getHart (ror hw a m) x = getHart hw x := rfl
@[simp] theorem getCore_rclr (a m : Nat) (x : Nat) : getCore (rclr hw a m) x = getCore hw x := rfl
@[simp] theorem getHart_rclr (a m : Nat) (x : Nat) : getHart (rclr hw a m) x = getHart hw x := rfl
@[simp] theorem rget_setHart (h : Nat) (v : Hart) (r : Nat) : rget (setHart hw h v) r = rget hw r := rfl
@[simp] theorem getCore_setHart (h : Nat) (v : Hart) (x : Nat) : getCore (setHart hw h v) x = getCore hw x := rfl
@[simp] theorem rget_setCore (c : Nat) (v : Core) (r : Nat) : rget (setCore hw c v) r = rget hw r := rfl
@[simp] theorem getHart_setCore (c : Nat) (v : Core) (x : Nat) : getHart (setCore hw c v) x = getHart hw x := rfl
@[simp] theorem rget_setTree (d : Nat) (v : Tree) (r : Nat) : rget (setTree hw d v) r = rget hw r := rfl
@[simp] theorem getCore_setTree (d : Nat) (v : Tree) (x : Nat) : getCore (setTree hw d v) x = getCore hw x := rfl
@[simp] theorem getHart_setTree (d : Nat) (v : Tree) (x : Nat) : getHart (setTree hw d v) x = getHart hw x := rfl
@[simp] theorem rget_setGroup (g st : Nat) (r : Nat) : rget (setGroup hw g st) r = rget hw r := rfl
@[simp] theorem getCore_setGroup (g st : Nat) (x : Nat) : getCore (setGroup hw g st) x = getCore hw x := rfl
@[simp] theorem getHart_setGroup (g st : Nat) (x : Nat) : getHart (setGroup hw g st) x = getHart hw x := rfl
@[simp] theorem rget_setDie (d : Nat) (v : Die) (r : Nat) : rget (setDie hw d v) r = rget hw r := rfl
@[simp] theorem getCore_setDie (d : Nat) (v : Die) (x : Nat) : getCore (setDie hw d v) x = getCore hw x := rfl
@[simp] theorem getHart_setDie (d : Nat) (v : Die) (x : Nat) : getHart (setDie hw d v) x = getHart hw x := rfl
@[simp] theorem rget_setPort (p : Nat) (v : Port) (r : Nat) : rget (setPort hw p v) r = rget hw r := rfl
@[simp] theorem getCore_setPort (p : Nat) (v : Port) (x : Nat) : getCore (setPort hw p v) x = getCore hw x := rfl
@[simp] theorem getHart_setPort (p : Nat) (v : Port) (x : Nat) : getHart (setPort hw p v) x = getHart hw x := rfl
@[simp] theorem rget_setLaser (m : Nat) (v : Laser) (r : Nat) : rget (setLaser hw m v) r = rget hw r := rfl
@[simp] theorem getCore_setLaser (m : Nat) (v : Laser) (x : Nat) : getCore (setLaser hw m v) x = getCore hw x := rfl
@[simp] theorem getHart_setLaser (m : Nat) (v : Laser) (x : Nat) : getHart (setLaser hw m v) x = getHart hw x := rfl
@[simp] theorem rget_setAcelo (a : Nat) (v : Acelo) (r : Nat) : rget (setAcelo hw a v) r = rget hw r := rfl
@[simp] theorem getCore_setAcelo (a : Nat) (v : Acelo) (x : Nat) : getCore (setAcelo hw a v) x = getCore hw x := rfl
@[simp] theorem getHart_setAcelo (a : Nat) (v : Acelo) (x : Nat) : getHart (setAcelo hw a v) x = getHart hw x := rfl
@[simp] theorem rget_setCtl (k : Nat) (v : Ctl) (r : Nat) : rget (setCtl hw k v) r = rget hw r := rfl
@[simp] theorem getCore_setCtl (k : Nat) (v : Ctl) (x : Nat) : getCore (setCtl hw k v) x = getCore hw x := rfl
@[simp] theorem getHart_setCtl (k : Nat) (v : Ctl) (x : Nat) : getHart (setCtl hw k v) x = getHart hw x := rfl
@[simp] theorem rget_setGp (g : Nat) (v : GPow) (r : Nat) : rget (setGp hw g v) r = rget hw r := rfl
@[simp] theorem getCore_setGp (g : Nat) (v : GPow) (x : Nat) : getCore (setGp hw g v) x = getCore hw x := rfl
@[simp] theorem getHart_setGp (g : Nat) (v : GPow) (x : Nat) : getHart (setGp hw g v) x = getHart hw x := rfl
@[simp] theorem rget_touch (a : Nat) (r : Nat) : rget (touch hw a) r = rget hw r := rfl
@[simp] theorem getCore_touch (a : Nat) (x : Nat) : getCore (touch hw a) x = getCore hw x := rfl
@[simp] theorem getHart_touch (a : Nat) (x : Nat) : getHart (touch hw a) x = getHart hw x := rfl
@[simp] theorem rget_setHalf (a : Nat) (v : Half) (r : Nat) : rget (setHalf hw a v) r = rget hw r := rfl
@[simp] theorem getCore_setHalf (a : Nat) (v : Half) (x : Nat) : getCore (setHalf hw a v) x = getCore hw x := rfl
@[simp] theorem getHart_setHalf (a : Nat) (v : Half) (x : Nat) : getHart (setHalf hw a v) x = getHart hw x := rfl
@[simp] theorem rget_writeBytes (a : Nat) (bs : List Byte) (r : Nat) : rget (writeBytes hw a bs) r = rget hw r := rfl
@[simp] theorem getCore_writeBytes (a : Nat) (bs : List Byte) (x : Nat) : getCore (writeBytes hw a bs) x = getCore hw x := rfl
@[simp] theorem getHart_writeBytes (a : Nat) (bs : List Byte) (x : Nat) : getHart (writeBytes hw a bs) x = getHart hw x := rfl
@[simp] theorem rget_setPoison (line : Nat) (p : Bool) (r : Nat) : rget (setPoison hw line p) r = rget hw r := rfl
@[simp] theorem getCore_setPoison (line : Nat) (p : Bool) (x : Nat) : getCore (setPoison hw line p) x = getCore hw x := rfl
@[simp] theorem getHart_setPoison (line : Nat) (p : Bool) (x : Nat) : getHart (setPoison hw line p) x = getHart hw x := rfl
@[simp] theorem rget_setHome (line : Nat) (v : Home) (r : Nat) : rget (setHome hw line v) r = rget hw r := rfl
@[simp] theorem getCore_setHome (line : Nat) (v : Home) (x : Nat) : getCore (setHome hw line v) x = getCore hw x := rfl
@[simp] theorem getHart_setHome (line : Nat) (v : Home) (x : Nat) : getHart (setHome hw line v) x = getHart hw x := rfl
@[simp] theorem rget_setSlcList (sl : Nat) (l : List SlcBlock) (r : Nat) : rget (setSlcList hw sl l) r = rget hw r := rfl
@[simp] theorem getCore_setSlcList (sl : Nat) (l : List SlcBlock) (x : Nat) : getCore (setSlcList hw sl l) x = getCore hw x := rfl
@[simp] theorem getHart_setSlcList (sl : Nat) (l : List SlcBlock) (x : Nat) : getHart (setSlcList hw sl l) x = getHart hw x := rfl
@[simp] theorem rget_setNet (n : List Msg) (r : Nat) : rget (setNet hw n) r = rget hw r := rfl
@[simp] theorem getCore_setNet (n : List Msg) (x : Nat) : getCore (setNet hw n) x = getCore hw x := rfl
@[simp] theorem getHart_setNet (n : List Msg) (x : Nat) : getHart (setNet hw n) x = getHart hw x := rfl

/-- A group shows the state it was given: any but the mark of a group never woken. -/
theorem groupState_setGroup_self (g v : Nat) (h : v ≠ 4) : groupState (setGroup hw g v) g = v := by
  simp [groupState, h]

theorem groupState_setGroup_ne (g j v : Nat) (h : j ≠ g) : groupState (setGroup hw g v) j = groupState hw j := by
  simp only [groupState, groupRaw_setGroup_ne hw g j v h]

/-! #### Register operations are `rset` -/

theorem rsetN_eq (a v : Nat) : rsetN hw a v = rset hw a (word v) := rfl
theorem ror_eq (a m : Nat) : ror hw a m = rset hw a (rget hw a ||| word m) := rfl
theorem rclr_eq (a m : Nat) : rclr hw a m = rset hw a (rget hw a &&& ~~~ word m) := rfl
theorem rfield_eq (a hi lo v : Nat) : rfield hw a hi lo v = rset hw a (setBits (rget hw a) hi lo v) := rfl
theorem radd_eq (a n : Nat) : radd hw a n = rset hw a (rget hw a + word n) := rfl

/-! #### Queues and commands of a core -/

@[simp] theorem getQueue_setQueue_self (c q : Nat) (v : Queue) : getQueue (setQueue hw c q v) c q = v := by
  simp [getQueue, setQueue, modCore]

theorem getQueue_setQueue_ne (c q p : Nat) (v : Queue) (h : p ≠ q) : getQueue (setQueue hw c q v) c p = getQueue hw c p := by
  simp only [getQueue, setQueue, modCore, getCore_setCore_self]
  exact mget_mput_ne _ _ _ _ _ h

theorem getCore_modCore_self (c : Nat) (f : Core → Core) : getCore (modCore hw c f) c = f (getCore hw c) := by
  simp [modCore]

theorem getCore_modCore_ne (c d : Nat) (f : Core → Core) (h : d ≠ c) : getCore (modCore hw c f) d = getCore hw d := by
  simp only [modCore]
  exact getCore_setCore_ne hw c d _ h

/-! #### Logs -/

/-- A push keeps the entry while there is room, at the end. -/
theorem logGet_logPush_self (a cap : Nat) (e : Word × Word) :
    logGet (logPush hw a cap e).2 a = if (logGet hw a).length < cap then logGet hw a ++ [e] else logGet hw a := by
  unfold logPush
  by_cases h : (logGet hw a).length < cap
  · simp only [h, if_true]
    exact mget_mput_self _ _ _ _
  · simp only [h, if_false]

theorem logGet_logPush_ne (a b cap : Nat) (e : Word × Word) (h : b ≠ a) : logGet (logPush hw a cap e).2 b = logGet hw b := by
  unfold logPush
  dsimp only
  split
  · exact mget_mput_ne _ _ _ _ _ h
  · rfl

/-! #### Error records -/

theorem logPush_cores (a cap : Nat) (e : Word × Word) : (logPush hw a cap e).2.cores = hw.cores := by
  unfold logPush
  dsimp only
  split <;> rfl

theorem message_cores (d ra n : Nat) : (message hw d ra n).cores = hw.cores := by
  unfold message
  dsimp only
  split <;> rfl

theorem rasEnter_cores (d cls : Nat) (e : Word × Word) : (rasEnter hw d cls e).cores = hw.cores := by
  simp only [rasEnter, apply_ite Hw.cores, logPush_cores, message_cores, radd_cores, ite_self]

theorem rasStop_cores (d cls cause : Nat) (w0 : Word) : (rasStop hw d cls cause w0).cores = hw.cores := by
  unfold rasStop
  repeat' split
  all_goals rfl

/-- A record changes registers, logs, messages, what is sent, and whether the package stops: nothing of the cores. -/
theorem rasWrite_cores (d cls unit cause inst agent ctx pkg addr : Nat) :
    (rasWrite hw d cls unit cause inst agent ctx pkg addr).cores = hw.cores := by
  simp only [rasWrite, rasStop_cores, rasEnter_cores]

/-- The step by step form of a corrected error. -/
theorem rasCe_cores (w : Hw) (r : Die) (quiet cross : Bool) (f g : Hw → Hw) (hf : ∀ x : Hw, (f x).cores = x.cores)
    (hg : ∀ x : Hw, (g x).cores = x.cores) (d : Nat) :
    (let hw2 := setDie w d r
     let hw3 := if quiet then hw2 else f hw2
     if cross then g hw3 else hw3).cores = w.cores := by
  cases quiet <;> cases cross
  · exact (hf _).trans (setDie_cores _ _ _)
  · exact (hg _).trans ((hf _).trans (setDie_cores _ _ _))
  · exact setDie_cores _ _ _
  · exact (hg _).trans (setDie_cores _ _ _)

@[simp] theorem ras_cores (d cls unit cause inst agent ctx pkg addr : Nat) :
    (ras hw d cls unit cause inst agent ctx pkg addr).cores = hw.cores := by
  unfold ras
  by_cases h1 : cls = clsCE
  · rw [if_pos h1]
    exact (rasCe_cores _ _ _ _ _ _ (fun x => rasWrite_cores x _ _ _ _ _ _ _ _ _)
      (fun x => rasWrite_cores x _ _ _ _ _ _ _ _ _) d).trans (radd_cores hw _ _)
  · rw [if_neg h1]
    by_cases h2 : cls = clsUE ∧ cause = 2
    · rw [if_pos h2]
      exact (rasWrite_cores _ _ _ _ _ _ _ _ _ _).trans (radd_cores hw _ _)
    · rw [if_neg h2]
      exact rasWrite_cores _ _ _ _ _ _ _ _ _ _

end Sys2Proof.Machine
end

