-- ==== Sys2Proof/Laws/Memory.lean ====
section
/-! SUPPORT. Memory: what is written is read, and every memory operation keeps the canonical form (Memory.wf, Spad.wf);
reset memory has it. -/

namespace Sys2Proof.Machine

/-! #### Runs of bytes -/

theorem putBytesD_wf (d : Nat → Byte) (bs : List Byte) : ∀ (m : FMap Byte) (a : Nat), mwf d m = true →
    mwf d (putBytesD d m a bs) = true := by
  induction bs with
  | nil => exact fun m a h => h
  | cons b bs ih => exact fun m a h => ih _ _ (mwf_mput d m a b h)

/-- A byte outside a written run reads as before. -/
theorem mget_putBytesD_out (d : Nat → Byte) (bs : List Byte) : ∀ (m : FMap Byte) (a i : Nat), i < a ∨ a + bs.length ≤ i →
    mget d (putBytesD d m a bs) i = mget d m i := by
  induction bs with
  | nil => exact fun m a i h => rfl
  | cons b bs ih =>
    intro m a i h
    simp only [List.length_cons] at h
    rw [putBytesD, ih _ _ _ (by omega), mget_mput_ne _ _ _ _ _ (by omega)]

/-- A byte of a written run reads as written. -/
theorem mget_putBytesD_in (d : Nat → Byte) (bs : List Byte) : ∀ (m : FMap Byte) (a i : Nat), a ≤ i → i < a + bs.length →
    mget d (putBytesD d m a bs) i = bs.getD (i - a) 0 := by
  induction bs with
  | nil =>
    intro m a i h1 h2
    simp at h2
    omega
  | cons b bs ih =>
    intro m a i h1 h2
    simp only [List.length_cons] at h2
    by_cases h : i = a
    · subst h
      rw [putBytesD, mget_putBytesD_out _ _ _ _ _ (by omega)]
      simp
    · rw [putBytesD, ih _ _ _ (by omega) (by omega)]
      have hk : i - a = (i - (a + 1)) + 1 := by omega
      rw [hk]
      rfl

/-! #### The tiers -/

/-- What an unlisted byte reads as depends on the partition and the traffic left, on no byte. -/
theorem tierDefault_writeBytes (hw : Hw) (a : Nat) (bs : List Byte) : tierDefault (writeBytes hw a bs) = tierDefault hw := rfl

theorem tierDefault_setPoison (hw : Hw) (line : Nat) (p : Bool) : tierDefault (setPoison hw line p) = tierDefault hw := rfl

/-- The bytes written read back; every other byte reads as before. -/
theorem memByte_writeBytes_in (hw : Hw) (a i : Nat) (bs : List Byte) (h1 : a ≤ i) (h2 : i < a + bs.length) :
    memByte (writeBytes hw a bs) i = bs.getD (i - a) 0 := mget_putBytesD_in _ _ _ _ _ h1 h2

theorem memByte_writeBytes_out (hw : Hw) (a i : Nat) (bs : List Byte) (h : i < a ∨ a + bs.length ≤ i) :
    memByte (writeBytes hw a bs) i = memByte hw i := mget_putBytesD_out _ _ _ _ _ h

theorem Memory.wf_iff (hw : Hw) : Memory.wf hw = true ↔ mwf (tierDefault hw) hw.mem.data = true ∧
    mwf (fun _ => false) hw.mem.poison = true ∧ mwf (fun _ => 0) hw.mem.marked = true := by
  simp [Memory.wf, and_assoc]

/-- Reset memory is canonical. -/
theorem Memory.wf_reset : Memory.wf State.reset.hw = true := rfl

theorem Memory.wf_writeBytes (hw : Hw) (a : Nat) (bs : List Byte) (h : Memory.wf hw = true) :
    Memory.wf (writeBytes hw a bs) = true := by
  rw [Memory.wf_iff] at h ⊢
  exact ⟨putBytesD_wf _ _ _ _ h.1, h.2⟩

theorem Memory.wf_setPoison (hw : Hw) (line : Nat) (p : Bool) (h : Memory.wf hw = true) :
    Memory.wf (setPoison hw line p) = true := by
  rw [Memory.wf_iff] at h ⊢
  exact ⟨h.1, mwf_mput _ _ _ _ h.2.1, h.2.2⟩

/-- An operation that leaves the memory, its traffic and the partition in force keeps the form. -/
theorem Memory.wf_same (hw hw' : Hw) (hm : hw'.mem = hw.mem) (hi : hw'.img = hw.img) (h : Memory.wf hw = true) :
    Memory.wf hw' = true := by
  have hd : tierDefault hw' = tierDefault hw := by
    funext a
    simp only [tierDefault, hm, unitOf, ctlOf, tierL, tierM, hi]
    rfl
  rw [Memory.wf_iff] at h ⊢
  rw [hd, hm]
  exact h

/-- A map re-keyed under a default is canonical under that default. -/
theorem reMap_wf {α : Type} [DecidableEq α] (d : Nat → α) (f : Nat → Nat) (m : FMap α) : mwf d (reMap d f m) = true := by
  unfold reMap
  have h : ∀ (l : FMap α) (n : FMap α), mwf d n = true → mwf d (l.foldl (fun n e => mput d n (f e.1) e.2) n) = true := by
    intro l
    induction l with
    | nil => exact fun n h => h
    | cons e l ih => exact fun n h => ih _ (mwf_mput d n (f e.1) e.2 h)
  exact h m [] rfl

/-- What a write reaching its device leaves of the injected patterns (R561). -/
theorem Memory.wf_memLeave (hw : Hw) (line : Nat) (h : Memory.wf hw = true) : Memory.wf (memLeave hw line) = true := by
  have key : ∀ (ar : FMap (Option Inject)) (v : Nat), Memory.wf { hw with mem := { hw.mem with
      armed := ar, marked := mput (fun _ => 0) hw.mem.marked line v } } = true := by
    intro ar v
    rw [Memory.wf_iff] at h
    exact (Memory.wf_iff _).mpr ⟨h.1, h.2.1, mwf_mput (fun _ => 0) _ _ _ h.2.2⟩
  simp only [memLeave]
  cases mget (fun _ => none) hw.mem.armed (homeDie hw (64 * line)) with
  | none => exact key _ _
  | some j =>
    by_cases hj : j.line = line
    · simp only [hj, if_true]
      exact key _ _
    · simp only [hj, if_false]
      exact key _ _

/-- Entries kept where two defaults agree stay canonical. -/
theorem mwf_filter_agree {α : Type} [DecidableEq α] (d d' : Nat → α) (p : Nat × α → Bool) (m : FMap α) (h : mwf d m = true)
    (hd : ∀ e ∈ m, p e = true → d' e.1 = d e.1) : mwf d' (m.filter p) = true := by
  induction m with
  | nil => rfl
  | cons e m ih =>
    obtain ⟨k, v⟩ := e
    obtain ⟨h1, h2, h3⟩ := mwf_cons.mp h
    have ih' := ih h3 (fun e he => hd e (List.mem_cons_of_mem _ he))
    by_cases hp : p (k, v) = true
    · rw [List.filter_cons_of_pos hp]
      refine mwf_cons.mpr ⟨?_, fun e he => h2 e (List.mem_filter.mp he).1, ih'⟩
      rw [hd (k, v) List.mem_cons_self hp]
      exact h1
    · rw [List.filter_cons_of_neg hp]
      exact ih'

/-- An unlisted byte as one search of the traffic left. -/
theorem tierDefault_find (hw : Hw) (a : Nat) : tierDefault hw a =
    match hw.mem.traffic.find? (fun t => t.ctl == ctlOf hw a && t.unit == (unitOf hw a).1 &&
      decide (t.lo ≤ (unitOf hw a).2 ∧ (unitOf hw a).2 < t.hi)) with
    | some t => Config.trafficByte t.seed (unitOf hw a).2
    | none => 0 := by
  unfold tierDefault
  split
  · next h => rw [h]; rfl
  · rfl

/-- A traffic run keeps the form (R348). -/
theorem Memory.wf_tgOverwrite (hw : Hw) (k : Nat) (us : List Nat) (sp : Nat × Nat) (h : Memory.wf hw = true) :
    Memory.wf (tgOverwrite hw k us sp) = true := by
  rw [Memory.wf_iff] at h
  refine (Memory.wf_iff _).mpr ⟨?_, mwf_filter (fun _ => false) _ _ h.2.1, mwf_filter (fun _ => 0) _ _ h.2.2⟩
  refine mwf_filter_agree _ _ _ _ h.1 (fun e _ hp => ?_)
  rw [tierDefault_find, tierDefault_find]
  have hu : ∀ x, unitOf (tgOverwrite hw k us sp) x = unitOf hw x := fun _ => rfl
  have hc : ∀ x, ctlOf (tgOverwrite hw k us sp) x = ctlOf hw x := fun _ => rfl
  have ht : (tgOverwrite hw k us sp).mem.traffic =
      us.map (fun u => (⟨k, u, sp.1, sp.2, hw.fresh⟩ : TgRange)) ++ hw.mem.traffic := rfl
  rw [ht, hu, hc, List.find?_append]
  rw [List.find?_eq_none.mpr]
  · rfl
  · intro t hm hit
    obtain ⟨u, hmem, rfl⟩ := List.mem_map.mp hm
    simp only [Bool.and_eq_true, beq_iff_eq, decide_eq_true_eq] at hit
    simp [← hit.1.1, ← hit.1.2, hmem, hit.2] at hp

/-- A change of the partition keeps the form (R313, R506). -/
theorem Memory.wf_repartition (hw : Hw) (l m : Nat) (h : Memory.wf hw = true) : Memory.wf (repartition hw l m) = true := by
  unfold repartition
  dsimp only
  split
  · exact h
  · rw [Memory.wf_iff]
    have hp := reMap_wf (fun _ => false) (fun x => reAddr (tierL hw) (tierM hw) l m (64 * x) / 64) hw.mem.poison
    have hk := reMap_wf (fun _ => 0) (fun x => reAddr (tierL hw) (tierM hw) l m (64 * x) / 64) hw.mem.marked
    exact ⟨reMap_wf _ _ _, hp, hk⟩

/-- A bit error that comes about in a die keeps the form: it marks a line at most (R518, R519). -/
theorem Memory.wf_strikeDie (hw : Hw) (d k n v : Nat) (h : Memory.wf hw = true) : Memory.wf (strikeDie d k n v hw) = true := by
  unfold strikeDie
  dsimp only
  split
  case h_5 =>
    rw [Memory.wf_iff] at h ⊢
    exact ⟨h.1, h.2.1, mwf_mput (fun _ => 0) _ _ _ h.2.2⟩
  all_goals first | exact h | (split <;> exact h)

/-! #### Scratchpad and accumulators -/

theorem Spad.wf_iff (t : Core) : Spad.wf t = true ↔ mwf memDefault t.spad = true ∧ mwf (fun _ => false) t.spadBad = true ∧
    mwf memDefault t.acc = true ∧ mwf (fun _ => false) t.accBad = true := by
  simp [Spad.wf, and_assoc]

theorem Spad.wf_reset : Spad.wf Core.reset = true := rfl

theorem markUnits_wf (u : Nat) (m : FMap Bool) (a n : Nat) (p : Bool) (h : mwf (fun _ => false) m = true) :
    mwf (fun _ => false) (markUnits u m a n p) = true := by
  unfold markUnits
  generalize unitsOf u a n = l
  induction l generalizing m with
  | nil => exact h
  | cons i l ih =>
    simp only [List.foldl_cons]
    apply ih
    split
    · exact mwf_mput _ _ _ _ h
    · split
      · exact mwf_mput _ _ _ _ h
      · exact h

/-- A bit error found in a scratchpad keeps the form: it marks its unit at most. -/
theorem Spad.wf_spadFound (hw : Hw) (c d i : Nat) (h : Spad.wf (getCore hw d) = true) :
    Spad.wf (getCore (spadFound hw c i) d) = true := by
  have key : ∀ (w : Hw) (b : Bool), w.cores = (modCore hw c (fun t => { t with
        spadFlip := mput (fun _ => 0) t.spadFlip i 0,
        spadBad := if b then mput (fun _ => false) t.spadBad i true else t.spadBad })).cores →
      Spad.wf (getCore w d) = true := by
    intro w b hw'
    have e : getCore w d = getCore (modCore hw c (fun t => { t with
        spadFlip := mput (fun _ => 0) t.spadFlip i 0,
        spadBad := if b then mput (fun _ => false) t.spadBad i true else t.spadBad })) d :=
      congrArg (fun m => mget (fun _ => Core.reset) m d) hw'
    rw [e]
    by_cases hd : d = c
    · subst hd
      rw [getCore_modCore_self]
      rw [Spad.wf_iff] at h ⊢
      refine ⟨h.1, ?_, h.2.2⟩
      dsimp only
      split
      · exact mwf_mput _ _ _ _ h.2.1
      · exact h.2.1
    · rw [getCore_modCore_ne _ _ _ _ hd]
      exact h
  unfold spadFound
  dsimp only
  split
  · exact h
  · split
    · next h1 => exact key _ false (by simp [ras_cores, h1])
    · exact key _ (decide (flipOf (getCore hw c).spadFlip i = 2)) (by simp [ras_cores])

theorem Spad.wf_spadScan (hw : Hw) (c d off n : Nat) (h : Spad.wf (getCore hw d) = true) :
    Spad.wf (getCore (spadScan hw c off n) d) = true := by
  unfold spadScan
  split
  · exact h
  · next hn =>
    clear hn
    generalize unitsOf 8 off n = l
    induction l generalizing hw with
    | nil => exact h
    | cons i l ih => exact ih _ (Spad.wf_spadFound hw c d i h)

/-- A scratchpad write keeps the form of its core, and of every other. -/
theorem Spad.wf_spadPut (hw : Hw) (c d off : Nat) (bs : List Byte) (p : Bool) (h : Spad.wf (getCore hw d) = true) :
    Spad.wf (getCore (spadPut hw c off bs p) d) = true := by
  unfold spadPut
  dsimp only
  have keep : ∀ (w : Hw) (p : Prop) [Decidable p] (o : Nat), Spad.wf (getCore w d) = true →
      Spad.wf (getCore (if p then spadScan w c o 1 else w) d) = true := by
    intro w p _ o hw1
    split
    · exact Spad.wf_spadScan _ _ _ _ _ hw1
    · exact hw1
  have he := keep _ (bs ≠ [] ∧ (off + bs.length) % 8 ≠ 0) (off + bs.length - 1) (keep hw (bs ≠ [] ∧ off % 8 ≠ 0) off h)
  revert he
  generalize (if bs ≠ [] ∧ (off + bs.length) % 8 ≠ 0 then
    spadScan (if bs ≠ [] ∧ off % 8 ≠ 0 then spadScan hw c off 1 else hw) c (off + bs.length - 1) 1
    else if bs ≠ [] ∧ off % 8 ≠ 0 then spadScan hw c off 1 else hw) = w
  intro he
  by_cases hd : d = c
  · subst hd
    rw [getCore_modCore_self]
    rw [Spad.wf_iff] at he ⊢
    exact ⟨putBytesD_wf _ _ _ _ he.1, markUnits_wf _ _ _ _ _ he.2.1, he.2.2⟩
  · rw [getCore_modCore_ne _ _ _ _ hd]
    exact he

theorem Spad.wf_accPut (hw : Hw) (c d off : Nat) (bs : List Byte) (p : Bool) (h : Spad.wf (getCore hw d) = true) :
    Spad.wf (getCore (accPut hw c off bs p) d) = true := by
  unfold accPut
  by_cases hd : d = c
  · subst hd
    rw [getCore_modCore_self]
    rw [Spad.wf_iff] at h ⊢
    exact ⟨h.1, h.2.1, putBytesD_wf _ _ _ _ h.2.2.1, markUnits_wf _ _ _ _ _ h.2.2.2⟩
  · rw [getCore_modCore_ne _ _ _ _ hd]
    exact h

/-- What a core keeps of its arrays over a loss of power and over the wake is canonical (R86, R88). -/
theorem Spad.wf_empty (t : Core) : Spad.wf { t with spad := [], spadBad := [], acc := [], accBad := [] } = true := rfl

theorem Spad.wf_bankWipe (hw : Hw) (c d b : Nat) (h : Spad.wf (getCore hw d) = true) :
    Spad.wf (getCore (bankWipe hw c b) d) = true := by
  unfold bankWipe
  by_cases hd : d = c
  · subst hd
    rw [getCore_modCore_self]
    rw [Spad.wf_iff] at h ⊢
    exact ⟨mwf_filter _ _ _ h.1, mwf_filter _ _ _ h.2.1, h.2.2⟩
  · rw [getCore_modCore_ne _ _ _ _ hd]
    exact h

end Sys2Proof.Machine
end

