-- ==== Sys2Proof/WellFormed.lean ====
section
/-! DEFINITION. Which commands are well formed: operands within the ranges the spec gives what they stand for. A command's
meaning is total and does not ask it. -/

namespace Sys2Proof.WellFormed

/-- A 52-bit local or package address (R49, R53). -/
def addrOk (a : Nat) : Bool := decide (a < 2 ^ 52)

/-- A 64-byte line, named by its address over 64. -/
def lineOk (line : Nat) : Bool := decide (line < 2 ^ 46)

/-- The sizes of a register access (R12). -/
def regSize (size : Nat) : Bool := size == 4 || size == 8

/-- The sizes of a hart's scalar access (R354). -/
def scalar (size : Nat) : Bool := size == 1 || size == 2 || size == 4 || size == 8

/-- A write of an external host carries a whole line (R393). -/
def cxlMemOk : CxlMemReq → Bool
  | .wr _ data _ => data.length == 64
  | .rdShared => true
  | .rdOwn => true
  | .rdCurr => true

/-- A response with data carries a whole line. -/
def snpOk : SnpRsp → Bool
  | .rspData _ data => data.length == 64
  | .rspI => true
  | .rspS => true

/-- D2H messages with data carry a whole line (R394). -/
def d2hOk : D2H → Bool
  | .itoMWr _ data => data.length == 64
  | .wrCur _ data => data.length == 64
  | .dirtyEvict data => data.length == 64
  | .rspIFwdM data => data.length == 64
  | .rspSFwdM data => data.length == 64
  | .rdShared => true
  | .rdOwn => true
  | .rdOwnNoData => true
  | .rdCurr => true
  | .cleanEvict => true
  | .cleanEvictNoData => true
  | .rspIHitI => true
  | .rspIHitSE => true
  | .rspSHitSE => true
  | .other => true

/-- Atomics act on 4 or 8 aligned bytes of a line, reductions in a code of R217. -/
def atomOpOk : AtomOp → Bool
  | .amo _ size off _ _ => (size == 4 || size == 8) && off % size == 0 && decide (off + size ≤ 64)
  | .reduce rop rfmt _ => decide (1 ≤ rop ∧ rop ≤ 3) && decide (rfmt < 16)

/-- Targets name groups and clusters (R17, R20). -/
def targetsOk (t : Targets) : Bool := t.aclk.all (fun e => decide (e.1 < 64)) && t.hclk.all (fun e => decide (e.1 < 6))

/-- Training units exist (R339). -/
def bootInOk : BootIn → Bool
  | .memory _ res bad => res.all (fun e => decide (e.2.unit < 32)) && bad.all (fun e => decide (e.2 < 32))
  | .plain => true
  | .straps _ _ => true
  | .image _ _ => true
  | .secondary _ => true
  | .selftest _ => true
  | .erotte _ _ _ => true

end Sys2Proof.WellFormed

namespace Sys2Proof

open WellFormed in
/-- A well-formed command. -/
def Instr.wellFormed : Instr → Bool
  | .registerWrite _ addr size _ => addrOk addr && regSize size
  | .popLowHalfRead _ addr => addrOk addr && addr % 8 == 0
  | .spadRemoteWrite _ _ off data => decide (0 < data.length) && decide (off + data.length ≤ 0x600000)
  | .l1Refill _ addr => addrOk addr
  | .prefetchFill _ line => lineOk line
  | .mbIdleDrain _ granule => addrOk (64 * granule)
  | .marginDone _ res => res.all (fun r => decide (r.unit < 32))
  | .tgDone _ _ errs => errs.all (fun e => decide (e.unit < 32))
  | .hostLoad _ addr size => addrOk addr && scalar size
  | .hostStore _ addr size _ => addrOk addr && scalar size
  | .hostAmo _ addr size _ _ => addrOk addr && (size == 4 || size == 8)
  | .tlvDb _ addr _ => addrOk addr
  | .tlvStash _ addr _ => addrOk addr
  | .cboClean _ addr => addrOk addr
  | .cboFlush _ addr => addrOk addr
  | .cboInval _ addr => addrOk addr
  | .cboZero _ addr => addrOk addr
  | .prefetchR _ addr => addrOk addr
  | .prefetchW _ addr => addrOk addr
  | .prefetchI _ addr => addrOk addr
  | .homeAccept line => lineOk line
  | .rdShared line _ => lineOk line
  | .rdUnique line _ => lineOk line
  | .rdOnce line _ _ => lineOk line
  | .wrFull line _ data _ _ => lineOk line && data.length == 64
  | .wrPartial line _ _ data _ _ => lineOk line && data.length == 64
  | .atomic line _ op _ => lineOk line && atomOpOk op
  | .wrBack line _ => lineOk line
  | .evict line _ => lineOk line
  | .snpShared line _ => lineOk line
  | .snpInv line _ => lineOk line
  | .rspI line _ => lineOk line
  | .rspS line _ => lineOk line
  | .rspData line _ => lineOk line
  | .rspWBInFlight line _ => lineOk line
  | .comp line _ => lineOk line
  | .compData line _ => lineOk line
  | .compAck line _ => lineOk line
  | .stashOffer line _ => lineOk line
  | .writeNote _ line => lineOk line
  | .retentionExpire line => lineOk line
  | .snoopTimeout line _ => lineOk line
  | .cxlMemRequest _ _ req => cxlMemOk req
  | .bisnpResponse _ line rsp => lineOk line && snpOk rsp
  | .biconflict _ line data => lineOk line && data.length == 64
  | .d2hRequest _ line op => lineOk line && d2hOk op
  | .identNonce _ nonce => nonce.length == 32
  | .identRecord _ rec_ => rec_.nonce.length == 32
  | .fecWindow _ csym _ _ _ => csym.length == 17
  | .advertisement _ partners => decide (partners.length ≤ 16)
  | .fabWr _ h data => data.length == h.lenM1.toNat + 1
  | .fabRed _ h data => data.length == h.lenM1.toNat + 1
  | .fabRddata _ h data => data.length == h.lenM1.toNat + 1
  | .hostBarAccess _ _ _ size write data _ => !write || data.length == size
  | .inboundRequest _ req => !req.write || req.data.length == req.len
  | .doeReport _ nonce _ => nonce.length == 32
  | .doeCerts _ _ len => decide (len ≤ 4096)
  | .energyUpdate _ dies _ => dies.length == 6
  | .pwrTrimUpdate _ _ modelled _ _ _ => decide (0 < modelled)
  | .bootStepDone _ input => bootInOk input
  | .monPeek addr size => addrOk addr && regSize size
  | .monPoke addr size _ => addrOk addr && regSize size
  | .monDump addr count => addrOk addr && decide (8 ≤ count ∧ count ≤ 65536) && count % 8 == 0
  | .monUpload count => decide (1 ≤ count ∧ count ≤ 20480)
  | .monUnlock key => decide (key < 8)
  | .monRevoke key => decide (key < 4)
  | .targetsReceive targets => targetsOk targets
  | .pllLoss _ _ | .fatalLineRepeat _ | .routeRecomputeDone _ | .heartbeatSend _ | .heartbeatReceive _ _
  | .heartbeatTimeout _ | .commandFetch _ _ | .encodingErrorComplete _ _ | .commandIssue _ _ _
  | .commandRetire _ _ _ | .releaseComplete _ _ _ | .recordWrite _ _ | .waitTimeout _ _ _ | .semRecheck _ _ _
  | .doorbell _ _ _ | .queueEnable _ _ _ _ | .queueDisable _ _ _ _ | .cqEnable _ _ _ _ | .queueResume _ _ _
  | .queueAbort _ _ _ | .qfeNop _ _ | .qfeFence _ _ | .qfeRing _ _ | .qfeStop _ _ | .meLoadw _ _ | .meGemm _ _
  | .meStreamEnter _ _ | .meGemv _ _ | .holdIdleTimeout _ | .holdRampDownStep _ | .holdRampUpStep _
  | .veElem _ _ | .veCmp _ _ | .veCvt _ _ | .veRed _ _ | .veExpo _ _ | .veSlice _ _ | .veDacc _ _
  | .veXcomb _ _ | .veZline _ _ | .seOp _ _ | .seSetp _ _ | .seLd _ _ | .seSt _ _ | .seAmo _ _ | .seBr _ _
  | .seZline _ _ | .seRdcnt _ _ | .deXfer _ _ | .deGather _ _ | .deScatter _ _ | .deFill _ _ | .deCopy _ _
  | .deCreditPost _ _ | .deCreditTake _ _ | .deMigrate _ _ | .dePrefetch _ _ | .creditTakeRequest _ _ _ _
  | .creditTakeRetry _ _ | .creditEndMessage _ _ _ _ | .creditSlotPost _ _ _ _ | .creditSlotFree _ _ _ _
  | .bankGateRequest _ _ _ | .bankGated _ _ | .bankGateClear _ _ _ | .bankWakeDone _ _ | .coreHalt _ _
  | .coreResume _ _ | .reqOffSet _ _ _ | .reqOffClear _ _ _ | .cgGatingComplete _ | .cgWakeComplete _
  | .semNodeHoldTimeout _ _ | .walkComplete _ _ _ | .faultRecordWrite _ | .faultRetry _ _ _ | .faultAbort _ _ _
  | .faultRingEnable _ _ _ | .wlkCtxBaseWrite _ _ _ | .invalidate _ _ _ | .invalidateBump _ _ _
  | .invalidateCoreAck _ _ _ | .invalidateDone _ | .migrateEntryTaken _ _ | .migrateBumpDone _ _
  | .migrateCopyDone _ _ | .migrateReturnWrite | .mretEnable _ _ | .mpoolEnable _ _ _ | .mrgCmd _ _ _
  | .tgRun _ _ _ | .driftTrack _ _ | .leccWindow _ _ _ | .sbEntryComplete _ _ | .fence _ _ | .tlvRel _ _
  | .tlvAcq _ _ | .hartStop _ _ | .hclBerrLog _ _ _ | .slcCtrlWrite _ _ _ | .erotteFlitReceive _ _ _ _ _
  | .erotteIdleTimer _ _ | .erotteErrorWindow _ | .erotteRepairDone _ _ _ _ | .erotteSidebandFail _
  | .erotteListRebuildDone _ | .laserPoll _ _ | .laserInterrupt _ _ | .laserModuleRemove _
  | .laserModuleInsert _ _ | .portLightDetect _ | .lockDone _ _ | .alignDone _ _ | .linkDone _
  | .trainTimeout _ | .retrainDelay _ | .identSignDone _ | .optFlitReceive _ _ _ | .optIdleTimer _
  | .laneSignalLoss _ _ | .optRepairDone _ | .optRepairTimeout _ | .noFlitTimeout _ | .fecLockLoss _
  | .mgmtClose _ | .adminDown _ _ _ | .retrain _ _ _ | .advertisementSend _ | .viaExpire _ _ | .fabRd _ _
  | .fabAtom _ _ | .fabSemadd _ _ | .fabSemwr _ _ | .fabCtake _ _ | .fabCend _ _ | .fabCmp _ _
  | .fabAtomrsp _ _ | .fabCtakersp _ _ | .fabErr _ _ | .fabRequestTimeout _ | .paceRelease _
  | .msixTrigger _ _ _ | .upstreamLinkDown _ | .cxuPerst _ | .roWriteRelease _ | .iotWinEnable _ _ _ _
  | .iotInv _ _ _ | .iotInvDone _ | .completionTimeout _ _ | .surpriseDown _ _ | .presenceChange _ _ _
  | .secondaryBusReset _ _ | .vinSample _ _ _ | .overvoltageTimeout | .sagTimeout | .vinGood | .droopDetect _
  | .droopClear _ | .slewTick _ _ _ | .slewSplit _ _ | .rampGrant _ | .peakCheck _ | .brakeAssert
  | .brakeCheck _ | .brakeRelease | .brakeKStep | .sustainedTick _ _ _ | .targetHoldTimeout | .thermalShutdown
  | .vinLowRelease | .coldRst | .warmRst | .pcpResetCold _ _ | .pcpResetWarm _ _ | .bootStepTimeout _ _
  | .haltLineRepeat | .scrubRead _ | .ceWindowExpire _ | .rasInject _ _ _ | .rasLog _ _ _ | .spcViolLog _ _ _
  | .qfeErrLog _ _ _ | .atuErrLog _ _ _ | .hbmTgErrLog _ _ _ | .lpdTgErrLog _ _ _ | .ertEvtLog _ _ _
  | .pcpMigErrLog _ _ | .pcpFabEvtLog _ _ | .cxuErrLog _ _ _ | .cxdErrLog _ _ _ | .pcpPwrEvtLog _ _
  | .monChar _ | .monAbort | .monHelp | .monId | .monCnt _ _ | .monPwr | .monLink | .monMargin _ _
  | .monTg _ _ _ _ _ _ | .monLog _ | .monChal | .monUploadTimeout | .monLock | .monReset | .mkcLoad _ _
  | .interruptHandlerEntry _ | .completionReceived _ _ _ _ _ | .upstreamLinkUp _ _ | .cxuPerstRelease _
  | .hdmDecoderCommit _ _ _ | .mgmtLaneRepair _ _ | .ceLogInterval _ _ _ => true

end Sys2Proof
end

