-- ==== Sys2Proof/Tests/Slice0.lean ====
section
/-! SUPPORT. Tests: ill-formed operands refused, worked examples of the spec, and for the statements of
Certificates/Slice0 states and operands that meet their hypotheses. -/

open Sys2Proof Sys2Proof.Machine

namespace Sys2Proof.Tests

set_option Elab.async false

/-! ### Well-formed commands: one ill-formed operand for each check -/

theorem test_wf_refuses : [
    Instr.hostLoad 0 (2 ^ 52) 8, .rdShared (2 ^ 46) (.hart 0), .registerWrite (.hart 0) 0 2 0, .hostLoad 0 0 3,
    .cxlMemRequest 0 0 (.wr 0 [] false), .bisnpResponse 0 0 (.rspData false []), .d2hRequest 0 0 (.dirtyEvict []),
    .atomic 0 (.hart 0) (.amo .add 8 60 0 0) [], .atomic 0 (.hart 0) (.reduce 4 11 0) [], .targetsReceive ⟨[(64, 0)], []⟩,
    .bootStepDone 0 (.memory ⟨0, 0, 0, 0, 0, 0, 0, 0, 0, 0, 0⟩ [] [(0, 32)]), .identNonce 0 [], .fecWindow 0 [] 0 0 0,
    .monDump 0 4, .monUpload 20481, .monUnlock 8, .monRevoke 4, .energyUpdate 0 [] [], .doeCerts 0 0 4097].all
      (fun i => !i.wellFormed) = true := by decide +kernel

theorem test_wf_accepts : [
    Instr.hostLoad 0 (2 ^ 52 - 8) 8, .rdShared (2 ^ 46 - 1) (.hart 0), .atomic 0 (.hart 0) (.amo .add 8 56 0 0) [],
    .targetsReceive ⟨[(63, 0)], []⟩, .monDump 0 8, .monUpload 20480, .monUnlock 7, .monRevoke 3].all
      (fun i => i.wellFormed) = true := by decide +kernel

/-! ### Worked examples of the spec -/

/-- The two addresses of R317's table, with L = 48. -/
theorem test_tier0_examples : decodeT0 48 0x1A40 = (2, 2, 0x40) ∧ decodeT0 48 0x00A800012340 = (6, 2, 0x60000340) := by
  decide +kernel

/-- R129's table: values and codes at the ends of the formats. -/
theorem test_format_ends : fdec fE4M3 0x7E = .fin false 14 5 ∧ fdec fE4M3 0x7F = .nan ∧ fenc fE5M2 rne .nan = (0x7E, 0) ∧
    fdec fE2M1 7 = .fin false 3 1 ∧ fenc f16 rne (.fin false 65504 0) = (0x7BFF, 0) ∧
    fenc f16 rne (.fin false 1 (-24)) = (1, 0) := by decide +kernel

/-- Core 2.11.5 of the addressing example: flat index 349, its window and QFE block, its group's control block and clock
counter. -/
theorem test_core_349 : coreWin 349 = 0x04015D000000 ∧ Reg.qfeCfg 349 = 0x04015DC01000 ∧ Reg.cgPwrCtrl 43 / 65536 = 0x0600803B0000 / 65536 ∧
    Reg.clkAclkCnt 2 11 = 0x060080010158 ∧ locate 0x04015D5FFFFF = .spad 349 0x5FFFFF ∧ locate 0x04015D800000 = .acc 349 0 := by
  decide +kernel

/-- The poison example of the errors chapter, with L = 48: the line's home is slice 87 of SCD2; its two records. -/
theorem test_poison_example :
    homeSlice { Hw.reset with img := { Image.reset with t0Local := 48 } } 0x00A800012340 = 2 * 128 + 87 ∧
    memUnit { Hw.reset with img := { Image.reset with t0Local := 48 } } 0x00A800012340 = (6, 2) ∧
    rasWord0 clsUE 6 2 2 0xFFF 0 = 0xB182002FFF000000 ∧ rasWord0 clsUE 1 3 343 0x157 0x42 = 0xB043157157000042 ∧
    rasWord1 0 0x00A800012340 = 0x00A800012340 := by decide +kernel

/-- The halt line of the boot chapter: channel 19 of controller 1 of SCD2. -/
theorem test_halt_example : haltLine (haltWord 8 7 2 (1 * 256 + 19)) = textLine (ascii "BOOT HALT 0x0872_0113") := by decide +kernel

/-- The product through the slices: a = −2.71875 against exponent 3, b = 0.625 against 0, with s = 7. -/
theorem test_slices_example :
    sliceEl 7 false 3 (.fin true 87 (-5)) = [256 - 43, 256 - 64, 0, 0, 0, 0, 0] ∧
    sliceEl 7 false 0 (.fin false 5 (-3)) = [80, 0, 0, 0, 0, 0, 0] := by decide +kernel

/-! ### States the witnesses share -/

/-- The block with boot complete, over some hardware. -/
def up (hw : Hw) : State := { State.reset with hw := hw, sec := { Sec.reset with step := 10 } }

/-- A command of queue 0 with a header and body, in a stage. -/
def cmdOf (eng op hdr : Nat) (st : Stage) (body : List Nat) (pages : List Page) : Cmd :=
  ⟨0, 0, ((eng * 2 ^ 61 + op * 2 ^ 56 + hdr) :: 0 :: 0 :: body).map word, 0, 0, 0, 0, 0, st, pages, false, false, none,
    none, false, false, 0, 0, 0, .none, [], false, false, 0, false⟩

/-- A core whose queue 0 runs. -/
def run0 : Core := { Core.reset with queues := [(0, { Queue.reset with st := 1 })] }

/-- Core 0 in a group that is ON. -/
def coreHw (t : Core) (regs : FMap Word) : Hw := { Hw.reset with groups := [(0, 0)], cores := [(0, t)], regs := regs }

/-- A page of tier 0 at address 0, mapped onto itself. -/
def page0 : Page := ⟨0, 21, 0, true, true, 0, 0, 0, false⟩

/-- Core 0 with one command that is its engine's next. -/
def head (eng op : Nat) (body : List Nat) : Hw :=
  coreHw { run0 with cmds := [cmdOf eng op 0 (if eng = 0 then .window else .fifo) body [page0]] } []

/-! ### Engines -/

def wNop (hw : Hw) (m : Cmd) : Option (Hw × Cmd) := some (hw, doneCmd m stSuccess)
def wFence (hw : Hw) (m : Cmd) : Option (Hw × Cmd) :=
  if (getCore hw 0).cmds.any (fun x => x.q == m.q && decide (x.id < m.id)) then none
  else some (setQueue hw 0 m.q { getQueue hw 0 m.q with ordNext := true }, doneCmd m stSuccess)
def wRing (hw : Hw) (m : Cmd) : Option (Hw × Cmd) :=
  some (hw, doneCmd m (if corePresent hw (wf m.w 3 11 0 / 8) then stSuccess else stAddress))
def wStop (hw : Hw) (m : Cmd) : Option (Hw × Cmd) := some (hw, doneCmd m stStopped)

/-- The hypotheses of QfeCommandsComplete, by clause. -/
theorem test_witness_qfe :
    (up (head 0 0 [0, 0, 0, 0, 0])).on ∧ serves (up (head 0 0 [0, 0, 0, 0, 0])).now 0 0 0 0 qfeCan wNop = true ∧
    serves (up (head 0 1 [0, 0, 0, 0, 0])).now 0 0 0 1 qfeCan wFence = true ∧
    serves (up (head 0 2 [4095, 1, 0, 0, 0])).now 0 0 0 2 qfeCan wRing = true ∧
    serves (up (head 0 3 [255, 0, 0, 0, 0])).now 0 0 0 3 qfeCan wStop = true := by
  refine ⟨rfl, ?_, ?_, ?_, ?_⟩ <;> decide +kernel

/-- A word of fields. -/
def w4 (a b c d : Nat) : Nat := a * 2 ^ 54 + b * 2 ^ 50 + c * 2 ^ 46 + d * 2 ^ 42
/-- A scratchpad descriptor. -/
def sp (a : Nat) : Nat := 2 ^ 61 + a

/-- The hypotheses of ScalarCommandsComplete, by clause. -/
theorem test_witness_scalar :
    serves (up (head 3 0 [2 ^ 63, 7, 0, 0, 0])).now 0 0 3 0 (seCan 0) (seOpBody 0) = true ∧
    serves (up (head 3 1 [0, 0, 0, 0, 0])).now 0 0 3 1 (seCan 0) (seSetpBody 0) = true ∧
    serves (up (head 3 2 [3 * 2 ^ 62 + 0x5FFFF8, 0, 0, 0, 0])).now 0 0 3 2 (seCan 0) (seLdBody 0) = true ∧
    serves (up (head 3 3 [0, 0x5FFFFF, 0, 0, 0])).now 0 0 3 3 (seCan 0) (seStBody 0) = true ∧
    serves (up (head 3 4 [2 ^ 57, 64, 0, 0, 0])).now 0 0 3 4 (seCan 0) (seAmoBody 0) = true ∧
    serves (up (head 3 5 [2 ^ 62, 0, 0, 0, 0])).now 0 0 3 5 (seCan 0) (seBrBody 0) = true ∧
    serves (up (head 3 6 [0, 128, 0, 0, 0])).now 0 0 3 6 (seCan 0) (seZlineBody 0) = true ∧
    serves (up (head 3 7 [0, 0, 0, 0, 0])).now 0 0 3 7 (seCan 0) (seRdcntBody 0) = true := by
  refine ⟨?_, ?_, ?_, ?_, ?_, ?_, ?_, ?_⟩ <;> decide +kernel

/-- A body that depends on an open bit serves if it serves both ways. -/
theorem serves_bool {hw : Hw} {c q e o : Nat} {can : Hw → Cmd → Bool} {run : Bool → Hw → Cmd → Option (Hw × Cmd)} (f : Cmd → Bool)
    (ht : serves hw c q e o can (run true) = true) (hf : serves hw c q e o can (run false) = true) :
    serves hw c q e o can (fun h m => run (f m) h m) = true := by
  unfold serves at *
  split at ht
  · rename_i h m hb
    simp only [hb] at hf ⊢
    cases f m
    · exact hf
    · exact ht
  · simp at ht

theorem test_witness_slice :
    serves (up (head 2 5 [4 * 2 ^ 58 + w4 1 12 13 0, sp 0, sp 512, sp 1024, 0])).now 0 0 2 5 (veCan 0) (veSliceBody 0) = true := by
  refine serves_bool (run := fun b => veSliceRun b 0) (fun m => Config.sliceByColumn (wf m.w 3 63 0)) ?_ ?_ <;>
    decide +kernel

/-- The hypotheses of VectorCommandsComplete, by clause; the sixth is test_witness_slice. -/
theorem test_witness_vector :
    serves (up (head 2 0 [w4 11 11 11 0, sp 0, sp 512, sp 1024, 0])).now 0 0 2 0 (veCan 0) (veElemBody 0) = true ∧
    serves (up (head 2 1 [w4 0 11 11 0, sp 0, sp 512, sp 1024, 0])).now 0 0 2 1 (veCan 0) (veCmpBody 0) = true ∧
    serves (up (head 2 2 [w4 10 11 0 0, sp 0, sp 512, 0, 0])).now 0 0 2 2 (veCan 0) (veCvtBody 0) = true ∧
    serves (up (head 2 3 [w4 11 11 0 0, sp 0, sp 512, 0, 0])).now 0 0 2 3 (veCan 0) (veRedBody 0) = true ∧
    serves (up (head 2 4 [w4 13 12 0 0, sp 0, sp 512, 0, 0])).now 0 0 2 4 (veCan 0) (veExpoBody 0) = true ∧
    serves (up (head 2 6 [w4 14 13 0 0, sp 0, 2 ^ 62, 0, 0])).now 0 0 2 6 (veCan 0) (veDaccBody 0) = true ∧
    serves (up (head 2 7 [4 * 2 ^ 58 + w4 12 14 13 13, sp 0, sp 512, sp 1024, sp 2048])).now 0 0 2 7 (veCan 0) (veXcombBody 0) = true ∧
    serves (up (head 2 8 [0, 3 * 2 ^ 61 + 128, 0, 0, 0])).now 0 0 2 8 (veCan 0) (veZlineBody 0) = true := by
  refine ⟨?_, ?_, ?_, ?_, ?_, ?_, ?_, ?_⟩ <;> decide +kernel

/-- The hypotheses of DmaCommandsComplete, by clause. -/
theorem test_witness_dma :
    serves (up (head 4 0 [0, 64, 0, 7 * 2 ^ 44, 0])).now 0 0 4 0 (deCan 0) (deXferBody 0) = true ∧
    serves (up (head 4 1 [0, 4096, 64 * 2 ^ 32, 4 * 2 ^ 48, 0])).now 0 0 4 1 (deCan 0) (tableBody 0 false) = true ∧
    serves (up (head 4 2 [0, 4096, 64 * 2 ^ 32, 4 * 2 ^ 48, 0])).now 0 0 4 2 (deCan 0) (tableBody 0 true) = true ∧
    serves (up (head 4 3 [0, 5, 0, 7 * 2 ^ 44, 0])).now 0 0 4 3 (deCan 0) (deFillBody 0) = true ∧
    serves (up (head 4 4 [0, 64, 0, 7 * 2 ^ 44, 0])).now 0 0 4 4 (deCan 0) (deCopyBody 0) = true ∧
    serves (up (head 4 5 [63, 2 ^ 61 + 2 ^ 21, 0, 0, 0])).now 0 0 4 5 (deCan 0) (deCreditPostBody 0) = true ∧
    serves (up (head 4 6 [0, 2 ^ 16, 0, 0, 0])).now 0 0 4 6 (deCan 0) (deCreditTakeBody 0) = true ∧
    serves (up (head 4 7 [0, 2 ^ 21, 2 ^ 63, 0, 0])).now 0 0 4 7 (deCan 0) deMigrateBody = true ∧
    serves (up (head 4 8 [0, 64, 0, 0, 0])).now 0 0 4 8 (deCan 0) (dePrefetchBody 0) = true := by
  refine ⟨?_, ?_, ?_, ?_, ?_, ?_, ?_, ?_, ?_⟩ <;> decide +kernel

/-- The hypotheses of MatrixCommandsComplete's commands. -/
theorem test_witness_matrix :
    serves (up (head 1 0 [2 ^ 55, 0, 0, 0, 0])).now 0 0 1 0 (meCan 0) (meLoadwBody 0) = true ∧
    serves (up (head 1 1 [2 ^ 55 + 2 ^ 51, 64 * 2 ^ 32, 0, 0, 0])).now 0 0 1 1 (meCan 0) (meGemmBody 0) = true ∧
    serves (up (head 1 2 [2 ^ 55, 64 * 2 ^ 32, 0, 0, 0])).now 0 0 1 2 (meCan 0) (meGemvBody 0) = true := by
  refine ⟨?_, ?_, ?_⟩ <;> decide +kernel

/-- A GEMV stream assigned to sub-array 0 of an array in a HOLD state at a level. -/
def stream0 : Stream := ⟨0, true, false, false, 1, 1, false, 1, 1, 1, 0, 0, 0, 0, 0, []⟩
def array0 (subs : FMap SubArr) (hold level : Nat) (granted : Bool) : Hw :=
  coreHw { run0 with cmds := [cmdOf 1 2 0 .started [0, 0, 0, 0, 0] []], me := ⟨0, subs, hold, level, granted⟩ }
    [(Reg.mePolicy 0, 1)]

/-- The hypotheses of its other clauses: a stream enters, the idle array ramps down at 15 % and at 16 %, up at 74 % and
at 75 %. -/
theorem test_witness_hold :
    (let hw := array0 [(0, ⟨none, none, [], some stream0⟩)] 1 85 false
     (getSub (getCore hw 0).me 0).assigned = some stream0 ∧
      (coreAlive hw 0 && mayEnter hw 0 0 stream0 && (findCmd hw 0 0).isSome) = true) ∧
    (let hw := array0 [] 1 85 false
     (rbit hw (Reg.mePolicy 0) 0 && coreAlive hw 0 && (getCore hw 0).me.hold == 1 && meQuiet (getCore hw 0).me) = true) ∧
    (let me := (getCore (array0 [] 2 15 false) 0).me
     me.hold = 2 ∧ me.level ≤ 15) ∧ (let me := (getCore (array0 [] 2 16 false) 0).me
     me.hold = 2 ∧ 15 < me.level) ∧
    (let me := (getCore (array0 [] 3 74 true) 0).me
     me.hold = 3 ∧ me.granted = true ∧ me.level < 75) ∧ (let me := (getCore (array0 [] 3 75 true) 0).me
     me.hold = 3 ∧ me.granted = true ∧ 75 ≤ me.level) := by decide +kernel

/-! ### Queues -/

def ring0 : FMap Word := [(Reg.qfeQCtrl 0 0, word (6 * 256 + 1)), (Reg.qfeQRing 0 0, 4096), (Reg.qfeQTail 0 0, 1)]
def cq0 : FMap Word := [(Reg.qfeQCq 0 0, word (8192 + 128 + 4)), (Reg.qfeQCqTail 0 0, word (2 ^ 32))]
def stage0 (eng op hdr : Nat) (st : Stage) : Hw := coreHw { run0 with cmds := [cmdOf eng op hdr st [0, 0, 0, 0, 0] [page0]] } []
def rec0 : Rec := ⟨3, 0, 0, 0, false⟩
def gran0 : MbEnt := ⟨2, 0, 1, List.replicate 64 0, false, 0⟩

/-- The hypotheses of PipelineCompletes, by clause. -/
theorem test_witness_pipeline :
    (let hw := coreHw run0 ring0
     mayFetch hw 0 0 = true ∧ fetchingCmd hw 0 0 = none ∧ (getQueue hw 0 0).loop = none ∧ (fetchSlot hw 0 0).isSome = true) ∧
    (let hw := stage0 3 8 0 .bad
     let m := cmdOf 3 8 0 .bad [0, 0, 0, 0, 0] [page0]
     (getCore hw 0).cmds.find? (fun m : Cmd => decide (m.q = 0) && unstarted m) = some m ∧ m.stage = .bad ∧
       m.status = 0 ∧ recRoom hw 0 m = true ∧ releases m = false ∧ coreStarts hw 0 = true ∧ (getQueue hw 0 0).st = 1) ∧
    (let hw := stage0 3 0 0 .window
     let m := cmdOf 3 0 0 .window [0, 0, 0, 0, 0] [page0]
     (getCore hw 0).cmds.find? (fun m : Cmd => m.q == 0 && hEng m.w == 3 && m.stage == .window) = some m ∧
       (coreStarts hw 0 && !m.old && !m.walking && !faulted (getCore hw 0) m.id && hMsk m.w != 1) = true ∧
       (getQueue hw 0 0).st = 1 ∧ fifoUsed hw 0 3 < fifoSize 3) ∧
    (let hw := stage0 3 0 0 .done
     let m := cmdOf 3 0 0 .done [0, 0, 0, 0, 0] [page0]
     coreAlive hw 0 = true ∧ oldest hw 0 0 3 (fun m => workDone m && recRoom hw 0 m) = some m ∧ landLate hw 0 m = some (hw, m) ∧
       owesEnd m = false ∧ releases m = false) ∧
    (let hw := stage0 3 0 (2 ^ 53) .done
     let m := cmdOf 3 0 (2 ^ 53) .done [0, 0, 0, 0, 0] [page0]
     coreAlive hw 0 = true ∧ oldest hw 0 0 3 (fun m => workDone m && recRoom hw 0 m) = some m ∧ landLate hw 0 m = some (hw, m) ∧
       owesEnd m = false ∧ releases m = true ∧ kop m.w ≠ (0, 0x01)) ∧
    (let m := cmdOf 3 0 (2 ^ 53) (.releasing [2]) [0, 0, 0, 0, 0] [page0]
     let hw := coreHw { run0 with cmds := [m], mb := [gran0] } []
     oldest hw 0 0 3 (fun m => match m.stage with | .releasing _ => true | _ => false) = some m ∧ m.stage = .releasing [2] ∧
       (mbDrainAll hw 0 ((getCore hw 0).mb.filter (fun x => [2].contains x.gran))).isSome = true) ∧
    (let hw := coreHw { run0 with recs := [rec0] } cq0
     let cq := rget hw (Reg.qfeQCq 0 0)
     (getCore hw 0).recs.find? (fun r => r.q == 0) = some rec0 ∧ bit cq 7 = true ∧ (0 + 2 ^ 32 - rbits hw (Reg.qfeQCqHead 0 0) 31 0) % 2 ^ 32 < 16 ∧
       (rget hw (Reg.qfeQCqTail 0 0)).toNat % 2 ^ 32 = 0 ∧ (pocWriteN 2 hw (engAgent 0) 8192
         (leBytes 8 (rec0.w0.toNat + 1 * 2 ^ 63) ++ leBytes 8 rec0.w1.toNat) false 0 0).isSome = true) := by
  refine ⟨?_, ?_, ?_, ?_, ?_, ?_, ?_⟩ <;> decide +kernel

/-- A command that waits for its semaphore at address 0. -/
def wait0 : Cmd := cmdOf 3 0 (2 ^ 32) .fifo [0, 0, 0, 0, 0] [page0]

/-- The hypotheses of WaitsComplete, by clause. -/
theorem test_witness_waits :
    (let hw := coreHw { run0 with cmds := [wait0] } [(Reg.qfeQWtmo 0 0, 1)]
     headCmd hw 0 0 3 = some wait0 ∧ hMsk wait0.w = 1 ∧ wait0.pre.isNone = true ∧ rbits hw (Reg.qfeQWtmo 0 0) 31 0 ≠ 0 ∧
       coreAlive hw 0 = true ∧ (getQueue hw 0 0).st = 1 ∧ wait0.seenBad = false ∧ (localMet hw 0 wait0.w && memMet wait0) = false) ∧
    (let note : Msg := ⟨.writeNote, 0, .engine 0⟩
     takeNet { Hw.reset with mem := { Hw.reset.mem with net := [note] } } 0 (.engine 0) (fun k => k == .writeNote) = some (note, [])) := by
  refine ⟨?_, ?_⟩ <;> decide +kernel

/-- The hypotheses of QueueRegistersComplete, by clause: ring sizes 6 and 16, completion rings of 4 and 16. -/
theorem test_witness_queue_registers :
    arrives (coreHw run0 []) (.hart 0) = true ∧ corePresent (coreHw run0 []) 0 = true ∧
    (let hw := coreHw Core.reset [(Reg.qfeQRing 0 0, word (2 ^ 22))]
     (getQueue hw 0 0).st = 0 ∧ ringFits (4096 * rbits hw (Reg.qfeQRing 0 0) 51 12) (64 * 2 ^ 6) = true ∧
       ringFits (4096 * rbits hw (Reg.qfeQRing 0 0) 51 12) (64 * 2 ^ 16) = true ∧
       ringFits (256 * bits (word (2 ^ 20)) 51 8) (16 * 2 ^ 4) = true ∧ ringFits (256 * bits (word (2 ^ 20)) 51 8) (16 * 2 ^ 16) = true) ∧
    (let hw := coreHw run0 [(Reg.qfeQCtrl 0 0, word (6 * 256 + 1))]
     (getQueue hw 0 0).st = 1 ∧ bits (word (6 * 256)) 12 8 = rbits hw (Reg.qfeQCtrl 0 0) 12 8 ∧ queueIdle hw 0 0 = true) ∧
    (let hw := coreHw { Core.reset with queues := [(0, { Queue.reset with st := 2 })] } []
     (getQueue hw 0 0).st = 2 ∧ rbits hw (Reg.qfeQErr 0 0) 59 52 ≠ 0x20) := by
  refine ⟨?_, ?_, ?_, ?_, ?_⟩ <;> decide +kernel

/-! ### Scratchpad, L1, groups -/

/-- A credit of 64 bytes at offset 0 that hart 0 holds. -/
def held0 : Word := word (2 * 2 ^ 62 + 0x400 * 2 ^ 36 + 2 ^ 21)
/-- The same, of core 3's DMA engine. -/
def held3 : Word := word (2 * 2 ^ 62 + 3 * 2 ^ 36 + 2 ^ 21)

/-- The hypotheses of ScratchpadCompletes, by clause. -/
theorem test_witness_scratchpad :
    (let hw := coreHw run0 [(Reg.spcCredit 0 0, held0)]
     corePresent hw 0 = true ∧ (spadWriteBy hw (.hart 0) 0 8 (List.replicate 8 7)).2 = .ok ∧ Agent.hart 0 ≠ engAgent 0) ∧
    (let hw := coreHw run0 [(Reg.spcCredit 0 0, held3)]
     (spadWriteBy hw (.engine 3) 0 0 (List.replicate 64 7)).2 = .ok ∧ Agent.engine 3 ≠ engAgent 0) ∧
    (let hw := coreHw run0 []
     arrives hw (.hart 0) = true ∧ (slotOf (word (2 ^ 62 + 2 ^ 61 + 2 ^ 21))).state = 1 ∧
       postErr hw 0 63 (slotOf (word (2 ^ 62 + 2 ^ 61 + 2 ^ 21))) = 0 ∧
       ((1 : Word) &&& ~~~ rget hw (Reg.spcBankGate 0) &&& 0xFFFFFFFFFFFF#64) ≠ 0) ∧
    (let m := { cmdOf 4 6 0 .started [0, 2 ^ 16, 0, 0, 0] [⟨0, 21, 0x040001000000, true, true, 0, 0, 0, false⟩] with
       work := .take 1 0x040001000000 false }
     let hw := coreHw { run0 with cmds := [m] } []
     coreAlive hw 0 = true ∧ oldest hw 0 0 4 (fun m => match m.work with
        | .take _ _ false => m.stage == .started
        | _ => false) = some m) ∧
    (let hw := coreHw run0 [(Reg.spcBankGate 0, word (2 ^ 47))]
     (rget hw (Reg.spcBankGate 0) &&& ~~~ 0) ≠ 0 ∧ (decide (groupState hw 0 ≤ 1) && rbit hw (Reg.spcBankGate 0) 47 &&
       !rbit hw (Reg.spcBankOff 0) 47 && !bankHeld hw 0 47 && !bankBusy hw 0 47) = true) ∧
    bit (getCore (coreHw { run0 with waking := BitVec.ofNat 48 (2 ^ 47) } []) 0).waking 47 = true := by
  refine ⟨?_, ?_, ?_, ?_, ?_, ?_⟩ <;> decide +kernel

/-- The hypotheses of L1Completes, by clause. -/
theorem test_witness_l1 :
    (let hw := coreHw { run0 with refills := [⟨1, [2, 3], true, []⟩] } []
     (getCore hw 0).refills.find? (fun r => r.sectors.head? == some (128 / 64)) = some ⟨1, [2, 3], true, []⟩ ∧
       (pocRead hw (engAgent 0) 2 false).isSome = true) ∧
    (let hw := coreHw { run0 with pf := [1] } []
     (getCore hw 0).pf.contains 1 = true ∧ (pfArrive hw 0 1).isSome = true) ∧
    (let hw := coreHw { run0 with mb := [gran0] } []
     (getCore hw 0).mb.find? (fun e => e.gran == 2) = some gran0 ∧ (mbDrain hw 0 gran0).isSome = true) := by
  refine ⟨?_, ?_, ?_⟩ <;> decide +kernel

/-- The hypotheses of GroupsComplete, by clause. -/
theorem test_witness_groups :
    (let hw := coreHw Core.reset []
     corePresent hw 0 = true ∧ groupPresent hw 63 = true ∧ groupState hw 0 = 0) ∧
    (let hw := { Hw.reset with groups := [(63, 1)] }
     groupState hw 63 = 1 ∧ (List.range 8).all (fun i => coreQuiet hw (8 * 63 + i)) = true ∧
       (mbDrainCores ((List.range 8).map (8 * 63 + ·)) hw).isSome = true) ∧
    (let hw := { Hw.reset with groups := [(63, 3)] }
     groupState hw 63 = 3 ∧ hw.ramps.contains (512 + 63) = false) := by
  refine ⟨?_, ?_, ?_⟩ <;> decide +kernel

/-! ### Translation, migration, memory controllers -/

/-- A tree of die 0 in a small package of one core group. -/
def treeHw (t : Tree) (regs : FMap Word) : Hw := { coreHw run0 regs with trees := [(0, t)], present := 1 }
def flt0 : FltSlot := ⟨0, none, 1, 0, 1, 5, 0, 0, 0, [], 0, 0, false⟩
def inv0 (toBump toAck : List Nat) : InvReq := ⟨1, 0, 0, 4096, false, toBump, toAck, []⟩
def ringFlt : FMap Word := [(Reg.atuFltBase 0, word (4096 + 128 + 4))]

/-- The hypotheses of TranslationCompletes, by clause. -/
theorem test_witness_translation :
    (let hw := treeHw { Tree.reset with walks := [⟨0, 0, 0, 0, false⟩] } []
     (getTree hw 0).walks.any (fun r => r.ctx == 0 && r.va == 0) = true ∧
       (walkWith (walkRead 0 0) (walkNote 0 0) hw 0 0).any (fun x => !migrating hw 0 x.2) = true) ∧
    (let hw := coreHw { run0 with slots := [(7, some flt0)] } ringFlt
     let base := rget hw (Reg.atuFltBase 0)
     nextRecord (getCore hw 0) = some (7, flt0) ∧ coreAlive hw 0 = true ∧ bit base 7 = true ∧ rbits hw (Reg.atuFltTail 0) 31 0 = 0 ∧
       (0 + 2 ^ 32 - rbits hw (Reg.atuFltHead 0) 31 0) % 2 ^ 32 < 2 ^ bits base 4 0 ∧
       (pocWriteN 2 hw (engAgent 0) 4096 (leBytes 8 ((1 - rbits hw (Reg.atuFltTail 0) 32 32) * 2 ^ 63 + faultWord0 0 7 flt0) ++ leBytes 8 flt0.va ++
         leBytes 8 flt0.entry.toNat ++ leBytes 8 (flt0.seq % 2 ^ 32 * 2 ^ 32 + flt0.index % 2 ^ 32)) false 0 0).isSome = true) ∧
    (let hw := coreHw { run0 with slots := [(7, some flt0)] } []
     arrives hw (.hart 0) = true ∧ corePresent hw 0 = true ∧ slotGet (getCore hw 0) (bits (word (5 * 65536 + 256 + 7)) 2 0) = some flt0 ∧
       flt0.seq % 65536 = bits (word (5 * 65536 + 256 + 7)) 31 16 ∧ bits (word (5 * 65536 + 256 + 7)) 9 8 = 1 ∧
       bit (rget hw (Reg.atuFltBase 0)) 7 = false ∧ ringFits (4096 * bits (word 65536) 51 12) (32 * 2 ^ 4) = true ∧
       ringFits (4096 * bits (word (2 ^ 17)) 51 12) (32 * 2 ^ 12) = true) ∧
    (let hw := coreHw Core.reset []
     anyQueueOn hw = false ∧ bits (word (2 ^ 21 + 16)) 4 0 ≤ 16 ∧
       ringFits (4096 * bits (word (2 ^ 21 + 16)) 51 12) (32 * 2 ^ bits (word (2 ^ 21 + 16)) 4 0) = true ∧
       (getTree hw 3).invs.length < 16) ∧
    (let hw := treeHw { Tree.reset with invs := [inv0 [0] [0]] } []
     findInv hw 0 1 = some (inv0 [0] [0]) ∧ (inv0 [0] [0]).toBump.contains 0 = true) ∧
    (let hw := treeHw { Tree.reset with invs := [inv0 [] [0]] } []
     findInv hw 0 1 = some (inv0 [] [0]) ∧ ((inv0 [] [0]).toBump.contains 0 || !(inv0 [] [0]).toAck.contains 0 || !drained hw 0 (inv0 [] [0])) = false ∧
       (getCore hw 0).mb = []) ∧
    (let hw := treeHw { Tree.reset with invs := [inv0 [] []] } []
     (getTree hw 0).invs = [inv0 [] []] ∧ bit (rget hw (Reg.wlkInvDoneAddr 0)) 0 = false) ∧
    (let hw := treeHw { Tree.reset with nodes := [(20, [⟨64, 1, none⟩])] } []
     mget (fun _ => []) (getTree hw 0).nodes 20 = [⟨64, 1, none⟩] ∧ lineHeld hw (engAgent 0) (64 / 64) = false) := by
  refine ⟨?_, ?_, ?_, ?_, ?_, ?_, ?_, ?_⟩ <;> decide +kernel

def page4k : Page := ⟨0, 12, 0, true, true, 0, 8192, 0, false⟩
def mig0 (w : Work) : Cmd := { cmdOf 4 7 0 .started [0, 4096, 2 ^ 63, 0, 0] [page4k] with work := w, left := [page4k] }
def migHw (w : Work) (ents : List MigEnt) (rets : List MigRet) (regs : FMap Word) : Hw :=
  { coreHw { run0 with cmds := [mig0 w] } regs with present := 1, migs := ents, migRets := rets }

/-- The hypotheses of MigrationCompletes, by clause. -/
theorem test_witness_migration :
    (let hw := migHw .migEntry [] [] []
     migAt hw 0 0 (fun w => w == .migEntry) = some (mig0 .migEntry) ∧ (mig0 .migEntry).left = [page4k] ∧ coreAlive hw 0 = true ∧
       hw.migs.length < 16 ∧ hw.migs.any (fun e => e.ctx == 0) = false) ∧
    (let hw := migHw .migBump [⟨0, 0, 0, page4k⟩] [] []
     migAt hw 0 0 (fun w => w == .migBump) = some (mig0 .migBump) ∧ migOf hw 0 0 = some ⟨0, 0, 0, page4k⟩ ∧
       pageHeld hw 0 page4k = false ∧ (drainCtx 0 (presentCores hw) hw).any (fun h =>
         rbits h (Reg.pcpMpoolHead 0 (poolOf (mig0 .migBump).w page4k)) 31 0 ==
           rbits h (Reg.pcpMpoolTail 0 (poolOf (mig0 .migBump).w page4k)) 31 0) = true) ∧
    (let hw := migHw .migBump [⟨0, 0, 0, page4k⟩] [] [(Reg.pcpMpoolBase 0 (poolOf (mig0 .migBump).w page4k), word (4096 + 128 + 4)),
       (Reg.pcpMpoolTail 0 (poolOf (mig0 .migBump).w page4k), 1)]
     let pool := poolOf (mig0 .migBump).w page4k
     (drainCtx 0 (presentCores hw) hw).any (fun h => bit (rget h (Reg.pcpMpoolBase 0 pool)) 7 &&
       rbits h (Reg.pcpMpoolHead 0 pool) 31 0 != rbits h (Reg.pcpMpoolTail 0 pool) 31 0 &&
       (pocReadN 2 h (engAgent 0) (4096 * bits (rget h (Reg.pcpMpoolBase 0 pool)) 51 12) 8).any (fun x => !x.2.2 &&
         leNat x.2.1 % 4096 == 0 && decide (leNat x.2.1 + 4096 ≤ 0x00C000000000) &&
         t0Region (rsetN x.1 (Reg.pcpMpoolHead 0 pool) 1) (leNat x.2.1) == migUnit (mig0 .migBump).w)) = true) ∧
    (let hw := migHw (.migCopy 0x010000000000) [⟨0, 0, 0, page4k⟩] [] []
     migAt hw 0 0 (fun w => match w with | .migCopy _ => true | _ => false) = some (mig0 (.migCopy 0x010000000000)) ∧
       migOf hw 0 0 = some ⟨0, 0, 0, page4k⟩ ∧ sigHeld hw page4k = false ∧ (copyLines 0 0 0x010000000000 64 hw false).any (fun x =>
         (leafWrites 0 0x010000000000 (leafAddrs page4k) x.1).isSome) = true) ∧
    (let hw := migHw .migReturn [] [⟨0, 0, 0, 0⟩] [(Reg.pcpMretBase 0, word (4096 + 128 + 4))]
     hw.migRets = [⟨0, 0, 0, 0⟩] ∧ bit (rget hw (Reg.pcpMretBase 0)) 7 = true ∧
       (rbits hw (Reg.pcpMretTail 0) 31 0 + 2 ^ 32 - rbits hw (Reg.pcpMretHead 0) 31 0) % 2 ^ 32 <
         2 ^ bits (rget hw (Reg.pcpMretBase 0)) 4 0 ∧
       (pocWriteN 2 (l1Drop hw 0 4096 16) (engAgent 0) (4096 * bits (rget hw (Reg.pcpMretBase 0)) 51 12 +
         16 * (rbits hw (Reg.pcpMretTail 0) 31 0 % 2 ^ bits (rget hw (Reg.pcpMretBase 0)) 4 0))
         (leBytes 8 (0 + (1 - rbits hw (Reg.pcpMretTail 0) 32 32) * 2 ^ 63) ++ leBytes 8 0) false 0 0).isSome = true) := by
  refine ⟨?_, ?_, ?_, ?_⟩ <;> decide +kernel

/-- A margining result of a unit. -/
def res0 : MarginRes := ⟨31, 0, 0, 0, 0, 0, 0, 0, 0, 0, 0⟩

/-- The hypotheses of MemoryControllersComplete, by clause: a stack's controller and a device's in TEST and in service. -/
theorem test_witness_memory_controllers :
    (let hw := { Hw.reset with regs := [(ctlStatus 0, word (6 * 2 ^ 32)), (ctlStatus 27, word (6 * 2 ^ 32))] }
     testRefusal hw 0 = 0 ∧ testRefusal hw 27 = 0) ∧
    [res0].find? (fun r => r.unit == (getCtl { Hw.reset with ctls := [(0, ⟨1, 31, 0, 0, [], false⟩)] } 0).unit) = some res0 ∧
    (getCtl { Hw.reset with ctls := [(0, ⟨2, 31, 0, 0, [], false⟩)] } 0).op = 2 ∧
    (let hw := { Hw.reset with regs := [(ctlStatus 12, word (4 * 2 ^ 32))], ctls := [(12, ⟨0, 0, 0, 0, [], false⟩)] }
     ctlState hw 12 = 4 ∧ (getCtl hw 12).selfRef = false) := by
  refine ⟨?_, ?_, ?_, ?_⟩ <;> decide +kernel

/-! ### Harts -/

/-- Hart 71 running, holding line 2 as given. -/
def hart0 (st : HSt) : Hart := { Hart.reset with stopped := false, lines := [(2, some ⟨st, List.replicate 64 5, false⟩)] }
def hartHw (t : Hart) : Hw := { Hw.reset with harts := [(71, t)] }
def sb0 : SbEnt := ⟨.cacheable, 128, 64, 1, List.replicate 64 9, none, false⟩

/-- The hypotheses of HartAccessesComplete and StoreConditional, by clause, the last bytes of the line among them. -/
theorem test_witness_hart_accesses :
    (let t := getHart (hartHw (hart0 .m)) 71
     hartRuns t = true ∧ t.ioLoad = none ∧ scalarSize 8 = true ∧ cacheableAt 184 8 = true ∧
       loadStart t 184 8 = ⟨184, 8, (List.replicate 8 5).map some, false⟩ ∧ t.miss.contains (184 / 64, .zero) = false ∧ 184 % 64 + 8 ≤ 64 ∧ hartLoads t = false ∧
       loadsOut t = false ∧ sbMarked t = false ∧
       (hartOwns t (184 / 64)).isSome = true ∧ (sbStores (sbEnter t (184 / 64) (184 % 64) (leBytes 8 7))).length ≤ 32 ∧
       184 % 8 = 0 ∧ sbHolds t (184 / 64) = false ∧ hartOwns t (184 / 64) = some ⟨.m, List.replicate 64 5, false⟩) ∧
    (let t := getHart (hartHw { hart0 .m with sb := [sb0] }) 71
     sbPlace t.sb 0 false = some (sb0, false) ∧ sb0.kind = .cacheable ∧
       ((sbStores t).take 0).any (fun x => x.kind == .cacheable && x.addr == sb0.addr) = false ∧
       (hartOwns t (sb0.addr / 64)).isSome = true) ∧
    (getHart (hartHw { hart0 .m with resv := some (184, 8) }) 71).resv = some (184, 8) ∧
    (getHart (hartHw (hart0 .m)) 71).resv ≠ some (184, 8) := by
  refine ⟨?_, ?_, ?_, ?_⟩ <;> decide +kernel

/-- The hypotheses of HartBarriersComplete and CacheBlocksComplete, by clause. -/
theorem test_witness_hart_barriers :
    (let hw := hartHw (hart0 .m)
     let t := getHart hw 71
     hartRuns t = true ∧ locate 0x040000C00000 = .reg (.core 0 0) 0 ∧ hartLoads t = false ∧ sbMarked t = false ∧ inTier 128 = true ∧
       hartCut hw 71 2 = false ∧ bits (word (2 * 4096 + 71)) 13 12 = 2 ∧ bits (word (2 * 4096 + 71)) 6 0 < 72 ∧ t.stopped = false ∧
       sbHolds t 2 = false ∧ (wbufLine t 2).isNone = true ∧ (getHome hw 2).busy = none ∧ (getHome hw 2).queue = [] ∧
       hartCut hw 71 3 = false ∧ hartLine t 3 = none) ∧
    hartPending (hartHw { hart0 .m with mip35 := true }) 71 = true := by
  refine ⟨?_, ?_⟩ <;> decide +kernel

/-! ### Coherence, CXL agents -/

/-- A package with home records and messages under way. -/
def netHw (homes : FMap Home) (net : List Msg) : Hw := { hartHw (hart0 .m) with mem := { Hw.reset.mem with homes := homes, net := net } }
def home0 (waiting : List Agent) (ack : Option Agent) : Home :=
  ⟨some ⟨mkReq .rdUnique (.hart 0) 2, waiting, none, false, ack, none⟩, []⟩
def msg0 (k : MsgKind) : Msg := ⟨k, 2, .hart 71⟩

/-- The hypotheses of CoherenceRequestsComplete and CxlAgentsComplete, by clause, the last line of tier 1 among them. -/
theorem test_witness_coherence_requests :
    (let hw := Hw.reset
     inTier (64 * 2) = true ∧ inTier (64 * (0x030000000000 / 64 - 1)) = true ∧
       (agentDead hw (.upstream 0) || fencedHome hw (.upstream 0) (64 * 2)) = false ∧
       (agentDead hw (.cxlDev 1) || fencedHome hw (.cxlDev 1) (64 * 2)) = false ∧
       writesThrough (.engine 0) = true ∧ atomOk (.amo .add 8 56 0 0) = true) ∧
    (let req := mkReq .rdOnce (.engine 0) 2
     let hw := netHw [(2, ⟨none, [req]⟩)] []
     (getHome hw 2).busy = none ∧ nextReq hw 2 = some req ∧ mayAccept hw 2 = true ∧ needsEntry hw req = false ∧ agentDead hw req.agent = false ∧ filtFull hw 2 = false) ∧
    (let hw := { Hw.reset with regs := [(Reg.cxuStatus 0, word (2 ^ 48 + 2 ^ 40))] }
     rbits hw (Reg.cxuStatus 0) 49 48 = 1 ∧ hdmLine hw 0 (768 * gib - 64) = some (768 * gib / 64 - 1)) ∧
    (let hw := netHw [(2, home0 [.upstream 0] none)] []
     awaits hw 2 (.upstream 0) = true ∧ agentDead hw (.upstream 0) = false ∧ lineHeld hw (.upstream 0) 2 = false ∧
       takeHeld hw 2 (.upstream 0) = none ∧ awaits hw 3 (.upstream 0) = false) ∧
    rbits { Hw.reset with regs := [(Reg.cxdStatus 1, word (2 ^ 53))] } (Reg.cxdStatus 1) 53 52 = 2 := by
  refine ⟨?_, ?_, ?_, ?_, ?_⟩ <;> decide +kernel

/-- The hypotheses of CoherenceMessagesComplete, by clause. -/
theorem test_witness_coherence_messages :
    (∀ k ∈ [MsgKind.snpShared, .snpInv, .comp, .compAck, .stashOffer],
      takeNet (netHw [] [msg0 k]) 2 (.hart 71) (fun x => x == k) = some (msg0 k, [])) ∧
    (let hw := netHw [] []
     takeNet hw 2 (.hart 71) (fun k => match k with | .wrBack _ => true | _ => false) = none ∧
       hartLine (getHart (hartScan hw 71 2) 71) 2 = some ⟨.m, List.replicate 64 5, false⟩ ∧ (wbufLine (getHart hw 71) 2).isNone = true) ∧
    hartLine (getHart (hartHw (hart0 .e)) 71) 2 = some ⟨.e, List.replicate 64 5, false⟩ ∧
    (∀ k ∈ [MsgKind.rspI, .rspS, .rspWBInFlight],
      let hw := netHw [(2, home0 [.hart 71] none)] [msg0 k]
      takeNet hw 2 (.hart 71) (fun x => x == k) = some (msg0 k, []) ∧ awaits hw 2 (.hart 71) = true ∧
        (getHome (setNet hw []) 2).busy.any (fun b => b.waiting.contains (.hart 71) && b.held.isNone) = true) ∧
    (let m := msg0 (.rspData true (List.replicate 64 1))
     let hw := netHw [(2, home0 [.hart 71] none)] [m]
     takeNet hw 2 (.hart 71) (fun k => match k with | .rspData _ _ => true | _ => false) = some (m, []) ∧
       awaits hw 2 (.hart 71) = true) ∧
    (let m := msg0 (.compData (some true) true (List.replicate 64 1) false)
     takeNet (netHw [] [m]) 2 (.hart 71) (fun k => match k with | .compData .. => true | _ => false) = some (m, [])) ∧
    (getHome (netHw [(2, home0 [] (some (.hart 71)))] [msg0 .compAck]) 2).busy.any (fun b => b.ackFrom == some (.hart 71)) = true ∧
    ((getHart (hartHw { Hart.reset with off := true }) 71).off = true ∧
      (let hw := { netHw [] [] with harts := [(71, { Hart.reset with stopped := false })] }
       let t := getHart hw 71
       (t.off || (hartLine t 2).isSome || decide (t.offers.length ≥ 8)) = false ∧ hartCut hw 71 2 = false ∧
         (wbufLine t 2).isNone = true)) ∧
    (let m : Msg := ⟨.stashOffer, 2, .engine 0⟩
     let hw := { coreHw run0 [] with mem := { Hw.reset.mem with net := [m] } }
     takeNet hw 2 (.engine 0) (fun k => k == .stashOffer) = some (m, []) ∧ (corePresent (setNet hw []) 0 && groupState (setNet hw []) (0 / 8) == 0) = true ∧
       ((getCore hw 0).pf.contains (2 / 2) || (getCore hw 0).side.any (fun x => x.line == 2 / 2) ||
         (getCore hw 0).l1.any (fun x => x.line == 2 / 2)) = false ∧ (corePresent (setNet { Hw.reset with mem := hw.mem } []) 0 && groupState (setNet { Hw.reset with mem := hw.mem } []) (0 / 8) == 0) = false) ∧
    (let hw := netHw [(2, home0 [.cxlDev 0] none)] []
     awaits hw 2 (.cxlDev 0) = true ∧ agentDead hw (.cxlDev 0) = false) := by
  refine ⟨?_, ?_, ?_, ?_, ?_, ?_, ?_, ?_, ?_, ?_⟩ <;> decide +kernel

/-- A retained block in its slice. -/
theorem test_witness_retention :
    let hw := setSlcList Hw.reset (homeSlice Hw.reset (64 * 2)) [⟨1, true, .clean, .inv⟩]
    (slcList hw 2).any (fun b => b.blk == 2 / 2 && b.retain) = true := by decide +kernel

/-! ### Links and ports -/

/-- The hypotheses of ErotteCompletes, by clause: a module ACTIVE, one under repair, an edge whose list and routes are
being made. -/
theorem test_witness_erotte :
    (let hw := setMDir { Hw.reset with regs := [(Reg.ertMStatus (rxDie 63 false) 63, 2)] } 63 false
       { MDir.reset with txNext := 6, buf := [7] }
     modLive hw 63 = true ∧ flitSent hw 63 false ⟨.data 5, 7, 0⟩ = true ∧ flitSent hw 63 false ⟨.nak, 0, 0⟩ = true) ∧
    modState { Hw.reset with regs := [(Reg.ertMStatus (rxDie 63 false) 63, 5)] } 63 = 5 ∧
    (let hw := { Hw.reset with ert := { Hw.reset.ert with rebuild := 128 } }
     bit hw.ert.rebuild 7 = true) ∧
    (let hw := { Hw.reset with ert := { Hw.reset.ert with routing := 128 } }
     bit hw.ert.routing 7 = true ∧ bit hw.ert.rebuild 7 = false ∧ cutOff (rerouted 7 hw) = none) ∧
    (let hw := { Hw.reset with ert := { Hw.reset.ert with routing := 128, lost := 0xFF } }
     (cutOff (rerouted 7 hw)).isSome = true ∧ { Sec.reset with step := 5 }.halts = []) := by
  refine ⟨?_, ?_, ?_, ?_, ?_⟩ <;> decide +kernel

/-- Port 15 in a state, its laser module ready, the package with an identifier, every port a package port. -/
def portHw (st : Nat) : Hw :=
  { Hw.reset with regs := [(Reg.optStatus 15, word (st + 2 * 2 ^ 8)), (Reg.clkPllStatus 5, word (2 ^ 39))], lasers := [(7, ⟨true, true, 0, true, 0⟩)],
                  img := { Image.reset with pkgId := 5, roles := 0x55555555, auth := false } }
def ident0 : IdentRec := ⟨0, 1, 6, 0, 0, 0, 0, 0, 9, [], [], [], []⟩

/-- The hypotheses of PortTrainingCompletes, by clause. -/
theorem test_witness_port_training :
    ((getLaser (portHw 1) 7).present = true ∧
      (getLaser (setLaser (portHw 1) 6 { Laser.reset with present := false }) 6).present = false) ∧
    (pState (portHw psDark) 15 = psDark ∧ portEnabled (portHw psDark) 15 = true ∧ laserOk (portHw psDark) 15 = true ∧
      (getPort (portHw psDark) 15).holdoff = false ∧ portClock (portHw psDark) 15 = true) ∧
    (pState (portHw psLock) 15 = psLock ∧ bits (getLaser (portHw psLock) (15 / 2)).fault 3 0 = 0 ∧
      (chooseWidth (0x1FF00 ||| laneFails (portHw psLock) 15 ||| 0)).1 ≠ 0) ∧
    (pState (portHw psAlign) 15 = psAlign ∧ (chooseWidth (laneFails (portHw psAlign) 15)).1 ≠ 0) ∧
    pState (portHw psLink) 15 = psLink ∧ (psLock ≤ pState (portHw psIdent) 15 && pState (portHw psIdent) 15 ≤ psIdent) = true ∧
    (let hw := setPort (portHw psDark) 15 { Port.reset with holdoff := true }
     pState hw 15 = psDark ∧ (getPort hw 15).holdoff = true ∧ portEnabled hw 15 = true ∧ portClock hw 15 = true) ∧
    (let hw := setPort { portHw psIdent with pkg := { Hw.reset.pkg with identQ := [15] } } 15
       { Port.reset with nonceIn := List.replicate 32 0 }
     pState hw 15 = psIdent ∧ hw.pkg.identQ.head? = some 15 ∧ (getPort hw 15).nonceIn.length = 32 ∧
       (getPort hw 15).recOk = false) := by
  refine ⟨?_, ?_, ?_, ?_, ?_, ?_, ?_, ?_⟩ <;> decide +kernel

/-- A record of another fabric is refused, whatever its signature. -/
theorem test_witness_ident_refused : pState (portHw psIdent) 15 = psIdent ∧ ∃ b, identCheck (portHw psIdent) 15 ident0 = some b := by
  refine ⟨by decide +kernel, ?_⟩
  unfold identCheck
  split
  · exact ⟨4, rfl⟩
  · exact ⟨2, by decide +kernel⟩

/-- The hypotheses of PortTrafficCompletes, by clause. -/
theorem test_witness_port_traffic :
    psLink ≤ pState (portHw psActive) 15 ∧ pState (portHw psActive) 15 ≠ psRepair ∧ (0 : BitVec 16).toNat = (getPort (portHw psActive) 15).rxNext ∧
    (List.range 17).filter (fun l => decide (atD 0 (List.replicate 17 65536) l > (portHw psActive).img.laneLimit)) = [] ∧
    psLock ≤ pState (portHw psActive) 15 ∧ pState (portHw psRepair) 15 = psRepair ∧ psIdent ≤ pState (portHw psActive) 15 ∧
    pState (portHw psActive) 15 = psActive ∧ roleOf (portHw psActive) 15 = 1 ∧ pLive (portHw psActive) 15 = true ∧
    (portHw psActive).img.transit = false ∧
    (let hw := { portHw psActive with pkg := { Hw.reset.pkg with via := [(7, 6)] } }
     hw.pkg.via.contains (7, 6) = true) := by decide +kernel

/-! ### Messages of other packages, CXL ports -/

/-- A header to this package of 8 bytes at an address. -/
def hdr0 (a : BitVec 52) : FabHdr := ⟨0, 5, 6, 0x400, 1, a, 7, 1, 14, 0, 0, 0, 0, 1, 0, false⟩
def freq0 : FabReq := ⟨1, 1, 6, 0, 15, 0, false, 0, 0, .none, 8⟩
def held1 : Held := ⟨4, 0, hdr0 248, [], none⟩

/-- The hypotheses of FabricRequestsComplete, by clause: at the last 8 bytes of a 256-byte block; a core's credits. -/
theorem test_witness_fabric_requests :
    (let hw := portHw psActive
     let h := hdr0 248
     pState hw 15 = psActive ∧ h.dst = hw.img.pkgId ∧ fabCut hw 15 h = false ∧ fabHeld hw 15 h = false ∧ fabLen h = 8 ∧ fabInBlock h = true ∧
       locate h.addr.toNat = .tier0 ∧ (tierWrite 8 hw (fabAgent h) 248 (List.replicate 8 1) false 0 0 (fabRoe hw h)).isSome = true ∧
       (tierRead 0 0 8 hw (fabAgent h) 248 8 (fabRoe hw h)).any (fun x => !x.2.2) = true ∧ amoFn h.func.toNat = some .add ∧ inTier 248 = true ∧
       ((List.range 2).all fun i => (pocServe hw { mkReq .atomic (fabAgent h) 3 with
         op := some (.amo (if i = 0 then .add else .swap) 8 56 h.opnd (if i = 0 then h.cmp else 0)), roe := roePath hw 248 8 }).any
           (fun r => !r.poison)) = true ∧
       atomOk (.reduce h.rop.toNat h.rfmt.toNat 0) = true ∧ 248 % (fmtBits h.rfmt.toNat / 8) = 0 ∧
       fabLen h % (fmtBits h.rfmt.toNat / 8) = 0 ∧
       (reduceN ⟨1, 14, 0, 0, false, 0⟩ (fabAgent h) (fabRoe hw h) 8 hw 248 (List.replicate 8 1)).any (fun x => !x.2) = true) ∧
    (let hw := { portHw psActive with groups := [(0, 0)] }
     let h := hdr0 0x040000000000
     fabCut hw 15 h = false ∧ fabHeld hw 15 h = false ∧ locate h.addr.toNat = .spad 0 0 ∧ corePresent hw 0 = true) ∧
    (let hw := { portHw psActive with pkg := { Hw.reset.pkg with held := [held1] } }
     paceNext hw 4 = some held1) := by
  refine ⟨?_, ?_, ?_⟩ <;> decide +kernel

/-- The hypotheses of FabricResponsesComplete. -/
theorem test_witness_fabric_responses :
    let hw := { portHw psActive with pkg := { Hw.reset.pkg with fabReqs := [freq0] } }
    pState hw 15 = psActive ∧ (hdr0 0).dst = hw.img.pkgId ∧ hw.pkg.fabReqs.find? (fun r => r.tag == (hdr0 0).tag.toNat) = some freq0 ∧
      responseHeld hw (4 + 15 / 8) freq0 = false := by
  decide +kernel

/-- The hypotheses of UpstreamPortCompletes, by clause. -/
theorem test_witness_upstream :
    (let hw := { Hw.reset with regs := [(Reg.clkPllStatus 5, word (2 ^ 40))] }
     cxuMode hw 1 = 0 ∧ (getAcelo hw 1).perst = false ∧ 10 ≤ (up hw).sec.step ∧ rbit hw (Reg.clkPllStatus (4 + 1)) 40 = true) ∧
    (let hw := { Hw.reset with regs := [(Reg.cxuStatus 1, word (2 ^ 48))] }
     (getAcelo hw 1).doe = none ∧ hw.pkg.identQ = [] ∧ { hw.pkg with identQ := [3] }.identQ ≠ [] ∧
       cxuMode hw 1 ≠ 0 ∧ portFenced hw (.upstream 1) = false ∧ cxuMode hw 1 = 1 ∧ (word (2 ^ 28)).toNat % 2 ^ 28 = 0) ∧
    (getAcelo (setAcelo Hw.reset 1 { Acelo.reset with perst := true }) 1).perst = true := by
  refine ⟨?_, ?_, ?_⟩ <;> decide +kernel

/-- A window of Acelo 1 at bus address 0 onto tier 0, a request of its first bytes. -/
def winHw : Hw :=
  { Hw.reset with regs := [(Reg.iotWinTgt 1 255, 3), (Reg.iotWinBase 1 255, 12), (Reg.cxdStatus 1, word (2 ^ 40))] }
def inb0 : InbReq := ⟨0, false, 0, 64, [], false, false, false⟩
def dsq0 : DsReq := ⟨3, 0, .agent .monitor⟩

/-- The hypotheses of DownstreamPortCompletes, by clause. -/
theorem test_witness_downstream :
    (rbits winHw (Reg.cxdStatus 1) 41 40 ≠ 0 ∧ rbit winHw (Reg.cxdStatus 1) 33 = false ∧
      inb0.addr.toNat % 4096 + inb0.len ≤ 4096 ∧ winFind winHw 1 inb0 = some 255 ∧ rbit winHw (Reg.iotWinTgt 1 255) 1 = true ∧
      locate (winTgt winHw 1 255 + (inb0.addr.toNat - winBase winHw 1 255)) = .tier0 ∧
      fencedHome winHw (.adapter 1) (winTgt winHw 1 255 + (inb0.addr.toNat - winBase winHw 1 255)) = false ∧
      (pocReadN (inb0.len / 64 + 2) (radd winHw (Reg.cxdInbCnt 1) 1) (.adapter 1)
        (winTgt winHw 1 255 + (inb0.addr.toNat - winBase winHw 1 255)) inb0.len).isSome = true) ∧
    (let x : HeldWr := ⟨255, 0, 0, 0, 1, { inb0 with write := true }⟩
     let hw := setAcelo Hw.reset 1 { Acelo.reset with roHeld := [x] }
     (getAcelo hw 1).roHeld = [x] ∧ inboundHeld hw 1 x.tgt = false ∧ adapterBusy hw 1 x.seq = false) ∧
    (let hw := setAcelo Hw.reset 1 { Acelo.reset with inv := [(255, 1)] }
     (getAcelo hw 1).inv = [(255, 1)] ∧ adapterBusy hw 1 1 = false ∧
       (getAcelo hw 1).roHeld.any (fun h => h.win == 255 && decide (h.seq < 1)) = false) ∧
    (takeDs (setAcelo Hw.reset 1 { Acelo.reset with out := [dsq0] }) 1 3).any (fun x => x.1 == dsq0) = true := by
  refine ⟨?_, ?_, ?_, ?_⟩ <;> decide +kernel

/-! ### Power, boot, errors, registers, monitor, loader -/

/-- The hypotheses of PowerCompletes, by clause. -/
theorem test_witness_power :
    (let hw := { Hw.reset with groups := [(63, 0)] }
     pcpRuns { hw with regs := [(Reg.clkPllStatus 4, word (2 ^ 17)), (Reg.clkPllStatus 5, word (2 ^ 17))] } 1 = true ∧ activeGroup hw 63 = true ∧ (getGp hw 63).droop = 1 ∧ hw.pow.brake = false ∧ energyOk hw 10 [(511, 10, [])] = true ∧
       6 ≤ (up hw).sec.step ∧ 1 ≤ (up hw).sec.step) ∧
    (getGp (setGp Hw.reset 63 { GPow.reset with droop := 2 }) 63).droop ≠ 1 ∧
    (let hw := setHalf { Hw.reset with ramps := [511] } 1 { Half.reset with share := 2000 }
     hw.ramps.find? (fun e => rampHalf e == 1) = some 511 ∧ grantCost hw 1 511 = some (2000, false)) ∧
    (List.range 64).any (fun g => (getGp (setGp Hw.reset 63 { GPow.reset with brake := 4 }) g).brake != 1) = true := by
  refine ⟨?_, ?_, ?_, ?_⟩ <;> decide +kernel

/-- The hypotheses of SupplyCompletes and OffPackageInert, by clause. -/
theorem test_witness_supply :
    (vinTake Hw.reset 1 14999 100).2 = none ∧ 15000 < (getHalf (setHalf Hw.reset 1 { Half.reset with mv := 15001 }) 1).mv ∧
    (let hw := { Hw.reset with pow := { Pow.reset with sag := true } }
     hw.pow.sag = true ∧ (up hw).on) ∧
    (let hw := { Hw.reset with pow := { Pow.reset with off := 1 } }
     hw.pow.off ≠ 0 ∧ hw.pow.therm = false) ∧ { Pow.reset with therm := true, off := 2 }.therm = true := by
  refine ⟨?_, ?_, ⟨?_, ?_⟩, ?_, ?_⟩
  · decide +kernel
  · decide +kernel
  · rfl
  · rfl
  · decide +kernel
  · rfl

/-- The hypotheses of BootCompletes, by clause: the first step and the last. -/
theorem test_witness_boot :
    bits (word (0xA5C3 * 2 ^ 48 + 1)) 63 48 = 0xA5C3 ∧ bits (word (0xA5C3 * 2 ^ 48 + 1)) 1 0 = 1 ∧
    bits (word (0xA5C3 * 2 ^ 48 + 2)) 1 0 = 2 ∧ (47 : Fin 256).val < 48 ∧ State.reset.sec.halts = [] ∧ State.reset.sec.maint = false ∧
    (bootEffect 1 0 .plain (Hw.reset, Sec.reset)).isSome = true ∧ (bootEffect 10 0 .plain (Hw.reset, Sec.reset)).isSome = true ∧
    { Sec.reset with halts := [(0, 1)] }.halts ≠ [] ∧ { Sec.reset with step := 1 }.step = 1 := by decide +kernel

/-- The hypotheses of ErrorsComplete, by clause. -/
theorem test_witness_errors :
    rbit { Hw.reset with regs := [(Reg.clkPllStatus 5, word (2 ^ 47))] } (Reg.clkPllStatus 5) 47 = true ∧
    (let hw := { Hw.reset with stop := true, fatal := [(5, 1)] }
     hw.stop = true ∧ hw.fatal.any (fun f => halfOfDie f.1 == 1) = true) ∧
    (let hw := { Hw.reset with regs := [(Reg.clkPllStatus 5, word (2 ^ 17))] }
     mget (fun _ => 0) hw.pcpFlip 1 = 0 ∧ rbit hw (Reg.clkPllStatus (4 + 1)) 17 = true ∧ pcpRuns hw 1 = true ∧
       columnOpen hw (5 - 1) (4 + 1) true = true) ∧ rbit Hw.reset (Reg.pcpHbStatus 1) 0 = false ∧
    (let hw := { Hw.reset with regs := [(ctlStatus 27, word (4 * 2 ^ 32))], ctls := [(27, ⟨0, 0, 0, 0, [], false⟩)] }
     ctlState hw 27 = 4 ∧ (getCtl hw 27).selfRef = false ∧ bit hw.img.errPolicy 2 = false) ∧
    (getDie (setDie Hw.reset 5 { Die.reset with ceLogged := [(63, 4095)] }) 5).ceLogged.contains (63, 4095) = true := by
  refine ⟨?_, ?_, ?_, ?_, ?_, ?_⟩ <;> decide +kernel

/-- The hypotheses of PopReads and RegisterAccessesComplete: the first and last register windows, a POP register. -/
theorem test_witness_registers :
    inRegWindow 0x040000C00000 = true ∧ inRegWindow (0x060180000000 - 1) = true ∧ inRegWindow 0x070000000000 = true ∧
    arrives Hw.reset (.upstream 1) = true ∧ corePresent Hw.reset 511 = true ∧
    blkOf Hw.reset (Reg.rasLog 5) = some (.die 5 2, 0x10) ∧
    (rowAt Hw.reset (.die 5 2) 0x10).any (fun x => x.1.acc == .pop) = true ∧
    (let hw := coreHw Core.reset []
     blkOf hw (Reg.qfeMsiAddr 0) = some (.core 0 1, 0x20) ∧ (rowAt hw (.core 0 1) 0x20).any (fun x => x.1.acc == .rw) = true ∧
       regAccessOk 0x20 8 = true ∧ regAccessOk 0x24 4 = true) ∧
    mayAccess Hw.reset (.pcp 0) = true := by
  refine ⟨?_, ?_, ?_, ?_, ?_, ?_, ?_, ?_, ?_⟩ <;> decide +kernel

/-- The hypotheses of MonitorCompletes and MonitorWaitsEnd. -/
theorem test_witness_monitor :
    (up Hw.reset).monIdle ∧ (up Hw.reset).on ∧ monWaits { Mon.reset with wait := .margin 27 0 } = true ∧
    { Mon.reset with wait := .upload 20480 }.wait = .upload 20480 := ⟨⟨by decide, rfl⟩, rfl, rfl, rfl⟩

/-- A translation in use by another context. -/
def kept0 : KeptSnc := ⟨[], 0, 0, 7, [(3, 0, [])], 0, 4, 0, 4, true⟩

/-- The hypotheses of LoaderCompletes, by clause: with DPT_0 invalid the code is 8, with a digest other than the table's no
load ends well, a context's numbers beside those of another; and where nothing is kept every number is free. -/
theorem test_witness_loader :
    (bit (rget Hw.reset (Reg.pcpDpt 0 0)) 63 = false ∧ (1 : Word) ≠ rget Hw.reset (Reg.pcpDpt 0 1)) ∧
    loadCode Hw.reset (fun n => rget Hw.reset (Reg.pcpDpt 0 n)) [] ⟨0, 0, 1, 0, 0, 0⟩ = 8 ∧
    rangeFree Hw.reset [3] 7 0 (mkcLsems []) lsemRange = true ∧
    rangeFree Hw.reset [3] 7 0 (Config.mkcCredits [] 0 (dptList (fun n => rget Hw.reset (Reg.pcpDpt 0 n)))) slotRange = true ∧
    rangeFree { Hw.reset with kept := [kept0] } [3] 8 1 (mkcLsems []) lsemRange = false ∧
    rangeFree { Hw.reset with kept := [kept0] } [3] 8 1 (Config.mkcCredits [] 0 (dptList (fun n => rget Hw.reset (Reg.pcpDpt 0 n)))) slotRange = false ∧
    (∀ k ∈ Hw.reset.kept, k.live = true → k.ctx ≠ 7) := by
  have h : bit (rget Hw.reset (Reg.pcpDpt 0 0)) 63 = false := by decide +kernel
  have hc : mkcCode (fun n => rget Hw.reset (Reg.pcpDpt 0 n)) [] 0 = 8 := by
    unfold mkcCode
    dsimp only
    rw [if_pos h]
  refine ⟨⟨h, by decide +kernel⟩, ?_, by decide +kernel, rfl, by decide +kernel, ?_, fun k hk => absurd hk (List.not_mem_nil)⟩
  rotate_left
  · simp [rangeFree, slotRange, kept0]
  unfold loadCode
  dsimp only
  rw [show mkcCode (fun n => rget Hw.reset (Reg.pcpDpt 0 n)) [] (0 : GroupId).val = 8 from hc]
  rfl

/-! ### Steps, security, resets -/

/-- A step with a command waiting, for the statements over every step: the error window of a die ends. -/
theorem test_witness_step :
    ∃ t, step { up { Hw.reset with locked := true } with pending := [.ceWindowExpire 5], sec := { Sec.reset with
        step := 8, fuseSvn := 32, mon := { Mon.reset with unlocked := false } } } = .next t ∧
      2 ≤ t.sec.step ∧ t.sec.monKeys = [] ∧ t.pending = [] := by
  refine ⟨_, rfl, ?_, ?_, ?_⟩ <;> decide +kernel

/-- The security state of that step is within its bounds. -/
theorem test_witness_bounded : Sec.bounded { Sec.reset with step := 10, fuseSvn := 32, mon := { Mon.reset with
    line := List.replicate 160 0, inbuf := List.replicate 256 0 } } := by
  unfold Sec.bounded
  decide +kernel

/-- The hypotheses of WarmResetKeepsMemory and ColdResetLeaves: a byte of memory, a clean line at a hart. -/
theorem test_witness_resets :
    let s := up { hartHw (hart0 .e) with mem := { Hw.reset.mem with data := [(0, 7)] } }
    s.on ∧ 1 ≤ s.sec.step ∧
    (∀ c, (getCore s.hw c).mb = [] ∧ (getCore s.hw c).recs = [] ∧ ∀ m ∈ (getCore s.hw c).cmds, m.stage = .fetching) ∧
    (∀ d, ∀ e ∈ (getTree s.hw d).nodes, e.2 = []) ∧
    (∀ h, (getHart s.hw h).sb = [] ∧ (getHart s.hw h).wbuf = [] ∧
      ∀ e ∈ (getHart s.hw h).lines, ∀ l, e.2 = some l → l.st ≠ .m) ∧ s.hw.msgs = [] ∧
    (∃ t, exec .warmRst s = .next t) ∧ (∃ t, exec .coldRst s = .next t) := by
  refine ⟨rfl, by decide, fun c => ⟨rfl, rfl, fun _ hm => absurd hm (List.not_mem_nil)⟩, fun d e he => absurd he (List.not_mem_nil),
    fun h => ?_, rfl, ⟨_, rfl⟩, ⟨_, rfl⟩⟩
  by_cases h71 : 71 = h
  · subst h71
    decide +kernel
  · have hd : getHart (hartHw (hart0 .e)) h = Hart.reset := by
      simp [getHart, hartHw, mget, h71]
    refine ⟨?_, ?_, ?_⟩
    · exact congrArg Hart.sb hd
    · exact congrArg Hart.wbuf hd
    · intro e he
      have hl : (getHart (hartHw (hart0 .e)) h).lines = [] := congrArg Hart.lines hd
      exact absurd (hl ▸ he) (by simp)

/-! ### Placement, registers, arithmetic -/

/-- The hypotheses of TierZeroPlaces and TierOnePlaces at the ends of their ranges. -/
theorem test_witness_tiers :
    192 % 3 = 0 ∧ 768 * gib - 1 < 768 * gib ∧ 768 * gib - 1 = (768 - 4 * 192 + 3 * 192) * gib + (192 * gib - 1) ∧
    768 * gib - 1 < (768 - 4 * 0) * gib ∧ 1024 % 8 = 0 ∧
    2048 * gib - 1 = (2048 - 2 * 1024 + 1 * 1024) * gib + (1024 * gib - 1) ∧ inTier (0x030000000000 - 1) = true := by
  decide +kernel

/-- The hypotheses of PopTakesOldest, DoorbellsCommute and CreditGoesToOne, by clause. -/
theorem test_witness_register_rules :
    initiatorNo (.hart 71) ≠ initiatorNo (.pcp 0) ∧
    logGet { Hw.reset with logs := [(Reg.rasLog 0, [(1, 2), (3, 4)])] } (Reg.rasLog 0) = [(1, 2), (3, 4)] ∧
    logGet Hw.reset (Reg.rasLog 0) = [] ∧
    (let hw := coreHw run0 [(Reg.qfeQHead 0 0, word (2 ^ 32 - 1)), (Reg.qfeQTail 0 0, word (2 ^ 32 - 1)), (Reg.qfeQCtrl 0 0, word (6 * 256 + 1))]
     (rget hw (Reg.qfeQHead 0 0)).toNat < 2 ^ 32 ∧ (rget hw (Reg.qfeQTail 0 0)).toNat < 2 ^ 32 ∧ (getQueue hw 0 0).st ≠ 0 ∧
       rget (ringDoorbell hw 0 0 63) (Reg.qfeQTail 0 0) = 63 ∧ rget (ringDoorbell hw 0 0 64) (Reg.qfeQTail 0 0) = word (2 ^ 32 - 1)) ∧
    (let x := getSlot { Hw.reset with regs := [(Reg.spcCredit 0 63, word (2 ^ 62 + 4095 * 2 ^ 48 + 4095 * 2 ^ 36 + 2 ^ 21))] } 0 63
     x.state = 1 ∧ x.any = false ∧ x.pkg = 4095 ∧ x.agent = 4095) := by
  refine ⟨?_, ?_, ?_, ?_, ?_⟩ <;> decide +kernel

/-- The hypotheses of ScalarFrame for each of its commands. -/
theorem test_witness_scalar_frame :
    (getCore (head 3 0 [0, 0, 0, 0, 0]) 0).killed = [] ∧ (∀ m ∈ (getCore (head 3 0 [0, 0, 0, 0, 0]) 0).cmds, m.seenBad = false ∧ m.flip = 0) ∧
    (head 3 0 [0, 0, 0, 0, 0]).msgs = [] ∧ (up (head 3 0 [0, 0, 0, 0, 0])).sec.mon.wait = .idle ∧
    (∃ t, exec (.seOp 0 0) (up (head 3 0 [0, 0, 0, 0, 0])) = .next t) ∧
    (∃ t, exec (.seSetp 0 0) (up (head 3 1 [0, 0, 0, 0, 0])) = .next t) ∧
    (∃ t, exec (.seRdcnt 0 0) (up (head 3 7 [0, 0, 0, 0, 0])) = .next t) :=
  ⟨by decide +kernel, by decide +kernel, rfl, rfl, ⟨_, rfl⟩, ⟨_, rfl⟩, ⟨_, rfl⟩⟩

/-- The hypotheses of SpadWriteFrame: four bytes under hart 0's credit, in a word without a bit error. -/
theorem test_witness_spad_frame :
    let s := up (coreHw run0 [(Reg.spcCredit 0 0, held0)])
    let bs : List Byte := List.replicate 4 7
    s.on ∧ s.hw.msgs = [] ∧ s.sec.mon.wait = .idle ∧ 60 + bs.length ≤ spadSize ∧
    regHeld s.now (.hart 0) (0 / 128) (coreWin 0 + 60) = false ∧
    (flipOf (getCore s.hw 0).spadFlip (60 / 8) = 0 ∧ flipOf (getCore s.hw 0).spadFlip ((60 + bs.length - 1) / 8) = 0) ∧
    (∃ h, spadWriteBy s.now (.hart 0) 0 60 bs = (h, .ok)) ∧ (∃ t, exec (.spadRemoteWrite (.hart 0) 0 60 bs) s = .next t) := by
  refine ⟨rfl, rfl, rfl, by decide +kernel, by decide +kernel, by decide +kernel, ⟨(spadWriteBy (up (coreHw run0 [(Reg.spcCredit 0 0, held0)])).now (.hart 0) 0 60
    (List.replicate 4 7)).1, Prod.ext rfl (by decide +kernel)⟩, ⟨_, rfl⟩⟩

/-- The hypotheses of MatrixSumsCommute and FloatCodesRoundTrip: two terms, a NaN and the largest code. -/
theorem test_witness_arithmetic :
    [XNum.fin false 1 0, .inf true].Perm [.inf true, .fin false 1 0] ∧ fdec fE4M3 0x7F = .nan ∧ fdec fE2M1 15 ≠ .nan ∧
    15 < 2 ^ (1 + fE2M1.eb + fE2M1.mb) := ⟨List.Perm.swap _ _ _, by decide +kernel, by decide +kernel, by decide +kernel⟩

/-- The hypotheses of RecordEnters, by clause: room, a full log, a message that is sent. -/
theorem test_witness_record :
    (logGet Hw.reset (Reg.rasLog 5)).length < 32 ∧
    ¬(logGet { Hw.reset with logs := [(Reg.rasLog 5, List.replicate 32 (0, 0))] } (Reg.rasLog 5)).length < 32 ∧
    (let hw := { Hw.reset with regs := [(Reg.rasMsiMask 5, 64), (Reg.rasMsiAddr 5, 4096)] }
     rbit hw (Reg.rasMsiMask 5) 6 = true ∧ (rget hw (Reg.rasMsiAddr 5)).toNat ≠ 0) := by
  refine ⟨?_, ?_, ?_⟩ <;> decide +kernel

/-! ### One step each, the expected values by hand -/

/-- A field of the next state. -/
def after {α : Type} (i : Instr) (s : State) (f : Hw → α) : Option α :=
  match exec i s with
  | .next t => some (f t.hw)
  | _ => none

/-- Little-endian words in a map of bytes. -/
def bytesAt (l : List (Nat × Nat)) : FMap Byte :=
  l.flatMap (fun e => ((leBytes 4 e.2).zipIdx.map (fun b => (e.1 + b.2, b.1))).filter (fun e => e.2 ≠ 0))

def spadHw (eng op : Nat) (body : List Nat) (l : List (Nat × Nat)) : State :=
  up (coreHw { run0 with cmds := [cmdOf eng op 0 .fifo body [page0]], spad := bytesAt l } [(Reg.seG 0 1, word 5)])

/-- SE_OP SUB, the immediate 7 less G1 = 5, into G15. -/
theorem test_se_sub : after (.seOp 0 0) (spadHw 3 0 [2 ^ 58 + 15 * 2 ^ 48 + 2 ^ 46 + 2 ^ 32, 7, 0, 0, 0] [])
    (fun h => rget h (Reg.seG 0 15)) = some 2 := by decide +kernel

/-- SE_OP DIV rounds toward zero: −7 over 5 is −1 (R165). -/
theorem test_se_div : after (.seOp 0 0) (spadHw 3 0 [0x10 * 2 ^ 58 + 2 ^ 46 + 2 ^ 32, 2 ^ 64 - 7, 0, 0, 0] [])
    (fun h => rget h (Reg.seG 0 0)) = some (word (2 ^ 64 - 1)) := by decide +kernel

/-- SE_LD of a byte 0x80 with sign extension. -/
theorem test_se_ld_sign : after (.seLd 0 0) (spadHw 3 2 [2 ^ 60, 0, 0, 0, 0] [(0, 0x80)])
    (fun h => rget h (Reg.seG 0 0)) = some (word (2 ^ 64 - 128)) := by decide +kernel

/-- VE_ELEM ADD in FP32: 1 + 2 = 3. -/
theorem test_ve_add : after (.veElem 0 0) (spadHw 2 0 [w4 11 11 11 0, sp 0, sp 512, sp 1024, 0]
    [(512, 0x3F800000), (1024, 0x40000000)]) (fun h => rdMem (getCore h 0).spad 0 4) = some (leBytes 4 0x40400000) := by
  decide +kernel

/-- VE_CVT of 65,520, halfway past FP16's largest, overflows to infinity with OF and NX (R146). -/
theorem test_ve_cvt_overflow :
    after (.veCvt 0 0) (spadHw 2 2 [w4 10 11 0 0, sp 0, sp 512, 0, 0] [(512, 0x477FF000)])
      (fun h => rdMem (getCore h 0).spad 0 2) = some (leBytes 2 0x7C00) ∧
    after (.veCvt 0 0) (spadHw 2 2 [w4 10 11 0 0, sp 0, sp 512, 0, 0] [(512, 0x477FF000)])
      (fun h => bits (rget h (Reg.veFlags 0 0)) 4 0) = some 5 := by
  refine ⟨?_, ?_⟩ <;> decide +kernel

/-- DE_XFER of one row of 8 bytes from scratchpad 0 to 64. -/
theorem test_de_xfer : after (.deXfer 0 0) (spadHw 4 0 [0, 64, 0, 7 * 2 ^ 44, 0] [(0, 0x11223344), (4, 0x55667788)])
    (fun h => rdMem (getCore h 0).spad 64 8) = some (leBytes 8 0x5566778811223344) := by decide +kernel

/-- A hart's 4-byte AMO ADD at the end of a line it owns wraps and answers the old value, sign-extended (R384). -/
theorem test_amo_add : (match exec (.hostAmo 71 188 4 (.amo .add) 0xFAFAFAFB) (up (hartHw (hart0 .m))) with
    | .next t => some (t.answer, (hartLine (getHart t.hw 71) 2).map (fun l => l.data.drop 56))
    | _ => none) = some (.value 0x05050505, some ([5, 5, 5, 5, 0, 0, 0, 0])) := by decide +kernel

/-- A doorbell past the ring's 64 slots is ignored and logged with cause 1 (R220). -/
theorem test_doorbell_past : after (.doorbell (.hart 0) 0 65) (up (coreHw run0 [(Reg.qfeQCtrl 0 0, word (6 * 256 + 1))]))
    (fun h => (rget h (Reg.qfeQTail 0 0), (logGet h (Reg.qfeErrLog 0)).map (·.1))) =
      some (0, [word (2 ^ 63 + 2 ^ 59 + 65)]) := by decide +kernel

/-- Whatever the block is doing, a second take of a credit is refused (R197). -/
theorem test_take_twice : (match exec (.creditTakeRequest 0 0 7 9) (up (coreHw run0 [(Reg.spcCredit 0 0, held0)])) with
    | .next t => some t.answer
    | _ => none) = some (.value (word (2 ^ 63))) := by decide +kernel

/-- R365's example words with a0 = 1 and a1 = 2; a word whose rd is not zero, one of funct3 4, and an ADDI. -/
theorem test_xtlvq_words :
    (let x := fun r : BitVec 5 => if r = 10 then (1 : Word) else if r = 11 then 2 else 0
     readXtlvq 5 x 0x00B5000B = .command (.tlvDb 5 1 2) ∧ readXtlvq 5 x 0x00B5100B = .command (.tlvStash 5 1 2) ∧
       readXtlvq 5 x 0x0020200B = .command (.tlvRel 5 .package) ∧ readXtlvq 5 x 0x0020300B = .command (.tlvAcq 5 .package) ∧
       readXtlvq 5 x 0x00B5008B = .illegal ∧ readXtlvq 5 x 0x00B5400B = .illegal ∧ readXtlvq 5 x 0x0040200B = .illegal ∧
       readXtlvq 5 x 0x00B50013 = .other) := by decide +kernel

end Sys2Proof.Tests
end

section
/-! PROOF. Register accesses (R12, R14, R48, R562): where a register address lies and who answers for it, what a write to a
register amounts to, that every register write answers, the clear of a W1C register; and the numbering of the host cores
(R20). -/

namespace Sys2Proof.Machine

/-! #### Where a register address lies (R52, R56, R58) -/

section
variable {hw : Hw} {addr : Nat} {b : Blk} {off : Nat}

/-- A register address lies in a block of its own, or in the primary's PCP block behind the package window. -/
theorem blkOf_eq_some_iff : blkOf hw addr = some (b, off) ↔
    locate addr = .reg b off ∨ (locate addr = .pkgReg off ∧ b = pcpOf hw) := by
  unfold blkOf
  split <;> simp_all [eq_comm, and_comm]

theorem inRegWindow_of_blkOf (h : blkOf hw addr = some (b, off)) : inRegWindow addr = true := by
  unfold inRegWindow
  rcases blkOf_eq_some_iff.mp h with hl | ⟨hl, -⟩ <;> rw [hl]

theorem dieOfAddr_of_blkOf (h : blkOf hw addr = some (b, off)) (ag : Agent) : dieOfAddr hw addr ag = blkDie b := by
  unfold dieOfAddr
  rcases blkOf_eq_some_iff.mp h with hl | ⟨hl, rfl⟩
  · rw [hl]
    cases b <;> rfl
  · rw [hl]
    rfl

/-- A block of the local map stands on one of the six dies. -/
theorem blkDie_lt_of_locate (h : locate addr = .reg b off) : blkDie b < 6 := by
  unfold locate locateHic at h
  dsimp only at h
  split_ifs at h <;> cases h <;> simp only [blkDie] <;> omega

theorem blkDie_mem_of_blkOf (h : blkOf hw addr = some (b, off)) : blkDie b ∈ List.range 6 ++ [4 + hw.pkg.primary] := by
  rcases blkOf_eq_some_iff.mp h with hl | ⟨-, rfl⟩
  · exact List.mem_append_left _ (List.mem_range.mpr (blkDie_lt_of_locate hl))
  · exact List.mem_append_right _ (List.mem_singleton.mpr rfl)

end

/-! #### An access that arrives (R30, R60) -/

section
variable {hw : Hw} {by_ : Agent} {addr : Nat} {b : Blk} {off : Nat}

theorem mayAccess_of_arrives (ha : arrives hw by_ = true) : mayAccess hw by_ = true :=
  (Bool.and_eq_true_iff.mp ha).1

/-- The mesh holds no access to a register block of an initiator whose accesses arrive. -/
theorem regHeld_of_arrives (ha : arrives hw by_ = true) (h : blkOf hw addr = some (b, off)) :
    regHeld hw by_ (blkDie b) addr = false := by
  have hopen := List.all_eq_true.mp (Bool.and_eq_true_iff.mp ha).2 _ (blkDie_mem_of_blkOf h)
  have hcol : columnOpen hw (dieOfAgent (busAgent hw by_)) (blkDie b) (columnOf addr) = true :=
    List.all_eq_true.mp hopen _ (by cases columnOf addr <;> simp)
  simp [regHeld, meshHeld, hcol]

/-- A write to a register that arrives is the block's. -/
theorem busWrite_eq_regWrite (ha : arrives hw by_ = true) (h : blkOf hw addr = some (b, off)) (who : DsWho) (size : Nat)
    (v : Word) (sec : Sec) : busWrite by_ who addr size v hw sec = regWrite by_ addr b off size v hw sec := by
  have hheld : meshHeld hw (dieOfAgent (busAgent hw by_)) (dieOfAddr hw addr (busAgent hw by_)) addr = false := by
    rw [dieOfAddr_of_blkOf h]
    exact regHeld_of_arrives ha h
  unfold busWrite
  simp only [mayAccess_of_arrives ha, hheld, Bool.not_true, Bool.false_eq_true, if_false]
  rcases blkOf_eq_some_iff.mp h with hl | ⟨hl, rfl⟩ <;> rw [hl]

end

/-! #### What a write to a register of a block amounts to (R12, R14) -/

section
variable {hw : Hw} {b : Blk} {off size n c s d k : Nat} {row : RegRow} {v w : Word}

/-- A write to a read-only or POP register is ignored. -/
theorem regWrite_ignored (hrow : rowAt hw b (off - off % 8) = some (row, n)) (hok : regAccessOk off size = true)
    (hacc : row.acc = .ro ∨ row.acc = .pop) (by_ : Agent) (addr : Nat) (sec : Sec) :
    regWrite by_ addr b off size v hw sec = (hw, sec, .done) := by
  unfold regWrite
  simp only [hrow, hok, Bool.not_true, Bool.false_eq_true, if_false, if_pos hacc]

/-- A 32-bit write to a half that starts nothing is stored alone. -/
theorem regWrite_half {h : Hw} (hrow : rowAt hw b (off - off % 8) = some (row, n)) (hok : regAccessOk off size = true)
    (hro : row.acc ≠ .ro) (hpop : row.acc ≠ .pop) (hwide : widened row (rget hw (blkAddr b (off - off % 8))) off size v = w)
    (hhalf : (if size = 4 then halfWrite b (off - off % 8) (off % 8 == 4) w row hw else none) = some h)
    (by_ : Agent) (addr : Nat) (sec : Sec) : regWrite by_ addr b off size v hw sec = (h, sec, .done) := by
  unfold regWrite
  simp only [hrow, hok, Bool.not_true, Bool.false_eq_true, if_false, hro, hpop, or_self, hwide, hhalf]

/-- A write that a writable register takes: its row, a size and alignment of R12, the 64-bit value `w` it amounts to, and no
half that is stored alone. -/
structure TakesWrite (hw : Hw) (b : Blk) (off size : Nat) (v : Word) (row : RegRow) (w : Word) : Prop where
  found : ∃ n, rowAt hw b (off - off % 8) = some (row, n)
  sized : regAccessOk off size = true
  notRo : row.acc ≠ .ro
  notPop : row.acc ≠ .pop
  value : widened row (rget hw (blkAddr b (off - off % 8))) off size v = w
  noHalf : (if size = 4 then halfWrite b (off - off % 8) (off % 8 == 4) w row hw else none) = none

/-- A whole write to a writable register is taken as it is. -/
theorem TakesWrite.whole (hrow : rowAt hw b (off - off % 8) = some (row, n)) (hoff : off % 8 = 0) (hro : row.acc ≠ .ro)
    (hpop : row.acc ≠ .pop) : TakesWrite hw b off 8 v row v :=
  ⟨⟨n, hrow⟩, by simp [regAccessOk, hoff], hro, hpop, by simp [widened], by simp⟩

/-- A core's register takes a write with its own effect. -/
theorem regWrite_core (h : TakesWrite hw (.core c s) off size v row w) (by_ : Agent) (addr : Nat) (sec : Sec) :
    regWrite by_ addr (.core c s) off size v hw sec =
      ((coreWrite c s (off - off % 8) row w hw).1, sec, (coreWrite c s (off - off % 8) row w hw).2) := by
  obtain ⟨⟨n, hrow⟩, hok, hro, hpop, hval, hhalf⟩ := h
  unfold regWrite
  simp only [hrow, hok, Bool.not_true, Bool.false_eq_true, if_false, hro, hpop, or_self, hval, hhalf]

/-- A die's register takes a write with its own effect; PCP_RESET's may set the boot back. -/
theorem regWrite_die (h : TakesWrite hw (.die d k) off size v row w) (by_ : Agent) (addr : Nat) (sec : Sec) :
    regWrite by_ addr (.die d k) off size v hw sec =
      if k = 0x50 ∧ off - off % 8 = 0xE028 then pcpResetWrite w hw sec
      else ((dieWrite d k (off - off % 8) row w hw).1, sec, (dieWrite d k (off - off % 8) row w hw).2) := by
  obtain ⟨⟨n, hrow⟩, hok, hro, hpop, hval, hhalf⟩ := h
  unfold regWrite
  simp only [hrow, hok, Bool.not_true, Bool.false_eq_true, if_false, hro, hpop, or_self, hval, hhalf]

end

/-! #### Every register write answers -/

section
variable {hw : Hw} {v : Word}

/-- A choice between two effects that answer `done` answers `done`. -/
theorem ite_done {p : Prop} [Decidable p] {x y : Hw × Answer} (hx : x.2 = .done) (hy : y.2 = .done) :
    (if p then x else y).2 = .done := by
  split
  · exact hx
  · exact hy

theorem killPass_answer (c : Nat) (r : Hw × Answer) : (killPass c r).2 = r.2 := by
  unfold killPass
  dsimp only
  split <;> rfl

theorem coreCtrlWrite_done (c : Nat) : (coreCtrlWrite c v hw).2 = .done := ite_done (killPass_answer c _) rfl

theorem qCtrlWrite_done (c q : Nat) : (qCtrlWrite c q v hw).2 = .done :=
  ite_done (ite_done rfl rfl) (ite_done rfl (ite_done rfl (ite_done (ite_done rfl rfl) rfl)))

theorem qOffWrite_done (c q addr mask : Nat) : (qOffWrite c q addr mask v hw).2 = .done := ite_done rfl rfl

theorem qCqWrite_done (c q : Nat) : (qCqWrite c q v hw).2 = .done := ite_done rfl rfl

theorem qRestartWrite_done (c q : Nat) : (qRestartWrite c q v hw).2 = .done :=
  ite_done rfl (ite_done (ite_done rfl rfl) rfl)

theorem fltBaseWrite_done (c : Nat) : (fltBaseWrite c v hw).2 = .done := ite_done rfl rfl

theorem fltResumeWrite_done (c : Nat) : (fltResumeWrite c v hw).2 = .done := by
  refine ite_done rfl ?_
  split
  · rfl
  · exact ite_done rfl rfl

theorem creditWrite_done (c n : Nat) : (creditWrite c n v hw).2 = .done :=
  ite_done rfl (ite_done rfl (ite_done rfl rfl))

theorem injectWrite_done (d : Nat) : (injectWrite d v hw).2 = .done := ite_done rfl rfl

theorem ctxBaseWrite_done (d : Nat) : (ctxBaseWrite d v hw).2 = .done := ite_done rfl rfl

theorem doneAddrWrite_done (d : Nat) : (doneAddrWrite d v hw).2 = .done := ite_done rfl rfl

theorem invReqWrite_done (d : Nat) : (invReqWrite d v hw).2 = .done := ite_done rfl rfl

theorem mrgCmdWrite_done (k : Nat) : (mrgCmdWrite k v hw).2 = .done := ite_done rfl rfl

theorem tgCtrlWrite_done (k : Nat) : (tgCtrlWrite k v hw).2 = .done := ite_done rfl (ite_done rfl rfl)

theorem slcCtrlWrite_done : (slcCtrlWrite v hw).2 = .done := ite_done rfl rfl

theorem cgPwrWrite_done (g : Nat) : (cgPwrWrite g v hw).2 = .done :=
  ite_done rfl (ite_done rfl (ite_done rfl (ite_done rfl rfl)))

theorem cgPartWrite_done (g : Nat) : (cgPartWrite g v hw).2 = .done := ite_done rfl (ite_done rfl rfl)

theorem optCtrlWrite_done (p : Nat) : (optCtrlWrite p v hw).2 = .done := ite_done rfl (ite_done rfl rfl)

theorem optCmdWrite_done (p : Nat) : (optCmdWrite p v hw).2 = .done := ite_done rfl rfl

theorem iotTgtWrite_done (a w : Nat) : (iotTgtWrite a w v hw).2 = .done := ite_done rfl rfl

theorem iotBaseWrite_done (a addr w : Nat) : (iotBaseWrite a addr w v hw).2 = .done := ite_done rfl rfl

theorem plSusWrite_done : (plSusWrite v hw).2 = .done := ite_done rfl (ite_done rfl rfl)

theorem partCapWrite_done (n : Nat) : (partCapWrite n v hw).2 = .done := ite_done rfl rfl

/-- A write to a core's register answers `done`, sub-block by sub-block. -/
theorem coreWrite_done (c s off : Nat) (r : RegRow) : (coreWrite c s off r v hw).2 = .done := by
  unfold coreWrite
  dsimp only
  split
  case h_1 => exact ite_done (coreCtrlWrite_done c) rfl
  case h_2 =>
    refine ite_done rfl (ite_done ?_ rfl)
    split
    · exact qCtrlWrite_done _ _
    · exact qOffWrite_done _ _ _ _
    · exact qOffWrite_done _ _ _ _
    · exact qCqWrite_done _ _
    · exact qRestartWrite_done _ _
    · rfl
  case h_3 => exact ite_done (fltBaseWrite_done c) (ite_done (fltResumeWrite_done c) rfl)
  case h_4 => exact ite_done rfl (ite_done (creditWrite_done _ _) rfl)
  case h_5 => rfl

/-- A write to a register of a die window answers `done`, block by block. -/
theorem dieWrite_done (d b off : Nat) (r : RegRow) : (dieWrite d b off r v hw).2 = .done := by
  refine ite_done (ite_done (injectWrite_done d) rfl) ?ert
  refine ite_done (ite_done rfl rfl) ?wlk
  refine ite_done (ite_done (ctxBaseWrite_done d) (ite_done (doneAddrWrite_done d) (ite_done (invReqWrite_done d) rfl))) ?ctl
  refine ite_done (ite_done (mrgCmdWrite_done _) (ite_done (tgCtrlWrite_done _) rfl)) ?slc
  refine ite_done (ite_done slcCtrlWrite_done rfl) ?port
  refine ite_done (ite_done (ite_done (cgPwrWrite_done _) (ite_done (cgPartWrite_done _) rfl))
    (ite_done (optCtrlWrite_done _) (ite_done (optCmdWrite_done _) rfl))) ?cxu
  refine ite_done (ite_done rfl rfl) ?cxd
  refine ite_done (ite_done rfl rfl) ?iot
  refine ite_done (ite_done rfl (ite_done rfl (ite_done (iotTgtWrite_done _ _) (iotBaseWrite_done _ _ _)))) ?pcp
  exact ite_done (ite_done rfl (ite_done rfl (ite_done rfl (ite_done plSusWrite_done (ite_done (partCapWrite_done _) rfl)))))
    rfl

/-- A write to PCP_RESET always answers `done`. -/
theorem pcpResetWrite_done (sec : Sec) : (pcpResetWrite v hw sec).2.2 = .done := by
  unfold pcpResetWrite
  split_ifs <;> rfl

end

/-! #### W1C registers clear and have no other effect (R14) -/

/-- What finding a row says of it. -/
theorem findRow_eq_some {rs : List RegRow} {o n : Nat} {row : RegRow} (h : findRow rs o = some (row, n)) :
    row ∈ rs ∧ row.off ≤ o ∧ (o - row.off) % row.stride = 0 ∧ (o - row.off) / row.stride < row.n := by
  induction rs with
  | nil => cases h
  | cons r rs ih =>
    unfold findRow at h
    split at h
    next hr =>
      cases h
      exact ⟨List.mem_cons_self, hr⟩
    next =>
      obtain ⟨hmem, hpos⟩ := ih h
      exact ⟨List.mem_cons_of_mem _ hmem, hpos⟩

/-- The W1C registers of a list occur once each and stand at these offsets. -/
def W1cAt (rs : List RegRow) (offs : List Nat) : Prop :=
  ∀ r ∈ rs, r.acc = .w1c → r.n = 1 ∧ r.stride = 8 ∧ r.off ∈ offs

theorem W1cAt.mem {rs : List RegRow} {offs : List Nat} (hrs : W1cAt rs offs) {o n : Nat} {row : RegRow}
    (h : findRow rs o = some (row, n)) (hacc : row.acc = .w1c) : o ∈ offs := by
  obtain ⟨hmem, hle, hmod, hdiv⟩ := findRow_eq_some h
  obtain ⟨hn, hstride, hoff⟩ := hrs row hmem hacc
  rw [hstride] at hmod hdiv
  have ho : o = row.off := by omega
  rwa [ho]

theorem w1cAt_rowsCore : W1cAt rowsCore [0x20] := by unfold W1cAt; decide
theorem w1cAt_rowsQfe : W1cAt rowsQfe [] := by unfold W1cAt; decide
theorem w1cAt_rowsAtu : W1cAt rowsAtu [] := by unfold W1cAt; decide
theorem w1cAt_rowsSpc : W1cAt rowsSpc [0x58] := by unfold W1cAt; decide
theorem w1cAt_rowsRas : W1cAt rowsRas [] := by unfold W1cAt; decide
theorem w1cAt_rowsErt : W1cAt rowsErt [] := by unfold W1cAt; decide
theorem w1cAt_rowsWlk : W1cAt rowsWlk [0x68] := by unfold W1cAt; decide
theorem w1cAt_rowsHbm : W1cAt rowsHbm [0x30] := by unfold W1cAt; decide
theorem w1cAt_rowsLpd : W1cAt rowsLpd [0x30, 0x240] := by unfold W1cAt; decide
theorem w1cAt_rowsSlc : W1cAt rowsSlc [0x40, 0x68] := by unfold W1cAt; decide
theorem w1cAt_rowsCg : W1cAt rowsCg [] := by unfold W1cAt; decide
theorem w1cAt_rowsOpt : W1cAt rowsOpt [0x78] := by unfold W1cAt; decide
theorem w1cAt_rowsCxu : W1cAt rowsCxu [] := by unfold W1cAt; decide
theorem w1cAt_rowsCxd : W1cAt rowsCxd [] := by unfold W1cAt; decide
theorem w1cAt_rowsIot : W1cAt rowsIot [0x18] := by unfold W1cAt; decide
theorem w1cAt_rowsPcp : W1cAt rowsPcp [0xD038, 0xD078] := by unfold W1cAt; decide

section
variable {hw : Hw} {v : Word} {c s d b off n : Nat} {r : RegRow}

theorem rowsOf_ctl (hb : 0x10 ≤ b ∧ b ≤ 0x17) : rowsOf (.die d b) = if d < 4 then rowsHbm else rowsLpd := by
  have hne : ¬ b = 1 ∧ ¬ b = 2 ∧ ¬ b = 3 ∧ ¬ b = 4 ∧ ¬ b = 5 ∧ ¬ b = 6 := by omega
  simp only [rowsOf, hne, if_false, if_pos hb]

theorem rowsOf_port (hb : 0x30 ≤ b ∧ b ≤ 0x3F) : rowsOf (.die d b) = if d < 4 then rowsCg else rowsOpt := by
  have hne : ¬ b = 1 ∧ ¬ b = 2 ∧ ¬ b = 3 ∧ ¬ b = 4 ∧ ¬ b = 5 ∧ ¬ b = 6 ∧ ¬ (0x10 ≤ b ∧ b ≤ 0x17) ∧ ¬ b = 0x20 := by omega
  simp only [rowsOf, hne, if_false, if_pos hb]

/-- A write to a W1C register of a core has no effect of its own. -/
theorem coreWrite_w1c (h : findRow (rowsOf (.core c s)) off = some (r, n)) (hacc : r.acc = .w1c) :
    coreWrite c s off r v hw = did (plainWrite r (blkAddr (.core c s) off) v hw) := by
  unfold coreWrite
  dsimp only
  split
  case h_1 =>
    obtain rfl := List.mem_singleton.mp (w1cAt_rowsCore.mem h hacc)
    rfl
  case h_2 => exact absurd (w1cAt_rowsQfe.mem h hacc) List.not_mem_nil
  case h_3 => exact absurd (w1cAt_rowsAtu.mem h hacc) List.not_mem_nil
  case h_4 =>
    obtain rfl := List.mem_singleton.mp (w1cAt_rowsSpc.mem h hacc)
    rfl
  case h_5 => rfl

/-- A write to a W1C register of a die window has no effect of its own: no W1C register stands where `dieWrite` starts
something. -/
theorem dieWrite_w1c (h : findRow (rowsOf (.die d b)) off = some (r, n)) (hacc : r.acc = .w1c) :
    dieWrite d b off r v hw = did (plainWrite r (blkAddr (.die d b) off) v hw) := by
  unfold dieWrite
  dsimp only
  refine ite_eq_iff'.mpr ⟨fun hb => ?ras, fun _ => ite_eq_iff'.mpr ⟨fun hb => ?ert, fun _ => ite_eq_iff'.mpr ⟨fun hb => ?wlk,
    fun _ => ite_eq_iff'.mpr ⟨fun hb => ?ctl, fun _ => ite_eq_iff'.mpr ⟨fun hb => ?slc, fun _ => ite_eq_iff'.mpr
    ⟨fun hb => ?port, fun _ => ite_eq_iff'.mpr ⟨fun hb => ?cxu, fun _ => ite_eq_iff'.mpr ⟨fun hb => ?cxd,
    fun _ => ite_eq_iff'.mpr ⟨fun hb => ?iot, fun _ => ite_eq_iff'.mpr ⟨fun hb => ?pcp, fun _ => rfl⟩⟩⟩⟩⟩⟩⟩⟩⟩⟩
  case ras =>
    subst hb
    exact absurd (w1cAt_rowsRas.mem h hacc) List.not_mem_nil
  case ert =>
    subst hb
    exact absurd (w1cAt_rowsErt.mem h hacc) List.not_mem_nil
  case wlk =>
    subst hb
    obtain rfl := List.mem_singleton.mp (w1cAt_rowsWlk.mem h hacc)
    rfl
  case ctl =>
    have hoff : off = 0x30 ∨ off = 0x240 := by
      rw [rowsOf_ctl hb] at h
      split at h
      · exact .inl (List.mem_singleton.mp (w1cAt_rowsHbm.mem h hacc))
      · exact List.mem_pair.mp (w1cAt_rowsLpd.mem h hacc)
    rcases hoff with rfl | rfl <;> rfl
  case slc =>
    subst hb
    rcases List.mem_pair.mp (w1cAt_rowsSlc.mem h hacc) with rfl | rfl <;> rfl
  case port =>
    rw [rowsOf_port hb] at h
    split at h
    · exact absurd (w1cAt_rowsCg.mem h hacc) List.not_mem_nil
    · obtain rfl := List.mem_singleton.mp (w1cAt_rowsOpt.mem h hacc)
      rw [if_neg ‹_›]
      rfl
  case cxu =>
    subst hb
    exact absurd (w1cAt_rowsCxu.mem h hacc) List.not_mem_nil
  case cxd =>
    subst hb
    exact absurd (w1cAt_rowsCxd.mem h hacc) List.not_mem_nil
  case iot =>
    subst hb
    obtain rfl := List.mem_singleton.mp (w1cAt_rowsIot.mem h hacc)
    rfl
  case pcp =>
    subst hb
    rcases List.mem_pair.mp (w1cAt_rowsPcp.mem h hacc) with rfl | rfl <;> rfl

/-- An offset that a block answers falls on one of its rows. -/
theorem findRow_of_rowAt {b : Blk} (h : rowAt hw b off = some (r, n)) : findRow (rowsOf b) off = some (r, n) := by
  unfold rowAt at h
  split at h
  · split at h
    · exact h
    · cases h
  · split_ifs at h
    exact h

end

/-! #### The time a hart reads (R48) -/

/-- A read of a counter of time gives what the counter then holds. -/
theorem cycRead_snd (hw : Hw) (b : Blk) (off : Nat) : (cycRead hw b off).2 = rget (cycRead hw b off).1 (blkAddr b off) := by
  unfold cycRead
  dsimp only
  split
  · rfl
  · exact (rget_rset_self _ _ _).symm

theorem csrRead_time (hw : Hw) (h : HartId) :
    (csrRead hw h 0xC01).2 = rget (csrRead hw h 0xC01).1 (Reg.clkRefCnt (hartDie h)) := by
  have haddr : blkAddr (.die (hartDie h) 1) 0x10 = Reg.clkRefCnt (hartDie h) := by simp [blkAddr, Reg.clkRefCnt]
  unfold csrRead
  rw [if_pos rfl, ← haddr]
  exact cycRead_snd hw _ _

/-! #### Register accesses as commands -/

section
variable {s : State} {by_ : Agent} {addr : Nat} {b : Blk} {off size n : Nat} {row : RegRow} {v : Word}

theorem exec_registerWrite (by_ : Agent) (addr size : Nat) (v : Word) (s : State) :
    exec (.registerWrite by_ addr size v) s = execRegisterWrite by_ addr size v s := rfl

theorem exec_popLowHalfRead (by_ : Agent) (addr : Nat) (s : State) :
    exec (.popLowHalfRead by_ addr) s = execPopLowHalfRead by_ addr s := rfl

/-- A write in the register window has the effect of the bus's write. -/
theorem registerWrite_effect (hon : s.on) (hwin : inRegWindow addr = true) (size : Nat) (v : Word) :
    EffectSec (.registerWrite by_ addr size v) s (busWrite by_ (.agent by_) addr size v s.now s.sec).1
      (busWrite by_ (.agent by_) addr size v s.now s.sec).2.1 (busWrite by_ (.agent by_) addr size v s.now s.sec).2.2 := by
  refine effect_onAll (exec_registerWrite by_ addr size v s) hon ?_
  rw [if_pos hwin]

/-- A write that arrives at a register block has the effect of the block's write. -/
theorem registerWrite_of_regWrite (hon : s.on) (ha : arrives s.now by_ = true) (hb : blkOf s.now addr = some (b, off))
    {hw : Hw} {sec : Sec} {ans : Answer} (h : regWrite by_ addr b off size v s.now s.sec = (hw, sec, ans)) :
    EffectSec (.registerWrite by_ addr size v) s hw sec ans := by
  have heff := registerWrite_effect (by_ := by_) hon (inRegWindow_of_blkOf hb) size v
  rwa [busWrite_eq_regWrite ha hb, h] at heff

/-- A 32-bit read of the low half of a POP register removes nothing and gives the low half of what this initiator read
last. -/
theorem popLowHalfRead_effect (hon : s.on) (ha : arrives s.now by_ = true) (hb : blkOf s.now addr = some (b, off))
    (hrow : rowAt s.now b off = some (row, n)) (hacc : row.acc = .pop) (hoff : off % 8 = 0) :
    Effect (.popLowHalfRead by_ addr) s s.now (.value (word (bits (lastPopped s.now by_ (blkAddr b off)).1 31 0))) := by
  refine effect_onAll (exec_popLowHalfRead by_ addr s) hon ?_
  have hpop : popAt by_ b off 4 s.now = (s.now, .value (word (bits (lastPopped s.now by_ (blkAddr b off)).1 31 0))) := by
    unfold popAt
    simp [hoff]
  simp [hb, hrow, hacc, hoff, mayAccess_of_arrives ha, regHeld_of_arrives ha hb, hpop]

end

/-! #### Every register of the window (O38) -/

section
variable {s : State} {by_ : Agent} {addr : Nat} {b : Blk} {off size n : Nat} {row : RegRow} {v : Word}

theorem registerWrite_ignored (hon : s.on) (ha : arrives s.now by_ = true) (hb : blkOf s.now addr = some (b, off))
    (hrow : rowAt s.now b (off - off % 8) = some (row, n)) (hok : regAccessOk off size = true)
    (hacc : row.acc = .ro ∨ row.acc = .pop) : Effect (.registerWrite by_ addr size v) s s.now .done :=
  registerWrite_of_regWrite hon ha hb (regWrite_ignored hrow hok hacc by_ addr _)

/-- A write that a core's register takes has the effect `coreWrite` gives. -/
theorem registerWrite_core {c k : Nat} {w : Word} (hon : s.on) (ha : arrives s.now by_ = true)
    (hb : blkOf s.now addr = some (.core c k, off)) (ht : TakesWrite s.now (.core c k) off size v row w) :
    Effect (.registerWrite by_ addr size v) s (coreWrite c k (off - off % 8) row w s.now).1 .done := by
  have h := regWrite_core ht by_ addr s.sec
  rw [coreWrite_done] at h
  exact registerWrite_of_regWrite hon ha hb h

/-- A write that a die's register takes, PCP_RESET aside, has the effect `dieWrite` gives. -/
theorem registerWrite_die {d k : Nat} {w : Word} (hon : s.on) (ha : arrives s.now by_ = true)
    (hb : blkOf s.now addr = some (.die d k, off)) (ht : TakesWrite s.now (.die d k) off size v row w)
    (hreset : ¬ (k = 0x50 ∧ off - off % 8 = 0xE028)) :
    Effect (.registerWrite by_ addr size v) s (dieWrite d k (off - off % 8) row w s.now).1 .done := by
  have h := regWrite_die ht by_ addr s.sec
  rw [if_neg hreset, dieWrite_done] at h
  exact registerWrite_of_regWrite hon ha hb h

/-- A write that PCP_RESET takes has the effect `pcpResetWrite` gives. -/
theorem registerWrite_pcpReset {d : Nat} {w : Word} (hon : s.on) (ha : arrives s.now by_ = true)
    (hb : blkOf s.now addr = some (.die d 0x50, off)) (ht : TakesWrite s.now (.die d 0x50) off size v row w)
    (hreset : off - off % 8 = 0xE028) :
    EffectSec (.registerWrite by_ addr size v) s (pcpResetWrite w s.now s.sec).1 (pcpResetWrite w s.now s.sec).2.1 .done := by
  have h := regWrite_die ht by_ addr s.sec
  rw [if_pos ⟨rfl, hreset⟩] at h
  rw [← pcpResetWrite_done (hw := s.now) (v := w) s.sec]
  exact registerWrite_of_regWrite hon ha hb h

/-- A whole write to a W1C register clears the bits it names. -/
theorem registerWrite_w1c (hon : s.on) (ha : arrives s.now by_ = true) (hb : blkOf s.now addr = some (b, off))
    (hrow : rowAt s.now b (off - off % 8) = some (row, n)) (hoff : off % 8 = 0) (hacc : row.acc = .w1c) :
    Effect (.registerWrite by_ addr 8 v) s
      (rset s.now (blkAddr b off) (rget s.now (blkAddr b off) &&& ~~~ (v &&& word row.mask))) .done := by
  have ht : TakesWrite s.now b off 8 v row v := .whole hrow hoff (by simp [hacc]) (by simp [hacc])
  have hplain : ∀ a, plainWrite row a v s.now = rset s.now a (rget s.now a &&& ~~~ (v &&& word row.mask)) := by
    simp [plainWrite, hacc]
  have hfind := findRow_of_rowAt hrow
  have ho : off - off % 8 = off := by omega
  cases b with
  | core c k =>
    have h := registerWrite_core hon ha hb ht
    rwa [coreWrite_w1c hfind hacc, ho, hplain] at h
  | die d k =>
    have hreset : ¬ (k = 0x50 ∧ off - off % 8 = 0xE028) := by
      rintro ⟨rfl, he⟩
      have hmem := w1cAt_rowsPcp.mem hfind hacc
      rw [he] at hmem
      exact absurd hmem (by decide)
    have h := registerWrite_die hon ha hb ht hreset
    rwa [dieWrite_w1c hfind hacc, ho, hplain] at h

/-- A whole write sets an RW register of a core's engines. -/
theorem registerWrite_engine {c k : Nat} (hon : s.on) (ha : arrives s.now by_ = true)
    (hb : blkOf s.now addr = some (.core c k, off)) (hrow : rowAt s.now (.core c k) (off - off % 8) = some (row, n))
    (hoff : off % 8 = 0) (hk : 4 ≤ k) (hacc : row.acc = .rw) :
    Effect (.registerWrite by_ addr 8 v) s (rset s.now (blkAddr (.core c k) off) (v &&& word row.mask)) .done := by
  have ht : TakesWrite s.now (.core c k) off 8 v row v := .whole hrow hoff (by simp [hacc]) (by simp [hacc])
  have h := registerWrite_core hon ha hb ht
  have hplain : coreWrite c k off row v s.now = did (rset s.now (blkAddr (.core c k) off) (v &&& word row.mask)) := by
    obtain ⟨m, rfl⟩ := Nat.exists_eq_add_of_le' hk
    simp [coreWrite, plainWrite, hacc]
  have ho : off - off % 8 = off := by omega
  rwa [ho, hplain] at h

/-- RAS_LOG is the POP register at offset 0x10 of a die's RAS block (R531). -/
theorem blkOf_rasLog (hw : Hw) (d : DieId) : blkOf hw (Reg.rasLog d) = some (.die d 2, 0x10) := by
  have hloc : ∀ d : DieId, locate (Reg.rasLog d) = .reg (.die d 2) 0x10 := by decide
  exact blkOf_eq_some_iff.mpr (.inl (hloc d))

theorem rowAt_rasLog (hw : Hw) (d : DieId) :
    rowAt hw (.die d 2) 0x10 = some (regK "RAS_LOG" 0x10 1 8 .pop 0 0, 0) := rfl

theorem blkAddr_rasLog (d : Nat) : blkAddr (.die d 2) 0x10 = Reg.rasLog d := rfl

end

/-- Settles O38: the bus brings a write that arrives to its block, each kind of register has one lemma, and every write
answers `done`. -/
theorem registerAccessesComplete : Obligations.RegisterAccessesComplete := by
  intro by_ addr v s hon
  refine ⟨fun hwin => registerWrite_effect hon hwin 8 v, csrRead_time _, ?_, ?_⟩
  · intro b off row n ha hb hrow
    refine ⟨fun size hok => ⟨registerWrite_ignored hon ha hb hrow hok, fun hro hpop => ⟨?_, ?_⟩⟩, fun hoff => ⟨?_, ?_, ?_⟩⟩
    · intro h hhalf
      exact registerWrite_of_regWrite hon ha hb (regWrite_half hrow hok hro hpop rfl hhalf by_ addr _)
    · intro hhalf
      have ht := TakesWrite.mk ⟨n, hrow⟩ hok hro hpop rfl hhalf
      refine ⟨?_, ?_, ?_⟩
      · rintro c k rfl
        exact registerWrite_core hon ha hb ht
      · rintro d k rfl hreset
        exact registerWrite_die hon ha hb ht hreset
      · rintro d rfl hreset
        exact registerWrite_pcpReset hon ha hb ht hreset
    · intro hacc
      rw [hoff] at hrow
      exact popLowHalfRead_effect hon ha hb hrow hacc hoff
    · exact registerWrite_w1c hon ha hb hrow hoff
    · rintro c k rfl hk hacc
      exact registerWrite_engine hon ha hb hrow hoff hk hacc
  · intro ha d
    have hb := blkOf_rasLog s.now d
    have hrow := rowAt_rasLog s.now d
    refine ⟨?_, registerWrite_ignored hon ha hb hrow rfl (.inr rfl)⟩
    rw [← blkAddr_rasLog]
    exact popLowHalfRead_effect hon ha hb hrow rfl rfl

/-! #### The numbering of the host cores (R20) -/

/-- Settles O52: a number below 72 by its quotient and remainder by 12, its half by 36. -/
theorem hartNumbering : Obligations.HartNumbering := by
  intro h
  have hlt := h.isLt
  unfold hartCl hartIdx hartDie
  refine ⟨?_, ?_, ?_, ?_, ?_⟩ <;> omega

end Sys2Proof.Machine
end

section
/-! PROOF. Errors and liveness (R30, R32, R37, R504, R517–R526, R561): a row under a condition on the state, a register
write that arrives, the heartbeat of a PCP that works; then each row of generators, heartbeats, the scrubber, the windows
of corrected errors and injections. -/

namespace Sys2Proof.Machine

/-! #### Rows under a condition -/

section
variable {i : Instr} {s : State}

theorem guardHw_of_true {c : Hw → Bool} {hw : Hw} (f : Hw → Hw × Answer) (h : c hw = true) : guardHw c f hw = f hw :=
  if_pos h

/-- Where its condition holds, a guarded row has the effect its function gives. -/
theorem effect_guardHw {c : Hw → Bool} {f : Hw → Hw} (hi : exec i s = onHw s (guardHw c (fun hw => did (f hw))))
    (hon : s.on) (hc : c s.now = true) : Effect i s (f s.now) .done :=
  effect_onHw hi hon (guardHw_of_true _ hc)

/-- A row that looks at the security state too, and changes the hardware alone, has its effect where its condition holds. -/
theorem effect_onAll_if {P : Hw → Sec → Prop} [∀ hw sec, Decidable (P hw sec)] {f : Hw → Hw}
    (hi : exec i s = onAll s (fun hw sec => if P hw sec then (f hw, sec, .done) else (hw, sec, .notEnabled)))
    (hon : s.on) (hP : P s.now s.sec) : Effect i s (f s.now) .done :=
  effect_onAll hi hon (if_pos hP)

end

/-! #### Writes to a register of a die (R30, R60) -/

/-- A write that arrives at a register block, made as a row of its own, is that register's write. -/
theorem regWriteBy_of_arrives {hw : Hw} {by_ : Agent} {addr off : Nat} {b : Blk} (ha : arrives hw by_ = true)
    (hb : blkOf hw addr = some (b, off)) (f : Hw → Hw × Answer) : regWriteBy by_ (blkDie b) addr f hw = f hw := by
  simp [regWriteBy, mayAccess_of_arrives ha, regHeld_of_arrives ha hb]

/-- RAS_INJECT is the register at offset 0x58 of a die's RAS block (R561). -/
theorem blkOf_rasInject (hw : Hw) (d : DieId) : blkOf hw (Reg.rasInject d) = some (.die d 2, 0x58) := by
  have hloc : ∀ d : DieId, locate (Reg.rasInject d) = .reg (.die d 2) 0x58 := by decide
  exact blkOf_eq_some_iff.mpr (.inl (hloc d))

/-! #### The heartbeat of a PCP that works (R32, R37, R518) -/

section
variable {hw : Hw} {a : Nat}

/-- A memory free of bit errors leaves the PCP nothing to correct. -/
theorem pcpCheck_of_clean (h : mget (fun _ => 0) hw.pcpFlip a = 0) : pcpCheck hw a = hw := by
  unfold pcpCheck
  simp [h]

theorem pcpRuns_of_clean (h : mget (fun _ => 0) hw.pcpFlip a = 0) (hlock : rbit hw (Reg.clkPllStatus (4 + a)) 17 = true) :
    pcpRuns hw a = true := by
  simp [pcpRuns, h, hlock]

theorem heartbeatOut_of_clean (h : mget (fun _ => 0) hw.pcpFlip a = 0)
    (hlock : rbit hw (Reg.clkPllStatus (4 + a)) 17 = true) :
    heartbeatOut a hw = { hw with sent := hw.sent ++ [.heartbeat a false, .heartbeat a true] } := by
  unfold heartbeatOut
  simp [pcpCheck_of_clean h, pcpRuns_of_clean h hlock]

end

/-! #### Each row (O36)

`(… :)` reads the row's function off the row itself, before the lemma meets the stated effect: met first, that effect
leaves the function undetermined, and comparing it with the row becomes costly. -/

section
variable {s : State} (hon : s.on)
include hon

theorem pllLoss_effect {d : DieId} {gen : Fin 48} (hlock : rbit s.now (Reg.clkPllStatus d) gen = true) :
    Effect (.pllLoss d gen) s (pllLoss d gen s.now) .done :=
  effect_guardHw rfl hon hlock

/-- What the last command sent has gone, so the lines said again are all that is sent. -/
theorem fatalLineRepeat_effect {a : AceloId} (hstop : s.now.stop = true)
    (hfatal : s.now.fatal.any (fun f => halfOfDie f.1 == a.val) = true) :
    Effect (.fatalLineRepeat a) s
      { s.now with sent := (s.now.fatal.filter (fun f => halfOfDie f.1 == a.val)).map (fun f => fatalText f.1 f.2) } .done :=
  (effect_guardHw (i := .fatalLineRepeat a) rfl hon (Bool.and_eq_true_iff.mpr ⟨hstop, hfatal⟩) :)

theorem heartbeatSend_effect {a : AceloId} (hstep : 6 ≤ s.sec.step) (hclean : mget (fun _ => 0) s.now.pcpFlip a = 0)
    (hlock : rbit s.now (Reg.clkPllStatus (4 + a)) 17 = true) :
    Effect (.heartbeatSend a) s { s.now with sent := [.heartbeat a false, .heartbeat a true] } .done := by
  have h : Effect (.heartbeatSend a) s (heartbeatOut a s.now) .done :=
    effect_onAll_if (P := fun _ sec => 6 ≤ sec.step) rfl hon hstep
  rwa [heartbeatOut_of_clean hclean hlock] at h

theorem heartbeatReceive_effect {a : AceloId} {col : Bool} (hstep : 6 ≤ s.sec.step) (hruns : pcpRuns s.now a = true)
    (hopen : columnOpen s.now (5 - a) (4 + a) col = true) :
    Effect (.heartbeatReceive a col) s (heartbeatIn a s.now) .done :=
  effect_onAll_if (P := fun hw sec => 6 ≤ sec.step ∧ pcpRuns hw a = true ∧ columnOpen hw (5 - a) (4 + a) col = true)
    rfl hon ⟨hstep, hruns, hopen⟩

theorem heartbeatTimeout_effect {a : AceloId} (hstep : 6 ≤ s.sec.step) (hruns : pcpRuns s.now a = true)
    (hfirst : rbit s.now (Reg.pcpHbStatus a) 0 = false) :
    Effect (.heartbeatTimeout a) s (heartbeatLost a s.now) .done :=
  effect_onAll_if (P := fun hw sec => 6 ≤ sec.step ∧ pcpRuns hw a = true ∧ rbit hw (Reg.pcpHbStatus a) 0 = false)
    rfl hon ⟨hstep, hruns, hfirst⟩

theorem scrubRead_effect {k : CtlId} (hready : ctlState s.now k = 4) (hself : (getCtl s.now k).selfRef = false)
    (hpolicy : bit s.now.img.errPolicy 2 = false) : Effect (.scrubRead k) s (scrubStep k s.now) .done :=
  effect_guardHw rfl hon (by simp [hready, hself, hpolicy])

theorem ceWindowExpire_effect (d : DieId) : Effect (.ceWindowExpire d) s (ceWindow d s.now) .done :=
  effect_onHw (f := fun hw => did (ceWindow d hw)) rfl hon rfl

theorem ceLogInterval_effect {d : DieId} {unit : BitVec 6} {inst : BitVec 12}
    (hlogged : (getDie s.now d).ceLogged.contains (unit.toNat, inst.toNat) = true) :
    Effect (.ceLogInterval d unit inst) s (setDie s.now d { getDie s.now d with
      ceLogged := (getDie s.now d).ceLogged.filter (fun x => x != (unit.toNat, inst.toNat)) }) .done :=
  (effect_guardHw (i := .ceLogInterval d unit inst) rfl hon hlogged :)

theorem rasInject_effect {by_ : Agent} {d : DieId} (ha : arrives s.now by_ = true) (v : Word) :
    Effect (.rasInject by_ d v) s (injectWrite d v s.now).1 (injectWrite d v s.now).2 :=
  effect_onHw rfl hon (regWriteBy_of_arrives ha (blkOf_rasInject s.now d) (injectWrite d v))

end

/-- Settles O36: each row's condition is among the hypotheses of its clause, and the injection's write arrives. -/
theorem errorsComplete : Obligations.ErrorsComplete := by
  intro by_ a d k gen v s hon
  refine ⟨pllLoss_effect hon, fatalLineRepeat_effect hon, fun hstep => ⟨?sent, fun col => ?received, ?missed⟩, ?scrubbed,
    ceWindowExpire_effect hon d, fun unit inst => ceLogInterval_effect hon, fun ha => rasInject_effect hon ha v⟩
  case sent => exact heartbeatSend_effect hon hstep
  case received => exact heartbeatReceive_effect hon hstep
  case missed => exact heartbeatTimeout_effect hon hstep
  case scrubbed => exact scrubRead_effect hon

end Sys2Proof.Machine
end

section
/-! PROOF. L1 and core groups (R52, R73, R77, R80, R85–R92): that the local map leads a block's address back to the block, a
write to a register of a core or a group that arrives, what CORE_CTRL and CG_PWR_CTRL do with it; then each row. -/

namespace Sys2Proof.Machine

/-! #### The address of a block's register leads back to it (R52, R54, R56) -/

theorem locate_blkAddr_core {c k o : Nat} (hc : c < 512) (hk : k < 10) (ho : o < 0x1000) :
    locate (blkAddr (.core c k) o) = .reg (.core c k) o := by
  have haddr : blkAddr (.core c k) o = 0x040000000000 + c * 0x1000000 + 0xC00000 + (0x1000 * k + o) := rfl
  generalize blkAddr (.core c k) o = a at haddr
  have hcore : (a - 0x040000000000) / 0x1000000 = c := by omega
  have hregs : a % 0x1000000 - 0xC00000 = 0x1000 * k + o := by omega
  have hsub : (0x1000 * k + o) / 0x1000 = k := by omega
  have hreg : a % 0x1000000 % 0x1000 = o := by omega
  unfold locate
  rw [if_neg (by omega), if_neg (by omega), if_pos (by omega)]
  dsimp only
  rw [if_neg (by omega), if_neg (by omega), if_pos (by omega), hcore, hregs, hsub, hreg]

/-- Of the first 256 blocks of a die window; the clusters of an Acelo stand above them. -/
theorem locate_blkAddr_die {d b o : Nat} (hd : d < 6) (hb : b < 0x100) (hhas : dieHasBlock d b = true) (ho : o < 0x10000) :
    locate (blkAddr (.die d b) o) = .reg (.die d b) o := by
  have haddr : blkAddr (.die d b) o = 0x060000000000 + d * 0x40000000 + (0x10000 * b + o) := rfl
  generalize blkAddr (.die d b) o = a at haddr
  have hdie : (a - 0x060000000000) / 0x40000000 = d := by omega
  have hblk : a % 0x40000000 / 0x10000 = b := by omega
  have hreg : a % 0x40000000 % 0x10000 = o := by omega
  unfold locate
  rw [if_neg (by omega), if_neg (by omega), if_neg (by omega), if_pos (by omega)]
  dsimp only
  rw [if_neg (by omega), hdie, hblk, hreg, if_pos ⟨hb, hhas⟩]

/-- CORE_CTRL is the register at offset 0x10 of a core's first sub-block (R92). -/
theorem blkOf_coreCtrl (hw : Hw) (c : CoreId) : blkOf hw (Reg.coreCtrl c) = some (.core c 0, 0x10) := by
  have haddr : Reg.coreCtrl c = blkAddr (.core c 0) 0x10 := rfl
  rw [haddr]
  exact blkOf_eq_some_iff.mpr (.inl (locate_blkAddr_core c.isLt (by decide) (by decide)))

/-- CG_PWR_CTRL is the register at offset 8 of its group's block (R85). -/
theorem blkOf_cgPwrCtrl (hw : Hw) (g : GroupId) :
    blkOf hw (Reg.cgPwrCtrl g) = some (.die (g / 16) (0x30 + g % 16), 8) := by
  have hd : g.val / 16 < 4 := by omega
  have haddr : Reg.cgPwrCtrl g = blkAddr (.die (g / 16) (0x30 + g % 16)) 8 := by
    unfold Reg.cgPwrCtrl blkAddr
    congr 1
    omega
  have hhas : dieHasBlock (g / 16) (0x30 + g % 16) = true := by
    unfold dieHasBlock
    rw [if_neg (by omega), if_pos hd]
    exact decide_eq_true (by omega)
  rw [haddr]
  exact blkOf_eq_some_iff.mpr (.inl (locate_blkAddr_die (by omega) (by omega) hhas (by decide)))

/-! #### CORE_CTRL and CG_PWR_CTRL (R85, R86, R92) -/

section
variable {hw : Hw} {by_ : Agent} {v : Word}

/-- A write that arrives at a present core's CORE_CTRL is the register's. -/
theorem coreRegWrite_coreCtrl {c : CoreId} (ha : arrives hw by_ = true) (hp : corePresent hw c = true)
    (f : Hw → Hw × Answer) : coreRegWrite by_ c (Reg.coreCtrl c) f hw = f hw := by
  unfold coreRegWrite
  rw [if_pos hp]
  exact regWriteBy_of_arrives ha (blkOf_coreCtrl hw c) f

/-- A write that arrives at a group's CG_PWR_CTRL is the register's. -/
theorem cgRegWrite_cgPwrCtrl {g : GroupId} (ha : arrives hw by_ = true) (f : Hw → Hw × Answer) :
    cgRegWrite by_ g (Reg.cgPwrCtrl g) f hw = f hw :=
  regWriteBy_of_arrives ha (blkOf_cgPwrCtrl hw g) f

/-- HALT = 0: the core runs again, its cause cleared unless its half is fenced. -/
theorem coreCtrlWrite_zero (c : Nat) : coreCtrlWrite c 0 hw =
    did (if coreFenced hw c then rsetN hw (Reg.coreCtrl c) 0
      else rset (rsetN hw (Reg.coreCtrl c) 0) (Reg.coreHaltCause c) 0) := rfl

/-- REQ_OFF = 1 to a group that is ON: it is GATING, its held arrays ramp down. -/
theorem cgPwrWrite_off_of_on {g : Nat} (hp : groupPresent hw g = true) (hv : bit v 0 = true) (hst : groupState hw g = 0) :
    cgPwrWrite g v hw = did (holdOff (setGroup (rsetN hw (Reg.cgPwrCtrl g) (bits v 1 0)) g 1) g) := by
  simp [cgPwrWrite, hp, hv, hst]

/-- REQ_OFF = 0 to a group that is GATING: it is ON again. -/
theorem cgPwrWrite_on_of_gating {g : Nat} (hp : groupPresent hw g = true) (hv : bit v 0 = false)
    (hst : groupState hw g = 1) :
    cgPwrWrite g v hw = did (setGroup (rsetN hw (Reg.cgPwrCtrl g) (bits v 1 0)) g 0) := by
  simp [cgPwrWrite, hp, hv, hst]

/-- A refill whose next sector its home serves arrives. -/
theorem refillRow_done {c addr : Nat} {r : Refill} {x : Hw × List Byte × Bool}
    (hr : (getCore hw c).refills.find? (fun r => r.sectors.head? == some (addr / 64)) = some r)
    (hx : pocRead hw (engAgent c) (addr / 64) false = some x) : (refillRow c addr hw).2 = .done := by
  unfold refillRow
  simp only [hr, hx]
  rfl

end

/-! #### Each row of L1 (O14) -/

section
variable {s : State} {c : CoreId}

theorem exec_prefetchFill (line : Nat) : exec (.prefetchFill c line) s = execPrefetchFill c line s := rfl

theorem exec_mbIdleDrain (gran : Nat) : exec (.mbIdleDrain c gran) s = execMbIdleDrain c gran s := rfl

variable (hon : s.on)
include hon

theorem l1Refill_effect {addr : Nat} {r : Refill} {x : Hw × List Byte × Bool}
    (hr : (getCore s.now c).refills.find? (fun r => r.sectors.head? == some (addr / 64)) = some r)
    (hx : pocRead s.now (engAgent c) (addr / 64) false = some x) :
    Effect (.l1Refill c addr) s (refillRow c addr s.now).1 .done :=
  effect_onHw (f := refillRow c addr) rfl hon (Prod.ext rfl (refillRow_done hr hx))

theorem prefetchFill_effect {line : Nat} {h : Hw} (hpf : (getCore s.now c).pf.contains line = true)
    (harr : pfArrive s.now c line = some h) : Effect (.prefetchFill c line) s h .done := by
  refine effect_onHw (exec_prefetchFill line) hon ?_
  rw [if_pos hpf, harr]
  rfl

/-- A context that bad parity killed on the way goes with it (R83). -/
theorem mbIdleDrain_effect {gran : Nat} {e : MbEnt} {h : Hw}
    (he : (getCore s.now c).mb.find? (fun e => e.gran == gran) = some e) (hd : mbDrain s.now c e = some h) :
    Effect (.mbIdleDrain c gran) s (killPass c (h, .done)).1 .done := by
  refine effect_onHw (exec_mbIdleDrain gran) hon ?_
  simp only [he, hd]
  exact Prod.ext rfl (killPass_answer c _)

end

/-- Settles O14: a refill, a prefetch and a drain that the home serves each answer `done`. -/
theorem l1Completes : Obligations.L1Completes := by
  intro c s hon
  refine ⟨fun addr r x => ?refill, fun line h => ?prefetch, fun gran e h => ?drain⟩
  case refill => exact l1Refill_effect hon
  case prefetch => exact prefetchFill_effect hon
  case drain => exact mbIdleDrain_effect hon

/-! #### Each row of cores and groups (O15) -/

section
variable {s : State} {by_ : Agent} (hon : s.on)
include hon

section
variable {c : CoreId} (ha : arrives s.now by_ = true) (hp : corePresent s.now c = true)
include ha hp

theorem coreHalt_effect : Effect (.coreHalt by_ c) s (coreCtrlWrite c 1 s.now).1 .done := by
  refine effect_onHw rfl hon ?_
  rw [coreRegWrite_coreCtrl ha hp]
  exact Prod.ext rfl (coreCtrlWrite_done c)

theorem coreResume_effect : Effect (.coreResume by_ c) s
    (if coreFenced s.now c then rsetN s.now (Reg.coreCtrl c) 0
      else rset (rsetN s.now (Reg.coreCtrl c) 0) (Reg.coreHaltCause c) 0) .done := by
  refine effect_onHw rfl hon ?_
  rw [coreRegWrite_coreCtrl ha hp, coreCtrlWrite_zero]
  rfl

end

section
variable {g : GroupId} (hp : groupPresent s.now g = true)
include hp

theorem reqOffSet_effect {v : Word} (ha : arrives s.now by_ = true) (hv : bit v 0 = true)
    (hst : groupState s.now g = 0) :
    Effect (.reqOffSet by_ g v) s (holdOff (setGroup (rsetN s.now (Reg.cgPwrCtrl g) (bits v 1 0)) g 1) g) .done := by
  refine effect_onHw rfl hon ?_
  rw [guardHw_of_true _ hv, cgRegWrite_cgPwrCtrl ha, cgPwrWrite_off_of_on hp hv hst]
  rfl

theorem reqOffClear_effect {v : Word} (ha : arrives s.now by_ = true) (hv : bit v 0 = false)
    (hst : groupState s.now g = 1) :
    Effect (.reqOffClear by_ g v) s (setGroup (rsetN s.now (Reg.cgPwrCtrl g) (bits v 1 0)) g 0) .done := by
  refine effect_onHw rfl hon ?_
  rw [guardHw_of_true _ (by simp [hv]), cgRegWrite_cgPwrCtrl ha, cgPwrWrite_on_of_gating hp hv hst]
  rfl

theorem cgGatingComplete_effect {h : Hw} (hst : groupState s.now g = 1)
    (hq : (List.range 8).all (fun i => coreQuiet s.now (8 * g + i)) = true)
    (hd : mbDrainCores ((List.range 8).map (8 * g.val + ·)) s.now = some h) :
    Effect (.cgGatingComplete g) s (foldN 8
      (setGroup ((List.range 8).foldl (fun r i => killPass (8 * g + i) r) (h, Answer.done)).1 g 2)
      (fun h i => coreOff h (8 * g + i))) .done := by
  refine effect_onHw rfl hon ?_
  rw [guardHw_of_true _ (by rw [hp, hst, hq]; rfl), hd]
  rfl

end

theorem cgWakeComplete_effect {g : GroupId} (hst : groupState s.now g = 3)
    (hramp : s.now.ramps.contains (512 + g.val) = false) :
    Effect (.cgWakeComplete g) s (groupWake g s.now) .done :=
  effect_guardHw (f := groupWake g) rfl hon (by rw [hst, hramp]; rfl)

end

/-- Settles O15: the two writes of CORE_CTRL and of CG_PWR_CTRL arrive, and gating and the wake find their conditions. -/
theorem groupsComplete : Obligations.GroupsComplete := by
  intro by_ c g v s hon
  refine ⟨fun ha hp => ⟨?halt, ?resume⟩, fun ha hp => ?set, fun ha hp => ?clear, fun h hp => ?gated, ?woken⟩
  case halt => exact coreHalt_effect hon ha hp
  case resume => exact coreResume_effect hon ha hp
  case set => exact reqOffSet_effect hon hp ha
  case clear => exact reqOffClear_effect hon hp ha
  case gated => exact cgGatingComplete_effect hon hp
  case woken => exact cgWakeComplete_effect hon

end Sys2Proof.Machine
end

section
/-! PROOF. The matrix engine (R97, R101–R104, R106, R119): what a stream's entry answers, what a step of each HOLD ramp
leaves; then each row. Loads and streams start as the commands of every engine do (`serves_row`). -/

namespace Sys2Proof.Machine

/-! #### A stream enters (R102–R104) -/

/-- An assigned stream that may enter, of a command the core still holds, enters. -/
theorem enterRow_done {hw : Hw} {c sub : Nat} {y : Stream} (hy : (getSub (getCore hw c).me sub).assigned = some y)
    (halive : coreAlive hw c = true) (hmay : mayEnter hw c sub y = true) (hcmd : (findCmd hw c y.cmd).isSome = true) :
    (enterRow c sub hw).2 = .done := by
  obtain ⟨m, hm⟩ := Option.isSome_iff_exists.mp hcmd
  have hopen : ¬ (!coreAlive hw c || !mayEnter hw c sub y) = true := by simp [halive, hmay]
  unfold enterRow
  dsimp only
  simp only [hy]
  rw [if_neg hopen, hm]
  rfl

/-! #### Each row (O9)

`me` is the array of the core the row is about. The rows of HOLD are named by their equations: met first, the stated
effect leaves a row's function undetermined, and comparing it with the row becomes costly. -/

section
variable {s : State} {c : CoreId} {me : MeSt}

theorem exec_holdIdleTimeout : exec (.holdIdleTimeout c) s = execHoldIdleTimeout c s := rfl

theorem exec_holdRampDownStep : exec (.holdRampDownStep c) s = execHoldRampDownStep c s := rfl

theorem exec_holdRampUpStep : exec (.holdRampUpStep c) s = execHoldRampUpStep c s := rfl

variable (hon : s.on)
include hon

theorem meStreamEnter_effect {sub : Fin 4} {y : Stream} (hy : (getSub (getCore s.now c).me sub).assigned = some y)
    (h : (coreAlive s.now c && mayEnter s.now c sub y && (findCmd s.now c y.cmd).isSome) = true) :
    Effect (.meStreamEnter c sub) s (enterRow c sub s.now).1 .done := by
  simp only [Bool.and_eq_true] at h
  obtain ⟨⟨halive, hmay⟩, hcmd⟩ := h
  exact effect_onHw rfl hon (Prod.ext rfl (enterRow_done hy halive hmay hcmd))

variable (hme : (getCore s.now c).me = me)
include hme

theorem holdIdleTimeout_effect
    (h : (rbit s.now (Reg.mePolicy c) 0 && coreAlive s.now c && me.hold == 1 && meQuiet me) = true) :
    Effect (.holdIdleTimeout c) s (setMe s.now c { me with hold := 2 }) .done := by
  subst hme
  simp only [Bool.and_eq_true, beq_iff_eq, and_assoc] at h
  exact effect_onHw exec_holdIdleTimeout hon (if_pos h)

/-- A step of a ramp-down takes the array to the level `l`, and at 5 % it is idle. -/
theorem holdRampDownStep_effect {l : Nat} (hhold : me.hold = 2)
    (hl : (if me.level ≤ 15 then 5 else me.level - 10) = l) :
    Effect (.holdRampDownStep c) s (setMe s.now c { me with level := l, hold := if l = 5 then 0 else 2 }) .done := by
  subst hme hl
  exact effect_onHw exec_holdRampDownStep hon (if_pos hhold)

/-- Above 15 % a step leaves more than 5 %: the array still ramps down. -/
theorem holdRampDownStep_effect_of_gt (hhold : me.hold = 2) (hlevel : 15 < me.level) :
    Effect (.holdRampDownStep c) s (setMe s.now c { me with level := me.level - 10 }) .done := by
  have h := holdRampDownStep_effect hon hme hhold (if_neg (by omega))
  have hmore : ¬ me.level - 10 = 5 := by omega
  simpa only [if_neg hmore, hhold] using h

theorem holdRampDownStep_effect_of_le (hhold : me.hold = 2) (hlevel : me.level ≤ 15) :
    Effect (.holdRampDownStep c) s (setMe s.now c { me with level := 5, hold := 0 }) .done := by
  have h := holdRampDownStep_effect hon hme hhold (if_pos hlevel)
  rwa [if_pos rfl] at h

/-- A step of a granted ramp-up takes the array to the level `l`, and at 85 % it holds. -/
theorem holdRampUpStep_effect {l : Nat} (hhold : me.hold = 3) (hgranted : me.granted = true)
    (hl : min 85 (me.level + 10) = l) :
    Effect (.holdRampUpStep c) s (setMe s.now c
      { me with level := l, hold := if l = 85 then 1 else 3, granted := if l = 85 then false else true }) .done := by
  subst hme hl
  exact effect_onHw exec_holdRampUpStep hon (if_pos ⟨hhold, hgranted⟩)

/-- Below 75 % a step leaves less than 85 %: the array still ramps up. -/
theorem holdRampUpStep_effect_of_lt (hhold : me.hold = 3) (hgranted : me.granted = true) (hlevel : me.level < 75) :
    Effect (.holdRampUpStep c) s (setMe s.now c { me with level := me.level + 10 }) .done := by
  have h := holdRampUpStep_effect hon hme hhold hgranted (Nat.min_eq_right (by omega))
  have hless : ¬ me.level + 10 = 85 := by omega
  simpa only [if_neg hless, hhold, hgranted] using h

theorem holdRampUpStep_effect_of_ge (hhold : me.hold = 3) (hgranted : me.granted = true) (hlevel : 75 ≤ me.level) :
    Effect (.holdRampUpStep c) s (setMe s.now c { me with level := 85, hold := 1, granted := false }) .done := by
  have h := holdRampUpStep_effect hon hme hhold hgranted (Nat.min_eq_left (by omega))
  rwa [if_pos rfl, if_pos rfl] at h

end

/-- Settles O9: the three commands start as every engine's do, an assigned stream enters, and each step of a ramp falls on
one side of its bound. -/
theorem matrixCommandsComplete : Obligations.MatrixCommandsComplete := by
  intro c q sub s hon me
  refine ⟨serves_row rfl hon, serves_row rfl hon, serves_row rfl hon, fun y => ?enter, ?idle, ?down, ?low, ?up, ?full⟩
  case enter => exact meStreamEnter_effect hon
  case idle => exact holdIdleTimeout_effect hon rfl
  case down => exact holdRampDownStep_effect_of_gt hon rfl
  case low => exact holdRampDownStep_effect_of_le hon rfl
  case up => exact holdRampUpStep_effect_of_lt hon rfl
  case full => exact holdRampUpStep_effect_of_ge hon rfl

end Sys2Proof.Machine
end

section
/-! PROOF. The vector engine (R160–R171). Its commands start as the commands of every engine do (`serves_row`). -/

namespace Sys2Proof.Machine

/-- Settles O7: each of the nine rows is its engine's row with its own operation code and work. -/
theorem vectorCommandsComplete : Obligations.VectorCommandsComplete := by
  intro c q s hon
  refine ⟨?elem, ?cmp, ?cvt, ?red, ?expo, ?slice, ?dacc, ?xcomb, ?zline⟩
  case elem => exact serves_row rfl hon
  case cmp => exact serves_row rfl hon
  case cvt => exact serves_row rfl hon
  case red => exact serves_row rfl hon
  case expo => exact serves_row rfl hon
  case slice => exact serves_row rfl hon
  case dacc => exact serves_row rfl hon
  case xcomb => exact serves_row rfl hon
  case zline => exact serves_row rfl hon

end Sys2Proof.Machine
end

section
/-! PROOF. Number formats and sums (R128–R130, R140): a code by its fields, what it decodes to, that an exact value whose
least bit lies on the format's own grid is rounded to itself; and the matrix array's sum over rearranged terms. -/

namespace Sys2Proof.Machine

/-! #### A code by its fields (R128) -/

/-- The code with a sign, an exponent field and a fraction field. -/
def fcode (f : FFmt) (s : Bool) (e m : Nat) : Nat := e * 2 ^ f.mb + m + fsign f s

section
variable {f : FFmt} {s : Bool} {e m : Nat}

/-- Exponent and fraction field fill the bits below the sign. -/
theorem fields_lt (he : e < 2 ^ f.eb) (hm : m < 2 ^ f.mb) : e * 2 ^ f.mb + m < 2 ^ (f.eb + f.mb) := by
  calc e * 2 ^ f.mb + m < (e + 1) * 2 ^ f.mb := by rw [Nat.succ_mul]; omega
    _ ≤ 2 ^ f.eb * 2 ^ f.mb := Nat.mul_le_mul_right _ he
    _ = 2 ^ (f.eb + f.mb) := (pow_add 2 f.eb f.mb).symm

/-- Every code of a format has its three fields. -/
theorem exists_fcode {b : Nat} (hb : b < 2 ^ (1 + f.eb + f.mb)) :
    ∃ s e m, e < 2 ^ f.eb ∧ m < 2 ^ f.mb ∧ b = fcode f s e m := by
  let N := 2 ^ (f.eb + f.mb)
  have htwo : 2 ^ (1 + f.eb + f.mb) = N * 2 := by rw [Nat.add_assoc, Nat.add_comm, pow_succ]
  have hN : N = 2 ^ f.mb * 2 ^ f.eb := by rw [← pow_add, Nat.add_comm]
  have hlow : b % N < N := Nat.mod_lt _ (by positivity)
  have hfields : b % N / 2 ^ f.mb * 2 ^ f.mb + b % N % 2 ^ f.mb = b % N := Nat.div_add_mod' _ _
  have hsign : b % N + fsign f (decide (b / N = 1)) = b := by
    have hdiv := Nat.div_add_mod b N
    have hq : b / N < 2 := Nat.div_lt_of_lt_mul (htwo ▸ hb)
    rcases Nat.le_one_iff_eq_zero_or_eq_one.mp (Nat.le_of_lt_succ hq) with h | h
    · rw [h, Nat.mul_zero, Nat.zero_add] at hdiv
      rwa [h, fsign, if_neg (by decide), Nat.add_zero]
    · rw [h, Nat.mul_one, Nat.add_comm] at hdiv
      rwa [h, fsign, if_pos (by decide)]
  refine ⟨decide (b / N = 1), b % N / 2 ^ f.mb, b % N % 2 ^ f.mb, Nat.div_lt_of_lt_mul (hN ▸ hlow),
    Nat.mod_lt _ (by positivity), ?_⟩
  rw [fcode, hfields, hsign]

/-- A code decodes by its fields (R129): the top codes, then the subnormal codes, then the normal ones. -/
theorem fdec_fcode (he : e < 2 ^ f.eb) (hm : m < 2 ^ f.mb) : fdec f (fcode f s e m) =
    if f.top = .ieee ∧ e = 2 ^ f.eb - 1 then (if m = 0 then .inf s else .nan)
    else if f.top = .e4m3 ∧ e = 2 ^ f.eb - 1 ∧ m = 2 ^ f.mb - 1 then .nan
    else if e = 0 then .fin s m (1 - (f.bias : Int) - f.mb)
    else .fin s (2 ^ f.mb + m) ((e : Int) - f.bias - f.mb) := by
  have hlow : e * 2 ^ f.mb + m < 2 ^ (f.eb + f.mb) := fields_lt he hm
  have hsign : decide (fcode f s e m / 2 ^ (f.eb + f.mb) % 2 = 1) = s := by
    cases s <;> simp [fcode, fsign, Nat.div_eq_of_lt hlow]
  have hcode : fcode f s e m = m + (e + (if s then 2 ^ f.eb else 0)) * 2 ^ f.mb := by
    unfold fcode fsign
    split <;> ring
  have hexp : fcode f s e m / 2 ^ f.mb % 2 ^ f.eb = e := by
    rw [hcode, Nat.add_mul_div_right _ _ (Nat.two_pow_pos _), Nat.div_eq_of_lt hm, Nat.zero_add]
    split <;> simp [Nat.mod_eq_of_lt he]
  have hfrac : fcode f s e m % 2 ^ f.mb = m := by
    rw [hcode, Nat.add_mul_mod_self_right, Nat.mod_eq_of_lt hm]
  unfold fdec
  simp only [hsign, hexp, hfrac]

/-- Below the top exponent field, a code lies below the codes that have it. -/
theorem fields_lt_top (he : e < 2 ^ f.eb - 1) (hm : m < 2 ^ f.mb) : e * 2 ^ f.mb + m < (2 ^ f.eb - 1) * 2 ^ f.mb := by
  have hnext : (e + 1) * 2 ^ f.mb ≤ (2 ^ f.eb - 1) * 2 ^ f.mb := Nat.mul_le_mul_right _ he
  rw [Nat.succ_mul] at hnext
  omega

/-- A code that is neither an infinity nor a NaN is at most the largest finite one (R129). -/
theorem fields_le_fmax (he : e < 2 ^ f.eb) (hm : m < 2 ^ f.mb) (hieee : ¬(f.top = .ieee ∧ e = 2 ^ f.eb - 1))
    (he4m3 : ¬(f.top = .e4m3 ∧ e = 2 ^ f.eb - 1 ∧ m = 2 ^ f.mb - 1)) : e * 2 ^ f.mb + m ≤ fmax f := by
  unfold fmax
  cases htop : f.top with
  | ieee =>
    have hne : e ≠ 2 ^ f.eb - 1 := fun h => hieee ⟨htop, h⟩
    exact Nat.le_sub_one_of_lt (fields_lt_top (by omega) hm)
  | e4m3 =>
    have htopRow : (2 ^ f.eb - 1) * 2 ^ f.mb + 2 ^ f.mb = 2 ^ (f.eb + f.mb) := by
      rw [← Nat.succ_mul, Nat.succ_eq_add_one, Nat.sub_add_cancel Nat.one_le_two_pow, pow_add]
    refine Nat.le_sub_of_add_le ?_
    by_cases h : e = 2 ^ f.eb - 1
    · have hne : m ≠ 2 ^ f.mb - 1 := fun h' => he4m3 ⟨htop, h, h'⟩
      rw [h]
      omega
    · have hlt := fields_lt_top (f := f) (e := e) (by omega) hm
      omega
  | none => exact Nat.le_sub_one_of_lt (fields_lt he hm)

/-! #### Rounding what the format holds (R144, R169) -/

theorem cutAt_self (m : Nat) (q : Int) : cutAt m q q = (m, 0, 0) := by
  simp [cutAt]

theorem roundUp_zero (rd : Rnd) (k n : Nat) : roundUp rd k 0 n = false := by
  simp [roundUp]

variable {rd : Rnd} {q : Int} {c : Nat}

/-- A magnitude whose unit is the weight it is rounded at keeps every bit and raises no flag, in every rounding mode. -/
theorem fround_exact (hq : max (leadExp m q - f.mb) (1 - (f.bias : Int) - f.mb) = q)
    (hc : (q - (1 - (f.bias : Int) - f.mb)).toNat * 2 ^ f.mb + m = c) (hmax : c ≤ fmax f) : fround f rd m q = (c, 0) := by
  have hfits : ¬ c > fmax f := not_lt.mpr hmax
  unfold fround
  simp [hq, cutAt_self, roundUp_zero, b2n, hc, hfits]

/-- A subnormal magnitude is its own code. -/
theorem fround_subnormal (h0 : m ≠ 0) (hm : m < 2 ^ f.mb) (hmax : m ≤ fmax f) :
    fround f rd m (1 - (f.bias : Int) - f.mb) = (m, 0) := by
  have hlog : Nat.log2 m < f.mb := (Nat.log2_lt h0).mpr hm
  refine fround_exact ?_ (by simp) hmax
  unfold leadExp
  omega

/-- A normal magnitude has the code of its exponent and fraction. -/
theorem fround_normal (he : 1 ≤ e) (hm : m < 2 ^ f.mb) (hmax : e * 2 ^ f.mb + m ≤ fmax f) :
    fround f rd (2 ^ f.mb + m) ((e : Int) - f.bias - f.mb) = (e * 2 ^ f.mb + m, 0) := by
  have hlog : Nat.log2 (2 ^ f.mb + m) = f.mb :=
    (Nat.log2_eq_iff (by positivity)).mpr ⟨Nat.le_add_right _ _, by rw [pow_succ]; omega⟩
  refine fround_exact ?_ ?_ hmax
  · unfold leadExp
    omega
  · obtain ⟨d, rfl⟩ := Nat.exists_eq_add_of_le' he
    have hexp : ((d + 1 : Nat) : Int) - f.bias - f.mb - (1 - (f.bias : Int) - f.mb) = d := by push_cast; ring
    rw [hexp, Int.toNat_natCast, Nat.succ_mul, Nat.add_assoc]

/-- A finite magnitude's code never is the NaN of E4M3. -/
theorem ne_fnan_of_le_fmax (hc : c ≠ 0) (hmax : c ≤ fmax f) : ¬(c = fnan f ∧ f.top = .e4m3) := by
  rintro ⟨hnan, htop⟩
  simp only [fmax, fnan, htop] at hmax hnan
  omega

theorem fenc_of_fround {g : Int} (hm : m ≠ 0) (h : fround f rd m g = (c, 0)) (hc : c ≠ 0) (hmax : c ≤ fmax f) :
    fenc f rd (.fin s m g) = (c + fsign f s, 0) := by
  unfold fenc
  simp only [if_neg hm, h, if_neg (ne_fnan_of_le_fmax hc hmax)]

/-! #### Codes and values agree (R128–R130), in every format and every rounding mode -/

/-- A zero or a subnormal value is written as its code. -/
theorem fenc_subnormal (hm : m < 2 ^ f.mb) (hmax : m ≤ fmax f) :
    fenc f rd (.fin s m (1 - (f.bias : Int) - f.mb)) = (m + fsign f s, 0) := by
  by_cases h0 : m = 0
  · simp [fenc, h0]
  · exact fenc_of_fround h0 (fround_subnormal h0 hm hmax) h0 hmax

/-- A normal value is written as its code. -/
theorem fenc_normal (he : e ≠ 0) (hm : m < 2 ^ f.mb) (hmax : e * 2 ^ f.mb + m ≤ fmax f) :
    fenc f rd (.fin s (2 ^ f.mb + m) ((e : Int) - f.bias - f.mb)) = (fcode f s e m, 0) := by
  have hpos : 0 < 2 ^ f.mb := Nat.two_pow_pos f.mb
  have hcode : e * 2 ^ f.mb + m ≠ 0 := by
    have := Nat.mul_pos (Nat.pos_of_ne_zero he) hpos
    omega
  exact fenc_of_fround (by omega) (fround_normal (Nat.pos_of_ne_zero he) hm hmax) hcode hmax

/-- A code that is no NaN is what its value rounds to, without a flag. -/
theorem fenc_fdec_fcode (he : e < 2 ^ f.eb) (hm : m < 2 ^ f.mb) (hnan : fdec f (fcode f s e m) ≠ .nan) :
    fenc f rd (fdec f (fcode f s e m)) = (fcode f s e m, 0) := by
  rw [fdec_fcode he hm] at hnan ⊢
  split
  next hieee =>
    obtain ⟨htop, rfl⟩ := hieee
    have hinf : m = 0 := by by_contra h; simp [htop, h] at hnan
    simp [fenc, fcode, htop, hinf]
  next hieee =>
    split
    next he4m3 => simp [he4m3] at hnan
    next he4m3 =>
      have hmax := fields_le_fmax he hm hieee he4m3
      split
      next hsub =>
        rw [hsub, Nat.zero_mul, Nat.zero_add] at hmax
        rw [fenc_subnormal hm hmax, fcode, hsub, Nat.zero_mul, Nat.zero_add]
      next hsub => exact fenc_normal hsub hm hmax

end

/-- Settles O59: a code is taken apart into its fields, and each kind of code rounds to itself; a NaN is written as the one
pattern by definition. -/
theorem floatCodesRoundTrip : Obligations.FloatCodesRoundTrip := by
  intro f _ b hb
  obtain ⟨s, e, m, he, hm, rfl⟩ := exists_fcode hb
  exact ⟨fenc_fdec_fcode he hm, fun hnan => by rw [hnan]; rfl⟩

/-! #### The matrix array's sum (R140) -/

/-- The largest of a list's elements does not depend on which of them stands first. -/
theorem foldl_max_eq_of_perm {l m : Int} {ls ms : List Int} (h : (l :: ls).Perm (m :: ms)) :
    ls.foldl max l = ms.foldl max m := by
  have hmax : (l :: ls).max? = (m :: ms).max? :=
    Option.ext fun a => by simp only [List.max?_eq_some_iff, h.mem_iff]
  simpa only [List.max?_cons', Option.some.injEq] using hmax

/-- Settles O58: rearranged terms have the same special values among them, the same largest leading exponent, hence the same
bits kept, and the same exact sum. -/
theorem matrixSumsCommute : Obligations.MatrixSumsCommute := by
  intro ts us h
  have hlead : (ts.filterMap leadOf).Perm (us.filterMap leadOf) := h.filterMap leadOf
  have hsum (g : XNum → Int) : (ts.map g).sum = (us.map g).sum := (h.map g).sum_eq
  unfold meSum
  simp only [h.any_eq, hsum]
  generalize ts.filterMap leadOf = xs at hlead ⊢
  generalize us.filterMap leadOf = ys at hlead ⊢
  cases xs with
  | nil => rw [hlead.nil_eq]
  | cons l ls =>
    cases ys with
    | nil => exact absurd hlead.eq_nil (List.cons_ne_nil l ls)
    | cons m ms => simp only [foldl_max_eq_of_perm hlead]

end Sys2Proof.Machine
end

section
/-! PROOF. The scalar engine (R172–R178, R213, R222). Its commands start as the commands of every engine do (`serves_row`).
What SE_OP, SE_SETP and SE_RDCNT leave unchanged: a frame that an update of one core keeps,
then the start of a command, its work, its row and the outcome. -/

namespace Sys2Proof.Machine

/-- Settles O6: each of the eight rows is its engine's row with its own operation code and work. -/
theorem scalarCommandsComplete : Obligations.ScalarCommandsComplete := by
  intro c q s hon
  refine ⟨?op, ?setp, ?ld, ?st, ?amo, ?br, ?zline, ?rdcnt⟩
  case op => exact serves_row rfl hon
  case setp => exact serves_row rfl hon
  case ld => exact serves_row rfl hon
  case st => exact serves_row rfl hon
  case amo => exact serves_row rfl hon
  case br => exact serves_row rfl hon
  case zline => exact serves_row rfl hon
  case rdcnt => exact serves_row rfl hon

/-! #### The frame of an effect on one core -/

/-- From `old` to `new` no register outside `R` changes, no core but `c`, and of that core neither storage nor the
contexts marked killed; memory, harts, ports, logs stay, and no message is raised, no package stop started. -/
structure CoreFrame (c : Nat) (R : Set Nat) (old new : Hw) : Prop where
  regs : ∀ a ∉ R, rget new a = rget old a
  others : ∀ d ≠ c, getCore new d = getCore old d
  spad : (getCore new c).spad = (getCore old c).spad
  acc : (getCore new c).acc = (getCore old c).acc
  killed : (getCore new c).killed = (getCore old c).killed
  mem : new.mem = old.mem
  harts : new.harts = old.harts
  ports : new.ports = old.ports
  logs : new.logs = old.logs
  msgs : new.msgs = old.msgs
  stop : new.stop = old.stop

section
variable {c q : Nat} {R R' : Set Nat} {x y z : Hw}

theorem CoreFrame.refl (c : Nat) (R : Set Nat) (x : Hw) : CoreFrame c R x x :=
  ⟨fun _ _ => rfl, fun _ _ => rfl, rfl, rfl, rfl, rfl, rfl, rfl, rfl, rfl, rfl⟩

theorem CoreFrame.trans (h : CoreFrame c R x y) (h' : CoreFrame c R y z) : CoreFrame c R x z where
  regs a ha := (h'.regs a ha).trans (h.regs a ha)
  others d hd := (h'.others d hd).trans (h.others d hd)
  spad := h'.spad.trans h.spad
  acc := h'.acc.trans h.acc
  killed := h'.killed.trans h.killed
  mem := h'.mem.trans h.mem
  harts := h'.harts.trans h.harts
  ports := h'.ports.trans h.ports
  logs := h'.logs.trans h.logs
  msgs := h'.msgs.trans h.msgs
  stop := h'.stop.trans h.stop

theorem CoreFrame.mono (h : CoreFrame c R x y) (hR : R ⊆ R') : CoreFrame c R' x y :=
  { h with regs := fun a ha => h.regs a fun h' => ha (hR h') }

/-- Storing a register of `R`. -/
theorem rset_frame {a : Nat} (ha : a ∈ R) (v : Word) : CoreFrame c R x (rset x a v) :=
  { CoreFrame.refl c R x with regs := fun b hb => rget_rset_ne x a b v fun h => hb (h ▸ ha) }

/-- Changing the core's record but for its storage and the contexts marked killed. -/
theorem modCore_frame {f : Core → Core} (hspad : ∀ t, (f t).spad = t.spad) (hacc : ∀ t, (f t).acc = t.acc)
    (hkilled : ∀ t, (f t).killed = t.killed) : CoreFrame c R x (modCore x c f) where
  regs _ _ := rfl
  others d hd := getCore_modCore_ne x c d f hd
  spad := by rw [getCore_modCore_self, hspad]
  acc := by rw [getCore_modCore_self, hacc]
  killed := by rw [getCore_modCore_self, hkilled]
  mem := rfl
  harts := rfl
  ports := rfl
  logs := rfl
  msgs := rfl
  stop := rfl

/-- An update made on a condition. -/
theorem CoreFrame.ite {p : Prop} [Decidable p] (h : CoreFrame c R x y) : CoreFrame c R x (if p then y else x) := by
  split
  · exact h
  · exact .refl c R x

theorem setCmd_frame (m : Cmd) : CoreFrame c R x (setCmd x c m) :=
  modCore_frame (fun _ => rfl) (fun _ => rfl) (fun _ => rfl)

theorem takeTurn_frame (eng : Nat) : CoreFrame c R x (takeTurn x c q eng) :=
  modCore_frame (fun _ => rfl) (fun _ => rfl) (fun _ => rfl)

theorem l1Invalidate_frame : CoreFrame c R x (l1Invalidate x c) :=
  modCore_frame (fun _ => rfl) (fun _ => rfl) (fun _ => rfl)

/-- A new free value is no part of the frame. -/
theorem draw_frame : CoreFrame c R x (draw x).2 := { CoreFrame.refl c R x with }

theorem clockNow_frame {a : Nat} (ha : a ∈ R) : CoreFrame c R x (clockNow x a).1 :=
  draw_frame.trans (rset_frame ha _)

/-! #### The start of a command (R222, R263, R518) -/

/-- The local semaphores of a core. -/
def lsemRegs (c : Nat) : Set Nat := {a | ∃ n < 64, a = Reg.qfeLsem c n}

theorem notMem_lsemRegs {a : Nat} (h : ∀ n, n < 64 → a ≠ Reg.qfeLsem c n) : a ∉ lsemRegs c :=
  fun ⟨n, hn, ha⟩ => h n hn ha

theorem wf_lt (w : List Word) (i hi lo : Nat) : wf w i hi lo < 2 ^ (hi + 1 - lo) :=
  Nat.mod_lt _ (Nat.two_pow_pos _)

/-- A header's wait names one of the 64 local semaphores. -/
theorem qfeLsem_mem_lsemRegs (c : Nat) (w : List Word) : Reg.qfeLsem c (hLw w).2.2.1 ∈ lsemRegs c :=
  ⟨_, wf_lt w 1 61 56, rfl⟩

theorem headCmd_eq_some {eng : Nat} {m : Cmd} (h : headCmd x c q eng = some m) : m ∈ (getCore x c).cmds ∧ m.q = q := by
  unfold headCmd at h
  split at h
  next m' hfind =>
    obtain ⟨-, hm⟩ := Option.ite_none_right_eq_some.mp h
    cases hm
    have hp := List.find?_some hfind
    simp only [Bool.and_eq_true, beq_iff_eq] at hp
    obtain ⟨⟨⟨hq, -⟩, -⟩, -⟩ := hp
    exact ⟨List.mem_of_find?_eq_some hfind, hq⟩
  next => cases h

theorem checkedAddr_q (m : Cmd) : (checkedAddr x m).q = m.q := (apply_ite Cmd.q _ _ _).trans (ite_self _)

/-- A command without bit errors that an engine other than the VE takes up keeps its queue: at most the local semaphore it
waited on is taken, and L1 invalidated. -/
theorem beginCmd_frame {eng op : Nat} {can : Hw → Cmd → Bool} {m : Cmd} {st : Option Nat} (heng : eng ≠ 2)
    (hclean : ∀ m ∈ (getCore x c).cmds, m.seenBad = false ∧ m.flip = 0)
    (h : beginCmd x c q eng op can = some (y, m, st)) : CoreFrame c (lsemRegs c) x y ∧ m.q = q := by
  unfold beginCmd at h
  split at h
  next => cases h
  next m0 hhead =>
    obtain ⟨hmem, hq⟩ := headCmd_eq_some hhead
    obtain ⟨hseen, hflip⟩ := hclean m0 hmem
    have hturn : CoreFrame c (lsemRegs c) x (takeTurn x c q eng) := takeTurn_frame eng
    have hstored : storedCmd (takeTurn x c q eng) c m0 = (takeTurn x c q eng, m0) := if_pos hflip
    have hq' (r : Bool) : ({ checkedAddr (takeTurn x c q eng) m0 with resv := r } : Cmd).q = q :=
      (checkedAddr_q m0).trans hq
    replace h := (Option.ite_none_left_eq_some.mp h).2
    simp only [if_neg heng, hstored, hseen, Bool.false_eq_true, if_false] at h
    split at h
    next => cases h; exact ⟨hturn, hq' _⟩
    next =>
      have hsem := qfeLsem_mem_lsemRegs c m0.w
      split at h <;> cases h <;>
        exact ⟨(hturn.trans (.ite (rset_frame hsem _))).trans (.ite l1Invalidate_frame), hq' _⟩

/-! #### An engine's row -/

/-- No context is marked killed: none is killed (R83). -/
theorem killPass_of_killed_nil {r : Hw × Answer} (h : (getCore r.1 c).killed = []) : killPass c r = r := if_pos h

theorem killPass_frame {r : Hw × Answer} (hkilled : (getCore x c).killed = []) (h : CoreFrame c R x r.1) :
    CoreFrame c R x (killPass c r).1 := by
  rwa [killPass_of_killed_nil (h.killed.trans hkilled)]

/-- A row of an engine whose work writes only registers of `R` keeps the frame: started or not, a command goes back into the
core's list. -/
theorem engineRow_frame {eng op : Nat} {can : Hw → Cmd → Bool} {body : Hw → Cmd → Option (Hw × Cmd)} (heng : eng ≠ 2)
    (hclean : ∀ m ∈ (getCore x c).cmds, m.seenBad = false ∧ m.flip = 0) (hkilled : (getCore x c).killed = [])
    (hbody : ∀ h m r, m.q = q → body h m = some r → CoreFrame c R h r.1) :
    CoreFrame c (lsemRegs c ∪ R) x (engineRow c q eng op can body x).1 := by
  refine killPass_frame hkilled ?_
  split
  next => exact .refl _ _ _
  next h m st hb =>
    obtain ⟨hbegin, -⟩ := beginCmd_frame heng hclean hb
    exact (hbegin.mono Set.subset_union_left).trans (setCmd_frame _)
  next h m hb =>
    obtain ⟨hbegin, hq⟩ := beginCmd_frame heng hclean hb
    split
    next => exact .refl _ _ _
    next h2 m2 hw =>
      have hwork := (hbody h m _ hq hw).mono (Set.subset_union_right (s := lsemRegs c))
      exact ((hbegin.mono Set.subset_union_left).trans hwork).trans (setCmd_frame _)

/-! #### The work of SE_OP, SE_SETP and SE_RDCNT (R172, R173, R213) -/

/-- The G registers of a queue. -/
def gRegs (c q : Nat) : Set Nat := {a | ∃ n < 16, a = Reg.seG c (16 * q + n)}

theorem notMem_gRegs {a : Nat} (h : ∀ n, n < 16 → a ≠ Reg.seG c (16 * q + n)) : a ∉ gRegs c q :=
  fun ⟨n, hn, ha⟩ => h n hn ha

variable {m : Cmd} {r : Hw × Cmd}

theorem setG_frame {n : Nat} (hn : n < 16) (v : Word) : CoreFrame c (gRegs c q) x (setG x c q n v) :=
  rset_frame (R := gRegs c q) ⟨n, hn, rfl⟩ v

theorem seOpBody_frame (hq : m.q = q) (h : seOpBody c x m = some r) : CoreFrame c (gRegs c q) x r.1 := by
  subst hq
  cases h
  exact setG_frame (wf_lt _ _ _ _) _

theorem seSetpBody_frame (hq : m.q = q) (h : seSetpBody c x m = some r) : CoreFrame c {Reg.sePred c q} x r.1 := by
  subst hq
  cases h
  unfold setPred
  split
  · exact .refl _ _ _
  · exact rset_frame (Set.mem_singleton _) _

theorem seRdcntBody_frame (hq : m.q = q) (h : seRdcntBody c x m = some r) :
    CoreFrame c (gRegs c q ∪ {Reg.clkAclkCnt (c / 128) (c % 128 / 8)}) x r.1 := by
  subst hq
  cases h
  have hclk : CoreFrame c {Reg.clkAclkCnt (c / 128) (c % 128 / 8)} x _ := clockNow_frame (Set.mem_singleton _)
  exact (hclk.mono Set.subset_union_right).trans ((setG_frame (wf_lt _ _ _ _) _).mono Set.subset_union_left)

end

/-! #### The outcome (O56) -/

/-- A command whose row keeps the frame ends in a state that keeps it: there is no message to deliver, no stop to carry out,
and the monitor is idle; while the package is off nothing changes. -/
theorem onHw_frame {s t : State} {c : Nat} {R : Set Nat} {f : Hw → Hw × Answer} (hmsgs : s.hw.msgs = [])
    (hidle : s.sec.mon.wait = .idle) (hf : CoreFrame c R s.now (f s.now).1) (h : onHw s f = .next t) :
    CoreFrame c R s.hw t.hw ∧ t.sec = s.sec := by
  by_cases hon : s.on
  · rw [onHw_on hon, settled_quiet (hf.msgs.trans hmsgs) hf.stop hidle] at h
    cases h
    exact ⟨{ hf with }, rfl⟩
  · rw [onHw_off hon] at h
    cases h
    exact ⟨.refl _ _ _, rfl⟩

/-- The registers that the work of a register command of the scalar engine writes. -/
def scalarRegs (c q : Nat) : Instr → Set Nat
  | .seOp _ _ => gRegs c q
  | .seSetp _ _ => {Reg.sePred c q}
  | .seRdcnt _ _ => gRegs c q ∪ {Reg.clkAclkCnt (c / 128) (c % 128 / 8)}
  | _ => ∅

/-- Each of the three commands keeps the frame with the registers its work writes and the semaphore it may take. -/
theorem scalar_frame {c : CoreId} {q : QueueId} {i : Instr} {s t : State}
    (hi : i = .seOp c q ∨ i = .seSetp c q ∨ i = .seRdcnt c q) (hmsgs : s.hw.msgs = []) (hidle : s.sec.mon.wait = .idle)
    (hkilled : (getCore s.hw c).killed = []) (hclean : ∀ m ∈ (getCore s.hw c).cmds, m.seenBad = false ∧ m.flip = 0)
    (hexec : exec i s = .next t) : CoreFrame c (lsemRegs c ∪ scalarRegs c q i) s.hw t.hw ∧ t.sec = s.sec := by
  have hrow {op : Nat} {body : Hw → Cmd → Option (Hw × Cmd)} {R : Set Nat}
      (hbody : ∀ h (m : Cmd) r, m.q = q → body h m = some r → CoreFrame c R h r.1)
      (h : onHw s (engineRow c q 3 op (seCan c) body) = .next t) :
      CoreFrame c (lsemRegs c ∪ R) s.hw t.hw ∧ t.sec = s.sec :=
    onHw_frame hmsgs hidle (engineRow_frame (by decide) hclean hkilled hbody) h
  rcases hi with rfl | rfl | rfl
  · exact hrow (fun _ _ _ => seOpBody_frame) hexec
  · exact hrow (fun _ _ _ => seSetpBody_frame) hexec
  · exact hrow (fun _ _ _ => seRdcntBody_frame) hexec

/-- Settles O56: a register that each clause leaves out is none that the frame lets change. -/
theorem scalarFrame : Obligations.ScalarFrame := by
  intro c q i s t hi hmsgs hidle hkilled hclean hexec
  obtain ⟨hf, hsec⟩ := scalar_frame hi hmsgs hidle hkilled hclean hexec
  refine ⟨fun a hlsem => ⟨?op, ?setp, ?rdcnt⟩, hf.others, hf.spad, hf.acc, hf.mem, hf.harts, hf.ports, hf.logs, hsec⟩
  case op =>
    rintro rfl hg
    exact hf.regs a (not_or_intro (notMem_lsemRegs hlsem) (notMem_gRegs hg))
  case setp =>
    rintro rfl hpred
    exact hf.regs a (not_or_intro (notMem_lsemRegs hlsem) hpred)
  case rdcnt =>
    rintro rfl hg hclk
    exact hf.regs a (not_or_intro (notMem_lsemRegs hlsem) (not_or_intro (notMem_gRegs hg) hclk))

end Sys2Proof.Machine
end

section
/-! PROOF. Fields of a word: what a field reads as after it, or another, has been set. -/

namespace Sys2Proof.Machine

section
variable {w : Word} {hi lo hi' lo' v i : Nat}

theorem testBit_bits (w : Word) (hi lo i : Nat) :
    (bits w hi lo).testBit i = (decide (i < hi + 1 - lo) && w.getLsbD (lo + i)) := by
  simp [bits, nbits, BitVec.getLsbD]

/-- Setting a field replaces it between the bits above and the bits below. -/
theorem sub_field_add (x lo k f : Nat) :
    x - ((x >>> lo) % 2 ^ k) <<< lo + f <<< lo = 2 ^ lo * (2 ^ k * (x / 2 ^ lo / 2 ^ k) + f) + x % 2 ^ lo := by
  have hlow := Nat.div_add_mod x (2 ^ lo)
  have hfield := Nat.div_add_mod (x / 2 ^ lo) (2 ^ k)
  rw [Nat.shiftRight_eq_div_pow, Nat.shiftLeft_eq, Nat.shiftLeft_eq, Nat.mul_add, Nat.mul_comm f]
  have hparts : 2 ^ lo * (2 ^ k * (x / 2 ^ lo / 2 ^ k)) + 2 ^ lo * (x / 2 ^ lo % 2 ^ k) = 2 ^ lo * (x / 2 ^ lo) := by
    rw [← Nat.mul_add, hfield]
  rw [Nat.mul_comm (x / 2 ^ lo % 2 ^ k)]
  omega

theorem getLsbD_setBits (hlo : lo ≤ hi) (hhi : hi < 64) :
    (setBits w hi lo v).getLsbD i = if lo ≤ i ∧ i ≤ hi then v.testBit (i - lo) else w.getLsbD i := by
  have hlow : w.toNat % 2 ^ lo < 2 ^ lo := Nat.mod_lt _ (Nat.two_pow_pos _)
  have hfield : v % 2 ^ (hi + 1 - lo) < 2 ^ (hi + 1 - lo) := Nat.mod_lt _ (Nat.two_pow_pos _)
  unfold setBits nbits
  rw [sub_field_add, BitVec.getLsbD_ofNat, Nat.testBit_two_pow_mul_add _ hlow, Nat.testBit_two_pow_mul_add _ hfield,
    Nat.testBit_mod_two_pow, Nat.testBit_mod_two_pow, Nat.testBit_div_two_pow, Nat.testBit_div_two_pow]
  by_cases h64 : i < 64
  · by_cases hbelow : i < lo
    · simp [h64, hbelow, BitVec.getLsbD]
    · by_cases hin : i ≤ hi
      · have hk : i - lo < hi + 1 - lo := by omega
        simp [h64, hbelow, hin, hk]
      · have hk : ¬ i - lo < hi + 1 - lo := by omega
        have hpos : i - lo - (hi + 1 - lo) + (hi + 1 - lo) + lo = i := by omega
        simp [h64, hbelow, hin, hk, hpos, BitVec.getLsbD]
  · have hout : ¬ i ≤ hi := by omega
    simp [h64, hout, BitVec.getLsbD_of_ge w i (by omega)]

theorem bits_setBits_self (hlo : lo ≤ hi) (hhi : hi < 64) : bits (setBits w hi lo v) hi lo = v % 2 ^ (hi + 1 - lo) := by
  refine Nat.eq_of_testBit_eq fun j => ?_
  rw [testBit_bits, getLsbD_setBits hlo hhi, Nat.testBit_mod_two_pow]
  by_cases hj : j < hi + 1 - lo
  · have hin : lo + j ≤ hi := by omega
    simp [hin]
  · simp [hj]

/-- A field apart from the one set stays. -/
theorem bits_setBits_of_disjoint (hlo : lo ≤ hi) (hhi : hi < 64) (h : hi' < lo ∨ hi < lo') :
    bits (setBits w hi lo v) hi' lo' = bits w hi' lo' := by
  refine Nat.eq_of_testBit_eq fun j => ?_
  rw [testBit_bits, testBit_bits, getLsbD_setBits hlo hhi]
  by_cases hj : j < hi' + 1 - lo'
  · have hout : ¬(lo ≤ lo' + j ∧ lo' + j ≤ hi) := by omega
    rw [if_neg hout]
  · simp [hj]

theorem bit_setBits_of_disjoint (hlo : lo ≤ hi) (hhi : hi < 64) (h : i < lo ∨ hi < i) :
    bit (setBits w hi lo v) i = bit w i := by
  have hout : ¬(lo ≤ i ∧ i ≤ hi) := by omega
  exact (getLsbD_setBits hlo hhi).trans (if_neg hout)

theorem bit_setBit_self (hi : i < 64) (b : Bool) : bit (setBit w i b) i = b := by
  unfold bit setBit
  rw [getLsbD_setBits le_rfl hi, if_pos ⟨le_rfl, le_rfl⟩, Nat.sub_self]
  cases b <;> rfl

end

end Sys2Proof.Machine
end

section
/-! PROOF. The scratchpad (R190, R193–R204): what a take makes of a slot (R197), what a write from outside leaves unchanged
(R193, R200), a write to a register of the SPC that arrives; then each row. -/

namespace Sys2Proof.Machine

/-! #### A take (R197) -/

/-- A slot's register once a sender holds it. -/
def heldBy (v : Word) (pkg agent : Nat) : Word :=
  setBits (setBits (setBits (setBit v 61 false) 63 62 2) 59 48 pkg) 47 36 agent

theorem slotOf_heldBy (v : Word) (pkg agent : Fin 4096) :
    slotOf (heldBy v pkg agent) = ⟨2, false, pkg, agent, (slotOf v).len, (slotOf v).off⟩ := by
  have hstate : bits (heldBy v pkg agent) 63 62 = 2 := by
    unfold heldBy
    rw [bits_setBits_of_disjoint (by decide) (by decide) (by decide),
      bits_setBits_of_disjoint (by decide) (by decide) (by decide), bits_setBits_self (by decide) (by decide)]
    rfl
  have hany : bit (heldBy v pkg agent) 61 = false := by
    unfold heldBy
    rw [bit_setBits_of_disjoint (by decide) (by decide) (by decide),
      bit_setBits_of_disjoint (by decide) (by decide) (by decide),
      bit_setBits_of_disjoint (by decide) (by decide) (by decide), bit_setBit_self (by decide)]
  have hpkg : bits (heldBy v pkg agent) 59 48 = pkg := by
    unfold heldBy
    rw [bits_setBits_of_disjoint (by decide) (by decide) (by decide), bits_setBits_self (by decide) (by decide)]
    exact Nat.mod_eq_of_lt pkg.isLt
  have hagent : bits (heldBy v pkg agent) 47 36 = agent := by
    unfold heldBy
    rw [bits_setBits_self (by decide) (by decide)]
    exact Nat.mod_eq_of_lt agent.isLt
  have hlow {h l : Nat} (hh : h < 36) : bits (heldBy v pkg agent) h l = bits v h l := by
    unfold heldBy setBit
    rw [bits_setBits_of_disjoint (by decide) (by decide) (.inl hh),
      bits_setBits_of_disjoint (by decide) (by decide) (.inl (by omega)),
      bits_setBits_of_disjoint (by decide) (by decide) (.inl (by omega)),
      bits_setBits_of_disjoint (by decide) (by decide) (.inl (by omega))]
  simp only [slotOf, hstate, hany, hpkg, hagent, hlow (h := 35) (by decide), hlow (h := 16) (by decide)]

section
variable {hw : Hw} {c n pkg agent : Nat}

/-- The slot is POSTED, and for ANY or for the sender. -/
def Grants (x : Slot) (pkg agent : Nat) : Prop := x.state = 1 ∧ (x.any = true ∨ (x.pkg = pkg ∧ x.agent = agent))

theorem creditTake_granted (h : Grants (getSlot hw c n) pkg agent) :
    creditTake hw c n pkg agent = (rset hw (Reg.spcCredit c n) (heldBy (rget hw (Reg.spcCredit c n)) pkg agent),
      heldBy (rget hw (Reg.spcCredit c n)) pkg agent) :=
  if_pos h

theorem creditTake_refused (h : ¬Grants (getSlot hw c n) pkg agent) :
    creditTake hw c n pkg agent = (hw, word ((getSlot hw c n).state * 2 ^ 62)) :=
  if_neg h

/-- A slot that is HELD is granted to nobody. -/
theorem not_grants_of_held {x : Slot} (h : x.state = 2) : ¬Grants x pkg agent := by
  rintro ⟨h1, -⟩
  omega

end

/-- Settles O55: a granted take leaves the slot HELD, and a HELD slot grants nothing. -/
theorem creditGoesToOne : Obligations.CreditGoesToOne := by
  intro hw c n pkg agent pkg2 agent2 x r y
  refine ⟨fun h => ?_, creditTake_refused⟩
  have hr : r = _ := creditTake_granted (c := c) (n := n) (pkg := pkg) (agent := agent) h
  have hslot : slotOf r.2 = ⟨2, false, pkg, agent, x.len, x.off⟩ := by
    rw [hr]
    exact slotOf_heldBy _ pkg agent
  have hreg : rget r.1 (Reg.spcCredit c n) = r.2 := by
    rw [hr]
    exact rget_rset_self _ _ _
  have hy : y = slotOf r.2 := congrArg slotOf hreg
  have hheld : y.state = 2 := by rw [hy, hslot]
  refine ⟨hy.trans hslot, hy.symm, ?second, ?others⟩
  case second =>
    rw [creditTake_refused (not_grants_of_held hheld)]
    exact congrArg (fun k => (r.1, word (k * 2 ^ 62))) hheld
  case others =>
    intro a ha
    rw [hr]
    exact rget_rset_ne _ _ _ _ ha

/-! #### A write from outside (R190, R193, R200) -/

section
variable {hw : Hw} {c off i a n u : Nat} {bs : List Byte} {α : Type}

theorem mget_filter (d : Nat → α) (m : FMap α) (p : Nat → Bool) (k : Nat) :
    mget d (m.filter (fun e => p e.1)) k = if p k then mget d m k else d k := by
  induction m with
  | nil => simp [mget]
  | cons e m ih =>
    obtain ⟨k', v⟩ := e
    by_cases hk : k' = k
    · subst hk
      cases hp : p k' <;> simp [hp, mget, ih]
    · cases hp : p k' <;> simp [hp, mget, hk, ih]

/-- The cells that a write covers are free of bit errors; the others are as before. -/
theorem flipOf_flipClear (u : Nat) (m : FMap Nat) (a n i : Nat) :
    flipOf (flipClear u m a n) i = if a ≤ u * i ∧ u * i + u ≤ a + n then 0 else flipOf m i := by
  unfold flipOf flipClear
  rw [mget_filter (fun _ => 0) m (fun k => !(decide (a ≤ u * k ∧ u * k + u ≤ a + n)))]
  by_cases h : a ≤ u * i ∧ u * i + u ≤ a + n <;> simp [h]

/-- A unit that a write covers is among those it touches. -/
theorem mem_unitsOf (hu : 0 < u) (ha : a ≤ u * i) (hn : u * i + u ≤ a + n) : i ∈ unitsOf u a n := by
  have hfirst : a / u ≤ i := Nat.div_le_of_le_mul ha
  have hlast : i ≤ (a + n - 1) / u := (Nat.le_div_iff_mul_le hu).mpr (by rw [Nat.mul_comm]; omega)
  have hn0 : n ≠ 0 := by omega
  rw [unitsOf, if_neg hn0]
  exact List.mem_map.mpr ⟨i - a / u, List.mem_range.mpr (by omega), by omega⟩

/-- Clearing the poison of the units that satisfy `p`, unit by unit. -/
theorem mget_foldl_clear (p : Nat → Prop) [DecidablePred p] (l : List Nat) (m : FMap Bool) (i : Nat) :
    mget (fun _ => false) (l.foldl (fun b k => if p k then mput (fun _ => false) b k false else b) m) i =
      if i ∈ l ∧ p i then false else mget (fun _ => false) m i := by
  induction l generalizing m with
  | nil => simp
  | cons k l ih =>
    rw [List.foldl_cons, ih]
    by_cases hik : i = k
    · subst hik
      by_cases hp : p i <;> simp [hp]
    · have hput : mget (fun _ => false) (if p k then mput (fun _ => false) m k false else m) i = mget (fun _ => false) m i := by
        split
        · exact mget_mput_ne _ _ _ _ _ hik
        · rfl
      simp [hik, hput]

/-- A plain write clears the poison of the units it covers, and of no other. -/
theorem mget_markUnits_plain (hu : 0 < u) (m : FMap Bool) (a n i : Nat) :
    mget (fun _ => false) (markUnits u m a n false) i =
      if a ≤ u * i ∧ u * i + u ≤ a + n then false else mget (fun _ => false) m i := by
  unfold markUnits
  simp only [Bool.false_eq_true, if_false]
  rw [mget_foldl_clear (fun k => a ≤ u * k ∧ u * k + u ≤ a + n)]
  by_cases h : a ≤ u * i ∧ u * i + u ≤ a + n
  · simp [h, mem_unitsOf hu h.1 h.2]
  · simp only [h, and_false]

theorem spadFound_of_clean (h : flipOf (getCore hw c).spadFlip i = 0) : spadFound hw c i = hw := if_pos h

/-- A read within a word without a bit error finds none. -/
theorem spadScan_one_of_clean (h : flipOf (getCore hw c).spadFlip (off / 8) = 0) : spadScan hw c off 1 = hw := by
  have hunits : unitsOf 8 off 1 = [off / 8] := by simp [unitsOf]
  unfold spadScan
  split
  · rfl
  · rw [hunits]
    exact spadFound_of_clean h

/-- A core after a plain write into its scratchpad. -/
def spadWritten (t : Core) (off : Nat) (bs : List Byte) : Core :=
  { t with spad := putBytes t.spad off bs, spadBad := markUnits 8 t.spadBad off bs.length false,
           spadFlip := flipClear 8 t.spadFlip off bs.length }

/-- A write that meets no bit error in the words at its ends that it writes in part. -/
theorem spadPut_of_clean (hhead : off % 8 = 0 ∨ flipOf (getCore hw c).spadFlip (off / 8) = 0)
    (hend : (off + bs.length) % 8 = 0 ∨ flipOf (getCore hw c).spadFlip ((off + bs.length - 1) / 8) = 0) :
    spadPut hw c off bs false = modCore hw c (fun t => spadWritten t off bs) := by
  have hskip {o : Nat} {p : Prop} [Decidable p] (h : ¬p ∨ flipOf (getCore hw c).spadFlip (o / 8) = 0) :
      (if p then spadScan hw c o 1 else hw) = hw := by
    rcases h with h | h
    · exact if_neg h
    · rw [spadScan_one_of_clean h, ite_self]
  unfold spadPut
  dsimp only
  rw [hskip (hhead.imp_left fun h h' => h'.2 h), hskip (hend.imp_left fun h h' => h'.2 h)]
  rfl

theorem mget_spadWritten_spad (t : Core) (off : Nat) (bs : List Byte) (i : Nat) :
    mget memDefault (spadWritten t off bs).spad i =
      if off ≤ i ∧ i < off + bs.length then bs.getD (i - off) 0 else mget memDefault t.spad i := by
  split
  next h => exact mget_putBytesD_in _ _ _ _ _ h.1 h.2
  next h => exact mget_putBytesD_out _ _ _ _ _ (by omega)

/-- A write that lands is a plain write, once the access has been counted. -/
theorem spadWriteBy_ok {h : Hw} {ag : Agent} (hok : spadWriteBy hw ag c off bs = (h, .ok)) :
    spadPut (spadServed hw c) c off bs false = h := by
  unfold spadWriteBy spadWriteByP at hok
  dsimp only at hok
  split_ifs at hok with absent size gated
  · cases hok
  · cases hok
  · cases hok
  · split at hok
    next => cases hok
    next =>
      split at hok
      next => cases hok; rfl
      next => cases hok

end

/-- A write from outside that lands answers `done`. -/
theorem spadRemoteWrite_effect {s : State} {by_ : Agent} {c : CoreId} {off : Nat} {data : List Byte} {h : Hw} (hon : s.on)
    (hin : off + data.length ≤ spadSize) (hne : data ≠ []) (hby : by_ ≠ engAgent c)
    (hheld : regHeld s.now by_ (c / 128) (coreWin c + off) = false) (hok : spadWriteBy s.now by_ c off data = (h, .ok)) :
    Effect (.spadRemoteWrite by_ c off data) s h .done := by
  refine effect_onHw rfl hon ?_
  rw [guardHw_of_true _ (by simp [hin, hne, hby, hheld]), spadWriteRow, hok]
  rfl

/-- Updates of a core change nothing but the cores. -/
theorem restore_cores {hw new : Hw} {m : FMap Core} (h : new = { hw with cores := m }) :
    { new with cores := hw.cores } = hw := by
  subst h
  rfl

/-- The next state of a command whose effect leaves no message to deliver and no stop to carry out, the monitor idle. -/
theorem next_of_quiet_effect {i : Instr} {s t : State} {h : Hw} {ans : Answer} (heff : Effect i s h ans) (hmsgs : h.msgs = [])
    (hstop : h.stop = s.hw.stop) (hidle : s.sec.mon.wait = .idle) (hexec : exec i s = .next t) :
    t = { s with hw := h, answer := ans } := by
  rw [Effect, hexec, settled_quiet hmsgs hstop hidle] at heff
  injection heff

/-- Settles O57: no bit error is met, so the write changes three maps of its core, and the row neither stops the package nor
leaves a message. -/
theorem spadWriteFrame : Obligations.SpadWriteFrame := by
  intro by_ c off data h s t hon hmsgs hidle hin hne hby hheld x y hhead hend hok hexec
  have hserved : getCore (spadServed s.now c) c = { x with begun := mmod (fun _ => 0) x.begun 5 (· + 1) } :=
    getCore_modCore_self _ _ _
  obtain rfl : modCore (spadServed s.now c) c (fun t => spadWritten t off data) = h := by
    rw [← spadWriteBy_ok hok, spadPut_of_clean]
    · rwa [hserved]
    · rwa [hserved]
  obtain rfl := next_of_quiet_effect (spadRemoteWrite_effect hon hin hne hby hheld hok) hmsgs rfl hidle hexec
  have hy : y = spadWritten { x with begun := mmod (fun _ => 0) x.begun 5 (· + 1) } off data := by
    rw [← hserved]
    exact getCore_modCore_self _ _ _
  rw [hy]
  refine ⟨mget_spadWritten_spad _ off data, fun u hlo hhi => ?poison, fun u => ?flips, ?core, fun d hd => ?others, ?rest, ?sec⟩
  case poison => exact (mget_markUnits_plain (by decide) _ _ _ u).trans (if_pos ⟨hlo, hhi⟩)
  case flips => exact flipOf_flipClear 8 x.spadFlip off data.length u
  case core => rfl
  case others => exact (getCore_modCore_ne _ _ _ _ hd).trans (getCore_modCore_ne _ _ _ _ hd)
  case rest => exact restore_cores (hw := s.now) rfl
  case sec => rfl

/-! #### Registers of the SPC (R55, R196, R204) -/

section
variable {s : State} {by_ : Agent} {c : CoreId} {v : Word}

/-- A write that arrives at a register of a present core is the register's. -/
theorem coreRegWrite_of_arrives {hw : Hw} {k o : Nat} (ha : arrives hw by_ = true) (hp : corePresent hw c = true)
    (hk : k < 10) (ho : o < 0x1000) (f : Hw → Hw × Answer) :
    coreRegWrite by_ c (blkAddr (.core c k) o) f hw = f hw := by
  unfold coreRegWrite
  rw [if_pos hp]
  exact regWriteBy_of_arrives ha (blkOf_eq_some_iff.mpr (.inl (locate_blkAddr_core c.isLt hk ho))) f

theorem coreRegWrite_spcCredit {hw : Hw} (ha : arrives hw by_ = true) (hp : corePresent hw c = true) (slot : Fin 64)
    (f : Hw → Hw × Answer) : coreRegWrite by_ c (Reg.spcCredit c slot) f hw = f hw := by
  have haddr : Reg.spcCredit c slot = blkAddr (.core c 3) (0x100 + 8 * slot) := by
    simp only [Reg.spcCredit, blkAddr, Nat.add_assoc]
  rw [haddr]
  exact coreRegWrite_of_arrives ha hp (by decide) (by omega) f

theorem coreRegWrite_spcBankGate {hw : Hw} (ha : arrives hw by_ = true) (hp : corePresent hw c = true)
    (f : Hw → Hw × Answer) : coreRegWrite by_ c (Reg.spcBankGate c) f hw = f hw :=
  coreRegWrite_of_arrives (k := 3) (o := 8) ha hp (by decide) (by decide) f

/-- STATE = 0 frees the slot. -/
theorem creditWrite_free {hw : Hw} {n : Nat} (hv : bits v 63 62 = 0) :
    creditWrite c n v hw = did (rset hw (Reg.spcCredit c n) 0) :=
  if_pos hv

/-- STATE = 1 or 2 posts the slot where the range is accepted. -/
theorem creditWrite_post {hw : Hw} {n : Nat} (hv : (slotOf v).state = 1 ∨ (slotOf v).state = 2)
    (hok : postErr hw c n (slotOf v) = 0) :
    creditWrite c n v hw = did (rset hw (Reg.spcCredit c n) (v &&& 0xEFFFFFFFFFE1FFFF#64)) := by
  have hnot : (slotOf v).state ≠ 0 ∧ (slotOf v).state ≠ 3 := by omega
  simp [creditWrite, hnot, hok]

/-- The DE command that waits to send its take again. -/
def retriesTake (m : Cmd) : Bool :=
  match m.work with
  | .take _ _ false => m.stage == .started
  | _ => false

/-- A refused take with tries left is sent again, unless the mesh holds it. -/
theorem takeRetryRow_again {hw : Hw} {q left pa : Nat} {b : Bool} {m : Cmd} (hm : oldest hw c q 4 retriesTake = some m)
    (hwork : m.work = .take left pa b) (hleft : left ≠ 0) (hopen : ¬(pkgOf hw pa = 0 ∧ dmaHeld hw c (localOf pa) = true)) :
    takeRetryRow c q hw = did (setCmd (takeOnce hw c { m with work := .none } left pa).1 c
      (takeOnce hw c { m with work := .none } left pa).2) := by
  unfold takeRetryRow
  split
  next hnone => cases hm.symm.trans hnone
  next m' hsome =>
    obtain rfl : m = m' := Option.some.inj (hm.symm.trans hsome)
    simp only [hwork, if_neg hleft, if_neg hopen]

end

/-! #### Each row (O13) -/

theorem exec_creditTakeRequest (c : CoreId) (slot : Fin 64) (pkg agent : Fin 4096) (s : State) :
    exec (.creditTakeRequest c slot pkg agent) s = execCreditTakeRequest c slot pkg agent s := rfl

theorem exec_creditTakeRetry (c : CoreId) (q : QueueId) (s : State) :
    exec (.creditTakeRetry c q) s = execCreditTakeRetry c q s := rfl

section
variable {s : State} {by_ : Agent} {c : CoreId} {slot : Fin 64} {v : Word} (hon : s.on)
include hon

theorem creditTakeRetry_effect {q : QueueId} {left pa : Nat} {b : Bool} {m : Cmd} (halive : coreAlive s.now c = true)
    (hm : oldest s.now c q 4 retriesTake = some m) (hwork : m.work = .take left pa b) (hleft : left ≠ 0)
    (hopen : ¬(pkgOf s.now pa = 0 ∧ dmaHeld s.now c (localOf pa) = true)) :
    Effect (.creditTakeRetry c q) s (setCmd (takeOnce s.now c { m with work := .none } left pa).1 c
      (takeOnce s.now c { m with work := .none } left pa).2) .done := by
  refine effect_onHw (exec_creditTakeRetry c q s) hon ?_
  rw [if_pos halive]
  exact takeRetryRow_again hm hwork hleft hopen

theorem bankWakeDone_effect {bank : Fin 48} (hwaking : bit (getCore s.now c).waking bank = true) :
    Effect (.bankWakeDone c bank) s (bankWipe (modCore (rclr s.now (Reg.spcBankOff c) (2 ^ bank.val)) c (fun t =>
      { t with waking := t.waking &&& ~~~ BitVec.ofNat 48 (2 ^ bank.val) })) c bank) .done :=
  (effect_guardHw (i := .bankWakeDone c bank) rfl hon hwaking :)

variable (hp : corePresent s.now c = true)
include hp

theorem creditTakeRequest_effect (pkg agent : Fin 4096) : Effect (.creditTakeRequest c slot pkg agent) s
    (creditTake s.now c slot pkg agent).1 (.value (creditTake s.now c slot pkg agent).2) := by
  refine effect_onHw (exec_creditTakeRequest c slot pkg agent s) hon ?_
  rw [if_pos hp]

theorem creditEndMessage_effect (pkg agent : Fin 4096) :
    Effect (.creditEndMessage c slot pkg agent) s (creditEnd s.now c slot pkg agent) .done :=
  (effect_guardHw (i := .creditEndMessage c slot pkg agent) rfl hon hp :)

theorem bankGated_effect {bank : Fin 48}
    (h : (decide (groupState s.now (c / 8) ≤ 1) && rbit s.now (Reg.spcBankGate c) bank &&
      !rbit s.now (Reg.spcBankOff c) bank && !bankHeld s.now c bank && !bankBusy s.now c bank) = true) :
    Effect (.bankGated c bank) s (bankWipe (ror s.now (Reg.spcBankOff c) (2 ^ bank.val)) c bank) .done :=
  (effect_guardHw (i := .bankGated c bank) rfl hon (by rw [hp, Bool.true_and]; exact h) :)

variable (ha : arrives s.now by_ = true)
include ha

theorem creditSlotPost_effect (hv : (slotOf v).state = 1 ∨ (slotOf v).state = 2)
    (hok : postErr s.now c slot (slotOf v) = 0) :
    Effect (.creditSlotPost by_ c slot v) s (rset s.now (Reg.spcCredit c slot) (v &&& 0xEFFFFFFFFFE1FFFF#64)) .done := by
  have hbits : bits v 63 62 ≠ 0 := fun h => by rcases hv with hv | hv <;> exact absurd (h.symm.trans hv) (by decide)
  refine effect_onHw rfl hon ?_
  rw [guardHw_of_true _ (by simp [hbits]), coreRegWrite_spcCredit ha hp, creditWrite_post hv hok]
  rfl

theorem creditSlotFree_effect (hv : bits v 63 62 = 0) :
    Effect (.creditSlotFree by_ c slot v) s (rset s.now (Reg.spcCredit c slot) 0) .done := by
  refine effect_onHw rfl hon ?_
  rw [guardHw_of_true _ (by simp [hv]), coreRegWrite_spcCredit ha hp, creditWrite_free hv]
  rfl

theorem bankGateRequest_effect (hv : (v &&& ~~~ rget s.now (Reg.spcBankGate c) &&& 0xFFFFFFFFFFFF#64) ≠ 0) :
    Effect (.bankGateRequest by_ c v) s (bankGateWrite c v s.now).1 .done := by
  refine effect_onHw rfl hon ?_
  rw [guardHw_of_true _ (by simpa using hv), coreRegWrite_spcBankGate ha hp]
  rfl

theorem bankGateClear_effect (hv : (rget s.now (Reg.spcBankGate c) &&& ~~~ v) ≠ 0) :
    Effect (.bankGateClear by_ c v) s (bankGateWrite c v s.now).1 .done := by
  refine effect_onHw rfl hon ?_
  rw [guardHw_of_true _ (by simpa using hv), coreRegWrite_spcBankGate ha hp]
  rfl

end

/-- Settles O13: messages and writes from outside meet a present core, register writes arrive, and a retry, a gating and a
wake find their conditions. -/
theorem scratchpadCompletes : Obligations.ScratchpadCompletes := by
  intro by_ c q slot pkg agent bank v s hon hp
  refine ⟨creditTakeRequest_effect hon hp pkg agent, creditEndMessage_effect hon hp pkg agent, fun off data h => ?write,
    fun ha => ?post, fun ha => ?free, fun m left pa b => ?retry, fun ha => ?request, fun ha => ?clear, ?gated, ?woken⟩
  case write => exact spadRemoteWrite_effect hon
  case post => exact creditSlotPost_effect hon hp ha
  case free => exact creditSlotFree_effect hon hp ha
  case retry => exact creditTakeRetry_effect hon
  case request => exact bankGateRequest_effect hon hp ha
  case clear => exact bankGateClear_effect hon hp ha
  case gated => exact bankGated_effect hon hp
  case woken => exact bankWakeDone_effect hon

end Sys2Proof.Machine
end

section
/-! PROOF. The DMA engine (R191–R200, R217, R218, R322, R389). Its commands start as the commands of every engine do
(`serves_row`). -/

namespace Sys2Proof.Machine

/-- Settles O8: each of the nine rows is its engine's row with its own operation code and work. -/
theorem dmaCommandsComplete : Obligations.DmaCommandsComplete := by
  intro c q s hon
  refine ⟨?xfer, ?gather, ?scatter, ?fill, ?copy, ?post, ?take, ?migrate, ?prefetch⟩
  case xfer => exact serves_row rfl hon
  case gather => exact serves_row rfl hon
  case scatter => exact serves_row rfl hon
  case fill => exact serves_row rfl hon
  case copy => exact serves_row rfl hon
  case post => exact serves_row rfl hon
  case take => exact serves_row rfl hon
  case migrate => exact serves_row rfl hon
  case prefetch => exact serves_row rfl hon

end Sys2Proof.Machine
end

section
/-! PROOF. Doorbells (R220): what a doorbell makes of TAIL and leaves unchanged, that the order of two does not matter. -/

namespace Sys2Proof.Machine

section
variable {head n t a b : Nat}

/-- How far a ring position lies beyond HEAD. -/
def aheadOf (head x : Nat) : Nat := (x + 2 ^ 32 - head) % 2 ^ 32

/-- TAIL after a doorbell: the new one where it lies beyond the old one and within the ring of `2 ^ n` slots. -/
def rungTail (head n t new : Nat) : Nat :=
  if aheadOf head t < aheadOf head new ∧ aheadOf head new ≤ 2 ^ n then new else t

/-- Positions equally far beyond HEAD are the same. -/
theorem eq_of_aheadOf_eq (hhead : head < 2 ^ 32) (ha : a < 2 ^ 32) (hb : b < 2 ^ 32)
    (h : aheadOf head a = aheadOf head b) : a = b := by
  unfold aheadOf at h
  omega

/-- Of two doorbells in either order, the farther one within the ring stands at the end. -/
theorem rungTail_comm (hhead : head < 2 ^ 32) (ha : a < 2 ^ 32) (hb : b < 2 ^ 32) :
    rungTail head n (rungTail head n t a) b = rungTail head n (rungTail head n t b) a := by
  have hsame := eq_of_aheadOf_eq hhead ha hb
  unfold rungTail
  split_ifs <;> omega

end

section
variable {hw : Hw} {c q g new x : Nat}

theorem rget_logPush (l cap : Nat) (e : Word × Word) : rget (logPush hw l cap e).2 x = rget hw x := by
  unfold logPush
  dsimp only
  split <;> rfl

theorem rget_qfeLog (cause v : Nat) : rget (qfeLog hw c cause q v) x = rget hw x := rget_logPush _ _ _

theorem rget_rsetN_ne {a v : Nat} (h : x ≠ a) : rget (rsetN hw a v) x = rget hw x := rget_rset_ne _ _ _ _ h

theorem rget_rfield_ne {a hi lo v : Nat} (h : x ≠ a) : rget (rfield hw a hi lo v) x = rget hw x :=
  rget_rset_ne _ _ _ _ h

/-- A group that starts to wake has its power register written alone. -/
theorem rget_startWake (h : x ≠ Reg.cgPwrCtrl g) : rget (startWake hw g) x = rget hw x := by
  have hgroup (w : Hw) : rget { setGroup w g 3 with ramps := hw.ramps ++ [512 + g] } x = rget w x := rfl
  exact (hgroup _).trans (rget_rfield_ne h)

theorem startWake_cores : (startWake hw g).cores = hw.cores := by
  have hgroup (w : Hw) : ({ setGroup w g 3 with ramps := hw.ramps ++ [512 + g] } : Hw).cores = w.cores := rfl
  exact (hgroup _).trans (rfield_cores _ _ _ _ _)

/-- Work that reaches a group writes its power register alone. -/
theorem rget_groupRung (h : x ≠ Reg.cgPwrCtrl g) : rget (groupRung hw g) x = rget hw x := by
  unfold groupRung
  split_ifs
  · exact (rget_setGroup _ _ _ _).trans (rget_rfield_ne h)
  · exact rget_startWake h
  · rfl

theorem groupRung_cores : (groupRung hw g).cores = hw.cores := by
  unfold groupRung
  split_ifs
  · exact (setGroup_cores _ _ _).trans (rfield_cores _ _ _ _ _)
  · exact startWake_cores
  · rfl

/-- A doorbell writes TAIL and the group's power register alone. -/
theorem rget_ringDoorbell (htail : x ≠ Reg.qfeQTail c q) (hpwr : x ≠ Reg.cgPwrCtrl (c / 8)) :
    rget (ringDoorbell hw c q new) x = rget hw x := by
  unfold ringDoorbell
  dsimp only
  split_ifs
  · exact rget_qfeLog 2 new
  · exact rget_qfeLog 1 new
  · exact rget_groupRung hpwr
  · exact (rget_groupRung hpwr).trans (rget_rsetN_ne htail)

theorem ringDoorbell_cores : (ringDoorbell hw c q new).cores = hw.cores := by
  simp only [ringDoorbell, qfeLog, apply_ite Hw.cores, logPush_cores, groupRung_cores, rsetN_cores, ite_self]

/-- A doorbell leaves the state of every queue. -/
theorem getQueue_ringDoorbell (d p : Nat) : getQueue (ringDoorbell hw c q new) d p = getQueue hw d p := by
  unfold getQueue getCore
  rw [ringDoorbell_cores]

/-- A queue's registers are none of a group's. -/
theorem ne_cgPwrCtrl_of_core (c : CoreId) (q : QueueId) {o : Nat} (ho : o < 0x180) :
    coreBlk c (0x1000 + o + 0x80 * q) ≠ Reg.cgPwrCtrl g := by
  unfold coreBlk coreWin Reg.cgPwrCtrl dieBlk
  omega

end

section
variable (hw : Hw) (c : CoreId) (q : QueueId) (a b : Nat)

theorem qfeQHead_ringDoorbell : rget (ringDoorbell hw c q a) (Reg.qfeQHead c q) = rget hw (Reg.qfeQHead c q) :=
  rget_ringDoorbell (by unfold Reg.qfeQHead Reg.qfeQTail coreBlk; omega)
    (ne_cgPwrCtrl_of_core c q (o := 0x118) (by decide))

theorem qfeQCtrl_ringDoorbell : rget (ringDoorbell hw c q a) (Reg.qfeQCtrl c q) = rget hw (Reg.qfeQCtrl c q) :=
  rget_ringDoorbell (by unfold Reg.qfeQCtrl Reg.qfeQTail coreBlk; omega)
    (ne_cgPwrCtrl_of_core c q (o := 0x100) (by decide))

variable {hw c q a b} {head n t : Nat} (hhead : (rget hw (Reg.qfeQHead c q)).toNat = head)
  (hn : rbits hw (Reg.qfeQCtrl c q) 12 8 = n) (ht : (rget hw (Reg.qfeQTail c q)).toNat = t)
  (hst : (getQueue hw c q).st ≠ 0) (ha : a < 2 ^ 32)
include hhead hn ht hst

/-- At a queue that is not OFF a doorbell beyond the ring is logged, and one not beyond TAIL leaves it. -/
theorem ringDoorbell_of_st_ne_zero : ringDoorbell hw c q a =
    if aheadOf head a > 2 ^ n then qfeLog hw c 1 q a
    else groupRung (if aheadOf head a ≤ aheadOf head t then hw else rsetN hw (Reg.qfeQTail c q) a) (c / 8) := by
  subst hhead hn ht
  exact if_neg hst

include ha

theorem qfeQTail_ringDoorbell : (rget (ringDoorbell hw c q a) (Reg.qfeQTail c q)).toNat = rungTail head n t a := by
  have hpwr : Reg.qfeQTail c q ≠ Reg.cgPwrCtrl (c / 8) := ne_cgPwrCtrl_of_core c q (o := 0x120) (by decide)
  rw [ringDoorbell_of_st_ne_zero hhead hn ht hst, rungTail]
  by_cases hfar : aheadOf head a > 2 ^ n
  · rw [if_pos hfar, if_neg (by omega), rget_qfeLog, ht]
  · by_cases hold : aheadOf head a ≤ aheadOf head t
    · rw [if_neg hfar, if_pos hold, if_neg (by omega), rget_groupRung hpwr, ht]
    · rw [if_neg hfar, if_neg hold, if_pos (by omega), rget_groupRung hpwr, rsetN, rget_rset_self, word,
        BitVec.toNat_ofNat, Nat.mod_eq_of_lt (by omega)]

/-- The second doorbell finds HEAD and the ring's size as the first one did. -/
theorem qfeQTail_ringDoorbell_twice (hb : b < 2 ^ 32) :
    (rget (ringDoorbell (ringDoorbell hw c q a) c q b) (Reg.qfeQTail c q)).toNat =
      rungTail head n (rungTail head n t a) b := by
  refine qfeQTail_ringDoorbell ?head ?size (qfeQTail_ringDoorbell hhead hn ht hst ha) ?on hb
  case head => rw [qfeQHead_ringDoorbell, hhead]
  case size => rw [rbits, qfeQCtrl_ringDoorbell, ← rbits, hn]
  case on => rwa [getQueue_ringDoorbell]

end

/-- Settles O54: a doorbell takes TAIL to `rungTail`, which depends on HEAD and the ring's size, and a doorbell changes
neither; two positions are taken in either order. -/
theorem doorbellsCommute : Obligations.DoorbellsCommute := by
  intro hw c q a b ha hb tail head d n hhead _ hst
  refine ⟨qfeQTail_ringDoorbell rfl rfl rfl hst ha, ?_⟩
  calc tail (ringDoorbell (ringDoorbell hw c q a) c q b)
      = rungTail head n (rungTail head n (tail hw) a) b := qfeQTail_ringDoorbell_twice rfl rfl rfl hst ha hb
    _ = rungTail head n (rungTail head n (tail hw) b) a := rungTail_comm hhead ha hb
    _ = tail (ringDoorbell (ringDoorbell hw c q b) c q a) := (qfeQTail_ringDoorbell_twice rfl rfl rfl hst hb ha).symm

end Sys2Proof.Machine
end

section
/-! PROOF. The pipeline of a queue (R205, R225, R226, R262, R282, R564). The QFE's own commands start as the commands of
every engine do (`serves_row`); each other row by an equation that says what it does where it takes its step. -/

namespace Sys2Proof.Machine

/-- Settles O5: each of the four rows is the QFE's row with its own operation code and work. -/
theorem qfeCommandsComplete : Obligations.QfeCommandsComplete := by
  intro c q s hon nop fence ring stop
  refine ⟨?nop, ?fence, ?ring, ?stop⟩
  case nop => exact serves_row rfl hon
  case fence => exact serves_row rfl hon
  case ring => exact serves_row rfl hon
  case stop => exact serves_row rfl hon

/-! #### Rows of the pipeline (R205, R226, R262, R282, R564) -/

section
variable {hw h : Hw} {c q eng : Nat} {m : Cmd}

/-- A queue with nothing held at fetch and no nest takes its next slot. -/
theorem fetchRow_slot (hmay : mayFetch hw c q = true) (hheld : fetchingCmd hw c q = none)
    (hloop : (getQueue hw c q).loop = none) (hslot : fetchSlot hw c q = some h) : fetchRow c q hw = did h := by
  simp only [fetchRow, hmay, hheld, hloop, hslot, didOr, Bool.not_true, Bool.false_eq_true, if_false]

/-- A core that starts commands, a queue that runs: an encoding error of its own completes, with no release to make. -/
theorem badRow_encoding (hm : (getCore hw c).cmds.find? (fun m : Cmd => decide (m.q = q) && unstarted m) = some m)
    (hbad : m.stage = .bad) (hst : m.status = 0) (hroom : recRoom hw c m = true) (hrel : releases m = false)
    (hcore : coreStarts hw c = true) (hrun : (getQueue hw c q).st = 1) :
    badRow c q hw = did (retireCmd hw c (afterDrain hw c { m with status := stEncoding })) := by
  have hends : badEnds hw c q m = true := by simp [badEnds, hbad, hroom, hst, hcore, hrun]
  have hnone (m1 : Cmd) : (releases m && signalsRun m1) = false := by rw [hrel, Bool.false_and]
  unfold badRow
  simp only [hm, hends, hnone, hst, if_true, Bool.false_eq_true, if_false]
  rfl

theorem engCode_eq_zero_iff {e : Engine} : engCode e = 0 ↔ e = .qfe := by
  cases e <;> decide

/-- A translated command whose engine's FIFO has room enters it; without a wait on memory it reads nothing. -/
theorem issueRow_fifo (heng : eng ≠ 0)
    (hm : (getCore hw c).cmds.find? (fun m : Cmd => m.q == q && hEng m.w == eng && m.stage == .window) = some m)
    (h : (coreStarts hw c && !m.old && !m.walking && !faulted (getCore hw c) m.id && hMsk m.w != 1) = true)
    (hrun : (getQueue hw c q).st = 1) (hroom : fifoUsed hw c eng < fifoSize eng) :
    issueRow c q eng hw = did (setCmd hw c { m with stage := .fifo }) := by
  simp only [Bool.and_eq_true, Bool.not_eq_true', bne_iff_ne, ne_eq, and_assoc] at h
  obtain ⟨hcore, hold, hwalk, hfault, hmsk⟩ := h
  simp [issueRow, hm, heng, hcore, hold, hwalk, hfault, hmsk, hrun, Nat.not_le.mpr hroom]

/-- A command without a release is no QFE_FENCE (R225). -/
theorem ne_fence_of_not_releases (hrel : releases m = false) : kop m.w ≠ (0, 0x01) := by
  intro hk
  simp [releases, hk] at hrel

/-- A command whose work is done and has appeared, with no END to send and no earlier command to wait for, retires, or its
release starts. -/
theorem retireRow_done {m0 : Cmd} {w : Hw} (halive : coreAlive hw c = true)
    (hm : oldest hw c q eng (fun m => workDone m && recRoom hw c m) = some m0) (hland : landLate hw c m0 = some (w, m))
    (howes : owesEnd m = false) (hfence : kop m.w ≠ (0, 0x01)) :
    retireRow c q eng hw = did (if releases m then
        setCmd (meLeave w c m) c { m with stage := .releasing ((getCore w c).mb.map (·.gran)), resv := wantsRec w c m }
      else retireCmd w c m) := by
  unfold retireRow
  simp only [halive, hm, hland, howes, hfence, Option.bind_some, Bool.not_true, Bool.false_eq_true, if_false, false_and]
  split <;> rfl

/-- A command whose release has started. -/
def isReleasing (m : Cmd) : Bool :=
  match m.stage with
  | .releasing _ => true
  | _ => false

/-- A release whose doorbell nothing holds and whose entries drain completes. -/
theorem releaseRow_done {l : List Nat} (hm : oldest hw c q eng isReleasing = some m)
    (hstage : m.stage = .releasing l) (hring : ringHeld hw c m = false)
    (hdrain : mbDrainAll hw c ((getCore hw c).mb.filter (fun x => l.contains x.gran)) = some h) :
    releaseRow c q eng hw = did (retireCmd h c (afterDrain h c m)) := by
  unfold releaseRow
  split
  next hnone => cases hm.symm.trans hnone
  next m' hsome =>
    obtain rfl : m = m' := Option.some.inj (hm.symm.trans hsome)
    simp only [hstage, hring, hdrain, Bool.false_eq_true, if_false]

/-- The bytes of a record in its ring, with the PHASE they are written under (R226). -/
def recBytes (r : Rec) (phase : Nat) : List Byte := leBytes 8 (r.w0.toNat + phase * 2 ^ 63) ++ leBytes 8 r.w1.toNat

/-- The oldest record of a queue whose ring has room, at a place that can be written, enters it. -/
theorem recordRow_done {r : Rec} {cq : Word} {tail phase n next : Nat} {h2 : Hw}
    (hr : (getCore hw c).recs.find? (fun r => r.q == q) = some r) (hcq : rget hw (Reg.qfeQCq c q) = cq)
    (htail : (rget hw (Reg.qfeQCqTail c q)).toNat % 2 ^ 32 = tail) (hphase : rbits hw (Reg.qfeQCqTail c q) 32 32 = phase)
    (hn : 2 ^ bits cq 4 0 = n) (hnext : (tail + 1) % 2 ^ 32 = next) (hen : bit cq 7 = true)
    (hroom : (tail + 2 ^ 32 - rbits hw (Reg.qfeQCqHead c q) 31 0) % 2 ^ 32 < n)
    (hput : pocWriteN 2 hw (engAgent c) (256 * bits cq 51 8 + 16 * (tail % n)) (recBytes r phase) false 0 0 = some h)
    (h2eq : modCore (rsetN h (Reg.qfeQCqTail c q) (next + (if next % n = 0 then 1 - phase else phase) * 2 ^ 32)) c
        (fun t => { t with recs := t.recs.erase r }) = h2) :
    recordRow c q hw = did (if r.cint then
      message h2 (c / 128) (Reg.qfeMsiAddr c) ((rget hw (Reg.qfeMsiData c)).toNat + q) else h2) := by
  subst hcq htail hphase hn hnext h2eq
  unfold recBytes at hput
  unfold recordRow
  simp only [hr, hen, Bool.not_true, Bool.false_eq_true, false_or, if_neg (Nat.not_le.mpr hroom), hput]

end

/-- A row that may have marked a context killed has its effect with that context gone (R83). -/
theorem effect_killPass {i : Instr} {s : State} {c : CoreId} {f : Hw → Hw × Answer} {h : Hw}
    (hi : exec i s = onHw s (fun hw => killPass c (f hw))) (hon : s.on) (hf : f s.now = did h) :
    Effect i s (killPass c (h, .done)).1 .done := by
  refine effect_onHw hi hon ?_
  rw [hf]
  exact Prod.ext rfl (killPass_answer c _)

/-- Settles O10: each row's condition is what its clause assumes, and the row's equation says what it does there. -/
theorem pipelineCompletes : Obligations.PipelineCompletes := by
  intro c q e s hon hw
  refine ⟨fun h hmay hheld hloop hslot => ?fetch, fun m hm hbad hst hroom hrel hcore hrun => ?bad,
    fun m he hm hcan hrun hroom => ?issue, fun m0 m w halive hm hland howes => ⟨fun hrel => ?retire, fun hrel hk => ?release⟩,
    fun m l h hm hstage hring hdrain => ?released, ?record⟩
  case fetch => exact effect_onHw rfl hon (fetchRow_slot hmay hheld hloop hslot)
  case bad => exact effect_killPass rfl hon (badRow_encoding hm hbad hst hroom hrel hcore hrun)
  case issue =>
    have heng : engCode e ≠ 0 := mt engCode_eq_zero_iff.mp he
    exact effect_onHw rfl hon (issueRow_fifo heng hm hcan hrun hroom)
  case retire =>
    have hfence := ne_fence_of_not_releases hrel
    exact effect_onHw rfl hon ((retireRow_done halive hm hland howes hfence).trans (congrArg did (if_neg (by simp [hrel]))))
  case release =>
    exact effect_onHw rfl hon ((retireRow_done halive hm hland howes hk).trans (congrArg did (if_pos hrel)))
  case released => exact effect_killPass rfl hon (releaseRow_done hm hstage hring hdrain)
  case record =>
    intro r h hr cq n tail phase next hen hroom hput h2
    exact effect_onHw rfl hon (recordRow_done hr rfl rfl rfl rfl rfl hen hroom hput rfl)

end Sys2Proof.Machine
end

section
/-! PROOF. Waits on memory (R223, R224, R388): a recheck, a bound that runs out, the home's note of a write. -/

namespace Sys2Proof.Machine

section
variable {s : State} {c : CoreId} {q : QueueId} {e : Engine} {m : Cmd} (hon : s.on)

theorem exec_semRecheck : exec (.semRecheck c q e) s = execSemRecheck c q e s := rfl

theorem exec_writeNote (line : Nat) : exec (.writeNote c line) s = execWriteNote c line s := rfl

theorem exec_waitTimeout : exec (.waitTimeout c q e) s = execWaitTimeout c q e s := rfl

include hon

/-- A recheck reads the word that the head command waits on. -/
theorem semRecheck_effect (hm : headCmd s.now c q (engCode e) = some m) (hmsk : hMsk m.w = 1) (hpre : m.pre.isNone = true) :
    Effect (.semRecheck c q e) s (semRead s.now c m) .done := by
  refine effect_onHw exec_semRecheck hon ?_
  simp only [hm, hmsk, hpre, and_self, if_true]
  rfl

/-- A bound on waits ends the head command whose waits are unmet. -/
theorem waitTimeout_effect (hm : headCmd s.now c q (engCode e) = some m) (htmo : rbits s.now (Reg.qfeQWtmo c q) 31 0 ≠ 0)
    (halive : coreAlive s.now c = true) (hrun : (getQueue s.now c q).st = 1) (hpre : m.pre.isNone = true)
    (hseen : m.seenBad = false) (hunmet : (localMet s.now c m.w && memMet m) = false) :
    Effect (.waitTimeout c q e) s (endUnstarted s.now c m stWaitTimeout) .done := by
  refine effect_onHw exec_waitTimeout hon ?_
  simp only [hm]
  rw [if_pos ⟨htmo, halive, hrun, hpre, by simp [hseen], by simp [hunmet]⟩]
  rfl

end

/-- Settles O11: the head command waits on memory, or its bound has run out, or the home's note is under way. -/
theorem waitsComplete : Obligations.WaitsComplete := by
  intro c q e s hon hw
  refine ⟨fun m => ?recheck, fun m => ?timeout, fun line m rest hnote => ?note⟩
  case recheck => exact semRecheck_effect hon
  case timeout => exact waitTimeout_effect hon
  case note =>
    refine effect_onHw (exec_writeNote line) hon ?_
    simp only [hw] at hnote
    simp only [hnote]
    rfl

end Sys2Proof.Machine
end

section
/-! PROOF. Queue registers (R219–R221, R226, R235): a write to a register of a present core's QFE that arrives, and what
each register then does. -/

namespace Sys2Proof.Machine

section
variable {by_ : Agent} {c : CoreId}

/-- A write that arrives at a register of a present core's QFE is the register's. -/
theorem coreRegWrite_qfe {hw : Hw} {o : Nat} (ha : arrives hw by_ = true) (hp : corePresent hw c = true) (ho : o < 0x1000)
    (f : Hw → Hw × Answer) : coreRegWrite by_ c (coreBlk c (0x1000 + o)) f hw = f hw :=
  coreRegWrite_of_arrives (k := 1) ha hp (by decide) ho f

/-- A write that arrives at a register of one of its queues has the effect of the register. -/
theorem qfeQ_effect {i : Instr} {s : State} {q : QueueId} {o : Nat} {f : Hw → Hw × Answer} {h : Hw}
    (hi : exec i s = onHw s (coreRegWrite by_ c (coreBlk c (0x1000 + o + 0x80 * q)) f)) (hon : s.on)
    (ha : arrives s.now by_ = true) (hp : corePresent s.now c = true) (ho : o < 0x180) (hf : f s.now = did h) :
    Effect i s h .done := by
  have hreg : 0x1000 + o + 0x80 * q.val = 0x1000 + (o + 0x80 * q) := Nat.add_assoc _ _ _
  refine effect_onHw hi hon ?_
  rw [hreg, coreRegWrite_qfe ha hp (by omega), hf]
  rfl

end

section
variable {hw : Hw} {c q : Nat} {v : Word}

/-- Enabling an OFF queue whose ring fits. -/
theorem qCtrlWrite_enable (hst : (getQueue hw c q).st = 0) (hv : bit v 0 = true) (hlo : 6 ≤ bits v 12 8)
    (hhi : bits v 12 8 ≤ 16) (hfit : ringFits (4096 * rbits hw (Reg.qfeQRing c q) 51 12) (64 * 2 ^ bits v 12 8) = true) :
    qCtrlWrite c q v hw = did (enableQueue (rsetN hw (Reg.qfeQCtrl c q) (bits v 12 8 * 256 + bits v 1 0)) c q) := by
  simp [qCtrlWrite, hst, hv, hfit, Nat.not_lt.mpr hlo, Nat.not_lt.mpr hhi]

/-- Turning an idle queue off. -/
theorem qCtrlWrite_disable (hst : (getQueue hw c q).st = 1) (hv : bit v 0 = false)
    (hsize : bits v 12 8 = rbits hw (Reg.qfeQCtrl c q) 12 8) (hidle : queueIdle hw c q = true) :
    qCtrlWrite c q v hw = did (setQueue (rsetN hw (Reg.qfeQCtrl c q) (bits v 12 8 * 256 + bits v 1 0)) c q
      { getQueue hw c q with st := 0 }) := by
  simp [qCtrlWrite, hst, hv, hsize, hidle]

/-- Enabling the completion ring of an OFF queue where it fits. -/
theorem qCqWrite_enable (hst : (getQueue hw c q).st = 0) (hv : bit v 7 = true) (hlo : 4 ≤ bits v 4 0) (hhi : bits v 4 0 ≤ 16)
    (hfit : ringFits (256 * bits v 51 8) (16 * 2 ^ bits v 4 0) = true) :
    qCqWrite c q v hw = did (rsetN (rsetN (rsetN hw (Reg.qfeQCq c q)
      (256 * bits v 51 8 + 128 * bits v 7 7 + bits v 4 0)) (Reg.qfeQCqHead c q) 0) (Reg.qfeQCqTail c q) (2 ^ 32)) := by
  simp [qCqWrite, hst, hv, hfit, Nat.not_lt.mpr hlo, Nat.not_lt.mpr hhi]

/-- A stopped queue's error record and stop code are cleared. -/
def stopCleared (hw : Hw) (c q : Nat) : Hw := rsetN (rsetN hw (Reg.qfeQErr c q) 0) (Reg.qfeQStopCode c q) 0

/-- RESUME of a stopped queue whose context was not killed. -/
theorem qRestartWrite_resume (hst : (getQueue hw c q).st = 2) (herr : rbits hw (Reg.qfeQErr c q) 59 52 ≠ 0x20) :
    qRestartWrite c q 1 hw = did (stopCleared (setQueue hw c q { getQueue hw c q with st := 1 }) c q) := by
  have hact : bits 1#64 1 0 = 1 := by decide
  simp [qRestartWrite, stopCleared, hst, hact, herr]

/-- ABORT of a stopped queue. -/
theorem qRestartWrite_abort (hst : (getQueue hw c q).st = 2) :
    qRestartWrite c q 2 hw =
      did (stopCleared (setQueue (abortQueue hw c q) c q { getQueue (abortQueue hw c q) c q with st := 1 }) c q) := by
  have hact : bits 2#64 1 0 = 2 := by decide
  simp [qRestartWrite, stopCleared, hst, hact]

end

/-- Settles O12: each write arrives at a register of a present core, and the register does what its clause says. -/
theorem queueRegistersComplete : Obligations.QueueRegistersComplete := by
  intro by_ c q v s hon ha hp hw size new clear
  refine ⟨?doorbell, fun hst hv hlo hhi hfit => ?enable, fun hst hv hsize hidle => ?disable, fun hst hv hlo hhi hfit => ?ring,
    fun hst herr => ?resume, fun hst => ?abort⟩
  case doorbell => exact effect_onHw rfl hon (coreRegWrite_qfe (o := 0x10) ha hp (by decide) _)
  case enable => exact qfeQ_effect (o := 0x100) rfl hon ha hp (by decide) (qCtrlWrite_enable hst hv hlo hhi hfit)
  case disable => exact qfeQ_effect (o := 0x100) rfl hon ha hp (by decide) (qCtrlWrite_disable hst hv hsize hidle)
  case ring => exact qfeQ_effect (o := 0x130) rfl hon ha hp (by decide) (qCqWrite_enable hst hv hlo hhi hfit)
  case resume => exact qfeQ_effect (o := 0x158) rfl hon ha hp (by decide) (qRestartWrite_resume hst herr)
  case abort => exact qfeQ_effect (o := 0x158) rfl hon ha hp (by decide) (qRestartWrite_abort hst)

end Sys2Proof.Machine
end

section
/-! PROOF. The loader (R251–R253): what a code of 0 says, when numbers are free of other contexts', and what the translation
that a load keeps is and shares with none of another context. -/

namespace Sys2Proof.Machine

/-! #### The code (R251) -/

section
variable {hw : Hw} {dpt : Nat → Word} {m : List Byte} {r : LoadReq}

theorem mkcCode_of_not_ready {group : Nat} (h : bit (dpt 0) 63 = false) : mkcCode dpt m group = 8 := by
  unfold mkcCode
  exact if_pos h

theorem loadCode_of_not_ready (h : bit (dpt 0) 63 = false) : loadCode hw dpt m r = 8 := by
  simp [loadCode, mkcCode_of_not_ready h]

/-- What a load that succeeds has been found to have: both kinds of numbers free, and the digest it read before (R252, R253). -/
theorem loadCode_eq_zero (h : loadCode hw dpt m r = 0) :
    rangeFree hw (moduleCores dpt m r.group.val) r.ctx.toNat r.lsem (mkcLsems m) lsemRange = true ∧
      rangeFree hw (moduleCores dpt m r.group.val) r.ctx.toNat r.slot (Config.mkcCredits m r.group.val (dptList dpt))
        slotRange = true ∧
      r.digest = dpt 1 := by
  unfold loadCode at h
  dsimp only at h
  split at h
  · contradiction
  · split at h
    · contradiction
    · rename_i hres
      obtain ⟨-, -, hlsem, hslot, -⟩ := by simpa only [not_or] using hres
      split at h
      · contradiction
      · rename_i hdig
        exact ⟨by simpa using hlsem, by simpa using hslot, not_not.mp hdig⟩

/-- A load's answer is its code, and it changes the hardware only where that is 0. -/
theorem mkcLoad_effect {s : State} (hon : s.on) :
    let dpt := fun n => rget s.now (Reg.pcpDpt s.now.pkg.primary n)
    Effect (.mkcLoad m r) s (if loadCode s.now dpt m r = 0 then mkcDo dpt m r s.now else s.now)
      (.value (word (loadCode s.now dpt m r))) :=
  effect_onHw (f := mkcLoad m r) rfl hon rfl

end

/-! #### Translations apart (R253) -/

/-- Runs of numbers, by first and count, that have none in common. -/
def runsApart (a b : Nat × Nat) : Prop := a.1 + a.2 ≤ b.1 ∨ b.1 + b.2 ≤ a.1

/-- The cores a kept translation has commands for. -/
def keptCores (k : KeptSnc) : List Nat := k.snc.map (·.1)

/-- Two kept translations have a core in common. -/
def keptMeet (k x : KeptSnc) : Prop := ∃ c ∈ keptCores k, c ∈ keptCores x

/-- They use no local semaphore and no credit slot of the same number. -/
def keptApart (k x : KeptSnc) : Prop := runsApart (lsemRange k) (lsemRange x) ∧ runsApart (slotRange k) (slotRange x)

/-- A translation is apart from every live one of another context that it shares a core with. -/
def apartFromOthers (kept : List KeptSnc) (k : KeptSnc) : Prop :=
  ∀ x ∈ kept, x.live = true → x.ctx ≠ k.ctx → keptMeet k x → keptApart k x

section
variable {hw : Hw} {cores : List Nat} {ctx : Nat}

/-- What `rangeFree` decides: the numbers are apart from those of each live translation of another context on these cores. -/
theorem rangeFree_eq_true_iff {b n : Nat} {range : KeptSnc → Nat × Nat} :
    rangeFree hw cores ctx b n range = true ↔
      ∀ x ∈ hw.kept, x.live = true → x.ctx ≠ ctx → (∃ c ∈ cores, c ∈ keptCores x) → runsApart (b, n) (range x) := by
  simp only [rangeFree, runsApart, keptCores, List.all_eq_true, List.mem_filter, Bool.and_eq_true, Bool.or_eq_true,
    decide_eq_true_eq, bne_iff_ne, List.any_eq_true, List.contains_iff_mem, List.mem_map]
  constructor
  · rintro h x hx hl hc ⟨c, hcs, e, he, rfl⟩
    exact h x ⟨hx, ⟨hl, hc⟩, e, he, hcs⟩
  · rintro h x ⟨hx, ⟨hl, hc⟩, e, he, hcs⟩
    exact h x hx hl hc ⟨e.1, hcs, e, he, rfl⟩

/-- A translation whose numbers are free on its cores is apart from those of other contexts. -/
theorem apartFromOthers_of_rangeFree {k : KeptSnc}
    (hlsem : rangeFree hw (keptCores k) k.ctx k.lsem k.lsems lsemRange = true)
    (hslot : rangeFree hw (keptCores k) k.ctx k.slot k.slots slotRange = true) : apartFromOthers hw.kept k :=
  fun x hx hl hc hm => ⟨rangeFree_eq_true_iff.mp hlsem x hx hl hc hm, rangeFree_eq_true_iff.mp hslot x hx hl hc hm⟩

end

/-! #### The translation a load keeps (R252, R253) -/

/-- What a load leaves kept: a live translation under the module's MEAS and the table's digest, for the request's context and
apart from those of other contexts. -/
structure KeptAfter (dpt : Nat → Word) (m : List Byte) (ctx : Nat) (kept : List KeptSnc) (k : KeptSnc) : Prop where
  mem    : k ∈ kept
  live   : k.live = true
  meas   : k.meas = (m.drop 32).take 32
  digest : k.digest = dpt 1
  ctx_eq : k.ctx = ctx
  apart  : apartFromOthers kept k

section
variable {hw : Hw} {dpt : Nat → Word} {m : List Byte} {r : LoadReq} {k : KeptSnc}

/-- A translation has commands for the cores of its module. -/
theorem sncModule_cores (group choice lsem slot : Nat) :
    (sncModule dpt m group choice lsem slot).map (·.1) = moduleCores dpt m group := by
  have hzip : (mkcKernels m).zipIdx.map Prod.fst = mkcKernels m := List.zipIdx_map_fst 0 _
  conv_rhs => rw [moduleCores, ← hzip, List.flatMap_map]
  simp [sncModule, List.map_flatMap, Function.comp_def]

/-- A translation found for a load is kept under the module's MEAS and the table's digest, for the request's context. -/
theorem keptFor_eq_some (h : keptFor hw dpt m r = some k) :
    k ∈ hw.kept ∧ k.meas = (m.drop 32).take 32 ∧ k.digest = dpt 1 ∧ k.ctx = r.ctx.toNat := by
  have hk := List.find?_some h
  simp only [Bool.and_eq_true, beq_iff_eq] at hk
  obtain ⟨⟨⟨⟨⟨hmeas, hdigest⟩, -⟩, hctx⟩, -⟩, -⟩ := hk
  exact ⟨List.mem_of_find?_eq_some h, hmeas, hdigest, hctx⟩

/-- A kept translation, in use. -/
def keptInUse (k : KeptSnc) : KeptSnc := { k with live := true }

/-- The kept translations with one of them put in use. -/
def keptUsing (kept : List KeptSnc) (k : KeptSnc) : List KeptSnc := kept.map (fun x => if x = k then keptInUse k else x)

/-- A load keeps the translation found for it, in use already or with its numbers still free, or else a new one. -/
theorem mkcKeep_cases :
    (∃ k, keptFor hw dpt m r = some k ∧
      (k.live = true ∨ (rangeFree hw (keptCores k) r.ctx.toNat k.lsem k.lsems lsemRange = true ∧
        rangeFree hw (keptCores k) r.ctx.toNat k.slot k.slots slotRange = true)) ∧
      mkcKeep dpt m r hw = ({ hw with kept := keptUsing hw.kept k }, keptInUse k)) ∨
    mkcKeep dpt m r hw = mkcNew dpt m r hw := by
  unfold mkcKeep
  split
  · rename_i k hk
    split
    · rename_i huse
      exact .inl ⟨k, hk, by simpa only [Bool.or_eq_true, Bool.and_eq_true, keptCores] using huse, rfl⟩
    · exact .inr rfl
  · exact .inr rfl

/-- A translation stays apart when nothing is kept beside what was there before but translations of its own context. -/
theorem apartFromOthers_mono {kept kept' : List KeptSnc} (h : ∀ x ∈ kept', x ∈ kept ∨ x.ctx = k.ctx)
    (ha : apartFromOthers kept k) : apartFromOthers kept' k :=
  fun x hx hl hc => ha x ((h x hx).resolve_right hc) hl hc

/-- A new translation has the module's cores and the numbers asked for, and stands in front of those that stay. -/
theorem mkcNew_keptAfter
    (hlsem : rangeFree hw (moduleCores dpt m r.group.val) r.ctx.toNat r.lsem (mkcLsems m) lsemRange = true)
    (hslot : rangeFree hw (moduleCores dpt m r.group.val) r.ctx.toNat r.slot
      (Config.mkcCredits m r.group.val (dptList dpt)) slotRange = true) :
    KeptAfter dpt m r.ctx.toNat (mkcNew dpt m r hw).1.kept (mkcNew dpt m r hw).2 where
  mem := List.mem_cons_self
  live := rfl
  meas := rfl
  digest := rfl
  ctx_eq := rfl
  apart := by
    have hcores : keptCores (mkcNew dpt m r hw).2 = moduleCores dpt m r.group.val := sncModule_cores ..
    rw [← hcores] at hlsem hslot
    refine apartFromOthers_mono (fun x hx => ?_) (apartFromOthers_of_rangeFree hlsem hslot)
    exact (List.mem_cons.mp hx).elim (fun h => .inr (congrArg KeptSnc.ctx h)) (fun h => .inl (List.mem_filter.mp h).1)

theorem keptInUse_mem_keptUsing {kept : List KeptSnc} (h : k ∈ kept) : keptInUse k ∈ keptUsing kept k :=
  List.mem_map.mpr ⟨k, h, if_pos rfl⟩

theorem mem_keptUsing {kept : List KeptSnc} {x : KeptSnc} (h : x ∈ keptUsing kept k) : x ∈ kept ∨ x = keptInUse k := by
  obtain ⟨y, hy, rfl⟩ := List.mem_map.mp h
  split
  · exact .inr rfl
  · exact .inl hy

/-- A translation found for a load and apart from those of other contexts stays so when it is put in use. -/
theorem keptUsing_keptAfter (hk : keptFor hw dpt m r = some k) (ha : apartFromOthers hw.kept k) :
    KeptAfter dpt m r.ctx.toNat (keptUsing hw.kept k) (keptInUse k) := by
  obtain ⟨hmem, hmeas, hdigest, hctx⟩ := keptFor_eq_some hk
  exact { mem := keptInUse_mem_keptUsing hmem, live := rfl, meas := hmeas, digest := hdigest, ctx_eq := hctx
          apart := apartFromOthers_mono (fun x hx => (mem_keptUsing hx).imp_right (congrArg KeptSnc.ctx)) ha }

/-- What `mkcKeep` keeps, where the numbers asked for are free and the live translations stand apart before the load. -/
theorem mkcKeep_keptAfter
    (hlsem : rangeFree hw (moduleCores dpt m r.group.val) r.ctx.toNat r.lsem (mkcLsems m) lsemRange = true)
    (hslot : rangeFree hw (moduleCores dpt m r.group.val) r.ctx.toNat r.slot
      (Config.mkcCredits m r.group.val (dptList dpt)) slotRange = true)
    (hkept : ∀ k ∈ hw.kept, k.live = true → apartFromOthers hw.kept k) :
    KeptAfter dpt m r.ctx.toNat (mkcKeep dpt m r hw).1.kept (mkcKeep dpt m r hw).2 := by
  obtain ⟨k, hk, huse, heq⟩ | heq := mkcKeep_cases (hw := hw) (dpt := dpt) (m := m) (r := r)
  case inr => exact heq ▸ mkcNew_keptAfter hlsem hslot
  obtain ⟨hmem, -, -, hctx⟩ := keptFor_eq_some hk
  rw [heq]
  refine keptUsing_keptAfter hk ?_
  rcases huse with hlive | ⟨hfreeLsem, hfreeSlot⟩
  · exact hkept k hmem hlive
  · rw [← hctx] at hfreeLsem hfreeSlot
    exact apartFromOthers_of_rangeFree hfreeLsem hfreeSlot

end

/-- Settles O41: a code of 0 needs the table's digest and free numbers (`loadCode_eq_zero`), and what is kept is either the
translation found, put in use, or a new one on the numbers asked for (`mkcKeep_keptAfter`). -/
theorem loaderCompletes : Obligations.LoaderCompletes := by
  intro m q s hon dpt i code ctx cores meet apart
  have heff : Effect i s (if code = 0 then mkcDo dpt m q s.now else s.now) (.value (word code)) := mkcLoad_effect hon
  refine ⟨heff, fun hfail => ?fails, loadCode_of_not_ready, fun hstale h0 => ?stale, fun htaken h0 => ?lsemTaken,
    fun htaken h0 => ?slotTaken, fun hlsem hslot hkept => ?kept⟩
  case fails => rwa [if_neg hfail] at heff
  case stale =>
    obtain ⟨-, -, hdigest⟩ := loadCode_eq_zero h0
    exact hstale hdigest
  case lsemTaken =>
    obtain ⟨hlsem, -, -⟩ := loadCode_eq_zero h0
    exact Bool.false_ne_true (htaken.symm.trans hlsem)
  case slotTaken =>
    obtain ⟨-, hslot, -⟩ := loadCode_eq_zero h0
    exact Bool.false_ne_true (htaken.symm.trans hslot)
  case kept =>
    have hapart : ∀ k ∈ s.now.kept, k.live = true → apartFromOthers s.now.kept k :=
      fun k hk hlive x hx hxlive hctx => hkept k hk x hx hlive hxlive hctx.symm
    obtain ⟨hmem, hlive, hmeas, hdigest, hctx, hothers⟩ := mkcKeep_keptAfter hlsem hslot hapart
    exact ⟨hmem, hlive, hmeas, hdigest, hctx, fun x hx hxlive hne => hothers x hx hxlive (fun h => hne (h.trans hctx))⟩

end Sys2Proof.Machine
end

section
/-! PROOF. Address translation (R285–R309) and the combining trees (R280): what a walk, a fault's record, each register of
RESUME, the ring, the context base and INVALIDATE do where they take their step; then each row. -/

namespace Sys2Proof.Machine

/-! #### Walks and fault records (R294, R297, R299) -/

section
variable {hw : Hw} {c : Nat}

/-- A walk that ends answers: the pages of its outcome are held by no migration. -/
theorem walkRow_answer {d ctx va : Nat} {x : Hw × WalkOut}
    (hwalk : (getTree hw d).walks.any (fun r => r.ctx == ctx && r.va == va) = true)
    (hx : walkWith (walkRead d ctx) (walkNote d ctx) hw ctx va = some x) (hmig : migrating hw ctx x.2 = false) :
    (walkRow d ctx va hw).2 = .done := by
  unfold walkRow
  simp only [hwalk, hx, hmig, Bool.not_true, Bool.false_eq_true, if_false]
  rfl

/-- The bytes of a fault's record: it carries the other value of the ring's PHASE (log 52, DEDUCED). -/
def fltRecBytes (c n : Nat) (f : FltSlot) (phase : Nat) : List Byte :=
  leBytes 8 ((1 - phase) * 2 ^ 63 + faultWord0 c n f) ++ leBytes 8 f.va ++ leBytes 8 f.entry.toNat ++
    leBytes 8 (f.seq % 2 ^ 32 * 2 ^ 32 + f.index % 2 ^ 32)

/-- The next record of an enabled ring with room, at a place that can be written, enters it. -/
theorem faultRecordRow_done {n size tail phase next : Nat} {f : FltSlot} {base : Word} {h : Hw}
    (hrec : nextRecord (getCore hw c) = some (n, f)) (hbase : rget hw (Reg.atuFltBase c) = base)
    (hsize : 2 ^ bits base 4 0 = size) (htail : rbits hw (Reg.atuFltTail c) 31 0 = tail)
    (hphase : rbits hw (Reg.atuFltTail c) 32 32 = phase) (hnext : (tail + 1) % 2 ^ 32 = next)
    (halive : coreAlive hw c = true) (hen : bit base 7 = true)
    (hroom : (tail + 2 ^ 32 - rbits hw (Reg.atuFltHead c) 31 0) % 2 ^ 32 < size)
    (hput : pocWriteN 2 hw (engAgent c) (4096 * bits base 51 12 + 32 * (tail % size)) (fltRecBytes c n f phase) false 0 0 =
      some h) :
    faultRecordRow c hw = did (message (recordDone
      (rsetN h (Reg.atuFltTail c) (next + (if next % size = 0 then 1 - phase else phase) * 2 ^ 32)) c n f)
      (c / 128) (Reg.atuMsiAddr c) (rget hw (Reg.atuMsiData c)).toNat) := by
  subst hbase hsize htail hphase hnext
  unfold fltRecBytes at hput
  unfold faultRecordRow
  simp only [hrec, halive, hen, Bool.not_true, Bool.false_eq_true, Bool.true_eq_false, or_false, false_or,
    if_neg (Nat.not_le.mpr hroom), hput]

end

/-! #### RESUME and the ring (R300, R309) -/

section
variable {hw : Hw} {c : Nat} {v : Word} {f : FltSlot}

/-- Action 1 names a pending fault: its slot is free and each of its commands is translated again. -/
theorem fltResumeWrite_retry (hslot : slotGet (getCore hw c) (bits v 2 0) = some f) (hseq : f.seq % 65536 = bits v 31 16)
    (hact : bits v 9 8 = 1) :
    fltResumeWrite c v hw =
      did (fifoAll (wakeWaiters (f.reqs.foldl (fun h id => translateAgain h c id) (slotFree hw c (bits v 2 0) f)) c) c) := by
  simp [fltResumeWrite, hslot, hseq, hact]

/-- Action 2 names a pending fault: its slot is free and each of its commands is to complete with TRANSLATION_ABORT. -/
theorem fltResumeWrite_abort (hslot : slotGet (getCore hw c) (bits v 2 0) = some f) (hseq : f.seq % 65536 = bits v 31 16)
    (hact : bits v 9 8 = 2) :
    fltResumeWrite c v hw = did (fifoAll (wakeWaiters (abortReqs (slotFree hw c (bits v 2 0) f) c f.reqs) c) c) := by
  simp [fltResumeWrite, hslot, hseq, hact]

/-- Enabling the ring of a core where it fits: both its positions are 0, and so is PHASE (log 52, DEDUCED). -/
theorem fltBaseWrite_enable (hoff : bit (rget hw (Reg.atuFltBase c)) 7 = false) (hv : bit v 7 = true) (hlo : 4 ≤ bits v 4 0)
    (hhi : bits v 4 0 ≤ 12) (hfit : ringFits (4096 * bits v 51 12) (32 * 2 ^ bits v 4 0) = true) :
    fltBaseWrite c v hw = did (rsetN (rsetN (rsetN hw (Reg.atuFltBase c)
      (4096 * bits v 51 12 + 128 * bits v 7 7 + bits v 4 0)) (Reg.atuFltHead c) 0) (Reg.atuFltTail c) 0) := by
  simp [fltBaseWrite, hoff, hv, hlo, hhi, hfit]

end

/-- A write that arrives at a register of a present core's ATU is the register's. -/
theorem coreRegWrite_atu {hw : Hw} {by_ : Agent} {c : CoreId} {o : Nat} (ha : arrives hw by_ = true)
    (hp : corePresent hw c = true) (ho : o < 0x1000) (f : Hw → Hw × Answer) :
    coreRegWrite by_ c (coreBlk c (0x2000 + o)) f hw = f hw :=
  coreRegWrite_of_arrives (k := 2) ha hp (by decide) ho f

/-! #### The walker's registers (R303, R308) -/

/-- A write that arrives at a register of a compute die's walker, block 6 of the die, is the register's. -/
theorem computeRegWrite_wlk {hw : Hw} {by_ : Agent} {d : DieId} {o : Nat} (ha : arrives hw by_ = true) (hd : d.val < 4)
    (ho : o < 0x10000) (f : Hw → Hw × Answer) : computeRegWrite by_ d (dieBlk d (0x60000 + o)) f hw = f hw := by
  have hhas : dieHasBlock d 6 = true := by simp [dieHasBlock, hd]
  unfold computeRegWrite
  rw [if_pos hd]
  exact regWriteBy_of_arrives (b := .die d 6) ha
    (blkOf_eq_some_iff.mpr (.inl (locate_blkAddr_die (by omega) (by decide) hhas ho))) f

/-- With every queue OFF, a base whose table fits is that of each compute die. -/
theorem ctxBaseWrite_idle {hw : Hw} {d : Nat} {v : Word} (hidle : anyQueueOn hw = false) (hlg : bits v 4 0 ≤ 16)
    (hfit : ringFits (4096 * bits v 51 12) (32 * 2 ^ bits v 4 0) = true) :
    ctxBaseWrite d v hw = did (foldN 4 hw (fun h x => rsetN h (Reg.wlkCtxBase x) (4096 * bits v 51 12 + bits v 4 0))) := by
  simp [ctxBaseWrite, hidle, hfit, Nat.not_lt.mpr hlg]

/-- A core whose merge buffer is empty has nothing to drain. -/
theorem mbDrainAll_filter_of_empty {hw : Hw} {c : Nat} (h : (getCore hw c).mb = []) (p : MbEnt → Bool) :
    mbDrainAll hw c ((getCore hw c).mb.filter p) = some hw := by
  rw [h, List.filter_nil]
  rfl

/-! #### Each row of translation and of the trees (O16) -/

section
variable {s : State} {by_ : Agent} {c : CoreId} {d : DieId} {v : Word} {seq : BitVec 32} {r : InvReq}

theorem exec_invalidateBump : exec (.invalidateBump d seq c) s = execInvalidateBump d seq c s := rfl

theorem exec_invalidateCoreAck : exec (.invalidateCoreAck d seq c) s = execInvalidateCoreAck d seq c s := rfl

theorem exec_invalidateDone : exec (.invalidateDone d) s = execInvalidateDone d s := rfl

theorem exec_semNodeHoldTimeout (node : Fin 21) :
    exec (.semNodeHoldTimeout d node) s = execSemNodeHoldTimeout d node s := rfl

variable (hon : s.on)
include hon

/-- A write that arrives at a register of a present core's ATU has the effect of the register. -/
theorem atu_effect {i : Instr} {o : Nat} {f : Hw → Hw × Answer} {h : Hw}
    (hi : exec i s = onHw s (coreRegWrite by_ c (coreBlk c (0x2000 + o)) f)) (ha : arrives s.now by_ = true)
    (hp : corePresent s.now c = true) (ho : o < 0x1000) (hf : f s.now = did h) : Effect i s h .done := by
  refine effect_onHw hi hon ?_
  rw [coreRegWrite_atu ha hp ho, hf]
  rfl

/-- A write that arrives at a register of a compute die's walker has the effect of the register. -/
theorem wlk_effect {i : Instr} {o : Nat} {f : Hw → Hw × Answer} {h : Hw}
    (hi : exec i s = onHw s (computeRegWrite by_ d (dieBlk d (0x60000 + o)) f)) (ha : arrives s.now by_ = true)
    (hd : d.val < 4) (ho : o < 0x10000) (hf : f s.now = did h) : Effect i s h .done := by
  refine effect_onHw hi hon ?_
  rw [computeRegWrite_wlk ha hd ho, hf]
  rfl

/-- A core that has not taken a request's bump takes it; the request waits for what the core had started. -/
theorem invalidateBump_effect (hr : findInv s.now d seq.toNat = some r) (hc : r.toBump.contains c.val = true) :
    Effect (.invalidateBump d seq c) s (modInv (bumpCore s.now c r.ctx (invLo r) (invHi r)) d seq.toNat (fun x =>
      { x with toBump := x.toBump.filter (· != c.val)
               waits := x.waits ++ startedIn s.now c r.ctx (invLo r) (invHi r) })) .done := by
  refine effect_onHw exec_invalidateBump hon ?_
  simp only [hr, hc, Bool.not_true, Bool.false_eq_true, if_false]
  rfl

/-- A core that has taken the bump, has drained and holds no merged writes acknowledges. -/
theorem invalidateCoreAck_effect (hr : findInv s.now d seq.toNat = some r)
    (hready : (r.toBump.contains c.val || !r.toAck.contains c.val || !drained s.now c r) = false)
    (hmb : (getCore s.now c).mb = []) :
    Effect (.invalidateCoreAck d seq c) s (killPass c (modInv (modCore s.now c (fun t =>
      { t with trackers := t.trackers.filter (fun k => k.ctx != r.ctx) })) d seq.toNat
      (fun x => { x with toAck := x.toAck.filter (· != c.val) }), .done)).1 .done := by
  refine effect_killPass exec_invalidateCoreAck hon ?_
  simp only [hr, hready, mbDrainAll_filter_of_empty hmb, Bool.false_eq_true, if_false]

/-- The oldest request of a walker, acknowledged by every core and with no word to write, ends. -/
theorem invalidateDone_effect {rest : List InvReq} (hinvs : (getTree s.now d).invs = r :: rest) (hack : r.toAck = [])
    (hquiet : bit (rget s.now (Reg.wlkInvDoneAddr d)) 0 = false) :
    Effect (.invalidateDone d) s
      (setTree (rfield s.now (Reg.wlkInvSeq d) 31 0 r.seq) d { getTree s.now d with invs := rest }) .done := by
  refine effect_onHw exec_invalidateDone hon ?_
  simp only [hinvs, hack, hquiet, ne_eq, not_true_eq_false, Bool.false_eq_true, if_false]
  rfl

/-- The oldest ADD of a node passes up, out of the tree where the node is its root and the mesh carries it. -/
theorem semNodeHoldTimeout_effect {node : Fin 21} {a : TreeAdd} {rest : List TreeAdd}
    (hnode : mget (fun _ => []) (getTree s.now d).nodes node.val = a :: rest)
    (hopen : node.val = 20 → lineHeld s.now (engAgent (128 * d)) (a.addr / 64) = false) :
    let hw1 := setTree s.now d { getTree s.now d with nodes := mput (fun _ => []) (getTree s.now d).nodes node.val rest }
    Effect (.semNodeHoldTimeout d node) s
      (if node.val = 20 then treeOut hw1 d a else treeAdd hw1 d (nodeParent node) a) .done := by
  have hpass : ¬(node.val = 20 ∧ lineHeld s.now (engAgent (128 * d)) (a.addr / 64) = true) :=
    fun ⟨hroot, hheld⟩ => Bool.false_ne_true ((hopen hroot).symm.trans hheld)
  refine effect_onHw (exec_semNodeHoldTimeout node) hon ?_
  simp only [hnode, hpass, if_false]
  rfl

end

/-- Settles O16: each register write arrives at its core's ATU or its die's walker (`atu_effect`, `wlk_effect`), and each other
row finds the condition its clause assumes. A record's PHASE and the ring's TAIL of 0 are the model's (log 52, DEDUCED). -/
theorem translationCompletes : Obligations.TranslationCompletes := by
  intro by_ c d v s hon hw
  refine ⟨fun ctx va x hwalk hx hmig => ?walk, ?record, fun ha hp =>
    ⟨fun f hslot hseq => ⟨fun hact => ?retry, fun hact => ?abort⟩, fun hoff hv hlo hhi hfit => ?ring⟩,
    fun ha hd => ⟨fun hidle hlg hfit => ?ctxBase, fun _ => ?invalidate⟩, fun seq r hr hc => ?bump,
    fun seq r hr hready hmb => ?ack, fun r rest hinvs hack hquiet => ?ended, fun node a rest hnode hopen => ?node⟩
  case walk => exact effect_onHw (f := walkRow d ctx.toNat va.toNat) rfl hon (Prod.ext rfl (walkRow_answer hwalk hx hmig))
  case record =>
    intro n f h hrec base size tail phase next halive hen hroom hput
    exact effect_onHw rfl hon (faultRecordRow_done hrec rfl rfl rfl rfl rfl halive hen hroom hput)
  case retry => exact atu_effect (o := 0x28) hon rfl ha hp (by decide) (fltResumeWrite_retry hslot hseq hact)
  case abort => exact atu_effect (o := 0x28) hon rfl ha hp (by decide) (fltResumeWrite_abort hslot hseq hact)
  case ring => exact atu_effect (o := 0x10) hon rfl ha hp (by decide) (fltBaseWrite_enable hoff hv hlo hhi hfit)
  case ctxBase => exact wlk_effect (o := 8) hon rfl ha hd (by decide) (ctxBaseWrite_idle hidle hlg hfit)
  case invalidate =>
    exact wlk_effect (o := 0x18) (f := invReqWrite d v) hon rfl ha hd (by decide) (Prod.ext rfl (invReqWrite_done d))
  case bump => exact invalidateBump_effect hon hr hc
  case ack => exact invalidateCoreAck_effect hon hr hready hmb
  case ended => exact invalidateDone_effect hon hinvs hack hquiet
  case node => exact semNodeHoldTimeout_effect hon hnode hopen

end Sys2Proof.Machine
end

section
/-! PROOF. Placement of tier addresses (R313–R316): how a region is spread over its units, that the place of a byte leads
back to it; then what the decoders and their inverses do in the interleaved and in a local region of each tier. -/

namespace Sys2Proof.Machine

/-! #### A region spread over units of channels (R315, R316) -/

/-- The channel of run `v` of a unit with `q` channels. -/
def chanFold (q v : Nat) : Nat := (v % q) ^^^ (v / q % q) ^^^ (v / (q * q) % q)

/-- The unit, the channel and the offset in the channel of byte `o` of a region over `n` units of `q` channels. -/
def spread (n q o : Nat) : Nat × Nat × Nat :=
  (o / 256 % n, chanFold q (o / 256 / n), 256 * (o / 256 / n / q) + o % 256)

/-- The run of a unit that stands in channel `ch`, 256 bytes as the `k`th of it. -/
def chanRun (q ch k : Nat) : Nat := q * k + (ch ^^^ (k % q) ^^^ (k / q % q))

/-- The byte of the region at a place of it. -/
def gather (n q unit ch off : Nat) : Nat := 256 * (n * chanRun q ch (off / 256) + unit) + off % 256

section
variable {n q size o : Nat}

theorem spread_unit_lt (hn : 0 < n) : (spread n q o).1 < n := Nat.mod_lt _ hn

theorem spread_chan_lt {b : Nat} : (spread n (2 ^ b) o).2.1 < 2 ^ b :=
  have hmod (x : Nat) : x % 2 ^ b < 2 ^ b := Nat.mod_lt _ (Nat.two_pow_pos b)
  Nat.xor_lt_two_pow (Nat.xor_lt_two_pow (hmod _) (hmod _)) (hmod _)

/-- A region of `256 * size` bytes in each channel keeps every offset below that. -/
theorem spread_off_lt (ho : o < 256 * size * (n * q)) : (spread n q o).2.2 < 256 * size := by
  have hrun : o / 256 / n / q < size := by
    rw [Nat.div_div_eq_div_mul, Nat.div_div_eq_div_mul]
    refine Nat.div_lt_of_lt_mul (ho.trans_eq ?_)
    ring
  have hbyte : o % 256 < 256 := Nat.mod_lt _ (by decide)
  show 256 * (o / 256 / n / q) + o % 256 < 256 * size
  omega

/-- The fold of a run's channel, folded again, leaves the run's number. -/
theorem chanRun_chanFold (q v : Nat) : chanRun q (chanFold q v) (v / q) = v := by
  have hfold : chanFold q v ^^^ (v / q % q) ^^^ (v / q / q % q) = v % q := by
    rw [chanFold, ← Nat.div_div_eq_div_mul, Nat.xor_right_comm _ _ (v / q % q), Nat.xor_xor_cancel_right,
      Nat.xor_xor_cancel_right]
  rw [chanRun, hfold, Nat.div_add_mod]

/-- No two bytes of a region share a place: the place gives the byte back. -/
theorem gather_spread (n q o : Nat) : gather n q (spread n q o).1 (spread n q o).2.1 (spread n q o).2.2 = o := by
  have hk : (spread n q o).2.2 / 256 = o / 256 / n / q := by
    simp only [spread]
    omega
  have hb : (spread n q o).2.2 % 256 = o % 256 := by
    simp only [spread]
    omega
  rw [gather, hk, hb]
  simp only [spread]
  rw [chanRun_chanFold, Nat.div_add_mod, Nat.div_add_mod]

end

/-- An address above the interleaved region lies in one of the `k` local regions of `l` GiB that follow it (R314). -/
theorem exists_localRegion {total k l x : Nat} (hl : k * l ≤ total) (hlo : (total - k * l) * gib ≤ x)
    (hhi : x < total * gib) : ∃ d o, d < k ∧ o < l * gib ∧ x = (total - k * l + d * l) * gib + o := by
  obtain ⟨y, rfl⟩ := Nat.exists_eq_add_of_le hlo
  have hy : y < k * (l * gib) := by
    have htotal : total * gib = (total - k * l) * gib + k * (l * gib) := by
      rw [← Nat.mul_assoc, ← Nat.add_mul, Nat.sub_add_cancel hl]
    omega
  have hpos : 0 < l * gib := Nat.pos_of_mul_pos_left (Nat.zero_lt_of_lt hy)
  refine ⟨y / (l * gib), y % (l * gib), Nat.div_lt_of_lt_mul (by rwa [Nat.mul_comm]), Nat.mod_lt _ hpos, ?_⟩
  rw [Nat.add_mul, Nat.add_assoc, Nat.mul_assoc, Nat.mul_comm _ (l * gib), Nat.div_add_mod]

/-- A byte of the `d`th local region of `l` GiB, the first of which begins at `start` GiB: its region and its offset there. -/
theorem localRegion_offset {start l d o : Nat} (ho : o < l * gib) :
    start * gib ≤ (start + d * l) * gib + o ∧ ((start + d * l) * gib + o - start * gib) / (l * gib) = d ∧
      (start + d * l) * gib + o - start * gib - d * (l * gib) = o := by
  have hbyte : (start + d * l) * gib + o = start * gib + (l * gib * d + o) := by ring
  rw [hbyte, Nat.add_sub_cancel_left]
  refine ⟨Nat.le_add_right _ _, ?_, ?_⟩
  · rw [Nat.mul_add_div (by omega), Nat.div_eq_of_lt ho, Nat.add_zero]
  · rw [Nat.mul_comm d, Nat.add_sub_cancel_left]

/-! #### Tier 0 (R315) -/

section
variable {l a d o : Nat}

theorem decodeT0_interleaved (ha : a < (768 - 4 * l) * gib) : decodeT0 l a = spread 12 32 a := by
  simp [decodeT0, spread, chanFold, Nat.not_le.mpr ha]

theorem decodeT0_local (ho : o < l * gib) :
    decodeT0 l ((768 - 4 * l + d * l) * gib + o) =
      (3 * d + (spread 3 32 o).1, (spread 3 32 o).2.1, (64 - l / 3) * gib / 32 + (spread 3 32 o).2.2) := by
  obtain ⟨hle, hdie, hrest⟩ := localRegion_offset (start := 768 - 4 * l) (d := d) ho
  simp [decodeT0, spread, chanFold, hle, hdie, hrest, Nat.add_assoc]

theorem encodeT0_interleaved {stack p off : Nat} (h : off < (64 - l / 3) * gib / 32) :
    encodeT0 l stack p off = gather 12 32 stack p off := by
  simp [encodeT0, gather, chanRun, Nat.not_le.mpr h]

theorem encodeT0_local {i p off : Nat} (hi : i < 3) :
    encodeT0 l (3 * d + i) p ((64 - l / 3) * gib / 32 + off) =
      (768 - 4 * l) * gib + d * (l * gib) + gather 3 32 i p off := by
  have hdie : (3 * d + i) / 3 = d := by omega
  have hunit : (3 * d + i) % 3 = i := by omega
  have hbyte : ((64 - l / 3) * gib / 32 + off) % 256 = off % 256 := by
    unfold gib
    omega
  simp [encodeT0, gather, chanRun, hdie, hunit, hbyte, Nat.add_assoc]

/-- The place of a tier-0 address is within the tier's stacks, pseudo-channels and their 2 GiB, and gives the address back. -/
def PlacedT0 (l a : Nat) : Prop :=
  (decodeT0 l a).1 < 12 ∧ (decodeT0 l a).2.1 < 32 ∧ (decodeT0 l a).2.2 < 2 * gib ∧
    encodeT0 l (decodeT0 l a).1 (decodeT0 l a).2.1 (decodeT0 l a).2.2 = a

theorem placedT0_interleaved (h3 : l % 3 = 0) (ha : a < (768 - 4 * l) * gib) : PlacedT0 l a := by
  have hstacks : 768 - 4 * l = 12 * (64 - l / 3) := by omega
  have hsize : (768 - 4 * l) * gib = 256 * ((64 - l / 3) * 2 ^ 17) * (12 * 32) := by
    rw [hstacks, gib]
    ring
  have hbelow : (spread 12 32 a).2.2 < 256 * ((64 - l / 3) * 2 ^ 17) := spread_off_lt (ha.trans_eq hsize)
  unfold PlacedT0
  rw [decodeT0_interleaved ha]
  refine ⟨spread_unit_lt (by decide), spread_chan_lt (b := 5), by unfold gib; omega, ?_⟩
  rw [encodeT0_interleaved (by unfold gib; omega), gather_spread]

theorem placedT0_local (h3 : l % 3 = 0) (hl : l ≤ 192) (hd : d < 4) (ho : o < l * gib) :
    PlacedT0 l ((768 - 4 * l + d * l) * gib + o) := by
  have hunit : (spread 3 32 o).1 < 3 := spread_unit_lt (by decide)
  have hbelow : (spread 3 32 o).2.2 < 256 * (l / 3 * 2 ^ 17) := spread_off_lt (by unfold gib at ho; omega)
  unfold PlacedT0
  rw [decodeT0_local ho]
  refine ⟨by dsimp only; omega, spread_chan_lt (b := 5), by unfold gib; dsimp only; omega, ?_⟩
  rw [encodeT0_local hunit, gather_spread, Nat.add_mul, Nat.mul_assoc]

end

/-- Settles O49: an address lies in the interleaved region or in the local region of one die, and each spreads it over its
stacks as R315 says (`spread`), which `gather` undoes. -/
theorem tierZeroPlaces : Obligations.TierZeroPlaces := by
  intro l a h3 hl ha
  have hplaced : PlacedT0 l a := by
    rcases Nat.lt_or_ge a ((768 - 4 * l) * gib) with hlow | hhigh
    · exact placedT0_interleaved h3 hlow
    · obtain ⟨d, o, hd, ho, rfl⟩ := exists_localRegion (by omega) hhigh ha
      exact placedT0_local h3 hl hd ho
  refine ⟨fun hlow => decodeT0_interleaved hlow, ?_, hplaced⟩
  rintro d o - ho rfl
  rw [decodeT0_local ho, spread, Nat.add_assoc]
  rfl

/-! #### Tier 1 (R316) -/

section
variable {m x n o : Nat}

theorem decodeT1_interleaved (hx : x < (2048 - 2 * m) * gib) : decodeT1 m (0x010000000000 + x) = spread 16 8 x := by
  simp [decodeT1, spread, chanFold, Nat.not_le.mpr hx]

theorem decodeT1_local (ho : o < m * gib) :
    decodeT1 m (0x010000000000 + ((2048 - 2 * m + n * m) * gib + o)) =
      (8 * n + (spread 8 8 o).1, (spread 8 8 o).2.1, (128 - m / 8) * gib / 8 + (spread 8 8 o).2.2) := by
  obtain ⟨hle, hacelo, hrest⟩ := localRegion_offset (start := 2048 - 2 * m) (d := n) ho
  simp [decodeT1, spread, chanFold, hle, hacelo, hrest, Nat.add_assoc]

theorem encodeT1_interleaved {dev c off : Nat} (h : off < (128 - m / 8) * gib / 8) :
    encodeT1 m dev c off = 0x010000000000 + gather 16 8 dev c off := by
  simp [encodeT1, gather, chanRun, Nat.not_le.mpr h]

theorem encodeT1_local {i c off : Nat} (hi : i < 8) :
    encodeT1 m (8 * n + i) c ((128 - m / 8) * gib / 8 + off) =
      0x010000000000 + ((2048 - 2 * m) * gib + n * (m * gib) + gather 8 8 i c off) := by
  have hacelo : (8 * n + i) / 8 = n := by omega
  have hunit : (8 * n + i) % 8 = i := by omega
  have hbyte : ((128 - m / 8) * gib / 8 + off) % 256 = off % 256 := by
    unfold gib
    omega
  simp [encodeT1, gather, chanRun, hacelo, hunit, hbyte, Nat.add_assoc]

/-- The place of a tier-1 address is within the tier's devices, channels and their 16 GiB, and gives the address back. -/
def PlacedT1 (m a : Nat) : Prop :=
  (decodeT1 m a).1 < 16 ∧ (decodeT1 m a).2.1 < 8 ∧ (decodeT1 m a).2.2 < 16 * gib ∧
    encodeT1 m (decodeT1 m a).1 (decodeT1 m a).2.1 (decodeT1 m a).2.2 = a

theorem placedT1_interleaved (h8 : m % 8 = 0) (hx : x < (2048 - 2 * m) * gib) : PlacedT1 m (0x010000000000 + x) := by
  have hbelow : (spread 16 8 x).2.2 < 256 * ((128 - m / 8) * 2 ^ 19) := spread_off_lt (by unfold gib at hx; omega)
  unfold PlacedT1
  rw [decodeT1_interleaved hx]
  refine ⟨spread_unit_lt (by decide), spread_chan_lt (b := 3), by unfold gib; omega, ?_⟩
  rw [encodeT1_interleaved (by unfold gib; omega), gather_spread]

theorem placedT1_local (h8 : m % 8 = 0) (hm : m ≤ 1024) (hn : n < 2) (ho : o < m * gib) :
    PlacedT1 m (0x010000000000 + ((2048 - 2 * m + n * m) * gib + o)) := by
  have hunit : (spread 8 8 o).1 < 8 := spread_unit_lt (by decide)
  have hbelow : (spread 8 8 o).2.2 < 256 * (m / 8 * 2 ^ 19) := spread_off_lt (by unfold gib at ho; omega)
  unfold PlacedT1
  rw [decodeT1_local ho]
  refine ⟨by dsimp only; omega, spread_chan_lt (b := 3), by unfold gib; dsimp only; omega, ?_⟩
  rw [encodeT1_local hunit, gather_spread, Nat.add_mul, Nat.mul_assoc]

end

/-- Settles O50: an address lies in the interleaved region or in the local region of one Acelo, and each spreads it over its
devices as R316 says (`spread`), which `gather` undoes. -/
theorem tierOnePlaces : Obligations.TierOnePlaces := by
  intro m a h8 hm hlo hhi
  obtain ⟨x, rfl⟩ := Nat.exists_eq_add_of_le hlo
  rw [Nat.add_sub_cancel_left]
  have hplaced : PlacedT1 m (0x010000000000 + x) := by
    rcases Nat.lt_or_ge x ((2048 - 2 * m) * gib) with hlow | hhigh
    · exact placedT1_interleaved h8 hlow
    · obtain ⟨n, o, hn, ho, rfl⟩ := exists_localRegion (by omega) hhigh (Nat.lt_of_add_lt_add_left hhi)
      exact placedT1_local h8 hm hn ho
  refine ⟨fun hlow => decodeT1_interleaved hlow, ?_, hplaced⟩
  rintro n o - ho rfl
  rw [decodeT1_local ho, spread, Nat.add_assoc]
  rfl

end Sys2Proof.Machine
end

section
/-! PROOF. The configuration image stays (R313): nothing a home does to serve a request of an engine or to drain merged
writes changes it, so the tiers' regions (R314) stay where they were. -/

namespace Sys2Proof.Machine

section
variable (hw : Hw)

/-! #### Error records and messages -/

@[simp] theorem logPush_img (a cap : Nat) (e : Word × Word) : (logPush hw a cap e).2.img = hw.img := by
  unfold logPush
  dsimp only
  split <;> rfl

@[simp] theorem message_img (d ra n : Nat) : (message hw d ra n).img = hw.img := by
  unfold message
  dsimp only
  split <;> rfl

@[simp] theorem rasEnter_img (d cls : Nat) (e : Word × Word) : (rasEnter hw d cls e).img = hw.img := by
  simp only [rasEnter, apply_ite Hw.img, logPush_img, message_img, radd_img, ite_self]

@[simp] theorem rasStop_img (d cls cause : Nat) (w0 : Word) : (rasStop hw d cls cause w0).img = hw.img := by
  simp [rasStop, packageStop, say, apply_ite Hw.img]

@[simp] theorem rasWrite_img (d cls unit cause inst agent ctx pkg addr : Nat) :
    (rasWrite hw d cls unit cause inst agent ctx pkg addr).img = hw.img := by
  simp only [rasWrite, rasStop_img, rasEnter_img]

/-- A choice between two updates that leave the image. -/
theorem ite_img {p : Prop} [Decidable p] {x y w : Hw} (hx : x.img = w.img) (hy : y.img = w.img) :
    (if p then x else y).img = w.img := by
  split
  · exact hx
  · exact hy

@[simp] theorem ras_img (d cls unit cause inst agent ctx pkg addr : Nat) :
    (ras hw d cls unit cause inst agent ctx pkg addr).img = hw.img := by
  have hcounted (r : Die) : (setDie (radd hw (Reg.rasCeCnt d) 1) d r).img = hw.img :=
    (setDie_img _ _ _).trans (radd_img hw _ _)
  have hlogged (p : Prop) [Decidable p] (r : Die) : (if p then setDie (radd hw (Reg.rasCeCnt d) 1) d r
      else rasWrite (setDie (radd hw (Reg.rasCeCnt d) 1) d r) d clsCE unit cause inst agent ctx pkg addr).img = hw.img :=
    ite_img (hcounted r) ((rasWrite_img _ _ _ _ _ _ _ _ _ _).trans (hcounted r))
  unfold ras
  refine ite_img (ite_img ((rasWrite_img _ _ _ _ _ _ _ _ _ _).trans (hlogged _ _)) (hlogged _ _)) (ite_img ?poison ?other)
  case poison => exact (rasWrite_img _ _ _ _ _ _ _ _ _ _).trans (radd_img hw _ _)
  case other => exact rasWrite_img hw _ _ _ _ _ _ _ _ _

@[simp] theorem slcRas_img (line cls cause : Nat) : (slcRas hw line cls cause).img = hw.img :=
  ras_img hw _ _ _ _ _ _ _ _ _

/-! #### Updates of the memory's record, and updates made one after another -/

@[simp] theorem setMem_img (m : Mem) : (setMem hw m).img = hw.img := rfl
@[simp] theorem filtSet_img (line : Nat) (st : Option FiltSt) : (filtSet hw line st).img = hw.img := rfl
@[simp] theorem sendMsg_img (k : MsgKind) (line : Nat) (ag : Agent) : (sendMsg hw k line ag).img = hw.img := rfl
@[simp] theorem draw_img : (draw hw).2.img = hw.img := rfl
@[simp] theorem rinc_img (a hi lo n : Nat) : (rinc hw a hi lo n).img = hw.img := rfl
@[simp] theorem modCore_img (c : Nat) (f : Core → Core) : (modCore hw c f).img = hw.img := rfl

/-- Updates that each leave `g` leave it together. -/
theorem foldl_keeps {σ α β : Type} {g : σ → β} {f : σ → α → σ} (hf : ∀ x a, g (f x a) = g x) (l : List α) (x : σ) :
    g (l.foldl f x) = g x := by
  induction l generalizing x with
  | nil => rfl
  | cons a l ih => exact (ih _).trans (hf x a)

/-! #### The snoop filter (R377, R383, R395, R518) -/

@[simp] theorem tagCheck_img (line : Nat) : (tagCheck hw line).img = hw.img := by
  unfold tagCheck
  dsimp only
  split <;> simp

@[simp] theorem filtLive_img (line : Nat) : (filtLive hw line).2.img = hw.img := by
  unfold filtLive
  dsimp only
  split
  · rfl
  · split <;> simp
  · split
    · rfl
    · split <;> rfl

@[simp] theorem filtCheck_img (kind : ReqKind) (line : Nat) (r : Agent) : (filtCheck hw kind line r).2.img = hw.img := by
  unfold filtCheck
  dsimp only
  split <;> simp

@[simp] theorem snoopPlan_img (kind : ReqKind) (line : Nat) (r : Agent) : (snoopPlan hw kind line r).2.2.img = hw.img := by
  simp only [snoopPlan, filtLive_img, filtCheck_img, tagCheck_img]

/-! #### Memory and the SLC (R375, R518, R561) -/

@[simp] theorem memLeave_img (line : Nat) : (memLeave hw line).img = hw.img := by
  unfold memLeave
  dsimp only
  split
  · split <;> rfl
  · rfl

@[simp] theorem memSeen_img (line : Nat) : (memSeen hw line).img = hw.img := by
  unfold memSeen
  dsimp only
  split <;> simp

@[simp] theorem memFetch_img (line : Nat) : (memFetch hw line).img = hw.img := by
  unfold memFetch
  split <;> simp

@[simp] theorem slcPut_img (line : Nat) (st : SlcSt) (retain : Bool) : (slcPut hw line st retain).img = hw.img := by
  unfold slcPut
  dsimp only
  split <;> simp [apply_ite Hw.img]

@[simp] theorem slcCheck_img (line : Nat) : (slcCheck hw line).img = hw.img := by
  unfold slcCheck
  dsimp only
  split <;> simp [apply_ite Hw.img]

@[simp] theorem slcFresh_img (line : Nat) : (slcFresh hw line).img = hw.img := by
  simp [slcFresh, apply_ite Hw.img]

@[simp] theorem homeFetch_img (line : Nat) (alloc : Bool) : (homeFetch hw line alloc).img = hw.img := by
  unfold homeFetch
  dsimp only
  split <;> simp [apply_ite Hw.img]

@[simp] theorem homeWrite_img (line : Nat) (mask : BitVec 64) (data : List Byte) (poison retain roe : Bool) :
    (homeWrite hw line mask data poison retain roe).img = hw.img := by
  simp [homeWrite, apply_ite Hw.img]

/-! #### Serving a request (R383, R388, R391) -/

@[simp] theorem notifyWatches_img (line : Nat) : (notifyWatches hw line).img = hw.img := by
  unfold notifyWatches
  exact (foldl_keeps (g := Hw.img) (fun _ _ => sendMsg_img _ _ _ _) _ _).trans rfl

@[simp] theorem addWatch_img (line c : Nat) : (addWatch hw line c).img = hw.img := by
  simp [addWatch, apply_ite Hw.img]

@[simp] theorem applyHint_img (line : Nat) (by_ : Agent) (hint htgt : Nat) :
    (applyHint hw line by_ hint htgt).img = hw.img := by
  simp [applyHint, apply_ite Hw.img]

@[simp] theorem homeApply_img (req : HReq) (st : Option FiltSt) : (homeApply hw req st).hw.img = hw.img := by
  unfold homeApply
  dsimp only
  split
  case h_1 =>
    split
    · simp
    · split <;> simp
  case h_2 => simp [apply_ite Hw.img]
  case h_3 =>
    rw [applyHint_img]
    split
    · rw [addWatch_img]
      split <;> simp [apply_ite Hw.img]
    · split <;> simp [apply_ite Hw.img]
  case h_4 => simp
  case h_5 => simp
  case h_6 => split <;> simp [apply_ite Hw.img]
  case h_7 => split <;> simp
  case h_8 => split <;> simp
  case h_9 => simp

/-! #### The answers of those snooped (R383, R384, R394, R395) -/

@[simp] theorem hartScan_img (h line : Nat) : (hartScan hw h line).img = hw.img := by
  unfold hartScan
  dsimp only
  split
  · rfl
  · split
    · rfl
    · split <;> simp

@[simp] theorem snoopData_img (line : Nat) (drop : Bool) (data : List Byte) (poison : Bool) :
    (snoopData hw line drop data poison).img = hw.img := by
  simp [snoopData, apply_ite Hw.img]

@[simp] theorem snoopHart_img (line h : Nat) (inv drop : Bool) : (snoopHart hw line h inv drop).img = hw.img := by
  unfold snoopHart
  dsimp only
  split <;> simp [apply_ite Hw.img]

@[simp] theorem showDead_img (ag : Agent) : (showDead hw ag).img = hw.img := by
  unfold showDead
  split
  · rfl
  · simp [foldN, foldl_keeps (g := Hw.img), apply_ite Hw.img]

@[simp] theorem snoopExpired_img (line : Nat) (ag : Agent) : (snoopExpired hw line ag).img = hw.img := by
  simp [snoopExpired]

@[simp] theorem snoopExt_img (line : Nat) (a : Agent) (inv drop owner : Bool) :
    (snoopExt hw line a inv drop owner).1.img = hw.img := by
  unfold snoopExt
  dsimp only
  split
  · simp
  · split <;> simp

end

/-! #### Accesses at the point of coherence (R383) -/

section
variable {hw hw' : Hw}

/-- Served whole, a request changes the hardware by its snoops, then by its work at the home. -/
theorem pocServe_img {req : HReq} {r : Served} (h : pocServe hw req = some r) : r.hw.img = hw.img := by
  unfold pocServe at h
  dsimp only at h
  split at h
  · cases h
  · obtain rfl := Option.some.inj h
    generalize hfold : List.foldl _ _ _ = x
    have hsnooped : x.1.img = hw.img := by
      rw [← hfold]
      refine (foldl_keeps (g := fun y : Hw × Bool => y.1.img) (fun y a => ?_) _ _).trans (snoopPlan_img hw _ _ _)
      split
      · exact (snoopHart_img _ _ _ _ _).trans (radd_img _ _ _)
      · exact (snoopExt_img _ _ _ _ _ _).trans (radd_img _ _ _)
    have hserved (st : Option FiltSt) : (homeApply (filtLive x.1 req.line).2 req st).hw.img = hw.img :=
      (homeApply_img _ _ _).trans ((filtLive_img _ _).trans hsnooped)
    split
    · exact (rset_img _ _ _).trans (hserved _)
    · exact hserved _

theorem pocRead_img {ag : Agent} {line : Nat} {watch : Bool} {x : Hw × List Byte × Bool}
    (h : pocRead hw ag line watch = some x) : x.1.img = hw.img := by
  obtain ⟨r, hr, rfl⟩ := Option.map_eq_some_iff.mp h
  exact pocServe_img hr

theorem pocWrite_img {ag : Agent} {line : Nat} {mask : BitVec 64} {data : List Byte} {poison : Bool} {hint htgt : Nat}
    (h : pocWrite hw ag line mask data poison hint htgt = some hw') : hw'.img = hw.img := by
  obtain ⟨r, hr, rfl⟩ := Option.map_eq_some_iff.mp h
  exact pocServe_img hr

theorem pocReadN_img {fuel : Nat} {ag : Agent} {a n : Nat} {x : Hw × List Byte × Bool}
    (h : pocReadN fuel hw ag a n = some x) : x.1.img = hw.img := by
  induction fuel generalizing hw a n x with
  | zero =>
    obtain rfl := Option.some.inj h
    rfl
  | succ fuel ih =>
    unfold pocReadN at h
    dsimp only at h
    split at h
    · obtain rfl := Option.some.inj h
      rfl
    · split at h
      · cases h
      · next hread =>
        split at h
        · cases h
        · next hrest =>
          obtain rfl := Option.some.inj h
          exact (ih hrest).trans (pocRead_img hread)

/-! #### The merging buffer drains (R77, R323) -/

theorem mbParity_img (c : Nat) (e : MbEnt) : (mbParity hw c e).img = hw.img := by
  unfold mbParity
  rw [foldl_keeps (g := Hw.img) (fun _ _ => ras_img _ _ _ _ _ _ _ _ _ _), rsetN_img, setCore_img]

theorem mbDrain_img {c : Nat} {e : MbEnt} (h : mbDrain hw c e = some hw') : hw'.img = hw.img := by
  unfold mbDrain at h
  split at h
  · obtain rfl := Option.some.inj h
    exact mbParity_img c e
  · split at h
    · cases h
    · next hwrite =>
      obtain rfl := Option.some.inj h
      have hgone := (modCore_img _ c fun t => { t with mb := t.mb.filter (fun x => x.gran != e.gran) }).trans
        (pocWrite_img hwrite)
      exact ite_img ((rinc_img _ _ _ _ _).trans hgone) ((rinc_img _ _ _ _ _).trans hgone)

theorem mbDrainAll_img {c : Nat} {es : List MbEnt} (h : mbDrainAll hw c es = some hw') : hw'.img = hw.img := by
  induction es generalizing hw with
  | nil =>
    obtain rfl := Option.some.inj h
    rfl
  | cons e es ih =>
    unfold mbDrainAll at h
    split at h
    · split at h
      · cases h
      · next hdrain => exact (ih h).trans (mbDrain_img hdrain)
    · exact ih h

theorem drainCtx_img {ctx : Nat} {cs : List Nat} (h : drainCtx ctx cs hw = some hw') : hw'.img = hw.img := by
  induction cs generalizing hw with
  | nil =>
    obtain rfl := Option.some.inj h
    rfl
  | cons c cs ih =>
    unfold drainCtx at h
    split at h
    · cases h
    · next hdrain => exact (ih h).trans ((modCore_img _ _ _).trans (mbDrainAll_img hdrain))

/-- The regions of tier 0 are the image's. -/
theorem t0Region_of_img (h : hw'.img = hw.img) (a : Nat) : t0Region hw' a = t0Region hw a := by
  unfold t0Region tierL
  rw [h]

end
end Sys2Proof.Machine
end

section
/-! PROOF. Page migration (R322–R326, R337): each step of DE_MIGRATE where it takes its step, a write to a ring's base that
arrives; then each row. -/

namespace Sys2Proof.Machine

/-! #### A register of the package window (R30, R58) -/

/-- The mesh holds no access to the primary's PCP, which answers the package window, of an initiator whose accesses arrive. -/
theorem regHeld_primary_of_arrives {hw : Hw} {by_ : Agent} (ha : arrives hw by_ = true) (addr : Nat) :
    regHeld hw by_ (4 + hw.pkg.primary) addr = false := by
  have hopen := List.all_eq_true.mp (Bool.and_eq_true_iff.mp ha).2 (4 + hw.pkg.primary)
    (List.mem_append_right _ (List.mem_singleton.mpr rfl))
  have hcol : columnOpen hw (dieOfAgent (busAgent hw by_)) (4 + hw.pkg.primary) (columnOf addr) = true :=
    List.all_eq_true.mp hopen _ (by cases columnOf addr <;> simp)
  simp [regHeld, meshHeld, hcol]

/-- A write that arrives at a register of the package window is the register's. -/
theorem pkgRegWrite_of_arrives {hw : Hw} {by_ : Agent} (ha : arrives hw by_ = true) (addr : Nat → Nat)
    (f : Nat → Hw → Hw × Answer) : pkgRegWrite by_ addr f hw = f hw.pkg.primary hw := by
  simp [pkgRegWrite, regWriteBy, mayAccess_of_arrives ha, regHeld_primary_of_arrives ha]

/-! #### The steps (R323) -/

section
variable {hw h : Hw} {c q : Nat} {m : Cmd} {e : MigEnt}

/-- Steps 1 and 2: an entry that is free and overlaps no other takes the next page as its leaf stands, and every core's
translations of it go. -/
theorem migEntryRow_taken {p : Page} {rest : List Page} (hm : migAt hw c q (fun w => w == .migEntry) = some m)
    (hleft : m.left = p :: rest) (halive : coreAlive hw c = true) (hfree : hw.migs.length < 16)
    (happart : hw.migs.any (fun e => e.ctx == ctxOf hw c q &&
      decide (e.page.va < p.va + 2 ^ p.log2 ∧ p.va < e.page.va + 2 ^ e.page.log2)) = false) :
    let hw1 := { hw with migs := hw.migs ++ [⟨c, m.id, ctxOf hw c q, freshPage hw p⟩] }
    migEntryRow c q hw = did (setCmd ((presentCores hw1).foldl
      (fun h x => bumpCore h x (ctxOf hw c q) p.va (p.va + 2 ^ p.log2)) hw1) c { m with left := rest, work := .migBump }) := by
  unfold migEntryRow
  simp only [hm, hleft, halive, happart, decide_eq_false (Nat.not_le.mpr hfree), ge_iff_le, Bool.not_true, Bool.or_false,
    Bool.false_eq_true, if_false]

section
variable (hm : migAt hw c q (fun w => w == .migBump) = some m) (he : migOf hw c m.id = some e)
  (hfree : pageHeld hw e.ctx e.page = false) (hdrain : drainCtx e.ctx (presentCores hw) hw = some h)
include hm he hfree hdrain

/-- Step 3 with an empty pool: the command ends with STATUS operand, and a log entry names the pool (R326). -/
theorem migBumpRow_empty {pool : Nat} (hpool : poolOf m.w e.page = pool)
    (hempty : rbits h (Reg.pcpMpoolHead hw.pkg.primary pool) 31 0 = rbits h (Reg.pcpMpoolTail hw.pkg.primary pool) 31 0) :
    migBumpRow c q hw = killPass c (did (migStop (migLog h 1 pool e.ctx c) c m stOperand)) := by
  subst hpool
  unfold migBumpRow
  simp only [hm, he, hfree, hdrain, hempty, or_true, Bool.false_eq_true, if_false, if_true]

/-- Step 3 with a frame at the pool's head that fits the page and lies in the region it goes to: the head moves past it and
the copy is next. -/
theorem migBumpRow_frame {pool head : Nat} {base : Word} {h2 h3 : Hw} {bs : List Byte} (hpool : poolOf m.w e.page = pool)
    (hbase : rget h (Reg.pcpMpoolBase hw.pkg.primary pool) = base)
    (hhead : rbits h (Reg.pcpMpoolHead hw.pkg.primary pool) 31 0 = head) (hen : bit base 7 = true)
    (hsome : head ≠ rbits h (Reg.pcpMpoolTail hw.pkg.primary pool) 31 0)
    (hread : pocReadN 2 h (engAgent c) (4096 * bits base 51 12 + 8 * (head % 2 ^ bits base 4 0)) 8 = some (h2, bs, false))
    (hnext : rsetN h2 (Reg.pcpMpoolHead hw.pkg.primary pool) ((head + 1) % 2 ^ 32) = h3)
    (halign : leNat bs % 2 ^ e.page.log2 = 0) (hfits : leNat bs + 2 ^ e.page.log2 ≤ 0x00C000000000)
    (hregion : t0Region h3 (leNat bs) = migUnit m.w) :
    migBumpRow c q hw = killPass c (did (setCmd h3 c { m with work := .migCopy (leNat bs) })) := by
  have himg : h3.img = hw.img := by
    rw [← hnext, rsetN_img, pocReadN_img hread, drainCtx_img hdrain]
  have hlies : t0Region hw (leNat bs) = migUnit m.w := (t0Region_of_img himg _).symm.trans hregion
  subst hpool hbase hhead hnext
  unfold migBumpRow
  simp only [hm, he, hfree, hdrain, hen, hsome, hread, halign, hlies, gt_iff_lt, Nat.not_lt.mpr hfits, ne_eq,
    not_true_eq_false, Bool.not_true, Bool.false_eq_true, or_self, if_false]

end

/-- Steps 4 to 6: no signal is on its way to the old page, and the homes serve the copy and the leaf's writes. -/
theorem migCopyRow_answer {dst : Nat} {x : Hw × Bool}
    (hm : migAt hw c q (fun w => match w with | .migCopy _ => true | _ => false) = some m) (hwork : m.work = .migCopy dst)
    (he : migOf hw c m.id = some e) (hsig : sigHeld hw e.page = false)
    (hcopy : copyLines c (localOf e.page.pa) dst (2 ^ e.page.log2 / 64) hw false = some x)
    (hleaf : leafWrites c dst (leafAddrs e.page) x.1 = some h) : (migCopyRow c q hw).2 = .done := by
  unfold migCopyRow
  generalize hat : migAt hw c q _ = stands
  obtain rfl : stands = some m := hat.symm.trans hm
  simp only [hwork, he, hsig, hcopy, hleaf, Bool.false_eq_true, if_false]
  rfl

/-- Where the ring's next entry lies. -/
def mretPlace (base : Word) (tail : Nat) : Nat := 4096 * bits base 51 12 + 16 * (tail % 2 ^ bits base 4 0)

/-- An entry's bytes: it carries the other value of the ring's PHASE (log 52, DEDUCED). -/
def mretBytes (r : MigRet) (phase : Nat) : List Byte := leBytes 8 (r.w0.toNat + (1 - phase) * 2 ^ 63) ++ leBytes 8 r.w1.toNat

/-- Step 7: the oldest return entry enters a ring that is enabled and has room, whether or not its command still stands. -/
theorem migReturnRow_answer {r : MigRet} {rest : List MigRet} {base : Word} {tail : Nat} (hrets : hw.migRets = r :: rest)
    (hbase : rget hw (Reg.pcpMretBase hw.pkg.primary) = base) (htail : rbits hw (Reg.pcpMretTail hw.pkg.primary) 31 0 = tail)
    (hen : bit base 7 = true)
    (hroom : (tail + 2 ^ 32 - rbits hw (Reg.pcpMretHead hw.pkg.primary) 31 0) % 2 ^ 32 < 2 ^ bits base 4 0)
    (hput : pocWriteN 2 (l1Drop hw r.core (mretPlace base tail) 16) (engAgent r.core) (mretPlace base tail)
      (mretBytes r (rbits hw (Reg.pcpMretTail hw.pkg.primary) 32 32)) false 0 0 = some h) : (migReturnRow hw).2 = .done := by
  subst hbase htail
  unfold mretPlace mretBytes at hput
  unfold migReturnRow
  simp only [hrets, hen, ge_iff_le, Nat.not_le.mpr hroom, hput, Bool.not_true, Bool.false_eq_true, or_self, if_false]
  split <;> rfl

end

/-! #### Each row (O17) -/

section
variable {s : State} {c : CoreId} {q : QueueId} (hon : s.on)
include hon

/-- A bump that ends its step leaves what its row says, with the contexts it killed gone (R83). -/
theorem migrateBumpDone_effect {h : Hw} (hrow : migBumpRow c q s.now = killPass c (did h)) :
    Effect (.migrateBumpDone c q) s (killPass c (h, .done)).1 .done := by
  refine effect_onHw (f := migBumpRow c q) rfl hon ?_
  rw [hrow]
  exact Prod.ext rfl (killPass_answer c _)

/-- A write that arrives at the return ring's base has the register's effect. -/
theorem mretEnable_effect {by_ : Agent} (ha : arrives s.now by_ = true) (v : Word) :
    Effect (.mretEnable by_ v) s (mretWrite s.now.pkg.primary v s.now).1 .done :=
  effect_onHw rfl hon (pkgRegWrite_of_arrives ha Reg.pcpMretBase (fun a => mretWrite a v))

/-- A write that arrives at a pool's base has the register's effect. -/
theorem mpoolEnable_effect {by_ : Agent} (ha : arrives s.now by_ = true) (pool : Fin 15) (v : Word) :
    Effect (.mpoolEnable by_ pool v) s (mpoolWrite s.now.pkg.primary pool v s.now).1 .done :=
  effect_onHw rfl hon (pkgRegWrite_of_arrives ha (fun a => Reg.pcpMpoolBase a pool) (fun a => mpoolWrite a pool v))

end

/-- Settles O17: each step finds the condition its clause assumes, and a write to a ring's base arrives. The PHASE of a return
entry is the model's (log 52, DEDUCED). -/
theorem migrationCompletes : Obligations.MigrationCompletes := by
  intro by_ c q pool v s hon hw ctx
  refine ⟨fun m p rest hm hleft halive hfree happart => ?taken, fun m e h hm he hfree hdrain => ⟨?empty, ?frame⟩,
    fun m e dst x h hm hwork he hsig hcopy hleaf => ?copied, fun r rest h hrets hen hroom hput => ?returned,
    fun ha => ⟨?ring, ?pool⟩⟩
  case taken =>
    exact effect_onHw (f := migEntryRow c q) rfl hon (migEntryRow_taken hm hleft halive hfree happart)
  case empty =>
    intro hempty
    exact migrateBumpDone_effect hon (migBumpRow_empty hm he hfree hdrain rfl hempty)
  case frame =>
    intro h2 bs hen hsome hread halign hfits hregion
    exact migrateBumpDone_effect hon
      (migBumpRow_frame hm he hfree hdrain rfl rfl rfl hen hsome hread rfl halign hfits hregion)
  case copied =>
    exact effect_onHw (f := migCopyRow c q) rfl hon (Prod.ext rfl (migCopyRow_answer hm hwork he hsig hcopy hleaf))
  case returned =>
    exact effect_onHw (f := migReturnRow) rfl hon (Prod.ext rfl (migReturnRow_answer hrets rfl rfl hen hroom hput))
  case ring => exact mretEnable_effect hon ha v
  case pool => exact mpoolEnable_effect hon ha pool v

end Sys2Proof.Machine
end

section
/-! PROOF. The security state over a step (R500, R502, R509, R511, R535–R539). -/

namespace Sys2Proof.Machine

/-! #### Lengths of digests (R511) -/

@[simp] theorem length_leBytes (n v : Nat) : (leBytes n v).length = n := by
  induction n generalizing v with
  | zero => rfl
  | succ n ih => simp [leBytes, ih]

@[simp] theorem length_sha256 (msg : List Byte) : (sha256 msg).length = 32 := by
  simp [sha256, beBytes]

theorem modAt_mem {α : Type} {f : α → α} {l : List α} {i : Nat} {y : α} (h : y ∈ modAt f l i) : y ∈ l ∨ ∃ x, y = f x := by
  fun_induction modAt with
  | case1 => exact .inl h
  | case2 x xs =>
    rcases List.mem_cons.mp h with rfl | h
    · exact .inr ⟨x, rfl⟩
    · exact .inl (List.mem_cons_of_mem _ h)
  | case3 x xs i ih =>
    rcases List.mem_cons.mp h with rfl | h
    · exact .inl List.mem_cons_self
    · exact (ih h).imp_left (List.mem_cons_of_mem _)

@[simp] theorem length_modAt {α : Type} (f : α → α) (l : List α) (i : Nat) : (modAt f l i).length = l.length := by
  fun_induction modAt with
  | case1 => rfl
  | case2 => rfl
  | case3 x xs i ih => simp [ih]


/-! #### An access changes the security state through PCP_RESET alone (R514) -/

section
variable {hw : Hw} {sec : Sec}

/-- A write to a register block leaves the security state, or it is a write to PCP_RESET (R514). -/
theorem regWrite_sec (ag : Agent) (addr : Nat) (b : Blk) (off size : Nat) (v : Word) :
    (regWrite ag addr b off size v hw sec).2.1 = sec ∨
      ∃ w, regWrite ag addr b off size v hw sec = pcpResetWrite w hw sec := by
  unfold regWrite
  dsimp only
  split
  · exact .inl rfl
  split
  · exact .inl rfl
  split
  · exact .inl rfl
  split
  · exact .inl rfl
  split
  · exact .inl rfl
  split
  · exact .inr ⟨_, rfl⟩
  · exact .inl rfl

/-- So does any write of the bus. -/
theorem busWrite_sec (ag : Agent) (who : DsWho) (a size : Nat) (v : Word) :
    (busWrite ag who a size v hw sec).2.1 = sec ∨
      ∃ w, busWrite ag who a size v hw sec = pcpResetWrite w hw sec := by
  unfold busWrite
  dsimp only
  split
  · exact .inl rfl
  split
  · exact .inl rfl
  split
  case h_5 | h_6 => exact regWrite_sec ..
  case h_1 | h_2 => exact .inl (by split <;> [rfl; split] <;> rfl)
  case h_3 | h_4 | h_9 => exact .inl rfl
  case h_7 => exact .inl (by split <;> rfl)
  case h_8 => exact .inl (by split <;> [rfl; split <;> [rfl; split]] <;> rfl)

/-- A write to PCP_RESET resets the package or does nothing (R514). -/
theorem pcpResetWrite_cases (v : Word) : pcpResetWrite v hw sec = (hw, sec, .done) ∨
    pcpResetWrite v hw sec = ((coldReset 4 hw sec).1, (coldReset 4 hw sec).2, .done) ∨
    pcpResetWrite v hw sec = ((warmReset 4 hw sec).1, (warmReset 4 hw sec).2, .done) := by
  unfold pcpResetWrite
  split_ifs
  · exact .inl rfl
  · exact .inr (.inl rfl)
  · exact .inr (.inr rfl)
  · exact .inl rfl

end

/-! #### What the monitor can do (R535–R541) -/

/-- One thing the monitor does to the package and to its own record: an access, a test or a POP of a command, characters that
go out, what follows from an effect, a change of its record, UNLOCK, RESET, REVOKE. -/
inductive MonMove : Hw × Sec → Hw × Sec → Prop
  | read (hw : Hw) (sec : Sec) (a size : Nat) :
      MonMove (hw, sec) ((busRead .monitor (.agent .monitor) a size hw sec).1, sec)
  | write (hw : Hw) (sec : Sec) (a size : Nat) (v : Word) :
      MonMove (hw, sec) ((busWrite .monitor (.agent .monitor) a size v hw sec).1,
        (busWrite .monitor (.agent .monitor) a size v hw sec).2.1)
  | margin (hw : Hw) (sec : Sec) (k : Nat) (v : Word) : MonMove (hw, sec) ((mrgCmdWrite k v hw).1, sec)
  | traffic (hw : Hw) (sec : Sec) (k n : Nat) (v : Word) :
      MonMove (hw, sec) ((tgCtrlWrite k v (rsetN hw (ctlTgRange k) n)).1, sec)
  | pop (hw : Hw) (sec : Sec) (a : Nat) : MonMove (hw, sec) ((logPop hw .monitor a).2, sec)
  | own (hw : Hw) (sec : Sec) (sent : List Out) (fresh : Nat) : MonMove (hw, sec) ({ hw with sent := sent, fresh := fresh }, sec)
  | follow (hw : Hw) (sec : Sec) (old : Hw) : MonMove (hw, sec) (finish old hw, sec)
  | record (hw : Hw) (sec : Sec) (m : Mon) (hu : m.unlocked = true → sec.mon.unlocked = true)
      (hl : m.line.length ≤ max 160 sec.mon.line.length) (hi : m.inbuf.length ≤ max 256 sec.mon.inbuf.length) :
      MonMove (hw, sec) (hw, { sec with mon := m })
  | unlock (hw : Hw) (sec : Sec) (m : Mon) (key : List Byte) (nonce sig : List Byte) (hk : key ∈ sec.monKeys)
      (hsig : Config.slhVerify key (unlockMsg hw nonce) sig = true) (hl : m.line = sec.mon.line) (hi : m.inbuf = sec.mon.inbuf) :
      MonMove (hw, sec) (hw, { sec with mon := m })
  | reset (hw : Hw) (sec : Sec) : MonMove (hw, sec) (warmReset 6 hw sec)
  | revoke (hw : Hw) (sec : Sec) (k : Nat) : MonMove (hw, sec) (hw, { sec with revoked := sec.revoked ||| BitVec.ofNat 4 (2 ^ k) })

/-- What any number of them do. -/
abbrev MonMoves : Hw × Sec → Hw × Sec → Prop := Relation.ReflTransGen MonMove

/-- Where a run of a command leaves the package. -/
def MonRun.left (r : MonRun) : Hw × Sec := (r.hw, r.sec)

section
variable {hw : Hw} {sec : Sec} {r : Hw × Sec}

theorem MonMoves.record (h : MonMoves r (hw, sec)) (m : Mon) (hu : m.unlocked = true → sec.mon.unlocked = true)
    (hl : m.line.length ≤ max 160 sec.mon.line.length) (hi : m.inbuf.length ≤ max 256 sec.mon.inbuf.length) :
    MonMoves r (hw, { sec with mon := m }) :=
  h.tail (.record hw sec m hu hl hi)

/-- A change of the monitor's record that keeps its lock, its line and its buffer. -/
theorem MonMoves.same (h : MonMoves r (hw, sec)) (m : Mon) (hu : m.unlocked = sec.mon.unlocked) (hl : m.line = sec.mon.line)
    (hi : m.inbuf = sec.mon.inbuf) : MonMoves r (hw, { sec with mon := m }) :=
  h.record m hu.symm.trans ((congrArg List.length hl).le.trans (le_max_right _ _))
    ((congrArg List.length hi).le.trans (le_max_right _ _))

theorem MonMoves.hold (h : MonMoves r (hw, sec)) (text : List Byte) (w : MonWait) :
    MonMoves r (MonRun.hold hw sec text w).left :=
  h.same _ rfl rfl rfl

theorem monFetch_moves (a size : Nat) : MonMoves (hw, sec) ((monFetch a size hw sec).1, sec) := by
  have hread : MonMoves (hw, sec) ((busRead .monitor (.agent .monitor) a size hw sec).1, sec) := .single (.read hw sec a size)
  rw [monFetch]
  generalize busRead .monitor (.agent .monitor) a size hw sec = x at hread
  obtain ⟨w, ans⟩ := x
  cases ans <;> exact hread

theorem peekGot_moves (h : MonMoves r (hw, sec)) (a size : Nat) (g : MonGot) : MonMoves r (peekGot a size hw sec g).left := by
  cases g with
  | value v => exact h
  | error => exact h
  | held i => exact h.hold _ _

theorem pokeEnd_moves {x : Hw × Sec × Answer} (h : MonMoves r (x.1, x.2.1)) (job : MonJob) :
    MonMoves r (pokeEnd job x).left := by
  unfold pokeEnd
  split
  · exact h
  split
  · exact h
  · exact h.hold _ _
  · exact h.hold _ _
  · exact h

theorem dumpGo_moves (h : MonMoves r (hw, sec)) (left a col : Nat) (text : List Byte) :
    MonMoves r (dumpGo left a col text hw sec).left := by
  induction left generalizing a col text hw with
  | zero => exact h
  | succ n ih =>
    have hf := h.trans (monFetch_moves a 8)
    unfold dumpGo
    split
    · exact ih h ..
    generalize monFetch a 8 hw sec = x at hf
    split
    · exact ih hf ..
    · exact hf
    · exact MonMoves.hold hf _ _

theorem jobRun_moves (job : MonJob) : MonMoves (hw, sec) (jobRun job hw sec).left := by
  cases job with
  | peek a size => exact peekGot_moves (monFetch_moves a size) ..
  | poke a size v => exact pokeEnd_moves (.single (.write hw sec a size v)) _
  | dump a left col => exact dumpGo_moves .refl ..

theorem jobGot_moves (job : MonJob) (got : Option Word) (done : Bool) :
    MonMoves (hw, sec) (jobGot job got done hw sec).left := by
  unfold jobGot
  split
  · exact .refl
  · exact dumpGo_moves .refl ..
  · split <;> exact .refl
  · exact .refl

theorem regLines_moves (h : MonMoves r (hw, sec)) (rs : List (List Byte × Nat)) (text : List Byte) :
    MonMoves r (regLines rs text hw sec).left := by
  induction rs generalizing text hw with
  | nil => exact h
  | cons x rs ih =>
    obtain ⟨name, a⟩ := x
    have hf := h.trans (monFetch_moves a 8)
    unfold regLines
    generalize monFetch a 8 hw sec = x at hf
    split
    · exact ih hf ..
    · exact hf

/-- A test that a controller takes or refuses. -/
theorem test_moves (h : MonMoves r (hw, sec)) (e : Nat) (w : MonWait) :
    MonMoves r (if e = 0 then MonRun.hold hw sec [] w else MonRun.fail hw sec [] (if e = 2 then 5 else 6)).left := by
  split
  · exact h.hold _ _
  · exact h

theorem monMargin_moves (k u : Nat) : MonMoves (hw, sec) (monMargin k u hw sec).left :=
  test_moves (.single (.margin hw sec k _)) (testRefusal hw k) _

theorem monTg_moves (k mask pattern op start len : Nat) :
    MonMoves (hw, sec) (monTg k mask pattern op start len hw sec).left :=
  test_moves (.single (.traffic hw sec k _ _)) (testRefusal hw k) _

theorem popAll_moves (h : MonMoves r (hw, sec)) (a n : Nat) (text : List Byte) :
    MonMoves r ((popAll a n text hw).1, sec) := by
  induction n generalizing text hw with
  | zero => exact h
  | succ n ih =>
    have hp := h.tail (.pop hw sec a)
    unfold popAll
    dsimp only
    split
    · exact ih hp ..
    · exact hp

theorem logDie_moves (h : MonMoves r (hw, sec)) (d n k : Nat) (text : List Byte) :
    MonMoves r ((logDie d n k text hw).1, sec) := by
  induction n generalizing k text hw with
  | zero => exact h
  | succ n ih =>
    have hp := h.tail (.pop hw sec (Reg.rasLog d))
    unfold logDie
    dsimp only
    split
    · exact ih hp ..
    · exact hp

theorem monLogs_moves (dies : List Nat) : MonMoves (hw, sec) (monLogs dies hw sec).left := by
  unfold monLogs MonRun.left
  dsimp only
  have h : ∀ x : Hw × Nat × List Byte, MonMoves (hw, sec) (x.1, sec) → MonMoves (hw, sec) ((dies.foldl
      (fun x d => logDie d ((logGet x.1 (Reg.rasLog d)).length + 1) x.2.1 x.2.2 x.1) x).1, sec) := by
    induction dies with
    | nil => exact fun _ h => h
    | cons d ds ih => exact fun x h => ih _ (logDie_moves h ..)
  exact h _ .refl

theorem trafficRun_moves (k : Nat) : MonMoves (hw, sec) (trafficRun k hw sec).left := popAll_moves .refl ..

theorem monChal_moves : MonMoves (hw, sec) (monChal hw sec).left := by
  have hdraw : MonMoves (hw, sec) ((if sec.mon.rated then (draw hw).2 else hw), sec) := by
    split
    · exact .single (.own hw sec hw.sent _)
    · exact .refl
  unfold monChal
  dsimp only
  generalize (if sec.mon.rated then (draw hw).2 else hw) = hw0 at hdraw
  split
  · exact hdraw
  · exact MonMoves.same (hdraw.tail (.own hw0 sec hw0.sent (hw0.fresh + 4))) _ rfl rfl rfl

theorem atD_mem {α : Type} (d : α) {l : List α} {i : Nat} (h : i < l.length) : atD d l i ∈ l := by
  fun_induction atD with
  | case1 => exact absurd h (Nat.not_lt_zero _)
  | case2 x xs => exact List.mem_cons_self
  | case3 x xs i ih => exact List.mem_cons_of_mem _ (ih (Nat.lt_of_succ_lt_succ h))

/-- UNLOCK unlocks under a signature that verifies, and else leaves the lock as it is (R539). -/
theorem monUnlock_moves (k : Nat) : MonMoves (hw, sec) (monUnlock k hw sec).left := by
  have h : MonMoves (hw, sec) (hw, { sec with mon := { sec.mon with nonce := none, upload := [], rated := true } }) :=
    MonMoves.same .refl _ rfl rfl rfl
  unfold monUnlock
  dsimp only
  split
  · exact h
  split
  · exact h
  split_ifs with hlen hsig
  · exact h
  · exact .single (.unlock hw sec _ _ _ _ (atD_mem [] (Nat.lt_of_not_le hlen)) hsig rfl rfl)
  · exact h

theorem uploadByte_moves (n : Nat) (b : Byte) : MonMoves (hw, sec) (uploadByte n b hw sec).left := by
  unfold uploadByte
  dsimp only
  split_ifs
  · exact MonMoves.same .refl _ rfl rfl rfl
  · exact MonMoves.same .refl _ rfl rfl rfl
  · exact MonMoves.same .refl _ rfl rfl rfl

theorem monCounters_moves (die core : Option Nat) : MonMoves (hw, sec) (monCounters die core hw sec).left := by
  unfold monCounters
  split
  · split
    · exact regLines_moves .refl ..
    · exact .refl
  · split
    · exact .refl
    · exact regLines_moves .refl ..
  · exact regLines_moves .refl ..

theorem monDo_moves (c : MonCmd) : MonMoves (hw, sec) (monDo c hw sec).left := by
  unfold monDo
  split
  · exact .refl
  cases c with
  | help => exact .refl
  | id => exact .refl
  | peek a size =>
    dsimp only
    split
    · exact .refl
    · exact jobRun_moves _
  | poke a size v =>
    dsimp only
    split
    · exact .refl
    · exact jobRun_moves _
  | dump a n =>
    dsimp only
    split
    · exact .refl
    · exact jobRun_moves _
  | cnt die core => exact monCounters_moves ..
  | pwr => exact regLines_moves .refl ..
  | link => exact regLines_moves .refl ..
  | margin d c u =>
    dsimp only
    split
    · split
      · exact monMargin_moves ..
      · exact .refl
    · exact .refl
  | tg d c m p o st l =>
    dsimp only
    split
    · split
      · exact monTg_moves ..
      · exact .refl
    · exact .refl
  | log die =>
    cases die with
    | none => exact monLogs_moves _
    | some d =>
      dsimp only
      split
      · exact monLogs_moves _
      · exact .refl
  | chal => exact monChal_moves
  | upload n =>
    dsimp only
    split
    · exact .refl
    · exact MonMoves.same .refl _ rfl rfl rfl
  | unlock k => exact monUnlock_moves k
  | lock => exact MonMoves.record .refl _ (fun h => Bool.noConfusion h) (le_max_right _ _) (le_max_right _ _)
  | reset => exact .single (.reset hw sec)
  | revoke k =>
    dsimp only
    split
    · exact .refl
    · exact .single (.revoke hw sec k)

theorem monRun_moves (c : Option MonCmd) : MonMoves (hw, sec) (monRun c hw sec).left := by
  unfold monRun
  split
  · exact MonMoves.same .refl _ rfl rfl rfl
  split
  · exact monDo_moves _
  · exact .refl

end

/-! #### The monitor's line (R536, R541) -/

section
variable {r r0 : Hw × Sec}

theorem monEmit_moves {x : MonRun} (h : MonMoves r0 x.left) (before : List Out) : MonMoves r0 (monEmit before x) := by
  have hsent : ∀ l, MonMoves r0 ({ x.hw with sent := l }, x.sec) := fun l => h.tail (.own x.hw x.sec l x.hw.fresh)
  unfold monEmit
  dsimp only
  split
  · exact (hsent _).same _ rfl rfl rfl
  · exact (hsent _).same _ rfl rfl rfl

/-- An action of the monitor, with what follows from it and what goes out. -/
theorem monAct_moves {f : Hw → Sec → MonRun} (hf : ∀ hw sec, MonMoves (hw, sec) (f hw sec).left) (r : Hw × Sec) :
    MonMoves r (monAct f r) := by
  have h0 : MonMoves r ({ r.1 with sent := [] }, r.2) := .single (.own r.1 r.2 [] r.1.fresh)
  exact monEmit_moves ((h0.trans (hf _ _)).tail (.follow _ _ _)) r.1.sent

theorem monStop_moves : MonMoves r (monStop r) := monAct_moves (fun _ _ => .refl) r

theorem monEcho_moves (b : Byte) : MonMoves r (monEcho b r) := .single (.own r.1 r.2 _ r.1.fresh)

theorem setMonLine_moves (h : MonMoves r0 r) {l : List Byte} (hl : l.length ≤ max 160 r.2.mon.line.length) :
    MonMoves r0 (setMonLine r l) :=
  MonMoves.record h _ id hl (le_max_right _ _)

theorem monTyped_moves (b : Byte) : MonMoves r (monTyped b r) := by
  have hecho := monEcho_moves (r := r) b
  unfold monTyped
  dsimp only
  split
  · have h := setMonLine_moves hecho (l := []) (Nat.zero_le _)
    split
    · exact h.tail (.own _ _ _ _)
    · exact h.trans (monAct_moves (fun _ _ => monRun_moves _) _)
  split
  · split
    · exact .refl
    · exact setMonLine_moves hecho (le_max_of_le_right (List.length_dropLast ▸ Nat.sub_le _ _))
  split_ifs with hb
  · exact .refl
  · have hlen : r.2.mon.line.length < 160 := Nat.lt_of_not_le fun h => hb (.inr h)
    exact setMonLine_moves hecho (le_max_of_le_left (by simpa using hlen))

theorem monBuffer_moves (b : Byte) : MonMoves r (monBuffer b r) := by
  refine MonMoves.record (sec := r.2) .refl _ ?_ ?_ ?_
  · split <;> exact id
  · split <;> exact le_max_right _ _
  · split_ifs with h
    · exact le_max_of_le_left (by simpa using h)
    · exact le_max_right _ _

theorem monChar_moves {feed : Hw × Sec → Hw × Sec} (hfeed : ∀ r, MonMoves r (feed r)) (b : Byte) (r : Hw × Sec) :
    MonMoves r (monChar feed b r) := by
  have hwait : MonMoves r (if b = 3 then feed (monStop r) else monBuffer b r) := by
    split
    · exact monStop_moves.trans (hfeed _)
    · exact monBuffer_moves b
  unfold monChar
  split
  · exact .refl
  split
  · exact monTyped_moves b
  · exact monAct_moves (fun _ _ => uploadByte_moves _ b) r
  · exact hwait
  · exact hwait
  · exact monBuffer_moves b

theorem monFeed_moves (n : Nat) (r : Hw × Sec) : MonMoves r (monFeed n r) := by
  induction n generalizing r with
  | zero => exact .refl
  | succ n ih =>
    have hfold : ∀ (l : List Byte) (x : Hw × Sec), MonMoves x (l.foldl (fun x b => monChar (monFeed n) b x) x) := by
      intro l
      induction l with
      | nil => exact fun _ => .refl
      | cons b bs ihl => exact fun x => (monChar_moves ih b x).trans (ihl _)
    unfold monFeed
    split
    · exact .refl
    · exact (MonMoves.record .refl { r.2.mon with inbuf := [] } id (le_max_right _ _) (Nat.zero_le _)).trans (hfold _ _)

/-- How a wait of the monitor ends is an action of its own. -/
theorem monEnd_moves {ans : Answer} {hw : Hw} {w : MonWait} {f : Hw → Sec → MonRun} (h : monEnd ans hw w = some f)
    (hw' : Hw) (sec : Sec) : MonMoves (hw', sec) (f hw' sec).left := by
  unfold monEnd at h
  split at h
  · cases h
  · cases h
  · split_ifs at h
    cases h
    exact .refl
  · split_ifs at h
    cases h
    exact trafficRun_moves _
  · split_ifs at h
    cases h
    exact jobGot_moves ..
  · cases h
    exact jobRun_moves _

theorem monSettle_moves (ans : Answer) (r : Hw × Sec) : MonMoves r (monSettle ans r) := by
  have h : ∀ l d, MonMoves r ({ r.1 with sent := l }, { r.2 with mon := { r.2.mon with due := d } }) := fun l d =>
    MonMoves.same (.single (.own r.1 r.2 l r.1.fresh)) _ rfl rfl rfl
  unfold monSettle
  split
  · exact .refl
  dsimp only
  split
  · exact h _ _
  · rename_i f hf
    exact ((h _ _).trans (monAct_moves (monEnd_moves hf) _)).trans (monFeed_moves _ _)

end

end Sys2Proof.Machine
end

section
/-! PROOF. The fuses, the boot and the monitor's buffers (R500, R502, R509, R511, R535): what the monitor's moves and a
boot step leave of them. -/

namespace Sys2Proof.Machine

/-! #### What the monitor's moves leave of the security state (R500, R511, R535) -/

/-- Fuses only rise, the boot stands with its measurements or a reset has set it back, the monitor's buffers stay within
their bounds. -/
structure SecKept (x y : Sec) : Prop where
  revoked : x.revoked &&& y.revoked = x.revoked
  fuseSvn : y.fuseSvn = x.fuseSvn
  boot : (y.step = x.step ∧ y.meas = x.meas) ∨ (y.step ≤ 1 ∧ y.meas = Sec.reset.meas)
  line : y.mon.line.length ≤ max 160 x.mon.line.length
  inbuf : y.mon.inbuf.length ≤ max 256 x.mon.inbuf.length

section
variable {x y z : Sec} {hw : Hw}

theorem SecKept.refl (x : Sec) : SecKept x x := ⟨BitVec.and_self, rfl, .inl ⟨rfl, rfl⟩, le_max_right _ _, le_max_right _ _⟩

theorem SecKept.trans (h : SecKept x y) (h' : SecKept y z) : SecKept x z where
  revoked := by rw [← h.revoked, BitVec.and_assoc, h'.revoked]
  fuseSvn := h'.fuseSvn.trans h.fuseSvn
  boot := by
    rcases h'.boot with ⟨hs, hm⟩ | hr
    · rw [hs, hm]
      exact h.boot
    · exact .inr hr
  line := h'.line.trans (max_le (le_max_left _ _) h.line)
  inbuf := h'.inbuf.trans (max_le (le_max_left _ _) h.inbuf)

theorem coldSec_kept : SecKept x (coldSec hw x) :=
  ⟨BitVec.and_self, rfl, .inr ⟨Nat.zero_le 1, rfl⟩, Nat.zero_le _, Nat.zero_le _⟩

theorem coldReset_kept (src : Nat) : SecKept x (coldReset src hw x).2 := coldSec_kept

theorem railsDown_kept (off cause : Nat) : SecKept x (railsDown off cause hw x).2 := coldSec_kept

theorem warmReset_kept (src : Nat) : SecKept x (warmReset src hw x).2 :=
  ⟨BitVec.and_self, rfl, .inr ⟨Nat.le_refl 1, rfl⟩, Nat.zero_le _, Nat.zero_le _⟩

/-- A halt adds its word and changes nothing else of the security state (R510). -/
theorem halt_sec (a w : Nat) (r : Hw × Sec) : (halt a w r).2 = { r.2 with halts := r.2.halts ++ [(a, w)] } := rfl

theorem halt_kept (a w : Nat) : SecKept x (halt a w (hw, x)).2 := by
  rw [halt_sec]
  exact ⟨BitVec.and_self, rfl, .inl ⟨rfl, rfl⟩, le_max_right _ _, le_max_right _ _⟩

theorem pcpResetWrite_kept (v : Word) : SecKept x (pcpResetWrite v hw x).2.1 := by
  rcases pcpResetWrite_cases (hw := hw) (sec := x) v with h | h | h <;> rw [h]
  · exact .refl x
  · exact coldReset_kept 4
  · exact warmReset_kept 4

theorem pcpResetBy_kept (ag : Agent) (v : Word) : SecKept x (pcpResetBy ag v hw x).2.1 := by
  unfold pcpResetBy
  split
  · exact pcpResetWrite_kept v
  · exact .refl x

theorem busWrite_kept (ag : Agent) (who : DsWho) (a size : Nat) (v : Word) :
    SecKept x (busWrite ag who a size v hw x).2.1 := by
  rcases busWrite_sec (hw := hw) (sec := x) ag who a size v with h | ⟨w, h⟩ <;> rw [h]
  · exact .refl x
  · exact pcpResetWrite_kept w

end

theorem MonMove.secKept {r r' : Hw × Sec} (h : MonMove r r') : SecKept r.2 r'.2 := by
  cases h with
  | read => exact .refl _
  | write => exact busWrite_kept ..
  | margin => exact .refl _
  | traffic => exact .refl _
  | pop => exact .refl _
  | own => exact .refl _
  | follow => exact .refl _
  | record hw sec m hu hl hi => exact ⟨BitVec.and_self, rfl, .inl ⟨rfl, rfl⟩, hl, hi⟩
  | unlock hw sec m key nonce sig hk hsig hl hi =>
    exact ⟨BitVec.and_self, rfl, .inl ⟨rfl, rfl⟩, (congrArg List.length hl).le.trans (le_max_right _ _),
      (congrArg List.length hi).le.trans (le_max_right _ _)⟩
  | reset => exact warmReset_kept 6
  | revoke hw sec k =>
    refine ⟨?_, rfl, .inl ⟨rfl, rfl⟩, le_max_right _ _, le_max_right _ _⟩
    ext i
    simp +contextual

theorem MonMoves.secKept {r r' : Hw × Sec} (h : MonMoves r r') : SecKept r.2 r'.2 := by
  induction h with
  | refl => exact .refl _
  | tail _ hm ih => exact ih.trans hm.secKept

/-! #### What a boot step leaves of it (R502, R509, R511) -/

/-- Six measurement registers of 32 bytes (R511). -/
def MeasShape (x : Sec) : Prop := x.meas.length = 6 ∧ ∀ m ∈ x.meas, m.length = 32

/-- A boot step keeps the revocation bits and the step's number, raises FUSE_SVN to at most 32, leaves the measurement
registers their shape and the monitor's buffers within their bounds. -/
structure BootKept (x y : Sec) : Prop where
  revoked : y.revoked = x.revoked
  fuseSvn : x.fuseSvn ≤ 32 → x.fuseSvn ≤ y.fuseSvn ∧ y.fuseSvn ≤ 32
  step : y.step = x.step
  shape : MeasShape x → MeasShape y
  line : y.mon.line.length ≤ max 160 x.mon.line.length
  inbuf : y.mon.inbuf.length ≤ max 256 x.mon.inbuf.length

section
variable {x y z : Sec}

theorem BootKept.refl (x : Sec) : BootKept x x :=
  ⟨rfl, fun h => ⟨Nat.le_refl _, h⟩, rfl, id, le_max_right _ _, le_max_right _ _⟩

theorem BootKept.trans (h : BootKept x y) (h' : BootKept y z) : BootKept x z where
  revoked := h'.revoked.trans h.revoked
  fuseSvn := fun hx => ⟨(h.fuseSvn hx).1.trans (h'.fuseSvn (h.fuseSvn hx).2).1, (h'.fuseSvn (h.fuseSvn hx).2).2⟩
  step := h'.step.trans h.step
  shape := h'.shape ∘ h.shape
  line := h'.line.trans (max_le (le_max_left _ _) h.line)
  inbuf := h'.inbuf.trans (max_le (le_max_left _ _) h.inbuf)

theorem MeasShape.measure (h : MeasShape x) (m : Nat) (d : List Byte) (last : Bool) : MeasShape (extend x m d last) := by
  refine ⟨(length_modAt _ _ _).trans h.1, fun y hy => ?_⟩
  rcases modAt_mem hy with hy | ⟨z, rfl⟩
  · exact h.2 y hy
  · exact length_sha256 _

theorem BootKept.measure (h : BootKept x y) (m : Nat) (d : List Byte) (last : Bool) : BootKept x (extend y m d last) :=
  h.trans ⟨rfl, fun h => ⟨Nat.le_refl _, h⟩, rfl, fun h => MeasShape.measure h m d last, le_max_right _ _, le_max_right _ _⟩

theorem BootKept.foldl_measure {α : Type} (h : BootKept x y) (m : Nat) (d : α → List Byte) (last : Bool) (l : List α) :
    BootKept x (l.foldl (fun s e => extend s m (d e) last) y) := by
  induction l generalizing y with
  | nil => exact h
  | cons e l ih => exact ih (h.measure m (d e) last)

/-- Changes that leave the fuses, the step's number, the measurements and the monitor alone. -/
theorem BootKept.other (h : BootKept x y) (hr : z.revoked = y.revoked) (hf : z.fuseSvn = y.fuseSvn) (hs : z.step = y.step)
    (hm : z.meas = y.meas) (hmon : z.mon = y.mon) : BootKept x z :=
  h.trans ⟨hr, fun h => ⟨hf.ge, hf.trans_le h⟩, hs, fun h => ⟨hm ▸ h.1, hm ▸ h.2⟩, hmon ▸ le_max_right _ _,
    hmon ▸ le_max_right _ _⟩

variable {hw : Hw}

theorem BootKept.halt {r : Hw × Sec} (h : BootKept x r.2) (a w : Nat) : BootKept x (halt a w r).2 := by
  rw [halt_sec]
  exact h.other rfl rfl rfl rfl rfl

/-- A step's effect that keeps the security state's bounds, whatever it starts from. -/
def KeepsBoot (f : Hw × Sec → Hw × Sec) : Prop :=
  ∀ r, BootKept r.2 (f r).2

theorem bootStraps_kept (n s : Bool) (r : Hw × Sec) : BootKept r.2 (bootStraps n s r).2 := by
  have hmon : ∀ (y : Sec) (u : Bool), BootKept r.2 y → BootKept r.2 { y with mon := { Mon.reset with unlocked := u } } :=
    fun y u h => h.trans ⟨rfl, fun h => ⟨Nat.le_refl _, h⟩, rfl, id, Nat.zero_le _, Nat.zero_le _⟩
  unfold bootStraps
  split
  · exact ((BootKept.refl _).halt ..).halt ..
  · exact hmon _ _ ((BootKept.refl _).measure 0 _ true)

/-- An accepted image puts its fields in force and measures its records (R511). -/
theorem bootAccept_kept (slot : Nat) (b : List Byte) (rs : List ImgRec) (r : Hw × Sec) :
    BootKept r.2 (bootAccept slot b rs r).2 := by
  unfold bootAccept
  extract_lets host keys n img hw1 hw2 src sec1 measured sec2
  have h1 : BootKept r.2 sec1 := (BootKept.refl r.2).other rfl rfl rfl rfl rfl
  have hm : BootKept r.2 measured := (h1.measure ..).foldl_measure ..
  have hdone : BootKept r.2 { measured with measDone := measured.measDone ||| 2 } := hm.other rfl rfl rfl rfl rfl
  have h2 : BootKept r.2 sec2 := hdone.measure ..
  exact h2

theorem bootImage_kept (slot0 slot1 : Option (List Byte)) (r : Hw × Sec) : BootKept r.2 (bootImage slot0 slot1 r).2 := by
  unfold bootImage
  extract_lets
  split
  · exact (BootKept.refl _).halt ..
  split
  · exact (BootKept.refl _).halt ..
  extract_lets
  split
  · exact (BootKept.refl _).halt ..
  · exact bootAccept_kept ..

theorem bootSecondary_kept (answers : Bool) (r : Hw × Sec) : BootKept r.2 (bootSecondary answers r).2 := by
  unfold bootSecondary
  extract_lets
  split
  · exact (BootKept.refl _).halt ..
  split
  · exact (BootKept.refl _).other rfl rfl rfl rfl rfl
  · exact (BootKept.refl _).halt ..

theorem bootMesh_kept (missing : BitVec 6) (bad : List (ModuleId × BitVec 68 × BitVec 68)) (dead : BitVec 64) (r : Hw × Sec) :
    BootKept r.2 (bootMesh missing bad dead r).2 := by
  unfold bootMesh
  extract_lets
  clear_value *
  split
  · rw [halt_sec]
    exact (BootKept.refl r.2).other rfl rfl rfl rfl rfl
  · exact ((BootKept.refl _).measure ..).measure ..

/-- The step's effect is read with the search for a failed unit left open: which unit it finds has no part in what is kept. -/
theorem bootMemory_keeps (cycles : Nat) (std : MarginRes) (res : List (CtlId × MarginRes)) (bad : List (CtlId × Nat)) :
    KeepsBoot (bootMemory cycles std res bad) := by
  delta bootMemory
  obtain ⟨failed, hfailed⟩ : ∃ f, f = failedUnit := ⟨_, rfl⟩
  rw [← hfailed]
  clear hfailed
  intro r
  beta_reduce
  extract_lets a cold hw1 spent hw2 hw3f hw3 hold hw4
  clear_value a hw3f hw4 hold hw3 hw2
  split
  · rw [halt_sec]
    exact (BootKept.refl r.2).other rfl rfl rfl rfl rfl
  · exact (BootKept.refl _).other rfl rfl rfl rfl rfl

theorem bootMemory_kept (cycles : Nat) (std : MarginRes) (res : List (CtlId × MarginRes)) (bad : List (CtlId × Nat)) (r : Hw × Sec) :
    BootKept r.2 (bootMemory cycles std res bad r).2 :=
  bootMemory_keeps cycles std res bad r

theorem bootHost_kept (r : Hw × Sec) : BootKept r.2 (bootHost r).2 := by
  unfold bootHost
  extract_lets
  clear_value *
  split
  · exact (BootKept.refl _).halt ..
  split
  · exact (BootKept.refl _).halt ..
  · exact (BootKept.refl _).measure ..

/-- The last step may raise FUSE_SVN (R502); the measurements stand. -/
theorem bootLinks_kept (r : Hw × Sec) : BootKept r.2 (bootLinks r).2 ∧ (bootLinks r).2.meas = r.2.meas := by
  unfold bootLinks
  dsimp only
  split
  case isTrue hc =>
    exact ⟨⟨rfl, fun h => ⟨le_min h hc.2.le, min_le_left _ _⟩, rfl, id, le_max_right _ _, le_max_right _ _⟩, rfl⟩
  case isFalse => exact ⟨.refl _, rfl⟩

theorem bootEffect_kept {n cycles : Nat} {inp : BootIn} {r r' : Hw × Sec} (h : bootEffect n cycles inp r = some r') :
    BootKept r.2 r'.2 ∧ (9 ≤ n → r'.2.meas = r.2.meas) := by
  unfold bootEffect at h
  split at h
  case h_11 => cases h
  all_goals
    injection h with h
    subst h
  case h_1 => exact ⟨.refl _, fun h => by omega⟩
  case h_2 => exact ⟨bootStraps_kept .., fun h => by omega⟩
  case h_3 => exact ⟨bootImage_kept .., fun h => by omega⟩
  case h_4 => exact ⟨bootSecondary_kept .., fun h => by omega⟩
  case h_5 => exact ⟨.refl _, fun h => by omega⟩
  case h_6 => exact ⟨bootMesh_kept .., fun h => by omega⟩
  case h_7 => exact ⟨bootMemory_kept .., fun h => by omega⟩
  case h_8 => exact ⟨bootHost_kept .., fun h => by omega⟩
  case h_9 => exact ⟨.refl _, fun _ => rfl⟩
  case h_10 => exact ⟨(bootLinks_kept r).1, fun _ => (bootLinks_kept r).2⟩

/-- A boot step leaves what its effect left, with the step's number raised by one unless it halted. -/
theorem bootStep_kept (cycles : BitVec 32) (inp : BootIn) :
    ∃ y n, BootKept x y ∧ (8 ≤ x.step → y.meas = x.meas) ∧ (n = x.step ∨ (n = x.step + 1 ∧ n ≤ 10)) ∧
      (bootStep cycles inp hw x).2.1 = { y with step := n } := by
  unfold bootStep
  dsimp only
  split
  · exact ⟨x, x.step, .refl x, fun _ => rfl, .inl rfl, rfl⟩
  case isFalse hgo =>
    split
    · exact ⟨x, x.step, .refl x, fun _ => rfl, .inl rfl, rfl⟩
    · rename_i hw1 sec1 he
      obtain ⟨hk, hm⟩ := bootEffect_kept he
      have hmeas : 8 ≤ x.step → sec1.meas = x.meas := fun h => hm (by omega)
      split
      · exact ⟨sec1, x.step, hk, hmeas, .inl rfl, by rw [← hk.step]⟩
      · exact ⟨sec1, x.step + 1, hk, hmeas, .inr ⟨rfl, by omega⟩, rfl⟩

end

end Sys2Proof.Machine
end

section
/-! PROOF. What a command is: an effect on the hardware, on the security state too, or an action of the monitor; from it
the queue's rule, liveness, the package off, and what every step keeps of the security state (R500, R502, R509, R511). -/

namespace Sys2Proof.Machine

/-! #### What a command is (log 1, log 2, log 15) -/

/-- An effect on the hardware that leaves the security state within its bounds. -/
abbrev KeepsSec (f : Hw → Sec → Hw × Sec × Answer) : Prop := ∀ hw sec, SecKept sec (f hw sec).2.1

/-- The outcomes of the commands but those on the supply: an effect on the hardware; one on the security state too, which
keeps its bounds or is a boot step; an action of the monitor. -/
inductive RowOf (s : State) : Host.Outcome State Fault Refusal → Prop
  | hw (f : Hw → Hw × Answer) : RowOf s (onHw s f)
  | all (f : Hw → Sec → Hw × Sec × Answer) (hf : KeepsSec f) : RowOf s (onAll s f)
  | boot (cycles : BitVec 32) (inp : BootIn) : RowOf s (onAll s (bootStep cycles inp))
  | mon (c : Mon → Bool) (f : Hw × Sec → Hw × Sec) (hf : ∀ r, MonMoves r (f r)) : RowOf s (onMon s c f)

section
variable {s : State}

theorem RowOf.monCommand (c : MonCmd) : RowOf s (Sys2Proof.Machine.monCommand c s) := .mon _ _ (monAct_moves fun _ _ => monRun_moves _)

theorem bootTimeout_keepsSec (die gen : Nat) : KeepsSec (bootTimeout die gen) := by
  intro hw sec
  unfold bootTimeout
  extract_lets
  split
  · exact .refl sec
  split
  · exact halt_kept ..
  split
  · exact halt_kept ..
  split
  · exact halt_kept ..
  split
  · exact halt_kept ..
  split
  · exact halt_kept ..
  · exact .refl sec

/-- What an I/O store of a hart does to the security state is what the access does (R514). -/
theorem sbIo_keepsSec (h : HartId) (i : Nat) (e : SbEnt) : KeepsSec (sbIo h i e) := by
  intro hw sec
  unfold sbIo
  extract_lets
  split
  · split_ifs <;> exact .refl sec
  · split_ifs <;> exact .refl sec
  · split_ifs
    · exact .refl sec
    · exact busWrite_kept ..

theorem sbComplete_keepsSec (h : HartId) (i : Nat) : KeepsSec (sbComplete h i) := by
  intro hw sec
  unfold sbComplete
  extract_lets
  split
  · exact .refl sec
  split
  · exact .refl sec
  split
  · split <;> exact .refl sec
  split
  · exact .refl sec
  · exact sbIo_keepsSec h i _ hw sec

theorem bar0_keepsSec (a : AceloId) (off size : Nat) (write : Bool) (data : List Byte) (poison : Bool) :
    KeepsSec (bar0 a off size write data poison) := by
  intro hw sec
  unfold bar0
  extract_lets
  split
  · split
    · split
      · split_ifs
        · exact .refl sec
        · exact .refl sec
        · split <;> exact .refl sec
      · exact .refl sec
    · exact busWrite_kept ..
  · exact .refl sec


/-- Each command but those on the supply is one of these. -/
theorem exec_row (i : Instr) (hv : ∀ a mv x, i ≠ .vinSample a mv x) (hg : i ≠ .vinGood) (hl : i ≠ .vinLowRelease) :
    RowOf s (exec i s) := by
  unfold exec
  cases i
  all_goals dsimp only
  case vinSample a mv x => exact absurd rfl (hv a mv x)
  case vinGood => exact absurd rfl hg
  case vinLowRelease => exact absurd rfl hl
  case bootStepDone cycles inp => exact .boot cycles inp
  -- a loss of the supply
  case overvoltageTimeout | sagTimeout =>  -- rails go down: the security state as a cold reset leaves it
    refine .all _ fun hw sec => ?_
    split
    · exact coldSec_kept
    · exact .refl sec
  case thermalShutdown => exact .all _ fun _ _ => railsDown_kept 2 0
  -- resets and the boot's bounds
  case coldRst => exact .all _ fun _ _ => coldReset_kept 2
  case warmRst =>
    refine .all _ fun hw sec => ?_
    split
    · exact warmReset_kept 5
    · exact .refl sec
  case pcpResetCold | pcpResetWarm =>
    refine .all _ fun hw sec => ?_
    split
    · exact pcpResetBy_kept ..
    · exact .refl sec
  case bootStepTimeout die gen => exact .all _ (bootTimeout_keepsSec die gen)
  case routeRecomputeDone edge =>
    refine .all _ fun hw sec => ?_
    split
    · exact .refl sec
    split
    · split
      · exact halt_kept ..
      · exact .refl sec
    · exact .refl sec
  -- accesses that may reach PCP_RESET
  case registerWrite by_ addr size v =>
    refine .all _ fun hw sec => ?_
    split
    · exact busWrite_kept ..
    · exact .refl sec
  case sbEntryComplete h idx => exact .all _ (sbComplete_keepsSec h idx)
  case hostBarAccess a bar off size write data poison =>
    refine .all _ fun hw sec => ?_
    extract_lets
    split
    · exact .refl sec
    split
    · exact .refl sec
    split
    · exact bar0_keepsSec a off size write data poison hw sec
    · split_ifs <;> exact .refl sec
  -- rows that look at the security state and leave it
  case hostLoad h addr size => exact .all _ fun _ sec => .refl sec
  case popLowHalfRead by_ addr =>
    refine .all _ fun hw sec => ?_
    split
    · split
      · split <;> exact .refl sec
      · exact .refl sec
    · exact .refl sec
  case brakeAssert | sustainedTick | heartbeatSend | heartbeatReceive | heartbeatTimeout | haltLineRepeat | upstreamLinkUp
      | doeCerts =>
    refine .all _ fun hw sec => ?_
    split_ifs <;> exact .refl sec
  case doeReport a nonce mask =>
    refine .all _ fun hw sec => ?_
    extract_lets
    split_ifs <;> exact .refl sec
  -- the monitor
  case monChar ch => exact .mon _ _ (monChar_moves (monFeed_moves 256) ch)
  case monAbort => exact .mon _ _ fun r => monStop_moves.trans (monFeed_moves 257 _)
  case monUploadTimeout => exact .mon _ _ (monAct_moves fun _ _ => .same .refl _ rfl rfl rfl)
  case monHelp | monId | monPeek | monPoke | monDump | monCnt | monPwr | monLink | monMargin | monTg | monLog | monChal
      | monUpload | monUnlock | monLock | monReset | monRevoke => exact .monCommand _
  -- every other command has its effect on the hardware alone
  all_goals exact .hw _

/-- While the package is off such a command finds nothing (R473, R554). -/
theorem RowOf.off {o : Host.Outcome State Fault Refusal} (h : RowOf s o) (hoff : s.hw.pow.off ≠ 0) : o = .next (offState s) := by
  cases h with
  | hw f => exact onHw_off hoff
  | all f => exact onAll_off hoff
  | boot cycles inp => exact onAll_off hoff
  | mon c f => exact onMon_off hoff

/-- The answers of a monitor's action: off, unanswered, or what the action leaves; the queue stands. -/
theorem onMon_next {c : Mon → Bool} {f : Hw × Sec → Hw × Sec} {t : State} (h : onMon s c f = .next t) :
    (t.sec = s.sec ∨ t.sec = (f (s.now, s.sec)).2) ∧ t.pending = s.pending := by
  unfold onMon at h
  split at h
  · cases h
    exact ⟨.inl rfl, rfl⟩
  split at h
  · cases h
    exact ⟨.inl rfl, rfl⟩
  · cases h
    exact ⟨.inr rfl, rfl⟩

/-- Every such command ends in a next state and leaves the queue. -/
theorem RowOf.next {o : Host.Outcome State Fault Refusal} (h : RowOf s o) : ∃ t, o = .next t ∧ t.pending = s.pending := by
  by_cases hoff : s.hw.pow.off = 0
  · cases h with
    | hw f => exact ⟨_, onHw_on hoff, rfl⟩
    | all f => exact ⟨_, onAll_on hoff, rfl⟩
    | boot cycles inp => exact ⟨_, onAll_on hoff, rfl⟩
    | mon c f =>
      have ht : ∃ t, onMon s c f = .next t := by
        unfold onMon
        split_ifs <;> exact ⟨_, rfl⟩
      obtain ⟨t, ht⟩ := ht
      exact ⟨t, ht, (onMon_next ht).2⟩
  · exact ⟨_, h.off hoff, rfl⟩

/-- So do the commands on the supply. -/
theorem exec_next (i : Instr) (s : State) : ∃ t, exec i s = .next t ∧ t.pending = s.pending := by
  by_cases hv : ∃ a mv x, i = .vinSample a mv x
  · obtain ⟨a, mv, x, rfl⟩ := hv
    by_cases hoff : s.hw.pow.off = 0
    · exact ⟨_, (if_neg (not_not.mpr hoff)).trans (onAll_on hoff), rfl⟩
    · exact ⟨_, if_pos hoff, rfl⟩
  by_cases hg : i = .vinGood
  · subst hg
    exact ⟨_, rfl, rfl⟩
  by_cases hl : i = .vinLowRelease
  · subst hl
    by_cases ht : s.hw.pow.therm = true
    · exact ⟨_, if_pos ht, rfl⟩
    · exact ⟨_, if_neg ht, rfl⟩
  · exact (exec_row i (fun a mv x he => hv ⟨a, mv, x, he⟩) hg hl).next

end

/-! #### The queue, liveness, the package off -/

theorem step_cons {s : State} {c : Instr} {rest : List Instr} (h : s.pending = c :: rest) :
    step s = exec c { s with pending := rest } := by
  unfold step
  rw [h]

/-- Settles O1: a step is a match on the queue. -/
theorem stepRunsFront : Obligations.StepRunsFront := by
  intro c rest s
  refine ⟨step_cons rfl, fun h => ?_⟩
  unfold step
  rw [h]

/-- Settles O2: no command's outcome touches the queue. -/
theorem queueFirstInFirstOut : Obligations.QueueFirstInFirstOut := by
  intro s t c rest hp ht
  rw [step_cons hp] at ht
  obtain ⟨t', ht', hq⟩ := exec_next c { s with pending := rest }
  rw [ht'] at ht
  cases ht
  exact hq

/-- Settles O3: by the command's row. -/
theorem everyCommandCompletes : Obligations.EveryCommandCompletes := by
  intro i s
  obtain ⟨t, ht, -⟩ := exec_next i s
  exact ⟨t, ht⟩

/-- Settles O4: by the command's row. -/
theorem offPackageInert : Obligations.OffPackageInert :=
  fun i _ hoff hv hg hl => (exec_row i hv hg hl).off hoff

/-! #### The security state over a step (R500, R502, R509, R511) -/

/-- What a step may leave of the security state: bounds kept, or, where a boot step ended, that step's work first. -/
def SecAfter (x z : Sec) : Prop :=
  SecKept x z ∨ ∃ y n, BootKept x y ∧ (8 ≤ x.step → y.meas = x.meas) ∧ (n = x.step ∨ (n = x.step + 1 ∧ n ≤ 10)) ∧
    SecKept { y with step := n } z

section
variable {s t : State}

theorem settled_kept (hw : Hw) (sec : Sec) (ans : Answer) : SecKept sec (settled s hw sec ans).sec :=
  (monSettle_moves ans (finish s.hw hw, sec)).secKept

theorem RowOf.sec {o : Host.Outcome State Fault Refusal} (h : RowOf s o) (ht : o = .next t) : SecAfter s.sec t.sec := by
  cases h with
  | hw f =>
    rcases onHw_next ht with rfl | ⟨hw, ans, rfl⟩
    · exact .inl (.refl _)
    · exact .inl (settled_kept ..)
  | all f hf =>
    rcases onAll_next ht with rfl | ⟨-, rfl⟩
    · exact .inl (.refl _)
    · exact .inl ((hf _ _).trans (settled_kept ..))
  | boot cycles inp =>
    rcases onAll_next ht with rfl | ⟨-, rfl⟩
    · exact .inl (.refl _)
    · obtain ⟨y, n, hk, hm, hn, he⟩ := bootStep_kept (hw := s.now) (x := s.sec) cycles inp
      exact .inr ⟨y, n, hk, hm, hn, he ▸ settled_kept ..⟩
  | mon c f hf =>
    rcases (onMon_next ht).1 with hsec | hsec <;> rw [hsec]
    · exact .inl (.refl _)
    · exact .inl (hf (s.now, s.sec)).secKept

theorem vinGood_kept (hw : Hw) (x : Sec) : SecKept x (vinGood hw x).2.1 := by
  unfold vinGood
  split
  · exact .refl x
  · exact coldSec_kept

/-- A sample that the supply's bounds refuse takes the rails down (R471). -/
theorem vinSample_kept (a : AceloId) (mv x : Nat) (ht : execVinSample a mv x s = .next t) : SecKept s.sec t.sec := by
  unfold execVinSample at ht
  split at ht
  · cases ht
    exact .refl _
  · rcases onAll_next ht with rfl | ⟨-, rfl⟩
    · exact .refl _
    · refine SecKept.trans ?_ (settled_kept ..)
      split
      · exact .refl _
      · exact coldSec_kept

theorem vinLowRelease_sec (ht : execVinLowRelease s = .next t) : t.sec = s.sec := by
  unfold execVinLowRelease at ht
  split at ht <;> (cases ht; rfl)

/-- What every command leaves of the security state. -/
theorem exec_sec {i : Instr} (ht : exec i s = .next t) : SecAfter s.sec t.sec := by
  by_cases hv : ∃ a mv x, i = .vinSample a mv x
  · obtain ⟨a, mv, x, rfl⟩ := hv
    exact .inl (vinSample_kept a mv x ht)
  by_cases hg : i = .vinGood
  · subst hg
    cases ht
    exact .inl (vinGood_kept _ _)
  by_cases hl : i = .vinLowRelease
  · subst hl
    rw [vinLowRelease_sec ht]
    exact .inl (.refl _)
  · exact (exec_row i (fun a mv x he => hv ⟨a, mv, x, he⟩) hg hl).sec ht

/-- What a step leaves of it. -/
theorem step_sec (ht : step s = .next t) : SecAfter s.sec t.sec := by
  cases hp : s.pending with
  | nil =>
    rw [(stepRunsFront .vinGood [] s).2 hp] at ht
    cases ht
    exact .inl (.refl _)
  | cons c rest =>
    rw [step_cons hp] at ht
    exact exec_sec (s := { s with pending := rest }) ht

end

/-! #### The invariants of the security state -/

section
variable {x y z : Sec}

theorem reset_meas_length : ∀ m ∈ Sec.reset.meas, m.length = 32 := by decide

theorem SecKept.bounded (h : SecKept x y) (hx : Sec.bounded x) : Sec.bounded y := by
  obtain ⟨hstep, hsvn, hlen, hmeas, hline, hbuf⟩ := hx
  have hl := h.line
  have hi := h.inbuf
  have hshape : y.step ≤ 10 ∧ y.meas.length = 6 ∧ ∀ m ∈ y.meas, m.length = 32 := by
    rcases h.boot with ⟨hs, hm⟩ | ⟨hs, hm⟩ <;> rw [hm]
    · exact ⟨hs ▸ hstep, hlen, hmeas⟩
    · exact ⟨hs.trans (by decide), rfl, reset_meas_length⟩
  exact ⟨hshape.1, h.fuseSvn ▸ hsvn, hshape.2.1, hshape.2.2, by omega, by omega⟩

theorem BootKept.bounded (h : BootKept x y) {n : Nat} (hn : n = x.step ∨ (n = x.step + 1 ∧ n ≤ 10)) (hx : Sec.bounded x) :
    Sec.bounded { y with step := n } := by
  obtain ⟨hstep, hsvn, hlen, hmeas, hline, hbuf⟩ := hx
  have hl := h.line
  have hi := h.inbuf
  obtain ⟨hlen', hmeas'⟩ := h.shape ⟨hlen, hmeas⟩
  exact ⟨by dsimp only; omega, (h.fuseSvn hsvn).2, hlen', hmeas', by dsimp only; omega, by dsimp only; omega⟩

theorem SecKept.fuses (h : SecKept x y) : Sec.fusesKept x y := ⟨h.revoked, h.fuseSvn.ge⟩

/-- Measurements stand from step 8 on, but for a reset. -/
theorem SecKept.meas (h : SecKept x y) (hy : 2 ≤ y.step) : y.meas = x.meas ∧ y.step = x.step := by
  rcases h.boot with ⟨hs, hm⟩ | ⟨hs, -⟩
  · exact ⟨hm, hs⟩
  · omega

end

/-- Settles O42: bounds kept, or the fuses of a boot step's end. -/
theorem fusesOnlyRise : Obligations.FusesOnlyRise := by
  intro s t hle ht
  rcases step_sec ht with h | ⟨y, n, hb, -, -, hk⟩
  · exact ⟨h.fuses, h.fuseSvn ▸ hle⟩
  · have hf : t.sec.fuseSvn = y.fuseSvn := hk.fuseSvn
    have hr : y.revoked &&& t.sec.revoked = y.revoked := hk.revoked
    rw [hb.revoked] at hr
    exact ⟨⟨hr, hf ▸ (hb.fuseSvn hle).1⟩, hf ▸ (hb.fuseSvn hle).2⟩

/-- Settles O43: every step keeps each bound. -/
theorem securityStateBounded : Obligations.SecurityStateBounded := by
  intro s t hs ht
  rcases step_sec ht with h | ⟨y, n, hb, -, hn, hk⟩
  · exact h.bounded hs
  · exact hk.bounded (hb.bounded hn hs)

/-- Settles O44: bound by bound. -/
theorem securityBoundedAtReset : Obligations.SecurityBoundedAtReset :=
  ⟨by decide, by decide, rfl, reset_meas_length, by decide, by decide⟩

/-- Settles O46: only a boot step up to the eighth measures, and a reset sets the boot back. -/
theorem measurementsFinal : Obligations.MeasurementsFinal := by
  intro s t h8 ht h2
  rcases step_sec ht with h | ⟨y, n, -, hm, -, hk⟩
  · exact (h.meas h2).1
  · exact (hk.meas h2).1.trans (hm h8)

end Sys2Proof.Machine
end

section
/-! PROOF. Homes of tier addresses (R372): the stack or device of an address is its block's, the folds of its fields. -/

namespace Sys2Proof.Machine

/-! #### The home of a 128-byte block (R372) -/

section
variable {hw : Hw} {a b : Nat}

/-- Two addresses of one 128-byte block have one place among the parts of a size that 128 divides. -/
theorem div_of_same_block (h : b / 128 = a / 128) (n : Nat) : b / (128 * n) = a / (128 * n) := by
  rw [← Nat.div_div_eq_div_mul, h, Nat.div_div_eq_div_mul]

/-- A GiB is a multiple of 128. -/
theorem gib_eq : ∃ g, gib = 128 * g := ⟨8388608, rfl⟩

/-- The stack of a tier-0 address depends on its block alone (R315). -/
theorem decodeT0_stack_of_same_block (l : Nat) (h : b / 128 = a / 128) : (decodeT0 l b).1 = (decodeT0 l a).1 := by
  obtain ⟨g, hg⟩ := gib_eq
  unfold decodeT0
  simp only [hg, Nat.mul_left_comm _ 128 g]
  generalize (768 - 4 * l) * g = start
  have hl : 128 * start ≤ b ↔ 128 * start ≤ a := by omega
  have hd : (b - 128 * start) / (128 * (l * g)) = (a - 128 * start) / (128 * (l * g)) := div_of_same_block (by omega) _
  rw [hd]
  generalize (a - 128 * start) / (128 * (l * g)) = d
  simp only [hl, Nat.mul_left_comm d 128, decide_eq_true_eq]
  generalize d * (l * g) = far
  split <;> omega

/-- The device of a tier-1 address depends on its block alone (R316). -/
theorem decodeT1_device_of_same_block (m : Nat) (h : b / 128 = a / 128) : (decodeT1 m b).1 = (decodeT1 m a).1 := by
  obtain ⟨g, hg⟩ := gib_eq
  unfold decodeT1
  simp only [hg, Nat.mul_left_comm _ 128 g]
  generalize (2048 - 2 * m) * g = start
  have hl : 128 * start ≤ b - 0x010000000000 ↔ 128 * start ≤ a - 0x010000000000 := by omega
  have hd : (b - 0x010000000000 - 128 * start) / (128 * (m * g)) = (a - 0x010000000000 - 128 * start) / (128 * (m * g)) :=
    div_of_same_block (by omega) _
  rw [hd]
  generalize (a - 0x010000000000 - 128 * start) / (128 * (m * g)) = n
  simp only [hl, Nat.mul_left_comm n 128, decide_eq_true_eq]
  generalize n * (m * g) = far
  split <;> omega

theorem homeDie_of_same_block (h : b / 128 = a / 128) : homeDie hw b = homeDie hw a := by
  have hb : b < 0x00C000000000 ↔ a < 0x00C000000000 := by omega
  simp only [homeDie, hb, decodeT0_stack_of_same_block _ h, decodeT1_device_of_same_block _ h]

theorem homeSlice_of_same_block (h : b / 128 = a / 128) : homeSlice hw b = homeSlice hw a := by
  have hu : b % 2 ^ 52 / 128 = a % 2 ^ 52 / 128 := by omega
  simp only [homeSlice, hu, homeDie_of_same_block h]

theorem homeDie_tier0 (h : a < 0x00C000000000) : homeDie hw a < 4 := by
  have hstack : (decodeT0 (tierL hw) a).1 < 12 := by
    unfold decodeT0
    dsimp only
    split
    case isTrue hl =>
      have hd : (a - (768 - 4 * tierL hw) * gib) / (tierL hw * gib) < 4 := by
        have : gib = 0x40000000 := rfl
        rw [decide_eq_true_eq] at hl
        apply Nat.div_lt_of_lt_mul
        rw [this] at hl ⊢
        omega
      omega
    case isFalse => omega
  simp only [homeDie, h, if_true]
  omega

theorem homeDie_tier1 (h : 0x010000000000 ≤ a) (h2 : a < 0x030000000000) : homeDie hw a = 4 ∨ homeDie hw a = 5 := by
  have hdev : (decodeT1 (tierM hw) a).1 < 16 := by
    unfold decodeT1
    dsimp only
    split
    case isTrue hl =>
      have hd : (a - 0x010000000000 - (2048 - 2 * tierM hw) * gib) / (tierM hw * gib) < 2 := by
        have : gib = 0x40000000 := rfl
        rw [decide_eq_true_eq] at hl
        apply Nat.div_lt_of_lt_mul
        rw [this] at hl ⊢
        omega
      omega
    case isFalse => omega
  have hn : ¬a < 0x00C000000000 := by omega
  simp only [homeDie, hn, if_false]
  omega

/-! #### The folds (R372) -/

theorem xorFields_lt (n k u : Nat) : xorFields n k u < 2 ^ k := by
  induction n generalizing u with
  | zero => exact Nat.two_pow_pos k
  | succ n ih => exact Nat.xor_lt_two_pow (Nat.mod_lt _ (Nat.two_pow_pos k)) (ih _)

theorem xorFields_seven (u : Nat) (hu : u < 2 ^ 45) : xorFields 7 7 u =
    (nbits u 6 0 ^^^ nbits u 13 7 ^^^ nbits u 20 14 ^^^ nbits u 27 21 ^^^ nbits u 34 28 ^^^ nbits u 41 35 ^^^ nbits u 44 42) := by
  have hlast : u / 2 ^ 42 % 2 ^ 7 = u / 2 ^ 42 % 2 ^ 3 := by omega
  simp only [xorFields, nbits, Nat.shiftRight_eq_div_pow, Nat.div_div_eq_div_mul, ← Nat.pow_add, Nat.xor_zero, Nat.xor_assoc]
  norm_num at hlast ⊢
  rw [hlast]

theorem xorFields_nine (u : Nat) : xorFields 9 5 u =
    (nbits u 4 0 ^^^ nbits u 9 5 ^^^ nbits u 14 10 ^^^ nbits u 19 15 ^^^ nbits u 24 20 ^^^ nbits u 29 25 ^^^ nbits u 34 30 ^^^
      nbits u 39 35 ^^^ nbits u 44 40) := by
  simp only [xorFields, nbits, Nat.shiftRight_eq_div_pow, Nat.div_div_eq_div_mul, ← Nat.pow_add, Nat.xor_zero, Nat.xor_assoc]
  norm_num

end

/-- Settles O51: the stack or device of an address is its block's, and the fold of the block's fields stays within a field. -/
theorem homeSlices : Obligations.HomeSlices := by
  intro hw a ha u f
  have hlt : a < 0x030000000000 := by
    simp only [inTier, Bool.or_eq_true, Bool.and_eq_true, decide_eq_true_eq] at ha
    omega
  have hu : a % 2 ^ 52 / 128 = u := by
    rw [Nat.mod_eq_of_lt (by omega)]
  have h45 : u < 2 ^ 45 := by omega
  refine ⟨fun b hb => homeSlice_of_same_block hb, homeDie_tier0, fun h => homeDie_tier1 h hlt, fun hd => ?_, fun hd => ?_, ?_⟩
  · simp only [homeSlice, hu, hd, if_true]
    rw [xorFields_seven u h45]
  · simp only [homeSlice, hu, Nat.not_lt.mpr hd, if_false]
    rw [xorFields_nine u]
  · have h7 := xorFields_lt 7 7 u
    have h9 := xorFields_lt 9 5 u
    simp only [homeSlice, hu]
    split <;> omega

end Sys2Proof.Machine
end

section
/-! PROOF. POP registers (R461, R529) and what a record does (R526–R531). -/

namespace Sys2Proof.Machine

/-! #### POP registers (R461, R529) -/

section
variable {hw : Hw} {i j : Agent} {a b : Nat}

theorem logGet_logPop_self : logGet (logPop hw i a).2 a = (logGet hw a).tail := mget_mput_self _ _ _ _

theorem logGet_logPop_ne (h : b ≠ a) : logGet (logPop hw i a).2 b = logGet hw b := mget_mput_ne _ _ _ _ _ h

theorem lastPopped_logPop_self : lastPopped (logPop hw i a).2 i a = (logPop hw i a).1 := mget_mput_self _ _ _ _

theorem lastPopped_logPop_ne (h : b * 128 + initiatorNo j ≠ a * 128 + initiatorNo i) :
    lastPopped (logPop hw i a).2 j b = lastPopped hw j b := mget_mput_ne _ _ _ _ _ h

/-- The completion that carries a popped entry changes the port it leaves by, and nothing else (R461). -/
theorem popOut_frame : (popOut hw i a).regs = hw.regs ∧ (popOut hw i a).mem = hw.mem ∧ (popOut hw i a).cores = hw.cores ∧
    (popOut hw i a).harts = hw.harts := by
  unfold popOut
  split
  · split <;> exact ⟨rfl, rfl, rfl, rfl⟩
  · exact ⟨rfl, rfl, rfl, rfl⟩

end

/-- Settles O53: each register's queue and each reader's last entry have a place of their own. -/
theorem popTakesOldest : Obligations.PopTakesOldest := by
  intro hw i j a hij r r2
  have htail : logGet r.2 a = (logGet hw a).tail := logGet_logPop_self
  have hlast : lastPopped r.2 i a = r.1 := lastPopped_logPop_self
  refine ⟨fun h => ?_, fun e es h => ?_, fun e e2 es h => ?_, fun b hb => ?_, popOut_frame⟩
  · have he : r.1 = (0, 0) := by simp [r, logPop, h]
    exact ⟨he, by rw [htail, h]; rfl, hlast.trans he⟩
  · have he : r.1 = e := by simp [r, logPop, h]
    exact ⟨he, by rw [htail, h]; rfl, hlast.trans he⟩
  · have he : r.1 = e := by simp [r, logPop, h]
    have h2 : logGet r.2 a = e2 :: es := by rw [htail, h]; rfl
    have he2 : r2.1 = e2 := by simp [r2, logPop, h2]
    have hi : lastPopped r2.2 i a = lastPopped r.2 i a := lastPopped_logPop_ne (by omega)
    exact ⟨he2, logGet_logPop_self.trans (congrArg List.tail h2), hi.trans (hlast.trans he), lastPopped_logPop_self.trans he2⟩
  · exact ⟨logGet_logPop_ne hb, lastPopped_logPop_ne (by omega)⟩

/-! #### What a record does (R526–R531) -/

section
variable {hw : Hw} {d cls cause : Nat} {w0 : Word} {e : Word × Word}

theorem rget_of_regs {h h' : Hw} (hr : h.regs = h'.regs) (a : Nat) : rget h a = rget h' a := by
  unfold rget
  rw [hr]

theorem logPush_room {a cap : Nat} (h : (logGet hw a).length < cap) :
    logPush hw a cap e = (true, { hw with logs := mput (fun _ => []) hw.logs a (logGet hw a ++ [e]) }) := if_pos h

/-- Where a record enters the log: at the end, reported by the upstream ports. -/
def rasLogged (hw : Hw) (d cls : Nat) (e : Word × Word) : Hw :=
  { hw with
    logs := mput (fun _ => []) hw.logs (Reg.rasLog d) (logGet hw (Reg.rasLog d) ++ [e])
    sent := hw.sent ++ rasReports hw cls }

theorem logGet_rasLogged : logGet (rasLogged hw d cls e) (Reg.rasLog d) = logGet hw (Reg.rasLog d) ++ [e] :=
  mget_mput_self _ _ _ _

/-- An entry that finds room is logged, and its interrupt raised where the mask asks for it. -/
theorem rasEnter_of_room (h : (logGet hw (Reg.rasLog d)).length < 32) : rasEnter hw d cls e =
    if rbit hw (Reg.rasMsiMask d) cls = true then
      message (rasLogged hw d cls e) d (Reg.rasMsiAddr d) ((rget hw (Reg.rasMsiData d)).toNat + cls)
    else rasLogged hw d cls e := by
  unfold rasEnter
  rw [logPush_room h]
  exact if_pos rfl

/-- A message write is under way, unless its address is zero (R61). -/
theorem message_msgs (d ra n : Nat) : (message hw d ra n).msgs =
    if (rget hw ra).toNat ≠ 0 then hw.msgs ++ [⟨d, (rget hw ra).toNat, n % 2 ^ 32⟩] else hw.msgs := by
  unfold message
  by_cases h : (rget hw ra).toNat = 0 <;> simp [h]

theorem message_frame (d ra n : Nat) : (message hw d ra n).logs = hw.logs ∧ (message hw d ra n).sent = hw.sent ∧
    (message hw d ra n).harts = hw.harts := by
  unfold message
  dsimp only
  split <;> exact ⟨rfl, rfl, rfl⟩

/-- A record that finds room: logged at the end, reported by the upstream ports, its interrupt raised where the mask asks for
it and the address is not zero (R61, R528). -/
theorem rasEnter_room (h : (logGet hw (Reg.rasLog d)).length < 32) :
    logGet (rasEnter hw d cls e) (Reg.rasLog d) = logGet hw (Reg.rasLog d) ++ [e] ∧
      (rasEnter hw d cls e).sent = hw.sent ++ rasReports hw cls ∧ (rasEnter hw d cls e).harts = hw.harts ∧
      (rasEnter hw d cls e).msgs =
        if rbit hw (Reg.rasMsiMask d) cls = true ∧ (rget hw (Reg.rasMsiAddr d)).toNat ≠ 0 then
          hw.msgs ++ [⟨d, (rget hw (Reg.rasMsiAddr d)).toNat, ((rget hw (Reg.rasMsiData d)).toNat + cls) % 2 ^ 32⟩]
        else hw.msgs := by
  obtain ⟨hlogs, hsent, hharts⟩ := message_frame (hw := rasLogged hw d cls e) d (Reg.rasMsiAddr d)
    ((rget hw (Reg.rasMsiData d)).toNat + cls)
  have hlog := logGet_rasLogged (hw := hw) (d := d) (cls := cls) (e := e)
  rw [rasEnter_of_room h]
  by_cases hm : rbit hw (Reg.rasMsiMask d) cls = true
  · simp only [hm, if_true, true_and]
    exact ⟨(congrArg (fun l => mget (fun _ => []) l (Reg.rasLog d)) hlogs).trans hlog, hsent, hharts, message_msgs ..⟩
  · simp only [hm]
    exact ⟨hlog, rfl, rfl, rfl⟩

/-- A record that finds the log full is counted only (R531). -/
theorem rasEnter_full (h : ¬(logGet hw (Reg.rasLog d)).length < 32) : rasEnter hw d cls e = radd hw (Reg.rasOvfCnt d) 1 := by
  simp [rasEnter, logPush, h]

/-- A stop changes what leaves the block, and neither the log, the messages, the registers nor a hart; only a PKG record's
prints a line (R526). -/
theorem rasStop_frame : (rasStop hw d cls cause w0).logs = hw.logs ∧ (rasStop hw d cls cause w0).msgs = hw.msgs ∧
    (rasStop hw d cls cause w0).regs = hw.regs ∧ (rasStop hw d cls cause w0).harts = hw.harts ∧
    (rasStop hw d cls cause w0).sent = if cls = clsPKG then hw.sent ++ [fatalText d w0] else hw.sent := by
  unfold rasStop
  split
  · exact ⟨rfl, rfl, rfl, rfl, rfl⟩
  · split <;> exact ⟨rfl, rfl, rfl, rfl, rfl⟩

end

theorem rasReports_pkg {hw : Hw} : rasReports hw clsPKG =
    ((List.range 2).filter (fun a => rbits hw (Reg.cxuStatus a) 49 48 != 0)).map (fun a => Out.aer a true) := rfl

theorem rasReports_ue {hw : Hw} {cls : Nat} (h : cls = clsCTX ∨ cls = clsUE) : rasReports hw cls =
    ((List.range 2).filter (fun a => rbits hw (Reg.cxuStatus a) 49 48 != 0)).map (fun a => Out.aer a false) := by
  rcases h with rfl | rfl <;> rfl

theorem rasReports_none {hw : Hw} {cls : Nat} (h1 : cls ≠ clsPKG) (h2 : cls ≠ clsCTX) (h3 : cls ≠ clsUE) :
    rasReports hw cls = [] :=
  if_neg (by simp [h1, h2, h3])

/-- Settles O60: what enters the log, with what a stop adds. -/
theorem recordEnters : Obligations.RecordEnters := by
  intro hw d cls unit cause inst agent ctx pkg addr _ _ r target sends room aers
  obtain ⟨hlogs, hmsgs, hregs, hharts, hsent⟩ := rasStop_frame (cause := cause) (cls := cls) (d := d)
    (w0 := rasWord0 cls unit cause inst agent ctx)
    (hw := rasEnter hw d cls (rasWord0 cls unit cause inst agent ctx, rasWord1 pkg addr))
  by_cases hroom : room
  · obtain ⟨elog, esent, eharts, emsgs⟩ := rasEnter_room (cls := cls)
      (e := (rasWord0 cls unit cause inst agent ctx, rasWord1 pkg addr)) hroom
    have haers : ∀ f, aers f = ((List.range 2).filter (fun a => rbits hw (Reg.cxuStatus a) 49 48 != 0)).map (fun a => Out.aer a f) :=
      fun f => if_pos hroom
    refine ⟨fun _ => ⟨?_, fun hs => hmsgs.trans (emsgs.trans (if_pos hs)), fun hs => hmsgs.trans (emsgs.trans (if_neg hs))⟩,
      fun h => absurd hroom h, ?_, ?_, ?_, hharts.trans eharts⟩
    · exact (congrArg (fun l => mget (fun _ => []) l (Reg.rasLog d)) hlogs).trans elog
    · rintro rfl
      rw [haers, ← rasReports_pkg, ← esent]
      exact hsent
    · intro h
      have hne : cls ≠ clsPKG := by rcases h with rfl | rfl <;> decide
      rw [haers, ← rasReports_ue h, ← esent]
      exact hsent.trans (if_neg hne)
    · intro h1 h2 h3
      rw [if_neg h1, esent, rasReports_none h1 h2 h3, List.append_nil] at hsent
      exact hsent
  · have hfull := rasEnter_full (cls := cls) (e := (rasWord0 cls unit cause inst agent ctx, rasWord1 pkg addr)) hroom
    have haers : ∀ f, aers f = [] := fun f => if_neg hroom
    have elogs : r.logs = hw.logs := hlogs.trans (by rw [hfull, radd_logs])
    have emsgs : r.msgs = hw.msgs := hmsgs.trans (by rw [hfull, radd_msgs])
    have eharts : r.harts = hw.harts := hharts.trans (by rw [hfull, radd_harts])
    have esent : r.sent = if cls = clsPKG then hw.sent ++ [fatalText d (rasWord0 cls unit cause inst agent ctx)] else hw.sent :=
      hsent.trans (by rw [hfull, radd_sent])
    refine ⟨fun h => absurd h hroom, fun _ => ⟨?_, emsgs, ?_⟩, ?_, ?_, ?_, eharts⟩
    · exact congrArg (fun l => mget (fun _ => []) l (Reg.rasLog d)) elogs
    · exact (rget_of_regs hregs _).trans (by rw [hfull])
    · rintro rfl
      rw [haers, List.append_nil]
      exact esent
    · intro h
      have hne : cls ≠ clsPKG := by rcases h with rfl | rfl <;> decide
      rw [haers, List.append_nil]
      exact esent.trans (if_neg hne)
    · intro h1 _ _
      exact esent.trans (if_neg h1)

end Sys2Proof.Machine
end

section
/-! PROOF. What a reset leaves (R506, R507, R511, R514): a cold reset, and a warm reset that cuts a repair short. -/

namespace Sys2Proof.Machine

/-! #### What a cold reset leaves (R506, R511, R514) -/

/-- An effect that starts no stop and leaves no message under way is what the command leaves. -/
theorem finish_of_no_stop {old hw : Hw} (hm : hw.msgs = []) (hs : hw.stop = false) : finish old hw = hw := by
  have h : stopAll old hw = hw := by simp [stopAll, hs]
  unfold finish
  dsimp only
  rw [h, settle_quiet hm, hs, if_neg Bool.false_ne_true, h, settle_quiet hm]

section
variable {hw : Hw} {sec : Sec}

/-- The windows of the dies lie above those of the cores (R52, R56). -/
theorem le_dieBlk (d off : Nat) : 0x060000000000 ≤ dieBlk d off := by
  unfold dieBlk
  omega

/-- What a cold reset keeps, before the pins show in it. -/
def coldBase (hw : Hw) : Hw :=
  { Hw.reset with
    present := hw.present
    locked := hw.locked
    fresh := hw.fresh
    pow := { Pow.reset with brake := hw.pow.brake }
    retired := hw.retired
    kept := hw.kept.map (fun k => { k with live := false })
    sent := hw.sent }

/-- What the pins and the retirement fuses do not show in: they show in registers of the dies, in the laser modules, in the
groups' stretches and in the Acelos. -/
structure OffPins {β : Type} (g : Hw → β) : Prop where
  reg : ∀ h a v, 0x060000000000 ≤ a → g (rset h a v) = g h
  laser : ∀ h m v, g (setLaser h m v) = g h
  gp : ∀ h n v, g (setGp h n v) = g h
  acelo : ∀ h a v, g (setAcelo h a v) = g h

theorem coldHw_keeps {β : Type} {g : Hw → β} (hg : OffPins g) : g (coldHw hw) = g (coldBase hw) := by
  have hmods : g (foldN 8 (coldBase hw) fun h m => setLaser h m { Laser.reset with present := (getLaser hw m).present }) =
      g (coldBase hw) := foldl_keeps (fun _ _ => hg.laser _ _ _) _ _
  unfold coldHw showRetired modGps foldN
  refine (foldl_keeps (fun _ _ => hg.reg _ _ _ (le_dieBlk _ _)) _ _).trans ?_
  refine (foldl_keeps (fun _ _ => (hg.acelo _ _ _).trans (hg.reg _ _ _ (le_dieBlk _ _))) _ _).trans ?_
  split
  · refine (foldl_keeps (fun h n => ?_) _ _).trans hmods
    split
    · exact hg.gp _ _ _
    · rfl
  · exact hmods

theorem coldReset_keeps {β : Type} {g : Hw → β} (hg : OffPins g) (src : Nat) :
    g (coldReset src hw sec).1 = g (coldBase hw) :=
  (foldl_keeps (fun _ _ => hg.reg _ _ _ (le_dieBlk _ _)) _ _).trans (coldHw_keeps hg)

/-- The reset cause stands in both Acelos (R514). -/
theorem coldReset_cause (src : Nat) (a : AceloId) :
    rget (coldReset src hw sec).1 (Reg.pcpRstCause a) = word (rstCause hw src 1) := by
  have hne : Reg.pcpRstCause 0 ≠ Reg.pcpRstCause 1 := by decide
  change rget (rsetN (rsetN (coldHw hw) (Reg.pcpRstCause 0) _) (Reg.pcpRstCause 1) _) _ = _
  fin_cases a
  · exact (rget_rsetN_ne hne).trans (rget_rset_self ..)
  · exact rget_rset_self ..

theorem toNat_rstCause (hw : Hw) {src kind : Nat} (hs : src < 16) (hk : kind < 16) :
    (word (rstCause hw src kind)).toNat = hw.fenced.toNat * 2 ^ 12 + src * 16 + kind := by
  have hf := hw.fenced.isLt
  unfold rstCause word
  rw [BitVec.toNat_ofNat]
  omega

/-- The row of the credit slots: EMPTY at reset, not kept over a warm reset (R193, R506). -/
theorem spcCredit_row {c n : Nat} (hn : n < 64) :
    ∃ r k, findRow (rowsOf (.core c 3)) (0x100 + 8 * n) = some (r, k) ∧ r.reset = 0 ∧ r.keep = false := by
  have hrow : ∀ n : Fin 64, (findRow rowsSpc (0x100 + 8 * n)).any (fun x => x.1.reset == 0 && !x.1.keep) = true := by decide
  have hn' := hrow ⟨n, hn⟩
  dsimp only at hn'
  change ∃ r k, findRow rowsSpc (0x100 + 8 * n) = some (r, k) ∧ r.reset = 0 ∧ r.keep = false
  revert hn'
  generalize findRow rowsSpc (0x100 + 8 * n) = row
  intro hn'
  cases row with
  | none => cases hn'
  | some x => exact ⟨x.1, x.2, rfl, by simpa [Option.any] using hn'⟩

theorem locate_spcCredit {c n : Nat} (hc : c < 512) (hn : n < 64) :
    locate (Reg.spcCredit c n) = .reg (.core c 3) (0x100 + 8 * n) := by
  have haddr : Reg.spcCredit c n = blkAddr (.core c 3) (0x100 + 8 * n) := by
    simp only [Reg.spcCredit, blkAddr, coreBlk]
    omega
  rw [haddr]
  exact locate_blkAddr_core hc (by decide) (by omega)

theorem slotOf_zero : (slotOf 0).state = 0 := by decide

/-- The reset value of a core's register is its row's (R13). -/
theorem regDefault_core {a c k o i : Nat} {r : RegRow} (ha : locate a = .reg (.core c k) o)
    (hr : findRow (rowsOf (.core c k)) o = some (r, i)) : regDefault a = word r.reset := by
  simp only [regDefault, ha, hr]

theorem rget_coldBase (a : Nat) : rget (coldBase hw) a = regDefault a := rfl

/-- A credit slot of a core is EMPTY at its reset value (R193). -/
theorem slotOf_reset {c n : Nat} (hc : c < 512) (hn : n < 64) : (slotOf (regDefault (Reg.spcCredit c n))).state = 0 := by
  obtain ⟨r, k, hfind, hreset, -⟩ := spcCredit_row (c := c) hn
  rw [regDefault_core (locate_spcCredit hc hn) hfind, hreset]
  exact slotOf_zero

theorem offPins_spcCredit {c n : Nat} (hc : c < 512) (hn : n < 64) : OffPins (fun h => rget h (Reg.spcCredit c n)) where
  reg h a v ha := by
    have hlow : Reg.spcCredit c n < 0x060000000000 := by
      unfold Reg.spcCredit coreBlk coreWin
      omega
    exact rget_rset_ne _ _ _ _ (by omega)
  laser h m v := rget_of_regs (setLaser_regs ..) _
  gp h g v := rget_of_regs (setGp_regs ..) _
  acelo h a v := rget_of_regs (setAcelo_regs ..) _

theorem getSlot_coldReset (src : Nat) {c n : Nat} (hc : c < 512) (hn : n < 64) :
    (getSlot (coldReset src hw sec).1 c n).state = 0 := by
  have hkeep : rget (coldReset src hw sec).1 (Reg.spcCredit c n) = rget (coldBase hw) (Reg.spcCredit c n) :=
    coldReset_keeps (offPins_spcCredit hc hn) src
  unfold getSlot
  rw [hkeep, rget_coldBase]
  exact slotOf_reset hc hn

theorem offPins_msgs : OffPins Hw.msgs := ⟨fun _ _ _ _ => rfl, fun _ _ _ => rfl, fun _ _ _ => rfl, fun _ _ _ => rfl⟩
theorem offPins_stop : OffPins Hw.stop := ⟨fun _ _ _ _ => rfl, fun _ _ _ => rfl, fun _ _ _ => rfl, fun _ _ _ => rfl⟩
theorem offPins_mem : OffPins Hw.mem := ⟨fun _ _ _ _ => rfl, fun _ _ _ => rfl, fun _ _ _ => rfl, fun _ _ _ => rfl⟩
theorem offPins_cores : OffPins Hw.cores := ⟨fun _ _ _ _ => rfl, fun _ _ _ => rfl, fun _ _ _ => rfl, fun _ _ _ => rfl⟩
theorem offPins_harts : OffPins Hw.harts := ⟨fun _ _ _ _ => rfl, fun _ _ _ => rfl, fun _ _ _ => rfl, fun _ _ _ => rfl⟩
theorem offPins_fenced : OffPins Hw.fenced := ⟨fun _ _ _ _ => rfl, fun _ _ _ => rfl, fun _ _ _ => rfl, fun _ _ _ => rfl⟩
theorem offPins_present : OffPins Hw.present := ⟨fun _ _ _ _ => rfl, fun _ _ _ => rfl, fun _ _ _ => rfl, fun _ _ _ => rfl⟩
theorem offPins_locked : OffPins Hw.locked := ⟨fun _ _ _ _ => rfl, fun _ _ _ => rfl, fun _ _ _ => rfl, fun _ _ _ => rfl⟩

/-- The state that a cold reset leaves: nothing is under way, and the monitor idle (R506). -/
theorem settled_coldReset {s : State} (src : Nat) : settled s (coldReset src hw sec).1 (coldReset src hw sec).2 .done =
    { s with hw := (coldReset src hw sec).1, sec := (coldReset src hw sec).2, answer := .done } := by
  unfold settled
  rw [finish_of_no_stop ((coldReset_keeps offPins_msgs src).trans rfl) ((coldReset_keeps offPins_stop src).trans rfl)]
  rfl

end

theorem exec_coldRst (s : State) : exec .coldRst s = execColdRst s := rfl

/-- Settles O47: what no pin or fuse shows in is as at power-on. -/
theorem coldResetLeaves : Obligations.ColdResetLeaves := by
  intro s t hon ht
  have hq : execColdRst s = .next (settled s (coldReset 2 s.now s.sec).1 (coldReset 2 s.now s.sec).2 .done) := onAll_on hon
  rw [exec_coldRst, hq, settled_coldReset] at ht
  injection ht with ht
  subst ht
  dsimp only
  have hmem : (coldReset 2 s.now s.sec).1.mem = Hw.reset.mem := coldReset_keeps offPins_mem 2
  have hcores : (coldReset 2 s.now s.sec).1.cores = [] := coldReset_keeps offPins_cores 2
  have hharts : (coldReset 2 s.now s.sec).1.harts = [] := coldReset_keeps offPins_harts 2
  have hcore : ∀ c, getCore (coldReset 2 s.now s.sec).1 c = Core.reset := fun c => by
    unfold getCore
    rw [hcores]
    rfl
  refine ⟨?mem, hcore, fun c q => ?queues, fun c n hc hn => getSlot_coldReset 2 hc hn, fun h => ?harts,
    coldReset_keeps offPins_fenced 2, coldReset_keeps offPins_stop 2, coldReset_keeps offPins_present 2,
    coldReset_keeps offPins_locked 2, rfl, rfl, ?meas, rfl, rfl, rfl, rfl, fun a => ?cause⟩
  case mem =>
    rw [hmem]
    exact ⟨rfl, rfl, rfl, rfl⟩
  case queues =>
    unfold getQueue
    rw [hcore]
    rfl
  case harts =>
    unfold getHart
    rw [hharts]
    rfl
  case meas => exact fun m hm => List.eq_of_mem_replicate hm
  case cause =>
    rw [coldReset_cause, toNat_rstCause _ (by decide) (by decide)]
    rfl

/-! #### A module in repair at a warm reset (R406, R507, R528) -/

/-- Module 0 in REPAIR with a lane to remap toward SCD1, the RAS block of SCD1 set to send its messages to a tier address. -/
def repairingHw : Hw :=
  { Hw.reset with
    regs := [(Reg.ertMStatus 1 0, 5), (Reg.rasMsiAddr 1, 768), (Reg.rasMsiData 1, 7)]
    ert := { Hw.reset.ert with dirs := [(0, { MDir.reset with todo := 1 })] } }

def repairing : State := { State.reset with hw := repairingHw, sec := { Sec.reset with step := 10 } }

/-- The tier's bytes after the warm reset: the repair's DEG record has sent its message there. -/
theorem warmRst_repairing : (match exec .warmRst repairing with
    | .next t => t.hw.mem.data.length
    | _ => 0) = 1 := by decide +kernel

/-- Refutes O48: a repair that a warm reset cuts short writes its DEG record, whose message, raised by the reset itself, goes
to a tier address that RAS_MSI_ADDR names: the tier's byte there changes, with nothing under way before. -/
theorem not_warmResetKeepsMemory : ¬ Obligations.WarmResetKeepsMemory := by
  intro h
  obtain ⟨t, ht, -⟩ := exec_next .warmRst repairing
  have hdata := (h repairing t rfl (by decide) (fun _ => ⟨rfl, rfl, fun _ hm => nomatch hm⟩) (fun _ _ he => nomatch he)
    (fun _ => ⟨rfl, rfl, fun _ he => nomatch he⟩) rfl ht).1
  have hlen := warmRst_repairing
  rw [ht] at hlen
  dsimp only at hlen
  rw [hdata] at hlen
  exact absurd hlen (by decide)

end Sys2Proof.Machine
end

section
/-! PROOF. The supply, the governor, resets and boot (R470–R495, R506–R515): each row where its condition holds. -/

namespace Sys2Proof.Machine

/-! #### What gives and takes the supply (R470–R473, R546, R554) -/

section
variable {s : State}

theorem exec_vinSample (a : AceloId) (mv ma : Nat) : exec (.vinSample a mv ma) s = execVinSample a mv ma s := rfl
theorem exec_overvoltageTimeout : exec .overvoltageTimeout s = execOvervoltageTimeout s := rfl
theorem exec_sagTimeout : exec .sagTimeout s = execSagTimeout s := rfl
theorem exec_thermalShutdown : exec .thermalShutdown s = execThermalShutdown s := rfl
theorem exec_vinGood : exec .vinGood s = execVinGood s := rfl
theorem exec_vinLowRelease : exec .vinLowRelease s = execVinLowRelease s := rfl

/-- A row that resets the package where it may, or takes its rails down. -/
theorem effect_onAll_reset {i : Instr} {P : Hw → Sec → Prop} [∀ hw sec, Decidable (P hw sec)] {f : Hw → Sec → Hw × Sec}
    (hi : exec i s = onAll s (fun hw sec => if P hw sec then ((f hw sec).1, (f hw sec).2, .done) else (hw, sec, .notEnabled)))
    (hon : s.on) (hP : P s.now s.sec) : EffectSec i s (f s.now s.sec).1 (f s.now s.sec).2 .done :=
  effect_onAll hi hon (if_pos hP)

/-- With the package on, a sample is a row like any other. -/
theorem vinSample_effect (hon : s.on) {a : AceloId} {mv ma : Nat} (h : (vinTake s.now a mv ma).2 = none) :
    Effect (.vinSample a mv ma) s (vinTake s.now a mv ma).1 .done := by
  have hon' : s.hw.pow.off = 0 := hon
  refine effect_onAll ((exec_vinSample a mv ma).trans (if_neg (not_not.mpr hon'))) hon ?_
  have htake : vinTake s.now a mv ma = ((vinTake s.now a mv ma).1, none) := Prod.ext rfl h
  rw [htake]

theorem vinGood_effect (hoff : s.hw.pow.off ≠ 0) (ht : s.hw.pow.therm = false) :
    exec .vinGood s = .next { s with hw := (vinGood s.now s.sec).1, sec := (vinGood s.now s.sec).2.1, answer := .done } := by
  have hans : (vinGood s.now s.sec).2.2 = .done := by
    have hgo : ¬(s.now.pow.off = 0 ∨ s.now.pow.therm = true) := by
      change ¬(s.hw.pow.off = 0 ∨ s.hw.pow.therm = true)
      simp [hoff, ht]
    unfold vinGood
    rw [if_neg hgo]
  rw [exec_vinGood, ← hans]
  rfl

theorem vinLowRelease_effect (ht : s.hw.pow.therm = true) : exec .vinLowRelease s =
    .next { s with hw := { s.now with pow := { s.now.pow with therm := false } }, answer := .done } :=
  exec_vinLowRelease.trans (if_pos ht)

/-- Settles O34: each row finds the condition that its clause states. -/
theorem supplyCompletes : Obligations.SupplyCompletes := by
  intro a mv ma s hw
  refine ⟨fun hon h => vinSample_effect hon h, fun hon h => ?high, fun hon h => ?sag, fun hon => ?therm, vinGood_effect, vinLowRelease_effect⟩
  case high =>
    exact effect_onAll_reset (P := fun hw _ => 15000 < (getHalf hw 0).mv ∨ 15000 < (getHalf hw 1).mv)
      (f := railsDown 1 1) exec_overvoltageTimeout hon h
  case sag => exact effect_onAll_reset (P := fun hw _ => hw.pow.sag = true) (f := railsDown 1 4) exec_sagTimeout hon h
  case therm => exact effect_onAll exec_thermalShutdown hon rfl

end

/-! #### The governor (R476–R495) -/

section
variable {s : State}

/-- A grant that a waiting array can have is given (R481). -/
theorem rampGrant_done {hw : Hw} {a e : Nat} {x : Nat × Bool} (hfind : hw.ramps.find? (fun e => rampHalf e == a) = some e)
    (hcost : grantCost hw a e = some x) : (rampGrant a hw).2 = .done := by
  unfold rampGrant
  rw [hfind]
  dsimp only
  rw [hcost]
  rfl

theorem exec_brakeAssert : exec .brakeAssert s = execBrakeAssert s := rfl
theorem exec_sustainedTick (x y z : Nat) : exec (.sustainedTick x y z) s = execSustainedTick x y z s := rfl

variable (hon : s.on)
include hon

theorem brakeAssert_effect (hb : s.now.pow.brake = false) (h1 : 1 ≤ s.sec.step) :
    Effect .brakeAssert s (brakeAssert s.now) .done :=
  effect_onAll_if (P := fun hw sec => (!hw.pow.brake && decide (1 ≤ sec.step)) = true) exec_brakeAssert hon (by simp [hb, h1])

theorem sustainedTick_effect (x y z : Nat) (h6 : 6 ≤ s.sec.step) (hrun : pcpRuns s.now s.now.pkg.primary = true) :
    Effect (.sustainedTick x y z) s (sustained x y z s.now) .done :=
  effect_onAll_if (P := fun hw sec => 6 ≤ sec.step ∧ pcpRuns hw hw.pkg.primary = true) (exec_sustainedTick x y z) hon ⟨h6, hrun⟩

end

/-- Settles O33: each row of the governor finds its condition. -/
theorem powerCompletes : Obligations.PowerCompletes := by
  intro a g d s hon hw
  refine ⟨fun hact hdroop => ?detect, fun hdroop => ?clear, fun rise rose => ?tick, fun n m => ?split, fun e x hfind hcost => ?grant, fun w => ?peak,
    brakeAssert_effect hon, fun hb => ⟨fun w => ?check, ?release⟩, fun hb hany => ?lift,
    fun x y z => sustainedTick_effect hon x y z, ?hold, fun t hrun => ?receive,
    fun pkg dies cores hok => ?energy, fun me mo est tj thr hmo => ?trim⟩
  case detect => exact (effect_guardHw (i := .droopDetect g) rfl hon (by simp [hw, hact, hdroop]) :)
  case clear => exact (effect_guardHw (i := .droopClear g) rfl hon (bne_iff_ne.mpr hdroop) :)
  case tick => exact effect_onHw (f := fun hw => did (slewTick a rise rose hw)) rfl hon rfl
  case split => exact effect_onHw (f := fun hw => did (slewSplit n m hw)) rfl hon rfl
  case peak => exact effect_onHw (f := fun hw => did (peakCheck w hw)) rfl hon rfl
  case hold => exact effect_onHw (f := did) rfl hon rfl
  case grant => exact effect_onHw (f := rampGrant a) rfl hon (Prod.ext rfl (rampGrant_done hfind hcost))
  case check => exact effect_guardHw (f := brakeCheck w) rfl hon hb
  case release => exact effect_guardHw (f := brakeRelease) rfl hon hb
  case lift => exact effect_guardHw (f := brakeStep) rfl hon (Bool.and_eq_true_iff.mpr ⟨congrArg not hb, hany⟩)
  case receive => exact effect_guardHw (f := targetsApply t) rfl hon hrun
  case energy => exact effect_guardHw (f := energyUpdate pkg dies cores) rfl hon hok
  case trim => exact effect_guardHw (f := trimUpdate d me mo est tj thr) rfl hon (decide_eq_true hmo)

/-! #### Resets and boot (R506–R515) -/

section
variable {s : State}

theorem exec_warmRst : exec .warmRst s = execWarmRst s := rfl
theorem exec_pcpResetCold (by_ : Agent) (v : Word) : exec (.pcpResetCold by_ v) s = execPcpResetCold by_ v s := rfl
theorem exec_pcpResetWarm (by_ : Agent) (v : Word) : exec (.pcpResetWarm by_ v) s = execPcpResetWarm by_ v s := rfl
theorem exec_bootStepDone (cycles : BitVec 32) (inp : BootIn) :
    exec (.bootStepDone cycles inp) s = execBootStepDone cycles inp s := rfl
theorem exec_bootStepTimeout (die : DieId) (gen : Fin 256) :
    exec (.bootStepTimeout die gen) s = execBootStepTimeout die gen s := rfl
theorem exec_haltLineRepeat : exec .haltLineRepeat s = execHaltLineRepeat s := rfl

/-- A write with the key resets the package as its KIND says (R514). -/
theorem pcpResetWrite_cold {v : Word} {hw : Hw} {sec : Sec} (hkey : bits v 63 48 = 0xA5C3) (hkind : bits v 1 0 = 1) :
    pcpResetWrite v hw sec = ((coldReset 4 hw sec).1, (coldReset 4 hw sec).2, .done) := by
  unfold pcpResetWrite
  rw [if_neg (not_not.mpr hkey), if_pos hkind]

theorem pcpResetWrite_warm {v : Word} {hw : Hw} {sec : Sec} (hkey : bits v 63 48 = 0xA5C3) (hkind : bits v 1 0 = 2) :
    pcpResetWrite v hw sec = ((warmReset 4 hw sec).1, (warmReset 4 hw sec).2, .done) := by
  unfold pcpResetWrite
  rw [if_neg (not_not.mpr hkey), if_neg (by omega), if_pos hkind]

theorem bootStep_done {cycles : BitVec 32} {inp : BootIn} {hw : Hw} {sec : Sec} {r : Hw × Sec} (hh : sec.halts = [])
    (hm : sec.maint = false) (hlt : sec.step < 10) (he : bootEffect (sec.step + 1) cycles.toNat inp (hw, sec) = some r) :
    (bootStep cycles inp hw sec).2.2 = .done := by
  unfold bootStep
  dsimp only
  rw [if_neg (by simp [hh, hm]; omega), he]
  dsimp only
  split <;> rfl

/-- Step 2 past its bound names the generator it waits for (R510). -/
theorem bootTimeout_clock {die gen : Nat} {hw : Hw} {sec : Sec} (hh : sec.halts = []) (hm : sec.maint = false)
    (hstep : sec.step = 1) (hgen : gen < 48) : bootTimeout die gen hw sec =
      ((halt hw.pkg.primary (haltWord 6 2 die gen) (hw, sec)).1, (halt hw.pkg.primary (haltWord 6 2 die gen) (hw, sec)).2, .done) := by
  have hnames : timeoutNames 2 die gen = true := by simp [timeoutNames, hgen]
  unfold bootTimeout
  rw [hstep]
  dsimp only
  rw [if_neg (by simp [hh, hm, hnames]), if_pos ⟨by decide, by decide, hgen⟩]

end

/-- Settles O35: each row finds the condition that its clause states. -/
theorem bootCompletes : Obligations.BootCompletes := by
  intro by_ v s hon hw
  refine ⟨effect_onAll (exec_coldRst s) hon rfl, fun h1 => ?warm, fun h1 ha hkey => ⟨fun hk => ?pcpCold, fun hk => ?pcpWarm⟩,
    fun cycles inp r hh hm hlt he => ?boot, fun die gen hh hm h1 hgen => ?late, fun hh => ?line⟩
  case warm => exact effect_onAll_reset (P := fun _ sec => 1 ≤ sec.step) (f := warmReset 5) exec_warmRst hon h1
  case pcpCold =>
    refine effect_onAll (exec_pcpResetCold by_ v) hon ?_
    rw [if_pos ⟨hk, h1⟩, pcpResetBy, if_pos ha, pcpResetWrite_cold hkey hk]
  case pcpWarm =>
    refine effect_onAll (exec_pcpResetWarm by_ v) hon ?_
    rw [if_pos ⟨hk, h1⟩, pcpResetBy, if_pos ha, pcpResetWrite_warm hkey hk]
  case boot =>
    exact effect_onAll (f := bootStep cycles inp) (exec_bootStepDone cycles inp) hon
      (Prod.ext rfl (Prod.ext rfl (bootStep_done hh hm hlt he)))
  case late => exact effect_onAll (f := bootTimeout die gen) (exec_bootStepTimeout die gen) hon (bootTimeout_clock hh hm h1 hgen)
  case line => exact effect_onAll exec_haltLineRepeat hon (if_neg hh)

end Sys2Proof.Machine
end

section
/-! PROOF. POP reads that arrive at their blocks (R461, R562). -/

namespace Sys2Proof.Machine

/-! #### POP reads that arrive (R461, R562) -/

section
variable {hw : Hw} {by_ : Agent}

/-- The mesh holds no access to a die of an initiator whose accesses arrive. -/
theorem regHeld_die_of_arrives {d : Nat} (ha : arrives hw by_ = true) (hd : d < 6) (addr : Nat) :
    regHeld hw by_ d addr = false := by
  have hopen := List.all_eq_true.mp (Bool.and_eq_true_iff.mp ha).2 d (List.mem_append_left _ (List.mem_range.mpr hd))
  have hcol : columnOpen hw (dieOfAgent (busAgent hw by_)) d (columnOf addr) = true :=
    List.all_eq_true.mp hopen _ (by cases columnOf addr <;> simp)
  simp [regHeld, meshHeld, hcol]

/-- A POP read that is admitted and not held takes the oldest entry. -/
theorem popRead_eq {d addr : Nat} (high : Bool) (hm : mayAccess hw by_ = true) (hh : regHeld hw by_ d addr = false) :
    popRead by_ d addr high hw = ((logPop hw by_ addr).2,
      .value (if high then (logPop hw by_ addr).1.1 >>> 32 else (logPop hw by_ addr).1.1)) := by
  simp [popRead, hm, hh]

theorem popRead_of_arrives {d : Nat} (addr : Nat) (high : Bool) (ha : arrives hw by_ = true) (hd : d < 6) :
    popRead by_ d addr high hw = ((logPop hw by_ addr).2,
      .value (if high then (logPop hw by_ addr).1.1 >>> 32 else (logPop hw by_ addr).1.1)) :=
  popRead_eq high (mayAccess_of_arrives ha) (regHeld_die_of_arrives ha hd addr)

theorem popRead_primary_of_arrives (addr : Nat) (high : Bool) (ha : arrives hw by_ = true) :
    popRead by_ (4 + hw.pkg.primary) addr high hw = ((logPop hw by_ addr).2,
      .value (if high then (logPop hw by_ addr).1.1 >>> 32 else (logPop hw by_ addr).1.1)) :=
  popRead_eq high (mayAccess_of_arrives ha) (regHeld_primary_of_arrives ha addr)

theorem corePopRead_of_arrives {c : CoreId} (addr : Nat) (high : Bool) (ha : arrives hw by_ = true)
    (hp : corePresent hw c = true) : corePopRead by_ c addr high hw = ((logPop hw by_ addr).2,
      .value (if high then (logPop hw by_ addr).1.1 >>> 32 else (logPop hw by_ addr).1.1)) :=
  (if_pos hp).trans (popRead_of_arrives addr high ha (by omega))

theorem berrRead_of_arrives (h : HartId) (high : Bool) (ha : arrives hw by_ = true) :
    berrRead by_ h high hw = ((berrPop hw by_ h).2,
      .value (if high then (berrPop hw by_ h).1.1 >>> 32 else (berrPop hw by_ h).1.1)) := by
  have hd : hartDie h < 6 := by
    unfold hartDie
    omega
  simp [berrRead, mayAccess_of_arrives ha, regHeld_die_of_arrives ha hd]

end

/-- Settles O37: each register's read arrives at its block. -/
theorem popReads : Obligations.PopReads := by
  intro by_ high s hon ha hw pop
  have hdie {i : Instr} {d addr : Nat} (hi : exec i s = onHw s (popRead by_ d addr high)) (hd : d < 6) : pop i addr :=
    effect_onHw hi hon (popRead_of_arrives addr high ha hd)
  have hcore {i : Instr} {c : CoreId} {addr : Nat} (hi : exec i s = onHw s (corePopRead by_ c addr high))
      (hp : corePresent hw c = true) : pop i addr :=
    effect_onHw hi hon (corePopRead_of_arrives addr high ha hp)
  have hpkg {i : Instr} (reg : Nat → Nat)
      (hi : exec i s = onHw s (fun hw => popRead by_ (4 + hw.pkg.primary) (reg hw.pkg.primary) high hw)) :
      pop i (reg hw.pkg.primary) :=
    effect_onHw hi hon (popRead_primary_of_arrives (reg hw.pkg.primary) high ha)
  have hhbm (k : Fin 12) : ctlDie k < 6 := by
    unfold ctlDie
    split <;> omega
  have hlpd (k : Fin 16) : ctlDie (12 + k) < 6 := by
    unfold ctlDie
    split <;> omega
  exact ⟨fun d => ⟨hdie rfl d.isLt, hdie rfl d.isLt⟩, fun c hp => ⟨hcore rfl hp, hcore rfl hp, hcore rfl hp⟩,
    fun k => hdie rfl (hhbm k), fun k => hdie rfl (hlpd k), hpkg Reg.pcpMigErrLog rfl, hpkg Reg.pcpFabEvtLog rfl,
    hpkg Reg.pcpPwrEvtLog rfl, fun a => ⟨hdie (d := 4 + a) rfl (by omega), hdie (d := 4 + a) rfl (by omega)⟩,
    fun h => effect_onHw (f := berrRead by_ h high) rfl hon (berrRead_of_arrives h high ha)⟩

end Sys2Proof.Machine
end

section
/-! PROOF. The monitor's commands and waits (R535–R541). -/

namespace Sys2Proof.Machine

/-! #### Commands of the monitor (R535–R541) -/

section
variable {s : State}

/-- A monitor's action has its effect where it may be taken. -/
theorem effectMon_onMon {i : Instr} {c : Mon → Bool} {f : Hw × Sec → Hw × Sec} (hi : exec i s = onMon s c f) (hon : s.on)
    (hup : monUp s.sec = true) (hc : c s.sec.mon = true) : EffectMon i s (f (s.now, s.sec)) :=
  hi.trans (onMon_on hon hup hc)

/-- A character that reaches an idle monitor is typed (R535). -/
theorem monChar_idle {feed : Hw × Sec → Hw × Sec} {b : Byte} {r : Hw × Sec} (hup : monUp r.2 = true)
    (hidle : r.2.mon.wait = .idle) : monChar feed b r = monTyped b r := by
  unfold monChar
  rw [hup, hidle]
  rfl

end

theorem exec_monUploadTimeout (s : State) : exec .monUploadTimeout s = execMonUploadTimeout s := rfl

/-- Settles O39: an idle monitor that answers runs each command. -/
theorem monitorCompletes : Obligations.MonitorCompletes := by
  intro s hon hmon ran
  obtain ⟨hup, hidle⟩ := hmon
  have hran {i : Instr} (c : MonCmd) (hi : exec i s = monCommand c s) : ran i c :=
    effectMon_onMon (f := monAct (monRun (some c))) hi hon hup (beq_iff_eq.mpr hidle)
  refine ⟨hran _ rfl, hran _ rfl, hran _ rfl, hran _ rfl, hran _ rfl, hran _ rfl, hran _ rfl,
    fun a n => ⟨hran _ rfl, hran _ rfl⟩, fun a n v => hran _ rfl, fun d c => ⟨hran _ rfl, hran _ rfl⟩, fun k u => hran _ rfl,
    fun k m p o b l => hran _ rfl, fun n => ⟨hran _ rfl, hran _ rfl, hran _ rfl⟩, fun ch => ?typed⟩
  case typed =>
    rw [← monChar_idle (feed := monFeed 256) (b := ch) (r := (s.now, s.sec)) hup hidle]
    exact effectMon_onMon (i := .monChar ch) (c := fun _ => true) (f := monChar (monFeed 256) ch) rfl hon hup rfl

/-- Settles O40: a monitor that waits for a controller, and one that waits for an upload's bytes. -/
theorem monitorWaitsEnd : Obligations.MonitorWaitsEnd := by
  intro s hon hup
  refine ⟨fun hwaits => ?abort, fun n hn => ?gap⟩
  case abort => exact effectMon_onMon (c := monWaits) (f := fun r => monFeed 257 (monStop r)) rfl hon hup hwaits
  case gap =>
    refine effectMon_onMon (exec_monUploadTimeout s) hon hup ?_
    rw [hn]

end Sys2Proof.Machine
end

section
/-! PROOF. The CXL ports (R447–R468, R513, R547) and the memory controllers in TEST and in service (R339–R352): each row where its
condition holds. -/

namespace Sys2Proof.Machine

/-! #### Accesses to a die's registers that arrive (R30, R60) -/

/-- A write of its own row to a register of a die, made by an initiator whose accesses arrive, is the register's write. -/
theorem regWriteBy_die_of_arrives {hw : Hw} {by_ : Agent} {d : Nat} (ha : arrives hw by_ = true) (hd : d < 6) (addr : Nat)
    (f : Hw → Hw × Answer) : regWriteBy by_ d addr f hw = f hw := by
  simp [regWriteBy, mayAccess_of_arrives ha, regHeld_die_of_arrives ha hd]

/-! #### The upstream port (R447–R451, R459, R513, R547) -/

section
variable {s : State} {a : AceloId}

theorem exec_upstreamLinkUp (cxl : Bool) : exec (.upstreamLinkUp a cxl) s = execUpstreamLinkUp a cxl s := rfl
theorem exec_hostBarAccess (bar : Fin 3) (off size : Nat) (write : Bool) (data : List Byte) (poison : Bool) :
    exec (.hostBarAccess a bar off size write data poison) s = execHostBarAccess a bar off size write data poison s := rfl
theorem exec_doeReport (nonce : List Byte) (mask : BitVec 16) :
    exec (.doeReport a nonce mask) s = execDoeReport a nonce mask s := rfl
theorem exec_doeCerts (off len : Nat) : exec (.doeCerts a off len) s = execDoeCerts a off len s := rfl
theorem exec_cxuPerst : exec (.cxuPerst a) s = execCxuPerst a s := rfl

variable (hon : s.on)
include hon

theorem upstreamLinkUp_effect (cxl : Bool) (hmode : cxuMode s.now a = 0) (hperst : (getAcelo s.now a).perst = false)
    (h10 : 10 ≤ s.sec.step) (hlock : rbit s.now (Reg.clkPllStatus (4 + a)) 40 = true) :
    Effect (.upstreamLinkUp a cxl) s (linkTrained (rfield (touch (touch s.now (Reg.cxuRxFlitCnt a)) (Reg.cxuTxFlitCnt a))
      (Reg.cxuStatus a) 49 48 (if cxl then 1 else 2)) (Reg.cxuStatus a)) .done :=
  effect_onAll (exec_upstreamLinkUp cxl) hon (if_pos (by simp [linkMayRise, hmode, hperst, h10, hlock]))

section
variable (hmode : cxuMode s.now a ≠ 0) (hfence : portFenced s.now (.upstream a) = false)
include hmode hfence

/-- A read of BAR4/5 gives the bytes of the MSI-X structures (R450). -/
theorem bar4Read_effect {off size : Nat} (hin : off + size ≤ 65536) :
    Effect (.hostBarAccess a 2 off size false [] false) s s.now (.bytes (bar4Read s.now a off size)) := by
  refine effect_onAll (exec_hostBarAccess 2 off size false [] false) hon ?_
  have hspan : ¬65536 < off + size := by omega
  simp [hmode, hfence, hspan]

theorem bar4Write_effect {off size : Nat} (hin : off + size ≤ 65536) {data : List Byte} (hlen : data.length = size) :
    Effect (.hostBarAccess a 2 off size true data false) s (bar4Write s.now a off data) .done := by
  refine effect_onAll (exec_hostBarAccess 2 off size true data false) hon ?_
  have hspan : ¬65536 < off + size := by omega
  simp [hmode, hfence, hspan, hlen]

section
variable (h10 : 10 ≤ s.sec.step) (hdoe : (getAcelo s.now a).doe = none)
include h10 hdoe

/-- A report asked for while identity records wait for their signatures waits behind them (R513). -/
theorem doeReport_waits {nonce : List Byte} (mask : BitVec 16) (hlen : nonce.length = 32) (hq : s.now.pkg.identQ ≠ []) :
    Effect (.doeReport a nonce mask) s (setAcelo s.now a { getAcelo s.now a with doe := some (nonce, mask) }) .pending := by
  refine effect_onAll (exec_doeReport nonce mask) hon ?_
  simp [doeReady, hmode, hfence, h10, hdoe, hlen, hq]

theorem doeReport_signed {nonce : List Byte} (mask : BitVec 16) (hlen : nonce.length = 32) (hq : s.now.pkg.identQ = []) :
    Effect (.doeReport a nonce mask) s s.now
      (.bytes (reportBytes s.now s.sec nonce mask ++ Config.slhSign s.now.idKey (reportBytes s.now s.sec nonce mask))) := by
  refine effect_onAll (exec_doeReport nonce mask) hon ?_
  simp [doeReady, hmode, hfence, h10, hdoe, hlen, hq]

theorem doeCerts_effect {len : Nat} (off : Nat) (hlen : len ≤ 4096) :
    Effect (.doeCerts a off len) s s.now (.bytes (slice s.now.idCert off len)) := by
  refine effect_onAll (exec_doeCerts off len) hon ?_
  simp [doeReady, hmode, hfence, h10, hdoe, Nat.not_lt.mpr hlen]

end
end

/-- PERST at a port whose link is down is seen on the pin alone (R547). -/
theorem cxuPerst_effect (hmode : cxuMode s.now a = 0) :
    Effect (.cxuPerst a) s (setAcelo s.now a { getAcelo s.now a with perst := true }) .done := by
  refine effect_onHw exec_cxuPerst hon ?_
  simp [hmode, did]

end

/-- Settles O31: each row finds the state that its clause states. -/
theorem upstreamPortCompletes : Obligations.UpstreamPortCompletes := by
  intro by_ a s hon hw
  refine ⟨fun cxl hmode hperst h10 hlock => upstreamLinkUp_effect hon cxl hmode hperst h10 hlock,
    fun hmode hfence => ⟨fun off size hin => ⟨bar4Read_effect hon hmode hfence hin, fun data hlen =>
      bar4Write_effect hon hmode hfence hin hlen⟩, fun h10 hdoe => ⟨fun nonce mask hlen hq =>
        doeReport_waits hon hmode hfence h10 hdoe mask hlen hq, fun nonce mask hlen hq =>
        doeReport_signed hon hmode hfence h10 hdoe mask hlen hq, fun off len hlen =>
        doeCerts_effect hon hmode hfence h10 hdoe off hlen⟩⟩,
    fun hmode => ?linkDown, fun hmode => cxuPerst_effect hon hmode, fun hperst => ?release, fun n base hmode halign => ?commit,
    fun v ha => ?fire⟩
  case linkDown => exact effect_guardHw (f := fun hw => cxuDown hw a) rfl hon (bne_iff_ne.mpr hmode)
  case release => exact (effect_guardHw (i := .cxuPerstRelease a) rfl hon hperst :)
  case commit =>
    exact (effect_guardHw (i := .hdmDecoderCommit a n base) rfl hon
      (Bool.and_eq_true_iff.mpr ⟨beq_iff_eq.mpr hmode, beq_iff_eq.mpr halign⟩) :)
  case fire =>
    exact effect_onHw (f := regWriteBy by_ (4 + a) (Reg.cxuMsixTrig a) fun hw => did (msixFire hw a (bits v 10 0))) rfl hon
      (regWriteBy_die_of_arrives ha (by omega) _ _)

/-! #### The downstream port (R452–R468) -/

section
variable {s : State} {a : AceloId}

theorem exec_inboundRequest (req : InbReq) : exec (.inboundRequest a req) s = execInboundRequest a req s := rfl
theorem exec_roWriteRelease : exec (.roWriteRelease a) s = execRoWriteRelease a s := rfl
theorem exec_iotInvDone : exec (.iotInvDone a) s = execIotInvDone a s := rfl
theorem exec_completionTimeout (tag : Nat) : exec (.completionTimeout a tag) s = execCompletionTimeout a tag s := rfl
theorem exec_completionReceived (tag : Nat) (status : CplStatus) (data : List Byte) (poison : Bool) :
    exec (.completionReceived a tag status data poison) s = execCompletionReceived a tag status data poison s := rfl
theorem exec_presenceChange (present : Bool) (link : BitVec 3) :
    exec (.presenceChange a present link) s = execPresenceChange a present link s := rfl
theorem exec_secondaryBusReset (on : Bool) : exec (.secondaryBusReset a on) s = execSecondaryBusReset a on s := rfl

/-- Data that no poison marks leave no record (R522). -/
theorem consumed_clean (hw : Hw) (by_ : Agent) (addr : Nat) : consumed hw by_ addr false = hw := by
  cases by_ <;> rfl

variable (hon : s.on)
include hon

/-- A device reads a tier through an armed placement window (R454). -/
theorem inboundRead_effect {req : InbReq} {w : Nat} {x : Hw × List Byte × Bool}
    (hlink : rbits s.now (Reg.cxdStatus a) 41 40 ≠ 0) (hdpc : rbit s.now (Reg.cxdStatus a) 33 = false) (hlen : req.len ≠ 0)
    (hpage : req.addr.toNat % 4096 + req.len ≤ 4096) (hread : req.write = false) (hpasid : req.pasid = false)
    (hfind : winFind s.now a req = some w) (hright : rbit s.now (Reg.iotWinTgt a w) 1 = true)
    (htier : locate (winTgt s.now a w + (req.addr.toNat - winBase s.now a w)) = .tier0)
    (hfence : fencedHome s.now (.adapter a) (winTgt s.now a w + (req.addr.toNat - winBase s.now a w)) = false)
    (hx : pocReadN (req.len / 64 + 2) (radd s.now (Reg.cxdInbCnt a) 1) (.adapter a)
      (winTgt s.now a w + (req.addr.toNat - winBase s.now a w)) req.len = some x) :
    Effect (.inboundRequest a req) s
      (consumed x.1 (.adapter a) (winTgt s.now a w + (req.addr.toNat - winBase s.now a w)) x.2.2)
      (if x.2.2 then .poisoned x.2.1 else .bytes x.2.1) := by
  obtain ⟨h, bs, pz⟩ := x
  refine effect_onHw (exec_inboundRequest req) hon ?_
  have hgo : ¬4096 < req.addr.toNat % 4096 + req.len := by omega
  have hheld : inboundHeld s.now a (winTgt s.now a w + (req.addr.toNat - winBase s.now a w)) = false := by
    simp [inboundHeld, htier]
  simp [hlink, hdpc, hlen, hgo, hread, hpasid, hfind, hright, hfence, hheld, htier, hx]

theorem roWriteRelease_effect {x : HeldWr} {rest : List HeldWr} (hheld : (getAcelo s.now a).roHeld = x :: rest)
    (hfree : inboundHeld s.now a x.tgt = false) (hbusy : adapterBusy s.now a x.seq = false) :
    Effect (.roWriteRelease a) s (inboundWrite (setAcelo s.now a { getAcelo s.now a with roHeld := rest }) a x) .done := by
  refine effect_onHw exec_roWriteRelease hon ?_
  rw [hheld]
  exact if_pos (by simp [inboundGoes, hfree, hbusy])

theorem iotInvDone_effect {w n : Nat} {rest : List (Nat × Nat)} (hinv : (getAcelo s.now a).inv = (w, n) :: rest)
    (hbusy : adapterBusy s.now a n = false)
    (hheld : (getAcelo s.now a).roHeld.any (fun h => h.win == w && decide (h.seq < n)) = false) :
    Effect (.iotInvDone a) s (setAcelo (rfield s.now (Reg.iotInvSeq a) 31 0 (rbits s.now (Reg.iotInvSeq a) 31 0 + 1)) a
      { getAcelo s.now a with inv := rest }) .done := by
  refine effect_onHw exec_iotInvDone hon ?_
  dsimp only
  rw [hinv]
  exact if_neg (by rw [hbusy, hheld]; exact Bool.false_ne_true)

theorem completionTimeout_effect {tag : Nat} {r : DsReq} {h : Hw} (htake : takeDs s.now a tag = some (r, h)) :
    Effect (.completionTimeout a tag) s (dsExpired h a r).1 (dsExpired h a r).2 := by
  refine effect_onHw (exec_completionTimeout tag) hon ?_
  rw [htake]

/-- A completion of an agent's load gives it the data (R463). -/
theorem completionReceived_effect {tag : Nat} {r : DsReq} {h : Hw} (data : List Byte) {ag : Agent}
    (htake : takeDs s.now a tag = some (r, h)) (hwho : r.who = .agent ag) :
    Effect (.completionReceived a tag .success data false) s h (.value (word (leNat data))) := by
  refine effect_onHw (exec_completionReceived tag .success data false) hon ?_
  rw [htake]
  simp [hwho, consumed_clean]

/-- A device that goes: its link down, its kind gone, both shown and signalled (R452, R464, R465). -/
theorem presenceGone_effect (link : BitVec 3) :
    let hw0 := if rbits s.now (Reg.cxdStatus a) 41 40 = 0 then deviceGone s.now a else cxdDown a false s.now
    let hw1 := rfield (rfield hw0 (Reg.cxdStatus a) 32 32 0) (Reg.cxdStatus a) 53 52 0
    let hw3 := linkDark (rfield hw1 (Reg.cxdStatus a) 41 40 0) (Reg.cxdStatus a)
    Effect (.presenceChange a false link) s
      (message hw3 (4 + a) (Reg.cxdMsiAddr a) (rget hw3 (Reg.cxdMsiData a)).toNat) .done := by
  refine effect_onHw (exec_presenceChange false link) hon ?_
  by_cases hlive : rbits s.now (Reg.cxdStatus a) 41 40 = 0 <;> simp [hlive, did, b2n]

theorem secondaryBusReset_effect : Effect (.secondaryBusReset a true) s
    (linkDark (rfield (setAcelo s.now a { getAcelo s.now a with cxdPerst := true, roHeld := [] })
      (Reg.cxdStatus a) 41 40 0) (Reg.cxdStatus a)) .done :=
  effect_onHw (exec_secondaryBusReset true) hon rfl

theorem secondaryBusRelease_effect : Effect (.secondaryBusReset a false) s
    (setAcelo s.now a { getAcelo s.now a with cxdPerst := false }) .done :=
  effect_onHw (exec_secondaryBusReset false) hon rfl

end

/-- Settles O32: each row finds the state that its clause states. -/
theorem downstreamPortCompletes : Obligations.DownstreamPortCompletes := by
  intro by_ a s hon hw t
  refine ⟨fun req w x hlink hdpc hlen hpage hread hpasid hfind hright htier hfence hx =>
      inboundRead_effect hon hlink hdpc hlen hpage hread hpasid hfind hright htier hfence hx,
    fun x rest hheld hfree hbusy => roWriteRelease_effect hon hheld hfree hbusy,
    fun ha => ⟨fun w v hv => ?window, fun v => ?invalidate⟩,
    fun w n rest hinv hbusy hheld => iotInvDone_effect hon hinv hbusy hheld,
    fun tag r h htake => completionTimeout_effect hon htake,
    fun tag r h data ag htake hwho => completionReceived_effect hon data htake hwho,
    fun dpc hlink => ?down, presenceGone_effect hon, secondaryBusReset_effect hon, secondaryBusRelease_effect hon⟩
  case window =>
    refine effect_onHw (f := regWriteBy by_ (4 + a) (Reg.iotWinTgt a w) (guardHw (fun _ => bit v 0) (iotTgtWrite a w v))) rfl hon ?_
    rw [regWriteBy_die_of_arrives ha (by omega), guardHw_of_true _ hv]
  case invalidate =>
    exact effect_onHw (f := regWriteBy by_ (4 + a) (Reg.iotInv a) (iotInvWrite a v)) rfl hon
      (regWriteBy_die_of_arrives ha (by omega) _ _)
  case down => exact effect_guardHw (f := cxdDown a dpc) rfl hon (bne_iff_ne.mpr hlink)

/-! #### Margining, traffic, tracking and link ECC (R339–R352) -/

section
variable {s : State} {k : CtlId}

theorem ctlDie_lt (k : CtlId) : ctlDie k < 6 := by
  unfold ctlDie
  split <;> omega

theorem exec_marginDone (res : List MarginRes) : exec (.marginDone k res) s = execMarginDone k res s := rfl

/-- A margining run of a controller that may be tested starts on the unit that the command names (R339, R348). -/
theorem mrgCmdWrite_starts {hw : Hw} (v : Word) (h : testRefusal hw k = 0) : mrgCmdWrite k v hw =
    (setCtl hw k { getCtl hw k with op := 1, unit := if k.val < 12 then bits v 4 0 else bits v 2 0 }, .done) := by
  unfold mrgCmdWrite
  rw [h]
  rfl

theorem marginDone_effect (hon : s.on) {res : List MarginRes} {r : MarginRes}
    (hfind : res.find? (fun r => r.unit == (getCtl s.now k).unit) = some r) (hop : (getCtl s.now k).op = 1) :
    Effect (.marginDone k res) s (marginDone k r s.now) .done := by
  refine effect_onHw (exec_marginDone res) hon ?_
  rw [hfind]
  exact if_pos hop

end

/-- Settles O18: each row finds its controller in the state that its clause states. -/
theorem memoryControllersComplete : Obligations.MemoryControllersComplete := by
  intro by_ k v s hon hw t
  refine ⟨fun ha htest => ⟨?margin, fun hv => ?traffic⟩, fun res r hfind hop => marginDone_effect hon hfind hop,
    fun n errs hop => ?ended, fun hst hself => ?service⟩
  case margin =>
    exact effect_onHw (f := ctlRegWrite by_ k (ctlBase k + 0x28) (mrgCmdWrite k v)) rfl hon
      ((regWriteBy_die_of_arrives ha (ctlDie_lt k) _ _).trans (mrgCmdWrite_starts v htest))
  case traffic =>
    refine effect_onHw (f := guardHw (fun _ => bit v 0) (ctlRegWrite by_ k (ctlTgCtrl k) (tgCtrlWrite k v))) rfl hon ?_
    rw [guardHw_of_true _ hv, ctlRegWrite, regWriteBy_die_of_arrives ha (ctlDie_lt k)]
    exact Prod.ext rfl (tgCtrlWrite_done ..)
  case ended => exact effect_guardHw (f := tgDone k n errs) rfl hon (beq_iff_eq.mpr hop)
  case service =>
    have hstate : (ctlState s.now k == 4) = true := beq_iff_eq.mpr hst
    have hready : (!(getCtl s.now k).selfRef) = true := congrArg not hself
    refine ⟨?adjusted, ?steady, fun ch n hk => ?window⟩
    case adjusted =>
      exact (effect_guardHw (i := .driftTrack k true) rfl hon (Bool.and_eq_true_iff.mpr ⟨hstate, hready⟩) :)
    case steady =>
      exact (effect_guardHw (i := .driftTrack k false) rfl hon (Bool.and_eq_true_iff.mpr ⟨hstate, hready⟩) :)
    case window => exact effect_guardHw (f := leccWindow k ch n) rfl hon (by simp [hstate, hready, hk])

end Sys2Proof.Machine
end

section
/-! PROOF. What harts do (R355–R369, R384): accesses within a line, atomics, barriers and Xtlvq, cache-block operations; what a scan for
bit errors leaves of a hart's work. -/

namespace Sys2Proof.Machine

/-! #### Records and bit errors leave a hart's work (R356, R518) -/

section
variable {hw : Hw}

theorem logPush_harts (a cap : Nat) (e : Word × Word) : (logPush hw a cap e).2.harts = hw.harts := by
  unfold logPush
  dsimp only
  split <;> rfl

theorem message_harts (d ra n : Nat) : (message hw d ra n).harts = hw.harts := (message_frame d ra n).2.2

theorem rasEnter_harts (d cls : Nat) (e : Word × Word) : (rasEnter hw d cls e).harts = hw.harts := by
  simp only [rasEnter, apply_ite Hw.harts, logPush_harts, message_harts, radd_harts, ite_self]

theorem rasWrite_harts (d cls unit cause inst agent ctx pkg addr : Nat) :
    (rasWrite hw d cls unit cause inst agent ctx pkg addr).harts = hw.harts :=
  rasStop_frame.2.2.2.1.trans (rasEnter_harts ..)

theorem ite_keeps {β : Type} {g : Hw → β} {b : β} {p : Prop} [Decidable p] {x y : Hw} (hx : g x = b) (hy : g y = b) :
    g (if p then x else y) = b := by
  split
  · exact hx
  · exact hy

/-- What counters, the dies' records and the log's entries leave, an error leaves. -/
theorem ras_keeps {β : Type} {g : Hw → β} (hradd : ∀ w a n, g (radd w a n) = g w) (hdie : ∀ w d v, g (setDie w d v) = g w)
    (hwrite : ∀ w d cls unit cause inst agent ctx pkg addr, g (rasWrite w d cls unit cause inst agent ctx pkg addr) = g w)
    (d cls unit cause inst agent ctx pkg addr : Nat) : g (ras hw d cls unit cause inst agent ctx pkg addr) = g hw := by
  have hcounted (r : Die) : g (setDie (radd hw (Reg.rasCeCnt d) 1) d r) = g hw := (hdie _ _ _).trans (hradd ..)
  have hlogged (p : Prop) [Decidable p] (r : Die) : g (if p then setDie (radd hw (Reg.rasCeCnt d) 1) d r
      else rasWrite (setDie (radd hw (Reg.rasCeCnt d) 1) d r) d clsCE unit cause inst agent ctx pkg addr) = g hw :=
    ite_keeps (hcounted r) ((hwrite ..).trans (hcounted r))
  unfold ras
  refine ite_keeps (ite_keeps ((hwrite ..).trans (hlogged _ _)) (hlogged _ _)) (ite_keeps ?poison ?other)
  case poison => exact (hwrite ..).trans (hradd ..)
  case other => exact hwrite ..

/-- A record leaves the harts (R528). -/
theorem ras_harts (d cls unit cause inst agent ctx pkg addr : Nat) :
    (ras hw d cls unit cause inst agent ctx pkg addr).harts = hw.harts :=
  ras_keeps (fun _ _ _ => radd_harts ..) (fun _ _ _ => rfl) (fun _ _ _ _ _ _ _ _ _ _ => rasWrite_harts ..) ..

theorem getHart_ras (d cls unit cause inst agent ctx pkg addr h : Nat) :
    getHart (ras hw d cls unit cause inst agent ctx pkg addr) h = getHart hw h := by
  unfold getHart
  rw [ras_harts]

/-- A read of a line meets its bit errors: they and the line's poison change at the hart, nothing of its work. -/
theorem getHart_hartScan (h line : Nat) :
    ∃ flips lines, getHart (hartScan hw h line) h = { getHart hw h with flipD := flips, lines := lines } := by
  unfold hartScan
  dsimp only
  split
  · exact ⟨_, _, rfl⟩
  split
  · exact ⟨_, _, getHart_setHart_self ..⟩
  · split
    · exact ⟨_, _, (getHart_ras ..).trans (getHart_setHart_self ..)⟩
    · exact ⟨_, _, (getHart_ras ..).trans ((getHart_radd ..).trans (getHart_setHart_self ..))⟩

theorem getHart_fetchScan (h line : Nat) : ∃ flips, getHart (fetchScan hw h line) h = { getHart hw h with flipI := flips } := by
  unfold fetchScan
  dsimp only
  split
  · exact ⟨_, rfl⟩
  · refine ⟨mput (fun _ => 0) (getHart hw h).flipI line 0, (getHart_ras ..).trans ?_⟩
    split
    · exact (getHart_radd ..).trans (getHart_setHart_self ..)
    · exact getHart_setHart_self ..

end

/-! #### What a bit-error scan leaves of a hart's work -/

section
variable {hw : Hw} {h : HartId} {line : Nat}

@[simp] theorem hartRuns_hartScan : hartRuns (getHart (hartScan hw h line) h) = hartRuns (getHart hw h) := by
  obtain ⟨_, _, e⟩ := getHart_hartScan (hw := hw) h line
  rw [e]
  rfl

@[simp] theorem loadsOut_hartScan : loadsOut (getHart (hartScan hw h line) h) = loadsOut (getHart hw h) := by
  obtain ⟨_, _, e⟩ := getHart_hartScan (hw := hw) h line
  rw [e]
  rfl

@[simp] theorem hartLoads_hartScan : hartLoads (getHart (hartScan hw h line) h) = hartLoads (getHart hw h) := by
  obtain ⟨_, _, e⟩ := getHart_hartScan (hw := hw) h line
  rw [e]
  rfl

@[simp] theorem ioLoad_hartScan : (getHart (hartScan hw h line) h).ioLoad = (getHart hw h).ioLoad := by
  obtain ⟨_, _, e⟩ := getHart_hartScan (hw := hw) h line
  rw [e]

@[simp] theorem sb_hartScan : (getHart (hartScan hw h line) h).sb = (getHart hw h).sb := by
  obtain ⟨_, _, e⟩ := getHart_hartScan (hw := hw) h line
  rw [e]

theorem sbHolds_hartScan (l : Nat) : sbHolds (getHart (hartScan hw h line) h) l = sbHolds (getHart hw h) l := by
  simp only [sbHolds, sb_hartScan]

theorem sbMarked_hartScan : sbMarked (getHart (hartScan hw h line) h) = sbMarked (getHart hw h) := by
  simp only [sbMarked, sb_hartScan]

@[simp] theorem hartRuns_fetchScan : hartRuns (getHart (fetchScan hw h line) h) = hartRuns (getHart hw h) := by
  obtain ⟨_, e⟩ := getHart_fetchScan (hw := hw) h line
  rw [e]
  rfl

end

/-! #### Answers that are no exception (R360) -/

section
variable {h : HartId} {w : Hw}

theorem trapped_value (v : Word) : trapped h (w, .value v) = (w, .value v) := rfl
theorem trapped_done : trapped h (w, .done) = (w, .done) := rfl

end

/-! #### Loads, stores and AMOs within a line (R355, R358, R384) -/

section
variable {h : HartId} {a size : Nat} {hw : Hw} {sec : Sec}

theorem hartRuns_iff {t : Hart} : hartRuns t = true ↔ t.stopped = false ∧ t.off = false ∧ t.bar = none := by
  simp [hartRuns, and_assoc]

theorem paTooBig_of_lt (h52 : a < 2 ^ 52) : paTooBig a = false := decide_eq_false (Nat.not_le.mpr h52)

theorem linesOf_one (hone : a / 64 = (a + size - 1) / 64) : linesOf a size = [a / 64] := if_pos hone

/-- A load whose bytes the hart holds or has buffered reads them, and its line stands in L1D (R355, R356, R358). -/
theorem memLoad_hit {bs : List Byte} (hone : a / 64 = (a + size - 1) / 64)
    (hstart : loadStart (getHart (hartScan hw h (a / 64)) h) a size = ⟨a, size, bs.map some, false⟩)
    (hmiss : (getHart (hartScan hw h (a / 64)) h).miss.contains (a / 64, .zero) = false) :
    memLoad h a size hw =
      (if (hartLine (getHart (hartScan hw h (a / 64)) h) (a / 64)).isSome then
        setHart (hartScan hw h (a / 64)) h (dcacheUse (getHart (hartScan hw h (a / 64)) h) (a / 64))
       else hartScan hw h (a / 64), .value (word (leNat bs))) := by
  have hfull : loadFull ⟨a, size, bs.map some, false⟩ = true := by simp [loadFull]
  have hans : loadAnswer [⟨a, size, bs.map some, false⟩] = .value (word (leNat bs)) := by
    simp [loadAnswer, loadValue]
  unfold memLoad
  rw [linesOf_one hone]
  simp only [List.foldl_cons, List.foldl_nil, List.any_cons, List.any_nil, Bool.or_false, hmiss, Bool.false_eq_true, if_false,
    hstart, hfull, if_true, hans]
  by_cases hl : (hartLine (getHart (hartScan hw h (a / 64)) h) (a / 64)).isSome = true <;> simp [hl]

theorem hostLoad_eq_memLoad (hrun : hartRuns (getHart hw h) = true) (hio : (getHart hw h).ioLoad = none)
    (hsize : scalarSize size = true) (h52 : a < 2 ^ 52) (hc : cacheableAt a size = true) :
    hostLoad h a size hw sec = memLoad h a size hw := by
  obtain ⟨hstop, hoff, hbar⟩ := hartRuns_iff.mp hrun
  unfold hostLoad
  simp [hstop, hoff, hbar, hio, hsize, hc, paTooBig_of_lt h52]

theorem hartOwns_sbEnter (t : Hart) (line l off : Nat) (bs : List Byte) : hartOwns (sbEnter t line off bs) l = hartOwns t l := by
  unfold sbEnter
  dsimp only
  split
  · split <;> rfl
  · rfl

/-- A store to a line that the hart owns enters the buffer and asks for nothing (R358). -/
theorem hostStore_owned {v : Word} (hrun : hartRuns (getHart hw h) = true) (hl : hartLoads (getHart hw h) = false)
    (hsize : scalarSize size = true) (h52 : a < 2 ^ 52) (hc : cacheableAt a size = true) (hin : a % 64 + size ≤ 64)
    (hown : (hartOwns (getHart hw h) (a / 64)).isSome = true)
    (hroom : (sbStores (sbEnter (getHart hw h) (a / 64) (a % 64) (leBytes size v.toNat))).length ≤ 32) :
    hostStore h a size v hw = (setHart hw h (sbEnter (getHart hw h) (a / 64) (a % 64) (leBytes size v.toNat)), .done) := by
  have hk : min size (64 - a % 64) = size := by omega
  have htake : (leBytes size v.toNat).take size = leBytes size v.toNat := List.take_of_length_le (length_leBytes ..).le
  have hpos : 0 < size := by
    rcases Nat.eq_zero_or_pos size with rfl | hp
    · cases hsize
    · exact hp
  have hone : a / 64 = (a + size - 1) / 64 := by omega
  have hroom' : ¬32 < (sbStores (sbEnter (getHart hw h) (a / 64) (a % 64) (leBytes size v.toNat))).length := by omega
  unfold hostStore
  simp [hrun, hl, hsize, paTooBig_of_lt h52, hc, hk, htake, hroom', linesOf_one hone, askToWrite, hartOwns_sbEnter, hown, did]

/-- A buffered store to a line the hart holds writable is written into it (R358). -/
theorem sbCache_owned {i : Nat} {e : SbEnt} {l : HLine}
    (hown : hartOwns (getHart (hartScan hw h (e.addr / 64)) h) (e.addr / 64) = some l) : sbCache h i e hw =
    (sbDone (setHart (hartScan hw h (e.addr / 64)) h (dcacheUse (setLine (getHart (hartScan hw h (e.addr / 64)) h) (e.addr / 64)
      (some ⟨.m, mergeBytes e.mask 0 l.data e.data, l.poison && e.mask != fullMask⟩)) (e.addr / 64))) h i, .done) := by
  unfold sbCache
  dsimp only
  rw [hown]
  rfl

theorem sbComplete_cacheable {i : Nat} {e : SbEnt} (hplace : sbPlace (getHart hw h).sb i false = some (e, false))
    (hkind : e.kind = .cacheable)
    (hfirst : ((sbStores (getHart hw h)).take i).any (fun x => x.kind == .cacheable && x.addr == e.addr) = false) :
    sbComplete h i hw sec = ((sbCache h i e hw).1, sec, (sbCache h i e hw).2) := by
  unfold sbComplete
  dsimp only
  rw [hplace]
  simp [hkind, hfirst]

/-! An atomic access of a running hart that nothing before it holds. -/

section
variable {v : Word} {t : Hart} {l : HLine} (ht : getHart (hartScan hw h (a / 64)) h = t) (hrun : hartRuns t = true)
  (hl : loadsOut t = false) (hsize : size = 4 ∨ size = 8) (halign : a % size = 0) (h52 : a < 2 ^ 52)
  (hc : cacheableAt a size = true) (hsb : sbHolds t (a / 64) = false) (hmark : sbMarked t = false)
include ht hrun hl hsize halign h52 hc hsb hmark

theorem hostAmo_sc_held (hown : hartOwns t (a / 64) = some l) (hresv : t.resv = some (a, size)) :
    hostAmo h a size .sc v hw = (setHart (hartScan hw h (a / 64)) h { dcacheUse (setLine t (a / 64)
      (some { l with st := .m, data := splice l.data (a % 64) (leBytes size v.toNat) })) (a / 64) with resv := none }, .value 0) := by
  have hsize' : ¬(¬size = 4 ∧ ¬size = 8) := by omega
  unfold hostAmo
  simp [ht, hrun, hl, hsize', halign, paTooBig_of_lt h52, hc, hsb, hmark, hown, hresv]

theorem hostAmo_sc_lost (hresv : t.resv ≠ some (a, size)) :
    hostAmo h a size .sc v hw = (setHart (hartScan hw h (a / 64)) h { t with resv := none }, .value 1) := by
  have hsize' : ¬(¬size = 4 ∧ ¬size = 8) := by omega
  unfold hostAmo
  cases hown : hartOwns t (a / 64) <;>
    simp [ht, hrun, hl, hsize', halign, paTooBig_of_lt h52, hc, hsb, hmark, hown, hresv]

theorem hostAmo_lr (hown : hartOwns t (a / 64) = some l) (hgood : l.poison = false) :
    hostAmo h a size .lr v hw = (setHart (hartScan hw h (a / 64)) h { dcacheUse t (a / 64) with resv := some (a, size) },
      .value (word (leNat (slice l.data (a % 64) size)))) := by
  have hsize' : ¬(¬size = 4 ∧ ¬size = 8) := by omega
  unfold hostAmo
  simp [ht, hrun, hl, hsize', halign, paTooBig_of_lt h52, hc, hsb, hmark, hown, hgood]

theorem hostAmo_amo {fn : AtomFn} (hfn : fn ≠ .cas) (hown : hartOwns t (a / 64) = some l) (hgood : l.poison = false) :
    hostAmo h a size (.amo fn) v hw = (setHart (hartScan hw h (a / 64)) h (dcacheUse (setLine t (a / 64)
      (some { l with st := .m, data := amoBytes fn size (a % 64) l.data v })) (a / 64)),
      .value (word (leNat (slice l.data (a % 64) size)))) := by
  have hsize' : ¬(¬size = 4 ∧ ¬size = 8) := by omega
  unfold hostAmo
  simp [ht, hrun, hl, hfn, hsize', halign, paTooBig_of_lt h52, hc, hsb, hmark, hown, hgood]

end
end

/-! #### The rows of accesses -/

section
variable {s : State} {h : HartId} {a size : Nat}

theorem exec_hostLoad : exec (.hostLoad h a size) s = execHostLoad h a size s := rfl
theorem exec_sbEntryComplete (i : Fin 32) : exec (.sbEntryComplete h i) s = execSbEntryComplete h i s := rfl

/-- A row of a hart whose answer is no exception has the effect of its function. -/
theorem effect_trapped {i : Instr} {f : Hw → Hw × Answer} {hw : Hw} {v : Word} (hi : exec i s = onHw s (fun w => trapped h (f w)))
    (hon : s.on) (hf : f s.now = (hw, .value v)) : Effect i s hw (.value v) :=
  effect_onHw hi hon ((congrArg (trapped h) hf).trans (trapped_value v))

theorem effect_trapped_done {i : Instr} {f : Hw → Hw × Answer} {hw : Hw} (hi : exec i s = onHw s (fun w => trapped h (f w)))
    (hon : s.on) (hf : f s.now = (hw, .done)) : Effect i s hw .done :=
  effect_onHw hi hon ((congrArg (trapped h) hf).trans trapped_done)

end

/-- Settles O19: a load that hits, a store and a buffered store to an owned line, an AMO of an owned line. -/
theorem hartAccessesComplete : Obligations.HartAccessesComplete := by
  intro h a size v s hon hw t hrun hio
  have hrun' : hartRuns (getHart s.now h) = true := hartRuns_hartScan ▸ hrun
  have hio' : (getHart s.now h).ioLoad = none := ioLoad_hartScan ▸ hio
  refine ⟨fun bs hsize h52 hc hone hstart hmiss => ?load, fun hl hsize h52 hc hin hown hroom => ?store,
    fun i e l hline hplace hkind hfirst hown => ?buffered,
    fun fn l hfn hsize halign h52 hc hl hsb hmark hown hgood => ?amo⟩
  case load =>
    have hload : hostLoad h a size s.now s.sec = _ :=
      (hostLoad_eq_memLoad hrun' hio' hsize h52 hc).trans (memLoad_hit hone hstart hmiss)
    refine effect_onAll exec_hostLoad hon ?_
    dsimp only
    rw [hload, trapped_value]
  case store =>
    exact effect_trapped_done (f := hostStore h a size v) rfl hon (hostStore_owned hrun' hl hsize h52 hc hin hown hroom)
  case buffered =>
    have hown' : hartOwns (getHart (hartScan s.now h (e.addr / 64)) h) (e.addr / 64) = some l := by
      rw [hline] at hown ⊢
      exact hown
    refine effect_onAll (f := sbComplete h i) (exec_sbEntryComplete i) hon ?_
    rw [sbComplete_cacheable hplace hkind hfirst, sbCache_owned hown', hline]
  case amo =>
    exact effect_trapped (f := hostAmo h a size (.amo fn) v) rfl hon
      (hostAmo_amo rfl hrun hl hsize halign h52 hc hsb hmark hfn hown hgood)

/-- Settles O20: with the reservation and the line the access succeeds, without the reservation it fails. -/
theorem storeConditional : Obligations.StoreConditional := by
  intro h a size v s hon hw t hrun hl hsize halign h52 hc hsb hmark
  refine ⟨fun l hown hresv => ?held, fun hresv => ?lost, fun l hown hgood => ?taken⟩
  case held =>
    exact effect_trapped (f := hostAmo h a size .sc v) rfl hon
      (hostAmo_sc_held rfl hrun hl hsize halign h52 hc hsb hmark hown hresv)
  case lost =>
    exact effect_trapped (f := hostAmo h a size .sc v) rfl hon
      (hostAmo_sc_lost rfl hrun hl hsize halign h52 hc hsb hmark hresv)
  case taken =>
    exact effect_trapped (f := hostAmo h a size .lr v) rfl hon
      (hostAmo_lr rfl hrun hl hsize halign h52 hc hsb hmark hown hgood)

/-! #### Fences, Xtlvq, handlers and stops (R360–R369) -/

section
variable {h : HartId} {hw : Hw}

theorem hostFence_runs (k : FenceKind) (hrun : hartRuns (getHart hw h) = true) : hostFence h k hw =
    barrier h .fence (setHart hw h { getHart hw h with
      orderNext := (getHart hw h).orderNext || fenceOrders k
      icache := if k = .fenceI then [] else (getHart hw h).icache }) :=
  if_neg (by simp [hrun])

/-- A doorbell to a register window (R368). -/
theorem tlvDbRow_register {a : Nat} (v : Word) {g : Blk} {b : Nat} (hrun : hartRuns (getHart hw h) = true)
    (hl : hartLoads (getHart hw h) = false) (h8 : a % 8 = 0) (h52 : a < 2 ^ 52) (hloc : locate a = .reg g b) :
    tlvDbRow h a v hw = ((barrier h (.tlvDb a v) hw).1, .done) := by
  unfold tlvDbRow
  simp [hrun, hl, h8, paTooBig_of_lt h52, hloc]

theorem tlvRelRow_core (hrun : hartRuns (getHart hw h) = true) (hl : hartLoads (getHart hw h) = false) : tlvRelRow h .core hw =
    (setHart hw h { getHart hw h with
      orderNext := true
      sb := if sbStores (getHart hw h) = [] then [] else (getHart hw h).sb ++ [⟨.orderMark, 0, 0, 0, [], none, false⟩] }, .done) := by
  unfold tlvRelRow
  simp [hrun, hl, did]

theorem tlvAcqRow_core (hrun : hartRuns (getHart hw h) = true) (hl : hartLoads (getHart hw h) = false) :
    tlvAcqRow h .core hw = (hw, .done) := by
  unfold tlvAcqRow
  simp [hrun, hl, did]

theorem tlvRelRow_drain {sc : Scope} (hrun : hartRuns (getHart hw h) = true) (hsc : sc ≠ .core) :
    tlvRelRow h sc hw = barrier h .tlvRel (setHart hw h { getHart hw h with orderNext := true }) := by
  unfold tlvRelRow
  simp [hrun, hsc]

theorem tlvAcqRow_drain {sc : Scope} (hrun : hartRuns (getHart hw h) = true) (hsc : sc ≠ .core) :
    tlvAcqRow h sc hw = barrier h .tlvAcq hw := by
  unfold tlvAcqRow
  simp [hrun, hsc]

/-- An offer of a line to a hart (R369, R391). -/
theorem tlvStashRow_offer {a : Nat} {rs2 : Word} (hrun : hartRuns (getHart hw h) = true) (h52 : a < 2 ^ 52)
    (htier : inTier a = true) (hcut : hartCut (hartScan hw h (a / 64)) h (a / 64) = false) (hkind : bits rs2 13 12 = 2)
    (htgt : bits rs2 6 0 < 72) : tlvStashRow h a rs2 hw =
    (offerTo (hartScan hw h (a / 64)) (a / 64) (.hart (Fin.ofNat 72 (bits rs2 6 0))), .done) := by
  unfold tlvStashRow
  simp [hrun, paTooBig_of_lt h52, htier, hcut, hkind, htgt, did]

theorem handlerRow_pending (hrun : hartRuns (getHart hw h) = true) (hp : hartPending hw h = true) :
    handlerRow h hw = barrier h .handler hw :=
  if_neg (by simp [hrun, hp])

theorem hartStopRow_runs (pd : Bool) (hrun : hartRuns (getHart hw h) = true) : hartStopRow h pd hw = barrier h (.stop pd) hw := by
  obtain ⟨hstop, hoff, hbar⟩ := hartRuns_iff.mp hrun
  unfold hartStopRow
  simp [hstop, hoff, hbar]

end

/-- A row whose function gives a pair has the effect of its parts. -/
theorem effect_of_pair {i : Instr} {s : State} {f : Hw → Hw × Answer} {r : Hw × Answer} (hi : exec i s = onHw s f) (hon : s.on)
    (hf : f s.now = r) : Effect i s r.1 r.2 :=
  effect_onHw hi hon hf

/-- Settles O21: each row of a running hart begins. -/
theorem hartBarriersComplete : Obligations.HartBarriersComplete := by
  intro h s hon hw t hrun
  refine ⟨fun k => ?fence, fun a v g b hl h8 h52 hloc => ?doorbell, fun hl => ⟨?relCore, ?acqCore⟩,
    fun sc hsc => ⟨?rel, ?acq⟩, fun a rs2 h52 htier hcut hkind htgt => ?stash, fun hp => ?handler, fun pd hstop => ?stop⟩
  case fence => exact effect_of_pair (f := hostFence h k) rfl hon (hostFence_runs k hrun)
  case doorbell =>
    exact effect_trapped_done (f := tlvDbRow h a v) rfl hon (tlvDbRow_register v hrun hl h8 h52 hloc)
  case relCore => exact effect_onHw (f := tlvRelRow h .core) rfl hon (tlvRelRow_core hrun hl)
  case acqCore => exact effect_onHw (f := tlvAcqRow h .core) rfl hon (tlvAcqRow_core hrun hl)
  case rel => exact effect_of_pair (f := tlvRelRow h sc) rfl hon (tlvRelRow_drain hrun hsc)
  case acq => exact effect_of_pair (f := tlvAcqRow h sc) rfl hon (tlvAcqRow_drain hrun hsc)
  case stash =>
    exact effect_onHw (f := tlvStashRow h a rs2) rfl hon (tlvStashRow_offer hrun h52 htier hcut hkind htgt)
  case handler => exact effect_of_pair (f := handlerRow h) rfl hon (handlerRow_pending hrun hp)
  case stop => exact effect_of_pair (f := hartStopRow h pd) rfl hon (hartStopRow_runs pd hrun)

/-! #### Cache-block operations and prefetches (R357) -/

section
variable {h : HartId} {a : Nat} {hw : Hw}

/-- A cache-block operation of a running hart comes to its line. -/
theorem cboAt_line (f : Nat → Hart → Hw → Hw × Answer) {t : Hart} (ht : getHart (hartScan hw h (a / 64)) h = t)
    (hrun : hartRuns t = true) (hl : hartLoads t = false) (hsb : sbHolds t (a / 64) = false) (h52 : a < 2 ^ 52)
    (htier : inTier a = true) (hwb : (wbufLine t (a / 64)).isNone = true) :
    cboAt h a f hw = f (a / 64) t (hartScan hw h (a / 64)) := by
  unfold cboAt
  simp [ht, hrun, hl, hsb, paTooBig_of_lt h52, htier, Option.isNone_iff_eq_none.mp hwb]

theorem cleanLine_dirty {line : Nat} {t : Hart} {l : HLine} (hline : hartLine t line = some l) (hm : l.st = .m)
    (hbusy : (getHome hw line).busy = none) (hq : (getHome hw line).queue = []) : cleanLine h line t hw =
    (dirtyIn (setHart hw h (setLine t line (some { l with st := .e }))) line l.data l.poison, .done) := by
  unfold cleanLine
  simp [hline, hm, hbusy, hq, did]

theorem flushLine_dirty {line : Nat} {t : Hart} {l : HLine} (hline : hartLine t line = some l) (hm : l.st = .m) :
    flushLine h line t hw = (arriveWrBack (hartDrop hw h line l) line (.hart h) l.data l.poison, .done) := by
  unfold flushLine
  simp [hline, hm, did]

theorem zeroLine_owned (hrun : hartRuns (getHart hw h) = true) (hl : hartLoads (getHart hw h) = false)
    (hsb : sbHolds (getHart hw h) (a / 64) = false) (hmark : sbMarked (getHart hw h) = false) (h52 : a < 2 ^ 52)
    (htier : inTier a = true) (hown : (hartOwns (getHart hw h) (a / 64)).isSome = true) : zeroLine h a hw =
    (setHart hw h (dcacheUse (setLine (getHart hw h) (a / 64) (some ⟨.m, List.replicate 64 0, false⟩)) (a / 64)), .done) := by
  obtain ⟨l, hl'⟩ := Option.isSome_iff_exists.mp hown
  unfold zeroLine
  simp [hrun, hl, hsb, hmark, paTooBig_of_lt h52, htier, hl', did]

/-- A prefetch of a line that the hart lacks asks its home for it. -/
theorem prefetchLine_asks (unique instr : Bool) {w : Hw} (hw' : (if instr then fetchScan hw h (a / 64) else hw) = w)
    (hrun : hartRuns (getHart w h) = true) (h52 : a < 2 ^ 52) (htier : inTier a = true)
    (hcut : hartCut w h (a / 64) = false) (hline : hartLine (getHart w h) (a / 64) = none) :
    prefetchLine h a unique instr hw = (hartAsk w h (a / 64) unique (.prefetch instr), .done) := by
  unfold prefetchLine
  simp [hw', hrun, paTooBig_of_lt h52, htier, hcut, hline, did]

end

/-- Settles O22: a dirty copy, an owned line, a line the hart lacks. That cbo.clean leaves the line owned and clean is the
model's (log 38, DEDUCED). -/
theorem cacheBlocksComplete : Obligations.CacheBlocksComplete := by
  intro h a s hon line hw t hrun hl hsb hmark h52 htier
  have hrun' : hartRuns (getHart s.now h) = true := hartRuns_hartScan ▸ hrun
  have hl' : hartLoads (getHart s.now h) = false := hartLoads_hartScan ▸ hl
  have hsb' : sbHolds (getHart s.now h) line = false := sbHolds_hartScan line ▸ hsb
  have hmark' : sbMarked (getHart s.now h) = false := sbMarked_hartScan ▸ hmark
  refine ⟨fun l hline hm hwb hbusy hq => ⟨?clean, ?flush, ?inval⟩, ⟨fun hown => ?zero, fun hcut hline => ⟨?read, ?write⟩⟩,
    fun hcut hline => ?fetch⟩
  case clean =>
    exact effect_trapped_done (f := cboAt h a (cleanLine h)) rfl hon
      ((cboAt_line _ rfl hrun hl hsb h52 htier hwb).trans (cleanLine_dirty hline hm hbusy hq))
  case flush =>
    exact effect_trapped_done (i := .cboFlush h a) (f := cboAt h a (flushLine h)) rfl hon
      ((cboAt_line _ rfl hrun hl hsb h52 htier hwb).trans (flushLine_dirty hline hm))
  case inval =>
    exact effect_trapped_done (i := .cboInval h a) (f := cboAt h a (flushLine h)) rfl hon
      ((cboAt_line _ rfl hrun hl hsb h52 htier hwb).trans (flushLine_dirty hline hm))
  case zero =>
    exact effect_trapped_done (f := zeroLine h a) rfl hon (zeroLine_owned hrun' hl' hsb' hmark' h52 htier hown)
  case read =>
    exact effect_onHw (f := prefetchLine h a false false) rfl hon (prefetchLine_asks false false rfl hrun' h52 htier hcut hline)
  case write =>
    exact effect_onHw (f := prefetchLine h a true false) rfl hon (prefetchLine_asks true false rfl hrun' h52 htier hcut hline)
  case fetch =>
    exact effect_onHw (f := prefetchLine h a false true) rfl hon
      (prefetchLine_asks false true rfl (hartRuns_fetchScan.trans hrun') h52 htier hcut hline)

end Sys2Proof.Machine
end

section
/-! PROOF. The coherence protocol takes effect (R372–R397, R449): requests, messages under way, CXL agents. -/

namespace Sys2Proof.Machine

/-! #### Requests at their home (R376–R385) -/

section
variable {hw : Hw}

theorem arriveGuarded_live {ok : Hw → Bool} {req : HReq} (htier : inTier (64 * req.line) = true)
    (hlive : (agentDead hw req.agent || fencedHome hw req.agent (64 * req.line)) = false) (hok : ok hw = true) :
    arriveGuarded ok req hw = (homeArrive hw req, .done) := by
  unfold arriveGuarded
  simp [htier, hlive, hok, did]

end

section
variable {s : State} {ag : Agent} {line : Nat}

theorem exec_rdShared : exec (.rdShared line ag) s = execRdShared line ag s := rfl
theorem exec_rdUnique : exec (.rdUnique line ag) s = execRdUnique line ag s := rfl
theorem exec_homeAccept : exec (.homeAccept line) s = execHomeAccept line s := rfl

/-- A row that sends a live agent's request to its home. -/
theorem effect_arrives {i : Instr} {ok : Hw → Bool} {req : HReq} (hi : exec i s = onHw s (arriveGuarded ok req)) (hon : s.on)
    (htier : inTier (64 * req.line) = true)
    (hlive : (agentDead s.now req.agent || fencedHome s.now req.agent (64 * req.line)) = false) (hok : ok s.now = true) :
    Effect i s (homeArrive s.now req) .done :=
  effect_onHw hi hon (arriveGuarded_live htier hlive hok)

/-- An agent outside the harts that keeps copies reads a line (R380). -/
theorem rdShared_external (hon : s.on) (hcaches : isCaching ag = true) (hno : ∀ h, ag ≠ .hart h)
    (htier : inTier (64 * line) = true) (hlive : (agentDead s.now ag || fencedHome s.now ag (64 * line)) = false) :
    Effect (.rdShared line ag) s (homeArrive s.now (mkReq .rdShared ag line)) .done := by
  refine effect_onHw exec_rdShared hon ?_
  cases ag
  case hart h => exact absurd rfl (hno h)
  all_goals
    dsimp only
    rw [arriveGuarded_live htier hlive (by simp [hcaches])]
    simp

theorem rdUnique_external (hon : s.on) (hcaches : isCaching ag = true) (hno : ∀ h, ag ≠ .hart h)
    (htier : inTier (64 * line) = true) (hlive : (agentDead s.now ag || fencedHome s.now ag (64 * line)) = false) :
    Effect (.rdUnique line ag) s (homeArrive s.now (mkReq .rdUnique ag line)) .done := by
  refine effect_onHw exec_rdUnique hon ?_
  cases ag
  case hart h => exact absurd rfl (hno h)
  all_goals
    dsimp only
    rw [arriveGuarded_live htier hlive (by simp [hcaches])]
    simp

/-- The home accepts the oldest request that can go (R381, R382). -/
theorem homeAccept_oldest (hon : s.on) {req : HReq} (hidle : (getHome s.now line).busy = none)
    (hnext : nextReq s.now line = some req) (hmay : mayAccept s.now line = true) (hlive : agentDead s.now req.agent = false)
    (hroom : needsEntry s.now req = false ∨ filtFull s.now line = false) :
    Effect (.homeAccept line) s (acceptReq (leaveQueue s.now req) req) .done := by
  have hentry : (needsEntry s.now req && filtFull s.now line) = false := Bool.and_eq_false_iff.mpr hroom
  refine effect_onHw exec_homeAccept hon ?_
  simp [hidle, hnext, hmay, hlive, hentry, did]

end

/-- Settles O23: a live agent's requests pass the guard, and the home's oldest one is accepted. -/
theorem coherenceRequestsComplete : Obligations.CoherenceRequestsComplete := by
  intro line ag s hon hw htier
  refine ⟨fun hlive => ⟨fun a hag => ?caches, fun watch => ?once, fun mask data hint htgt hthrough hdata => ⟨?full, ?part⟩,
    fun op data hop => ?atomic⟩, fun req hidle hnext hmay hlive hroom => homeAccept_oldest hon hidle hnext hmay hlive hroom⟩
  case caches =>
    have hcaches : isCaching ag = true := by rcases hag with rfl | rfl <;> rfl
    have hno : ∀ h, ag ≠ .hart h := by rcases hag with rfl | rfl <;> simp
    exact ⟨rdShared_external hon hcaches hno htier hlive, rdUnique_external hon hcaches hno htier hlive⟩
  case once => exact effect_arrives rfl hon htier hlive rfl
  case full => exact effect_arrives (i := .wrFull line ag data hint htgt) rfl hon htier hlive (by simp [hthrough, hdata])
  case part => exact effect_arrives (i := .wrPartial line ag mask data hint htgt) rfl hon htier hlive (by simp [hthrough, hdata])
  case atomic => exact effect_arrives (i := .atomic line ag op data) rfl hon htier hlive hop

/-! #### Messages under way (R378, R383–R388, R391–R395) -/

section
variable {hw : Hw} {line : Nat} {ag : Agent}

/-- A message that is taken from the mesh was not held at its source, and is of the kind asked for. -/
theorem snoopArrives_hart {h : HartId} {inv : Bool} {m : Msg} {rest : List Msg}
    (hm : takeNet hw line (.hart h) (fun k => k == if inv then .snpInv else .snpShared) = some (m, rest)) :
    snoopArrives line (.hart h) inv hw = (hartSnooped (setNet hw rest) h line inv, .done) := by
  unfold snoopArrives
  simp [hm, did]

theorem plainResponse_awaited {k : MsgKind} {m : Msg} {rest : List Msg}
    (hm : takeNet hw line ag (fun x => x == k) = some (m, rest)) (haw : awaits hw line ag = true) :
    plainResponse line ag k hw =
      (if k = .rspI then respondedI (setNet hw rest) line ag else responded (setNet hw rest) line ag, .done) := by
  unfold plainResponse
  simp [hm, haw, did]

theorem takeHeld_of_held_none {t : Txn} (hbusy : (getHome hw line).busy = some t) (hheld : t.held = none) :
    takeHeld hw line ag = none := by
  unfold takeHeld
  simp [hbusy, hheld]

/-- A hart that is off, holds the line or has eight offers declines one (R391). -/
theorem offerRow_declined {h : HartId} {m : Msg} {rest : List Msg}
    (hm : takeNet hw line (.hart h) (fun k => k == .stashOffer) = some (m, rest))
    (hno : ((getHart hw h).off || (hartLine (getHart hw h) line).isSome || decide ((getHart hw h).offers.length ≥ 8)) = true) :
    offerRow line (.hart h) hw = (setNet hw rest, .done) := by
  unfold offerRow
  simp only [hm, getHart_setNet, did]
  exact if_pos hno

theorem offerRow_taken {h : HartId} {m : Msg} {rest : List Msg}
    (hm : takeNet hw line (.hart h) (fun k => k == .stashOffer) = some (m, rest))
    (hyes : ((getHart hw h).off || (hartLine (getHart hw h) line).isSome || decide ((getHart hw h).offers.length ≥ 8)) = false)
    (hcut : hartCut (setNet hw rest) h line = false) (hwb : (wbufLine (getHart hw h) line).isNone = true) :
    offerRow line (.hart h) hw = (hartRequest (setHart (setNet hw rest) h
      { getHart hw h with offers := (getHart hw h).offers ++ [line] }) h line false .stash, .done) := by
  have hwb' : wbufLine (getHart hw h) line = none := Option.isNone_iff_eq_none.mp hwb
  unfold offerRow
  simp only [hm, getHart_setNet, hcut, hwb', Option.isSome_none, Bool.false_eq_true, if_false, did]
  exact if_neg (Bool.eq_false_iff.mp hyes)

theorem offerRow_absentCore {c : CoreId} {m : Msg} {rest : List Msg}
    (hm : takeNet hw line (.engine c) (fun k => k == .stashOffer) = some (m, rest))
    (hno : (corePresent (setNet hw rest) c && groupState (setNet hw rest) (c / 8) == 0) = false) :
    offerRow line (.engine c) hw = (setNet hw rest, .done) := by
  unfold offerRow
  simp only [hm, hno, Bool.false_eq_true, if_false, did]

/-- A core's fetcher notes a line that it neither fetches nor holds (R391). -/
theorem offerRow_core {c : CoreId} {m : Msg} {rest : List Msg}
    (hm : takeNet hw line (.engine c) (fun k => k == .stashOffer) = some (m, rest))
    (hyes : (corePresent (setNet hw rest) c && groupState (setNet hw rest) (c / 8) == 0) = true)
    (hnew : ((getCore hw c).pf.contains (line / 2) || (getCore hw c).side.any (fun x => x.line == line / 2) ||
      (getCore hw c).l1.any (fun x => x.line == line / 2)) = false) :
    offerRow line (.engine c) hw = (modCore (setNet hw rest) c (fun t => { t with pf := t.pf ++ [line / 2] }), .done) := by
  unfold offerRow modCore
  simp only [hm, hyes, if_true, did, getCore_setNet, hnew, Bool.false_eq_true, if_false]

end

section
variable {s : State} {line : Nat} {ag : Agent} {h : HartId}

theorem exec_wrBack : exec (.wrBack line ag) s = execWrBack line ag s := rfl
theorem exec_evict : exec (.evict line ag) s = execEvict line ag s := rfl
theorem exec_rspData : exec (.rspData line ag) s = execRspData line ag s := rfl
theorem exec_rspWBInFlight : exec (.rspWBInFlight line ag) s = execRspWBInFlight line ag s := rfl
theorem exec_comp : exec (.comp line ag) s = execComp line ag s := rfl
theorem exec_compData : exec (.compData line ag) s = execCompData line ag s := rfl
theorem exec_compAck : exec (.compAck line ag) s = execCompAck line ag s := rfl
theorem exec_retentionExpire : exec (.retentionExpire line) s = execRetentionExpire line s := rfl
theorem exec_snoopTimeout : exec (.snoopTimeout line ag) s = execSnoopTimeout line ag s := rfl

/-- A hart's dirty line leaves for its home by a WrBack (R378, R386). -/
theorem wrBack_drops (hon : s.on) {l : HLine}
    (hnone : takeNet s.now line (.hart h) (fun k => match k with | .wrBack _ => true | _ => false) = none)
    (hline : hartLine (getHart (hartScan s.now h line) h) line = some l) (hm : l.st = .m)
    (hwb : (wbufLine (getHart s.now h) line).isNone = true) :
    Effect (.wrBack line (.hart h)) s
      (arriveWrBack (hartDrop (hartScan s.now h line) h line l) line (.hart h) l.data l.poison) .done := by
  refine effect_onHw exec_wrBack hon ?_
  split
  case h_1 m rest hsome => exact absurd (hnone.symm.trans hsome) (by simp)
  case h_2 => simp only [hline, hm, hwb, and_self, if_true, did]

theorem evict_clean (hon : s.on) {l : HLine} (hline : hartLine (getHart s.now h) line = some l) (he : l.st = .e) :
    Effect (.evict line (.hart h)) s (arriveEvict (setHart s.now h (hartLose (getHart s.now h) line)) line (.hart h)) .done :=
  effect_onHw exec_evict hon (by simp [hline, he, did])

theorem rspData_awaited (hon : s.on) {m : Msg} {rest : List Msg} {k : Bool} {data : List Byte}
    (hm : takeNet s.now line ag (fun k => match k with | .rspData _ _ => true | _ => false) = some (m, rest))
    (hkind : m.kind = .rspData k data) (haw : awaits s.now line ag = true) :
    Effect (.rspData line ag) s (dataResponse (setNet s.now rest) line ag data (linePoison s.now line)) .done := by
  refine effect_onHw exec_rspData hon ?_
  split
  case h_1 hnone => exact absurd (hnone.symm.trans hm) (by simp)
  case h_2 m' rest' hsome =>
    obtain ⟨rfl, rfl⟩ : m' = m ∧ rest' = rest := by simpa using hsome.symm.trans hm
    simp only [hkind, haw, if_true, did]

/-- The home notes that a WrBack of the line is under way (R387). -/
theorem rspWBInFlight_noted (hon : s.on) {m : Msg} {rest : List Msg} {b : Txn}
    (hm : takeNet s.now line ag (fun k => k == .rspWBInFlight) = some (m, rest))
    (hbusy : (getHome (setNet s.now rest) line).busy = some b) (hwaits : b.waiting.contains ag = true) (hheld : b.held = none) :
    Effect (.rspWBInFlight line ag) s (setHome (setNet s.now rest) line
      { getHome (setNet s.now rest) line with busy := some { b with inFlight := true } }) .done := by
  refine effect_onHw exec_rspWBInFlight hon ?_
  simp only [hm, hbusy, hwaits, if_true, takeHeld_of_held_none hbusy hheld, did]

theorem comp_hart (hon : s.on) {m : Msg} {rest : List Msg}
    (hm : takeNet s.now line (.hart h) (fun k => k == .comp) = some (m, rest)) :
    Effect (.comp line (.hart h)) s (barSettle (setNet s.now rest) h) .done :=
  effect_onHw exec_comp hon (by simp only [hm, did])

/-- A granted line is installed at its hart, which may end what it waits for (R381). -/
theorem compData_hart (hon : s.on) {m : Msg} {rest : List Msg} {g hd p : Bool} {data : List Byte}
    (hm : takeNet s.now line (.hart h) (fun k => match k with | .compData .. => true | _ => false) = some (m, rest))
    (hkind : m.kind = .compData (some g) hd data p) :
    Effect (.compData line (.hart h)) s
      (barSettle (trapped h (hartInstall (setNet s.now rest) h line g hd data p)).1 h)
      (trapped h (hartInstall (setNet s.now rest) h line g hd data p)).2 := by
  refine effect_onHw exec_compData hon ?_
  split
  case h_1 hnone => exact absurd (hnone.symm.trans hm) (by simp)
  case h_2 m' rest' hsome =>
    obtain ⟨rfl, rfl⟩ : m' = m ∧ rest' = rest := by simpa using hsome.symm.trans hm
    simp only [hkind]

theorem compAck_frees (hon : s.on) {m : Msg} {rest : List Msg} {b : Txn}
    (hm : takeNet s.now line ag (fun k => k == .compAck) = some (m, rest)) (hbusy : (getHome s.now line).busy = some b)
    (hack : b.ackFrom = some ag) :
    Effect (.compAck line ag) s (setHome (setNet s.now rest) line { getHome s.now line with busy := none }) .done :=
  effect_onHw exec_compAck hon (by simp only [hm, hbusy, hack, if_true, did])

theorem retentionExpire_held (hon : s.on) (hheld : (slcList s.now line).any (fun b => b.blk == line / 2 && b.retain) = true) :
    Effect (.retentionExpire line) s (setSlcList s.now (homeSlice s.now (64 * line)) ((slcList s.now line).map (fun b =>
      if b.blk == line / 2 then { b with retain := false } else b))) .done :=
  effect_onHw exec_retentionExpire hon (by simp only [hheld, if_true, did])

theorem snoopTimeout_live (hon : s.on) {a : AceloId} (haw : awaits s.now line (.cxlDev a) = true)
    (hlive : agentDead s.now (.cxlDev a) = false) :
    Effect (.snoopTimeout line (.cxlDev a)) s (declareDead (snoopExpired s.now line (.cxlDev a)) (.cxlDev a)) .done :=
  effect_onHw exec_snoopTimeout hon (by simp [haw, hlive, extBit, did])

end

/-- A value within 1 to 256 is taken on every die (R397). -/
theorem slcCtrlWrite_taken {hw : Hw} {by_ : Agent} {d : DieId} {v : Word} (ha : arrives hw by_ = true)
    (hlow : 1 ≤ bits v 8 0) (hhigh : bits v 8 0 ≤ 256) : regWriteBy by_ d (Reg.slcCtrl d) (slcCtrlWrite v) hw =
    (foldN 6 hw (fun w d => rsetN w (Reg.slcCtrl d) (bits v 8 0)), .done) := by
  rw [regWriteBy_die_of_arrives ha d.isLt]
  exact if_pos ⟨hlow, hhigh⟩

/-- Settles O24: each message is taken from the mesh and has its effect; offers split as they are declined or taken. -/
theorem coherenceMessagesComplete : Obligations.CoherenceMessagesComplete := by
  intro line h s hon hw ag t took
  refine ⟨fun l hnone hline hm hwb => wrBack_drops hon hnone hline hm hwb, fun l hline he => evict_clean hon hline he,
    fun m rest hm => ?snpShared, fun m rest hm => ?snpInv, fun m rest hm haw => ?rspI, fun m rest hm haw => ?rspS,
    fun m rest k data hm hkind haw => rspData_awaited hon hm hkind haw,
    fun m rest b hm hbusy hwaits hheld => rspWBInFlight_noted hon hm hbusy hwaits hheld,
    fun m rest hm => comp_hart hon hm, fun m rest g hd data p hm hkind => compData_hart hon hm hkind,
    fun m rest b hm hbusy hack => compAck_frees hon hm hbusy hack,
    fun m rest hm => ⟨fun hno => ?declines, fun hyes hcut hwb => ?takes⟩,
    fun c m rest hm => ⟨fun hno => ?absent, fun hyes hnew => ?core⟩,
    retentionExpire_held hon, fun a haw hlive => snoopTimeout_live hon haw hlive, fun by_ d v ha hlow hhigh => ?slcCtrl⟩
  case snpShared => exact effect_onHw (f := snoopArrives line (.hart h) false) rfl hon (snoopArrives_hart hm)
  case snpInv => exact effect_onHw (f := snoopArrives line (.hart h) true) rfl hon (snoopArrives_hart hm)
  case rspI => exact effect_onHw (f := plainResponse line (.hart h) .rspI) rfl hon (plainResponse_awaited hm haw)
  case rspS => exact effect_onHw (f := plainResponse line (.hart h) .rspS) rfl hon (plainResponse_awaited hm haw)
  case declines => exact effect_onHw (f := offerRow line (.hart h)) rfl hon (offerRow_declined hm hno)
  case takes => exact effect_onHw (f := offerRow line (.hart h)) rfl hon (offerRow_taken hm hyes hcut hwb)
  case absent => exact effect_onHw (f := offerRow line (.engine c)) rfl hon (offerRow_absentCore hm hno)
  case core => exact effect_onHw (f := offerRow line (.engine c)) rfl hon (offerRow_core hm hyes hnew)
  case slcCtrl => exact effect_onHw (f := regWriteBy by_ d (Reg.slcCtrl d) (slcCtrlWrite v)) rfl hon (slcCtrlWrite_taken ha hlow hhigh)

/-! #### CXL agents (R393, R394, R449) -/

section
variable {s : State} {a : AceloId} {line : Nat}

theorem exec_cxlMemRequest (hpa : Word) (req : CxlMemReq) : exec (.cxlMemRequest a hpa req) s = execCxlMemRequest a hpa req s := rfl
theorem exec_biconflict (data : List Byte) : exec (.biconflict a line data) s = execBiconflict a line data s := rfl
theorem exec_d2hRequest (op : D2H) : exec (.d2hRequest a line op) s = execD2hRequest a line op s := rfl

/-- A host's read at a line that a committed decoder names (R449). -/
theorem cxlMemRequest_read (hon : s.on) {hpa : Word} (hup : rbits s.now (Reg.cxuStatus a) 49 48 = 1)
    (hline : hdmLine s.now a hpa.toNat = some line) (htier : inTier (64 * line) = true)
    (hlive : (agentDead s.now (.upstream a) || fencedHome s.now (.upstream a) (64 * line)) = false) :
    Effect (.cxlMemRequest a hpa .rdShared) s (homeArrive s.now (mkReq .rdShared (.upstream a) line)) .done := by
  refine effect_onHw (exec_cxlMemRequest ..) hon ?_
  simp only [hup, hline, ne_eq, not_true_eq_false, if_false]
  exact arriveGuarded_live htier hlive rfl

/-- A host's write of data without poison, where no snoop of the port is pending (R393). -/
theorem cxlMemRequest_write (hon : s.on) {hpa : Word} (hup : rbits s.now (Reg.cxuStatus a) 49 48 = 1)
    (hline : hdmLine s.now a hpa.toNat = some line) (htier : inTier (64 * line) = true)
    (hlive : (agentDead s.now (.upstream a) || fencedHome s.now (.upstream a) (64 * line)) = false)
    (mask : BitVec 64) {data : List Byte} (hdata : data.length = 64) (haw : awaits s.now line (.upstream a) = false) :
    Effect (.cxlMemRequest a hpa (.wr mask data false)) s
      (homeArrive s.now { mkReq (if mask = fullMask then .wrFull else .wrPartial) (.upstream a) line with
        mask := mask, data := data, poison := false }) .done := by
  refine effect_onHw (exec_cxlMemRequest ..) hon ?_
  simp only [hup, hline, haw, ne_eq, not_true_eq_false, if_false, Bool.false_and, Bool.false_eq_true]
  exact arriveGuarded_live (ok := fun _ => data.length == 64) htier hlive (by simp [hdata])

/-- A host's write that crossed a snoop stands in for its response (R387, R393). -/
theorem biconflict_crosses (hon : s.on) {data : List Byte} (hdata : data.length = 64)
    (haw : awaits s.now line (.upstream a) = true) (hheld : lineHeld s.now (.upstream a) line = false)
    (hnone : takeHeld s.now line (.upstream a) = none) :
    Effect (.biconflict a line data) s (crossing (setPoison s.now line false) line (.upstream a) data) .done :=
  effect_onHw (exec_biconflict data) hon (by simp [hheld, haw, hdata, hnone, did])

/-- A device's read, where one is admitted (R394). -/
theorem d2hRequest_read (hon : s.on)
    (hkind : rbits s.now (Reg.cxdStatus a) 53 52 = 1 ∨ rbits s.now (Reg.cxdStatus a) 53 52 = 2)
    (htier : inTier (64 * line) = true)
    (hlive : (agentDead s.now (.cxlDev a) || fencedHome s.now (.cxlDev a) (64 * line)) = false) :
    Effect (.d2hRequest a line .rdShared) s (homeArrive s.now (mkReq .rdShared (.cxlDev a) line)) .done := by
  have hadmitted : ¬ (rbits s.now (Reg.cxdStatus a) 53 52 ≠ 1 ∧ rbits s.now (Reg.cxdStatus a) 53 52 ≠ 2) := by tauto
  refine effect_onHw (exec_d2hRequest ..) hon ?_
  simp only [htier, hadmitted, Bool.not_true, Bool.false_eq_true, if_false]
  exact arriveGuarded_live htier hlive rfl

end

/-- Settles O25: each agent's request passes the guard; a snoop's response and a crossing reach the blocked request. -/
theorem cxlAgentsComplete : Obligations.CxlAgentsComplete := by
  intro a line s hon hw htier
  refine ⟨fun hpa hup hline hlive => ⟨cxlMemRequest_read hon hup hline htier hlive,
      fun mask data hdata haw => cxlMemRequest_write hon hup hline htier hlive mask hdata haw⟩,
    fun haw _ => ⟨?response, fun data hdata hheld hnone => biconflict_crosses hon hdata haw hheld hnone⟩,
    fun hkind hlive => d2hRequest_read hon hkind htier hlive⟩
  case response => exact effect_of_pair (f := extResponse line (.upstream a) .rspI) rfl hon rfl

end Sys2Proof.Machine
end

section
/-! PROOF. Erotte modules and the training of optical ports (R398–R410, R416–R429) take effect; what a message of the management channel leaves. -/

namespace Sys2Proof.Machine

/-! #### Erotte modules (R398–R410) -/

section
variable {s : State} {m : ModuleId} {edge : Fin 8}

theorem exec_erotteErrorWindow (d : DieId) : exec (.erotteErrorWindow d) s = execErotteErrorWindow d s := rfl
theorem exec_routeRecomputeDone : exec (.routeRecomputeDone edge) s = execRouteRecomputeDone edge s := rfl

/-- New routes that leave each die a path, or that come outside boot step 6, are taken (R410). -/
theorem routeRecomputeDone_taken (hon : s.on) (hroute : bit s.now.ert.routing edge = true)
    (hbuilt : bit s.now.ert.rebuild edge = false) (hpath : cutOff (rerouted edge s.now) = none ∨ s.sec.step ≠ 5) :
    Effect (.routeRecomputeDone edge) s (routesDone edge s.now) .done := by
  refine effect_onAll exec_routeRecomputeDone hon ?_
  simp only [hroute, hbuilt, Bool.not_false, Bool.and_self, Bool.not_true, Bool.false_eq_true, if_false]
  cases hcut : cutOff (rerouted edge s.now) with
  | none => rfl
  | some die =>
    have hstep : s.sec.step ≠ 5 := hpath.resolve_left (by simp [hcut])
    exact if_neg fun hboth => hstep hboth.1

/-- A die left without a path halts the boot (R30, R510). -/
theorem routeRecomputeDone_halts (hon : s.on) (hroute : bit s.now.ert.routing edge = true)
    (hbuilt : bit s.now.ert.rebuild edge = false) {die : Nat} (hcut : cutOff (rerouted edge s.now) = some die)
    (hstep : s.sec.step = 5) (hhalts : s.sec.halts = []) :
    EffectSec (.routeRecomputeDone edge) s
      (halt s.now.pkg.primary (haltWord 9 6 die 0) (rerouted edge s.now, s.sec)).1
      (halt s.now.pkg.primary (haltWord 9 6 die 0) (rerouted edge s.now, s.sec)).2 .done := by
  refine effect_onAll exec_routeRecomputeDone hon ?_
  simp only [hroute, hbuilt, Bool.not_false, Bool.and_self, Bool.not_true, Bool.false_eq_true, if_false, hcut]
  exact if_pos ⟨hstep, hhalts⟩

end

/-- Settles O26: each row's guard is met; new routes split as they leave a die without a path. -/
theorem erotteCompletes : Obligations.ErotteCompletes := by
  intro m dir d edge s hon hw
  refine ⟨fun hlive => ⟨fun ok flit bad hsent => ?flit, ?idle, ?sideband⟩, ?window, fun hrep ok failA failB => ?repair,
    fun hreb => ?rebuild, fun hroute hbuilt => ⟨fun hpath => routeRecomputeDone_taken hon hroute hbuilt hpath,
      fun die hcut hstep hhalts => routeRecomputeDone_halts hon hroute hbuilt hcut hstep hhalts⟩⟩
  case flit =>
    exact effect_guardHw (i := .erotteFlitReceive m dir ok flit bad) (f := ertFlit m dir ok flit bad) rfl hon
      (Bool.and_eq_true_iff.mpr ⟨hlive, hsent⟩)
  case idle =>
    exact effect_guardHw (i := .erotteIdleTimer m dir) (f := fun w => ertSend w m (!dir) .idle 0) rfl hon hlive
  case sideband =>
    exact effect_guardHw (i := .erotteSidebandFail m) (f := fun w => ertReport (retire w m false 0) m) rfl hon
      (Bool.or_eq_true_iff.mpr (.inl hlive))
  case window =>
    exact effect_onHw (exec_erotteErrorWindow d) hon rfl
  case repair =>
    exact effect_guardHw (i := .erotteRepairDone m ok failA failB) (f := repairDone m ok failB failA) rfl hon
      (beq_iff_eq.mpr hrep)
  case rebuild =>
    exact effect_guardHw (i := .erotteListRebuildDone edge) (f := fun w => flushHeld { w with ert := { w.ert with
      rebuild := w.ert.rebuild &&& ~~~ BitVec.ofNat 8 (2 ^ edge.val) } } edge) rfl hon hreb

/-! #### A port's state, lanes and messages of the management channel -/

section
variable {hw : Hw} {p : Nat}

theorem pState_setPState {v : Nat} (hv : v < 16) : pState (setPState hw p v) p = v := by
  unfold pState setPState rbits
  rw [rfield_eq, rget_rset_self, bits_setBits_self (by omega) (by omega)]
  exact Nat.mod_eq_of_lt hv

@[simp] theorem getPort_rset (a : Nat) (v : Word) (q : Nat) : getPort (rset hw a v) q = getPort hw q := rfl

theorem optStatus_ne_optTxFlitCnt : Reg.optStatus p ≠ Reg.optTxFlitCnt p := by
  unfold Reg.optStatus Reg.optTxFlitCnt dieBlk
  omega

/-- A message's flits change a port's sequence number, replay buffer and open flit, and count. -/
theorem flitsOut_eq (n : Nat) : ∃ fresh next un fill k, flitsOut hw p n =
    radd (setPort { hw with fresh := fresh } p { getPort hw p with txNext := next, unacked := un, fill := fill })
      (Reg.optTxFlitCnt p) k := by
  by_cases hfill : (getPort hw p).fill = 0
  · unfold flitsOut
    simp only [hfill, if_true]
    exact ⟨hw.fresh, _, _, _, _, rfl⟩
  · unfold flitsOut draw
    simp only [hfill, if_false]
    exact ⟨hw.fresh + 1, _, _, _, _, rfl⟩

theorem flitsOut_sent (n : Nat) : (flitsOut hw p n).sent = hw.sent := by
  obtain ⟨fresh, next, un, fill, k, h⟩ := flitsOut_eq (hw := hw) (p := p) n
  rw [h, radd_sent, setPort_sent]

theorem flitsOut_pkg (n : Nat) : (flitsOut hw p n).pkg = hw.pkg := by
  obtain ⟨fresh, next, un, fill, k, h⟩ := flitsOut_eq (hw := hw) (p := p) n
  rw [h, radd_pkg, setPort_pkg]

theorem getPort_flitsOut (n : Nat) : ∃ next un fill,
    getPort (flitsOut hw p n) p = { getPort hw p with txNext := next, unacked := un, fill := fill } := by
  obtain ⟨fresh, next, un, fill, k, h⟩ := flitsOut_eq (hw := hw) (p := p) n
  exact ⟨next, un, fill, by rw [h, radd, getPort_rset, getPort_setPort_self]⟩

theorem pState_flitsOut (n : Nat) : pState (flitsOut hw p n) p = pState hw p := by
  obtain ⟨fresh, next, un, fill, k, h⟩ := flitsOut_eq (hw := hw) (p := p) n
  unfold pState rbits
  rw [h, radd, rget_rset_ne _ _ _ _ optStatus_ne_optTxFlitCnt, rget_setPort]
  rfl

theorem mgmtOut_sent (kind : Nat) (bs : List Byte) : (mgmtOut hw p kind bs).sent = hw.sent ++ [.mgmt p kind bs] :=
  congrArg (· ++ _) (flitsOut_sent _)

theorem mgmtOut_pkg (kind : Nat) (bs : List Byte) : (mgmtOut hw p kind bs).pkg = hw.pkg :=
  flitsOut_pkg (1 + (bs.length + 31) / 32)

theorem pState_mgmtOut (kind : Nat) (bs : List Byte) : pState (mgmtOut hw p kind bs) p = pState hw p :=
  pState_flitsOut (1 + (bs.length + 31) / 32)

theorem getPort_mgmtOut (kind : Nat) (bs : List Byte) : ∃ next un fill,
    getPort (mgmtOut hw p kind bs) p = { getPort hw p with txNext := next, unacked := un, fill := fill } :=
  getPort_flitsOut (1 + (bs.length + 31) / 32)

end

/-! #### Training (R416, R419, R426–R428) -/

/-- A module without a fault lights every lane. -/
theorem no_fault_bit {f : BitVec 4} (hf : bits f 3 0 = 0) (i : Nat) : bit f i = false := by
  have hzero : f = 0#4 := BitVec.eq_of_toNat_eq <| by
    have hlow : f.toNat % 16 = 0 := hf
    have := f.isLt
    simp only [BitVec.toNat_ofNat]
    omega
  simp [hzero, bit]

/-- A guarded row whose condition holds has the effect its function gives. -/
theorem effect_guarded {i : Instr} {s : State} {c : Hw → Bool} {f : Hw → Hw × Answer} {hw : Hw} {ans : Answer}
    (hi : exec i s = onHw s (guardHw c f)) (hon : s.on) (hc : c s.now = true) (hf : f s.now = (hw, ans)) : Effect i s hw ans :=
  effect_onHw hi hon ((guardHw_of_true f hc).trans hf)

theorem effect_guarded_exists {i : Instr} {s : State} {c : Hw → Bool} {f : Hw → Hw × Answer} {g : Hw → Hw} {ans : Answer}
    (hi : exec i s = onHw s (guardHw c f)) (hon : s.on) (hc : c s.now = true) (hf : ∃ w, f s.now = (g w, ans)) :
    ∃ w, Effect i s (g w) ans :=
  hf.imp fun _ h => effect_guarded hi hon hc h

section
variable {s : State} {p : PortId}

theorem exec_portLightDetect : exec (.portLightDetect p) s = execPortLightDetect p s := rfl
theorem exec_retrainDelay : exec (.retrainDelay p) s = execRetrainDelay p s := rfl
theorem exec_identNonce (nonce : List Byte) : exec (.identNonce p nonce) s = execIdentNonce p nonce s := rfl
theorem exec_laserModuleRemove {m : Fin 8} : exec (.laserModuleRemove m) s = execLaserModuleRemove m s := rfl
theorem exec_laserModuleInsert {m : Fin 8} (rep : LaserRep) :
    exec (.laserModuleInsert m rep) s = execLaserModuleInsert m rep s := rfl
theorem exec_lockDone (failed : BitVec 17) : exec (.lockDone p failed) s = execLockDone p failed s := rfl
theorem exec_alignDone (ok : Bool) : exec (.alignDone p ok) s = execAlignDone p ok s := rfl
theorem exec_linkDone : exec (.linkDone p) s = execLinkDone p s := rfl
theorem exec_identSignDone : exec (.identSignDone p) s = execIdentSignDone p s := rfl
theorem exec_identRecord (r : IdentRec) : exec (.identRecord p r) s = execIdentRecord p r s := rfl

/-- With light on its lanes and a width left the port locks (R427). -/
theorem lockDone_aligns (hon : s.on) {failed : BitVec 17} (hst : pState s.now p = psLock)
    (hlight : bits (getLaser s.now (p / 2)).fault 3 0 = 0)
    (hwidth : (chooseWidth (failed ||| laneFails s.now p ||| 0)).1 ≠ 0) :
    ∃ w, Effect (.lockDone p failed) s (setPState w p psAlign) .done := by
  have hwidth' : (chooseWidth (failed ||| laneFails s.now p ||| BitVec.ofNat 17 (maskOf []))).1 ≠ 0 := hwidth
  refine effect_guarded_exists (g := fun w => setPState w p psAlign) (exec_lockDone failed) hon (by simp [hst]) ?_
  simp only [no_fault_bit hlight, Bool.false_eq_true, if_false, List.append_nil, hwidth', did]
  exact ⟨_, rfl⟩

theorem alignDone_links (hon : s.on) (hst : pState s.now p = psAlign) (hwidth : (chooseWidth (laneFails s.now p)).1 ≠ 0) :
    Effect (.alignDone p true) s
      (setPState (widthEvents (setWidth s.now p (chooseWidth (laneFails s.now p))) p) p psLink) .done :=
  effect_guarded (exec_alignDone true) hon (by simp [hst]) (if_pos ⟨rfl, hwidth⟩)

theorem alignDone_fails (hon : s.on) (hst : pState s.now p = psAlign) :
    Effect (.alignDone p false) s (backToDark s.now p) .done :=
  effect_guarded (exec_alignDone false) hon (by simp [hst]) (if_neg fun hboth => Bool.false_ne_true hboth.1)

end

/-- The port takes its place in the signing order (R428). -/
def identQueued (hw : Hw) (p : Nat) : Hw :=
  { hw with pkg := { hw.pkg with identQ := hw.pkg.identQ.filter (fun x => x != p) ++ [p] } }

/-- The link's retry and the exchange of a port at their start (R428). -/
def linkStarted (t : Port) (nonce : List Byte) : Port :=
  { t with nonceOut := nonce, sent := false, recOk := false, rxNext := 0, txNext := 0, unacked := 0, replays := 0,
           rxNak := false, fill := 0, vcUsed := [], transit := [] }

/-- A port that enters IDENT with its nonce (R427, R428). -/
def identStart (hw : Hw) (p : Nat) : Hw :=
  identQueued (setPort (setPState (drawNonce hw).2 p psIdent) p (linkStarted (getPort (drawNonce hw).2 p) (drawNonce hw).1)) p

/-- It sends its nonce, and the lanes that failed training (R422, R428). -/
def identSends (hw : Hw) (p : Nat) : Hw :=
  let w := mgmtOut (identStart hw p) p 0 (drawNonce hw).1
  if laneFails hw p = 0 then w else mgmtOut w p 3 (leBytes 3 (laneFails hw p).toNat)

section
variable {hw : Hw} {p : Nat}

theorem identQueued_sent : (identQueued hw p).sent = hw.sent := rfl
theorem getPort_identQueued (q : Nat) : getPort (identQueued hw p) q = getPort hw q := rfl
theorem pState_identQueued (q : Nat) : pState (identQueued hw p) q = pState hw q := rfl
theorem pState_setPort (t : Port) (q : Nat) : pState (setPort hw p t) q = pState hw q := rfl
theorem identQ_identQueued : (identQueued hw p).pkg.identQ.getLast? = some p := by simp [identQueued]

theorem pState_identStart : pState (identStart hw p) p = psIdent := by
  rw [identStart, pState_identQueued, pState_setPort, pState_setPState (by decide)]

theorem identStart_sent : (identStart hw p).sent = hw.sent := by
  rw [identStart, identQueued_sent, setPort_sent, setPState, rfield_sent]
  rfl

theorem getPort_identStart :
    getPort (identStart hw p) p = linkStarted (getPort (drawNonce hw).2 p) (drawNonce hw).1 := by
  rw [identStart, getPort_identQueued, getPort_setPort_self]

theorem identQ_identStart : (identStart hw p).pkg.identQ.getLast? = some p := identQ_identQueued

/-- A message of the management channel leaves what the exchange is about. -/
theorem mgmtOut_keeps_exchange (kind : Nat) (bs : List Byte) :
    pState (mgmtOut hw p kind bs) p = pState hw p ∧ (getPort (mgmtOut hw p kind bs) p).sent = (getPort hw p).sent ∧
      (getPort (mgmtOut hw p kind bs) p).recOk = (getPort hw p).recOk ∧
      (getPort (mgmtOut hw p kind bs) p).nonceOut = (getPort hw p).nonceOut ∧ (mgmtOut hw p kind bs).pkg = hw.pkg := by
  obtain ⟨next, un, fill, hport⟩ := getPort_mgmtOut (hw := hw) (p := p) kind bs
  exact ⟨pState_mgmtOut kind bs, by rw [hport], by rw [hport], by rw [hport], mgmtOut_pkg kind bs⟩

theorem identSends_exchange (hw : Hw) (p : Nat) : pState (identSends hw p) p = psIdent ∧
    (getPort (identSends hw p) p).sent = false ∧ (getPort (identSends hw p) p).recOk = false ∧
    (getPort (identSends hw p) p).nonceOut = (drawNonce hw).1 ∧ (identSends hw p).pkg.identQ.getLast? = some p := by
  obtain ⟨hst1, hsent1, hrec1, hnonce1, hpkg1⟩ := mgmtOut_keeps_exchange (hw := identStart hw p) (p := p) 0 (drawNonce hw).1
  unfold identSends
  dsimp only
  split
  · rw [hst1, hsent1, hrec1, hnonce1, hpkg1, getPort_identStart]
    exact ⟨pState_identStart, rfl, rfl, rfl, identQ_identStart⟩
  · obtain ⟨hst2, hsent2, hrec2, hnonce2, hpkg2⟩ := mgmtOut_keeps_exchange (hw := mgmtOut (identStart hw p) p 0 (drawNonce hw).1)
      (p := p) 3 (leBytes 3 (laneFails hw p).toNat)
    rw [hst2, hsent2, hrec2, hnonce2, hpkg2, hst1, hsent1, hrec1, hnonce1, hpkg1, getPort_identStart]
    exact ⟨pState_identStart, rfl, rfl, rfl, identQ_identStart⟩

theorem identSends_sent (hw : Hw) (p : Nat) : (identSends hw p).sent = hw.sent ++ .mgmt p 0 (drawNonce hw).1 ::
    (if laneFails hw p = 0 then [] else [.mgmt p 3 (leBytes 3 (laneFails hw p).toNat)]) := by
  unfold identSends
  dsimp only
  split
  · rw [mgmtOut_sent, identStart_sent]
  · rw [mgmtOut_sent, mgmtOut_sent, identStart_sent, List.append_assoc]
    rfl

end

section
variable {s : State} {p : PortId}

/-- The link is up: the port enters IDENT (R427, R428). -/
theorem linkDone_ident (hon : s.on) (hst : pState s.now p = psLink) :
    Effect (.linkDone p) s (identSends s.now p) .done :=
  effect_guarded exec_linkDone hon (by simp [hst]) rfl

end

section
variable {s : State} {p : PortId}

theorem portLightDetect_locks (hon : s.on) (hst : pState s.now p = psDark) (hen : portEnabled s.now p = true)
    (hlaser : laserOk s.now p = true) (hhold : (getPort s.now p).holdoff = false) (hclk : portClock s.now p = true) :
    Effect (.portLightDetect p) s (setPState s.now p psLock) .done :=
  effect_guarded exec_portLightDetect hon (by simp [hst, hen, hlaser, hhold, hclk]) rfl

theorem retrainDelay_trains (hon : s.on) (hst : pState s.now p = psDark) (hhold : (getPort s.now p).holdoff = true)
    (hen : portEnabled s.now p = true) (hclk : portClock s.now p = true) :
    Effect (.retrainDelay p) s (trainStart s.now p) .done :=
  effect_guarded exec_retrainDelay hon (by simp [hst, hhold, hen, hclk]) rfl

theorem identNonce_taken (hon : s.on) {nonce : List Byte} (hst : pState s.now p = psIdent) (hlen : nonce.length = 32) :
    Effect (.identNonce p nonce) s (setPort s.now p { getPort s.now p with nonceIn := nonce }) .done :=
  effect_guarded (exec_identNonce nonce) hon (by simp [hst, hlen]) rfl

/-- The port first in the order sends its signed record; its partner's has still to come (R428). -/
theorem identSignDone_sends (hon : s.on) (hst : pState s.now p = psIdent) (hfirst : s.now.pkg.identQ.head? = some p.val)
    (hnonce : (getPort s.now p).nonceIn.length = 32) (hrec : (getPort s.now p).recOk = false) :
    let own := ownRecord s.now p
    let h := mgmtOut { s.now with pkg := { s.now.pkg with identQ := s.now.pkg.identQ.tail } } p 1
      (identBytes own ++ Config.slhSign s.now.idKey (signedBytes own (getPort s.now p).nonceIn))
    Effect (.identSignDone p) s (setPort h p { getPort h p with sent := true }) .done := by
  intro own h
  have hrec' : (getPort h p).recOk = false := (mgmtOut_keeps_exchange ..).2.2.1.trans hrec
  refine effect_guarded exec_identSignDone hon (by simp [hst, hfirst, hnonce]) ?_
  refine if_neg ?_
  rw [getPort_setPort_self]
  exact Bool.eq_false_iff.mp hrec'

end

/-- A partner whose record is refused: the port is ISOLATED (R429). -/
def identRefused (hw : Hw) (p : Nat) (r : IdentRec) (b : Nat) : Hw :=
  let hw1 := ror (setPState hw p psIsolated) (Reg.optErr p) (2 ^ b)
  fabEvent { hw1 with pkg := { hw1.pkg with identQ := hw1.pkg.identQ.filter (fun x => x != p) } } 5 p (r.id.toNat % 4096) 0

/-- A partner whose record is accepted is shown (R429, R445). -/
def identAccepted (hw : Hw) (p : Nat) (r : IdentRec) : Hw :=
  let hw1 := rsetN hw (Reg.optPartner p) (2 ^ 63 + r.kind.toNat % 4 * 2 ^ 61 + r.level.toNat % 8 * 2 ^ 56 +
    r.port.toNat % 256 * 2 ^ 48 + r.id.toNat % 4096 * 2 ^ 32 + r.up.toNat % 256 * 2 ^ 8 + r.down.toNat % 256)
  let hw2 := rset hw1 (Reg.optPartnerKey p) (word (leNat ((sha256 r.key).take 8)))
  setPort hw2 p { getPort hw p with key := r.key, recOk := true }

theorem identAccepted_sent {hw : Hw} {p : Nat} {r : IdentRec} : (getPort (identAccepted hw p r) p).sent = (getPort hw p).sent := by
  rw [identAccepted, getPort_setPort_self]

section
variable {s : State} {p : PortId} {r : IdentRec}

theorem identRecord_refused (hon : s.on) (hst : pState s.now p = psIdent) {b : Nat} (hcheck : identCheck s.now p r = some b) :
    Effect (.identRecord p r) s (identRefused s.now p r b) .done := by
  refine effect_guarded (exec_identRecord r) hon (by simp [hst]) ?_
  simp only [hcheck, did]
  rfl

theorem identRecord_accepted (hon : s.on) (hst : pState s.now p = psIdent) (hcheck : identCheck s.now p r = none) :
    Effect (.identRecord p r) s (if (getPort s.now p).sent then portActive (identAccepted s.now p r) p
      else identAccepted s.now p r) .done := by
  refine effect_guarded (exec_identRecord r) hon (by simp [hst]) ?_
  unfold identAccepted
  simp only [hcheck]
  rw [getPort_setPort_self, getPort_rset, rsetN, getPort_rset]
  exact (apply_ite (·, Answer.done) _ _ _).symm

end

/-- Settles O27: each stage passes and fails; a record that checks out makes the port ACTIVE once its own has gone. The
partner's key digest (log 13) and cause 4 of a removed module (log 55) are the model's, DEDUCED. -/
theorem portTrainingCompletes : Obligations.PortTrainingCompletes := by
  intro by_ p m v s hon hw st
  have hdie : 4 + p.val / 8 < 6 := by omega
  refine ⟨fun rep hm => ⟨?poll, ?interrupt⟩, fun hm => ?removed, fun rep hm => ?inserted,
    fun hst hen hl hh hclk => portLightDetect_locks hon hst hen hl hh hclk, fun failed hst hlight hwidth => ?lock,
    fun hst hwidth => alignDone_links hon hst hwidth, fun hst => alignDone_fails hon hst, fun hst => ?link,
    fun hst => ?timeout, fun hst hh hen hclk => retrainDelay_trains hon hst hh hen hclk,
    fun nonce hst hlen => identNonce_taken hon hst hlen,
    fun hst hfirst hlen hrec => identSignDone_sends hon hst hfirst hlen hrec, fun r hst => ?record,
    fun ha => ⟨?down, ?cmd⟩⟩
  case poll => exact effect_guardHw (i := .laserPoll m rep) (f := laserReport m rep) rfl hon hm
  case interrupt => exact effect_guardHw (i := .laserInterrupt m rep) (f := laserReport m rep) rfl hon hm
  case removed => exact effect_guarded exec_laserModuleRemove hon hm rfl
  case inserted => exact effect_guarded (exec_laserModuleInsert rep) hon (by simp [hw, hm]) rfl
  case lock =>
    obtain ⟨w, hw'⟩ := lockDone_aligns hon hst hlight hwidth
    exact ⟨_, hw', pState_setPState (by decide)⟩
  case link =>
    obtain ⟨hstate, hsent, hrec, hnonce, hq⟩ := identSends_exchange s.now p
    refine ⟨identSends s.now p, linkDone_ident hon hst, hstate, hsent, hrec, hq, ?_⟩
    rw [hnonce]
    exact identSends_sent s.now p
  case timeout =>
    exact effect_guardHw (i := .trainTimeout p) (f := fun w => backToDark (ror w (Reg.optErr p) 1) p) rfl hon hst
  case record =>
    cases hcheck : identCheck s.now p r with
    | some b => exact identRecord_refused hon hst hcheck
    | none => exact identRecord_accepted hon hst hcheck
  case down =>
    exact effect_of_pair (f := regWriteBy by_ (4 + p / 8) (Reg.optCtrl p) (optCtrlWrite p v)) rfl hon
      (regWriteBy_die_of_arrives ha hdie _ _)
  case cmd =>
    exact effect_of_pair (f := regWriteBy by_ (4 + p / 8) (Reg.optCmd p) (optCmdWrite p v)) rfl hon
      (regWriteBy_die_of_arrives ha hdie _ _)

end Sys2Proof.Machine
end

section
/-! PROOF. Optical ports that carry traffic, requests and responses of other packages (R420–R423, R432–R443) take effect. -/

namespace Sys2Proof.Machine

/-! #### A port that carries traffic (R420–R423, R432, R441–R443) -/

section
variable {s : State} {p : PortId} {lane : Fin 17}

theorem exec_optFlitReceive (ok : Bool) (flit : Flit) : exec (.optFlitReceive p ok flit) s = execOptFlitReceive p ok flit s := rfl
theorem exec_optIdleTimer : exec (.optIdleTimer p) s = execOptIdleTimer p s := rfl
theorem exec_noFlitTimeout : exec (.noFlitTimeout p) s = execNoFlitTimeout p s := rfl
theorem exec_fecWindow (csym : List Nat) (cw corr uncorr : Nat) :
    exec (.fecWindow p csym cw corr uncorr) s = execFecWindow p csym cw corr uncorr s := rfl
theorem exec_mgmtLaneRepair : exec (.mgmtLaneRepair p lane) s = execMgmtLaneRepair p lane s := rfl
theorem exec_fecLockLoss : exec (.fecLockLoss p) s = execFecLockLoss p s := rfl
theorem exec_laneSignalLoss : exec (.laneSignalLoss p lane) s = execLaneSignalLoss p lane s := rfl
theorem exec_optRepairDone : exec (.optRepairDone p) s = execOptRepairDone p s := rfl
theorem exec_optRepairTimeout : exec (.optRepairTimeout p) s = execOptRepairTimeout p s := rfl
theorem exec_mgmtClose : exec (.mgmtClose p) s = execMgmtClose p s := rfl
theorem exec_advertisementSend : exec (.advertisementSend p) s = execAdvertisementSend p s := rfl
theorem exec_advertisement (partners : List (BitVec 12)) :
    exec (.advertisement p partners) s = execAdvertisement p partners s := rfl
theorem exec_viaExpire (dest via : BitVec 12) : exec (.viaExpire dest via) s = execViaExpire dest via s := rfl

/-- A port with its link up that is not in REPAIR carries flits (R420). -/
theorem carries_flits (hup : psLink ≤ pState s.now p) (hrep : pState s.now p ≠ psRepair) :
    (decide (psLink ≤ pState s.now p) && pState s.now p != psRepair) = true :=
  Bool.and_eq_true_iff.mpr ⟨decide_eq_true hup, bne_iff_ne.mpr hrep⟩

/-- The flit that the receiver expects is taken and acknowledged (R421). -/
theorem optFlitReceive_expected (hon : s.on) (hup : psLink ≤ pState s.now p) (hrep : pState s.now p ≠ psRepair)
    {seq : BitVec 16} (hseq : seq.toNat = (getPort s.now p).rxNext) :
    Effect (.optFlitReceive p true (.data seq)) s
      { setPort (radd s.now (Reg.optRxFlitCnt p) 1) p
          { getPort s.now p with rxNext := ((getPort s.now p).rxNext + 1) % 65536, rxNak := false } with
        sent := [.optFlit p (.ack (BitVec.ofNat 16 ((getPort s.now p).rxNext + 1)))] } .done := by
  refine effect_guarded (exec_optFlitReceive ..) hon (carries_flits hup hrep) ?_
  exact if_pos hseq

/-- An uncorrectable flit is dropped and its replay asked for (R421). -/
theorem optFlitReceive_bad (hon : s.on) (hup : psLink ≤ pState s.now p) (hrep : pState s.now p ≠ psRepair) (flit : Flit) :
    Effect (.optFlitReceive p false flit) s
      { setPort s.now p { getPort s.now p with rxNak := true } with
        sent := [.optFlit p (.nak (BitVec.ofNat 16 (getPort s.now p).rxNext))] } .done :=
  effect_guarded (exec_optFlitReceive ..) hon (carries_flits hup hrep) rfl

/-- A window in which no lane is worn out shows its counts (R422). -/
theorem fecWindow_shows (hon : s.on) (hup : psLink ≤ pState s.now p) (csym : List Nat) (cw corr uncorr : Nat)
    (hworn : (List.range 17).filter (fun l => decide (atD 0 csym l > s.now.img.laneLimit)) = []) :
    Effect (.fecWindow p csym cw corr uncorr) s (foldN 17
      (radd (radd (radd s.now (Reg.optFecCwCnt p) cw) (Reg.optFecCorrCnt p) corr) (Reg.optFecUncorrCnt p) uncorr)
      (fun h l => rfield h (Reg.optLane p l) 31 0 (atD 0 csym l))) .done := by
  refine effect_guarded (exec_fecWindow ..) hon (decide_eq_true hup) ?_
  rw [hworn]
  rfl

/-- An advertisement forms the VIA entries that are new (R432); without transit traffic nothing else follows. -/
theorem advertisement_taken (hon : s.on) {partners : List (BitVec 12)} (hlive : pLive s.now p = true)
    (hrole : roleOf s.now p = 1) (hlen : partners.length ≤ 16) (htransit : s.now.img.transit = false) :
    Effect (.advertisement p partners) s { s.now with pkg := { s.now.pkg with
      via := s.now.pkg.via ++ (partners.map (fun d => (d.toNat, partnerId s.now p))).filter (fun e => !s.now.pkg.via.contains e) } } .done := by
  refine effect_guarded (exec_advertisement partners) hon (by simp [hlive, hrole, hlen]) ?_
  dsimp only
  split
  case isTrue hnone => rw [hnone, List.append_nil]; rfl
  case isFalse => rw [htransit]; rfl

theorem viaExpire_removed (hon : s.on) {dest via : BitVec 12} (hvia : s.now.pkg.via.contains (dest.toNat, via.toNat) = true)
    (htransit : s.now.img.transit = false) :
    Effect (.viaExpire dest via) s { s.now with pkg := { s.now.pkg with
      via := s.now.pkg.via.filter (fun e => e != (dest.toNat, via.toNat)) } } .done := by
  refine effect_guarded (exec_viaExpire dest via) hon hvia ?_
  rw [htransit]
  rfl

end

/-- Settles O28: each row's guard is met. Cause 4 of a repair that runs out of time is the model's (log 55, DEDUCED). -/
theorem portTrafficCompletes : Obligations.PortTrafficCompletes := by
  intro p lane s hon hw st t
  refine ⟨fun hup hrep => ⟨fun seq hseq => optFlitReceive_expected hon hup hrep hseq,
      fun flit => optFlitReceive_bad hon hup hrep flit, ?idle, ?noFlit⟩,
    fun hup => ⟨fun csym cw corr uncorr hworn => fecWindow_shows hon hup csym cw corr uncorr hworn, ?laneRepair, ?fecLoss⟩,
    fun hlock => ?laneLoss, fun hrep => ⟨?repaired, ?repairTimeout⟩, fun hident => ?close,
    fun hact hrole => ?advertises,
    fun partners hlive hrole hlen htransit => advertisement_taken hon hlive hrole hlen htransit,
    fun dest via hvia htransit => viaExpire_removed hon hvia htransit⟩
  case idle => exact effect_guarded exec_optIdleTimer hon (carries_flits hup hrep) rfl
  case noFlit => exact effect_guarded exec_noFlitTimeout hon (carries_flits hup hrep) rfl
  case laneRepair => exact effect_guarded exec_mgmtLaneRepair hon (decide_eq_true hup) rfl
  case fecLoss => exact effect_guarded exec_fecLockLoss hon (decide_eq_true hup) rfl
  case laneLoss => exact effect_guarded exec_laneSignalLoss hon (decide_eq_true hlock) rfl
  case repaired => exact effect_guarded exec_optRepairDone hon (beq_iff_eq.mpr hrep) rfl
  case repairTimeout => exact effect_guarded exec_optRepairTimeout hon (beq_iff_eq.mpr hrep) rfl
  case close => exact effect_guarded exec_mgmtClose hon (decide_eq_true hident) rfl
  case advertises =>
    exact effect_guarded exec_advertisementSend hon (Bool.and_eq_true_iff.mpr ⟨beq_iff_eq.mpr hact, beq_iff_eq.mpr hrole⟩) rfl

/-! #### Requests of other packages (R433–R439) -/

theorem locate_of_inTier {a : Nat} (h : inTier a = true) : locate a = .tier0 ∨ locate a = .tier1 := by
  unfold locate
  by_cases h0 : a < 0x00C000000000
  · exact .inl (if_pos h0)
  · have h1 : 0x010000000000 ≤ a ∧ a < 0x030000000000 := by simpa [inTier, h0] using h
    exact .inr ((if_neg h0).trans (if_pos h1))

theorem unimplemented_of_inTier {hw : Hw} {a : Nat} (h : inTier a = true) : unimplemented hw a = false := by
  unfold unimplemented
  obtain h0 | h1 := locate_of_inTier h
  · rw [h0]
  · rw [h1]

section
variable {hw : Hw} {p : Nat} {op : Nat} {h : FabHdr} {data : List Byte}

/-- A message for this package at an ACTIVE port, that no mesh holds and no fence keeps out, is served. -/
theorem fabArrive_serves {serve : Hw → Hw × Answer} (hact : pState hw p = psActive) (hdst : h.dst = hw.img.pkgId)
    (hcut : fabCut hw p h = false) (hheld : fabHeld hw p h = false) : fabArrive p op h data serve hw = serve hw := by
  unfold fabArrive
  simp [hact, hdst, hcut, hheld]

/-- A response passes neither the mesh nor a fence on its way. -/
theorem fabArrive_response {serve : Hw → Hw × Answer} (hop : 0x10 ≤ op) (hact : pState hw p = psActive)
    (hdst : h.dst = hw.img.pkgId) : fabArrive p op h data serve hw = serve hw := by
  have hreq : ¬ op < 0x10 := by omega
  have hhome : ¬ op < 0x07 := by omega
  unfold fabArrive
  simp [hact, hdst, hreq, hhome]

/-- An atomic at a tier line that meets no poison is answered (R334). -/
theorem fabAtomicServe_answers {f : AtomOp} {size rsp : Nat} {r : Served} (htier : inTier h.addr.toNat = true)
    (halign : h.addr.toNat % size = 0)
    (hserve : pocServe hw { mkReq .atomic (fabAgent h) (h.addr.toNat / 64) with
      op := some f, roe := roePath hw h.addr.toNat size } = some r) (hclean : r.poison = false) :
    fabAtomicServe h f size rsp hw = (fabReply r.hw h rsp 0
      (if rsp = 0x12 then word (leNat (slice r.old (h.addr.toNat % 64) size)) else 0) [], .done) := by
  unfold fabAtomicServe
  simp only [unimplemented_of_inTier htier, halign, htier, hserve, hclean, Bool.false_eq_true, ne_eq, not_true_eq_false,
    Bool.not_true, if_false, did]

end

section
variable {s : State} {p : PortId} {h : FabHdr}

theorem exec_fabWr (data : List Byte) : exec (.fabWr p h data) s = execFabWr p h data s := rfl
theorem exec_fabRd : exec (.fabRd p h) s = execFabRd p h s := rfl
theorem exec_fabAtom : exec (.fabAtom p h) s = execFabAtom p h s := rfl
theorem exec_fabRed (data : List Byte) : exec (.fabRed p h data) s = execFabRed p h data s := rfl
theorem exec_fabSemadd : exec (.fabSemadd p h) s = execFabSemadd p h s := rfl
theorem exec_fabSemwr : exec (.fabSemwr p h) s = execFabSemwr p h s := rfl
theorem exec_fabCtake : exec (.fabCtake p h) s = execFabCtake p h s := rfl
theorem exec_fabCend : exec (.fabCend p h) s = execFabCend p h s := rfl
theorem exec_paceRelease (level : Fin 5) : exec (.paceRelease level) s = execPaceRelease level s := rfl
theorem exec_fabRequestTimeout (tag : BitVec 20) : exec (.fabRequestTimeout tag) s = execFabRequestTimeout tag s := rfl

/-- A message's row that is served has the effect that serving it has. -/
theorem effect_fabServed {i : Instr} {op : Nat} {data : List Byte} {serve : Hw → Hw × Answer} {w : Hw}
    (hi : exec i s = onHw s (fabArrive p op h data serve)) (hon : s.on)
    (hgo : fabArrive p op h data serve s.now = serve s.now) (hserve : serve s.now = (w, .done)) : Effect i s w .done :=
  effect_onHw hi hon (hgo.trans hserve)

end

section
variable {s : State} {p : PortId} {h : FabHdr} (hon : s.on) (hact : pState s.now p = psActive)
  (hdst : h.dst = s.now.img.pkgId) (hcut : fabCut s.now p h = false) (hheld : fabHeld s.now p h = false)
include hon hact hdst hcut hheld

theorem fabWr_tier {data : List Byte} {w : Hw} (hlen : data.length = fabLen h) (hblock : fabInBlock h = true)
    (hloc : locate h.addr.toNat = .tier0)
    (hwrite : tierWrite 8 s.now (fabAgent h) h.addr.toNat data false h.hint.toNat h.htgt.toNat (fabRoe s.now h) = some w) :
    Effect (.fabWr p h data) s (fabReply w h 0x10 0 0 []) .done :=
  effect_fabServed (exec_fabWr data) hon (fabArrive_serves hact hdst hcut hheld)
    (by simp [hlen, hblock, hloc, hwrite, did])

theorem fabRd_tier {w : Hw} {bs : List Byte} (hblock : fabInBlock h = true) (hloc : locate h.addr.toNat = .tier0)
    (hread : tierRead h.hint.toNat h.htgt.toNat 8 s.now (fabAgent h) h.addr.toNat (fabLen h) (fabRoe s.now h) =
      some (w, bs, false)) : Effect (.fabRd p h) s (fabReply w h 0x11 0 0 bs) .done :=
  effect_fabServed exec_fabRd hon (fabArrive_serves hact hdst hcut hheld) (by simp [hblock, hloc, hread, did])

theorem fabAtom_tier {fn : AtomFn} {r : Served} (hfn : amoFn h.func.toNat = some fn) (hlen : fabLen h = 8)
    (htier : inTier h.addr.toNat = true) (halign : h.addr.toNat % 8 = 0)
    (hserve : pocServe s.now { mkReq .atomic (fabAgent h) (h.addr.toNat / 64) with
      op := some (.amo fn 8 (h.addr.toNat % 64) h.opnd h.cmp), roe := roePath s.now h.addr.toNat 8 } = some r)
    (hclean : r.poison = false) :
    Effect (.fabAtom p h) s (fabReply r.hw h 0x12 0 (word (leNat (slice r.old (h.addr.toNat % 64) 8))) []) .done := by
  refine effect_fabServed exec_fabAtom hon (fabArrive_serves hact hdst hcut hheld) ?_
  simp only [hfn, hlen, or_true, if_true]
  exact fabAtomicServe_answers (rsp := 0x12) htier halign hserve hclean

theorem fabRed_tier {data : List Byte} {w : Hw} (hlen : data.length = fabLen h) (hblock : fabInBlock h = true)
    (hop : atomOk (.reduce h.rop.toNat h.rfmt.toNat 0) = true) (halign : h.addr.toNat % (fmtBits h.rfmt.toNat / 8) = 0)
    (hwhole : fabLen h % (fmtBits h.rfmt.toNat / 8) = 0) (htier : inTier h.addr.toNat = true)
    (hreduce : reduceN ⟨h.rop.toNat, h.rfmt.toNat, h.hint.toNat, h.htgt.toNat, h.elem, 0⟩ (fabAgent h) (fabRoe s.now h) 8
      s.now h.addr.toNat data = some (w, false)) :
    Effect (.fabRed p h data) s (fabReply w h 0x10 0 0 []) .done := by
  refine effect_fabServed (exec_fabRed data) hon (fabArrive_serves hact hdst hcut hheld) ?_
  simp only [hlen, hblock, hop, halign, hwhole, htier, hreduce, ne_eq, not_true_eq_false, Bool.not_true, Bool.false_eq_true,
    or_self, if_false, did]

theorem fabSemadd_tier {r : Served} (htier : inTier h.addr.toNat = true) (halign : h.addr.toNat % 8 = 0)
    (hserve : pocServe s.now { mkReq .atomic (fabAgent h) (h.addr.toNat / 64) with
      op := some (.amo .add 8 (h.addr.toNat % 64) h.opnd 0), roe := roePath s.now h.addr.toNat 8 } = some r)
    (hclean : r.poison = false) : Effect (.fabSemadd p h) s (fabReply r.hw h 0x10 0 0 []) .done :=
  effect_fabServed exec_fabSemadd hon (fabArrive_serves hact hdst hcut hheld)
    (fabAtomicServe_answers (rsp := 0x10) htier halign hserve hclean)

theorem fabSemwr_tier {r : Served} (htier : inTier h.addr.toNat = true) (halign : h.addr.toNat % 8 = 0)
    (hserve : pocServe s.now { mkReq .atomic (fabAgent h) (h.addr.toNat / 64) with
      op := some (.amo .swap 8 (h.addr.toNat % 64) h.opnd 0), roe := roePath s.now h.addr.toNat 8 } = some r)
    (hclean : r.poison = false) : Effect (.fabSemwr p h) s (fabReply r.hw h 0x10 0 0 []) .done :=
  effect_fabServed exec_fabSemwr hon (fabArrive_serves hact hdst hcut hheld)
    (fabAtomicServe_answers (rsp := 0x10) htier halign hserve hclean)

/-- A take at a credit slot of a present core answers what the slot answers (R197, R437). -/
theorem fabCtake_present {c off : Nat} (hloc : locate h.addr.toNat = .spad c off) (hc : corePresent s.now c = true) :
    Effect (.fabCtake p h) s (fabReply (creditTake s.now c (bits h.opnd 5 0) h.src.toNat h.agent.toNat).1 h 0x13 0
      (creditTake s.now c (bits h.opnd 5 0) h.src.toNat h.agent.toNat).2 []) .done :=
  effect_fabServed exec_fabCtake hon (fabArrive_serves hact hdst hcut hheld) (by simp only [hloc, hc, if_true, did])

theorem fabCend_present {c off : Nat} (hloc : locate h.addr.toNat = .spad c off) (hc : corePresent s.now c = true) :
    Effect (.fabCend p h) s
      (fabReply (creditEnd s.now c (bits h.opnd 5 0) h.src.toNat h.agent.toNat) h 0x10 0 0 []) .done :=
  effect_fabServed exec_fabCend hon (fabArrive_serves hact hdst hcut hheld) (by simp only [hloc, hc, if_true, did])

end

/-- The oldest message that a level holds leaves once its bucket has tokens (R435). -/
theorem paceRelease_sends {s : State} (hon : s.on) {level : Fin 5} {m : Held} (hnext : paceNext s.now level = some m) :
    Effect (.paceRelease level) s (codecSweep (fabEmit { s.now with pkg := { s.now.pkg with
      held := s.now.pkg.held.filter (fun x => x != m),
      tokens := mput (fun _ => 65536) s.now.pkg.tokens level 65536 } } m.op m.hdr m.data m.req)) .done :=
  effect_onHw (exec_paceRelease level) hon (by simp only [hnext, did])

/-- Settles O29: each request is served where it arrives. The slot's place in OPND is the model's (log 97, DESIGN CHOICE). -/
theorem fabricRequestsComplete : Obligations.FabricRequestsComplete := by
  intro p h s hon hw a hact hdst hcut hheld
  exact ⟨fun data w hlen hblock hloc hwrite => fabWr_tier hon hact hdst hcut hheld hlen hblock hloc hwrite,
    fun w bs hblock hloc hread => fabRd_tier hon hact hdst hcut hheld hblock hloc hread,
    fun fn r hfn hlen htier halign hserve hclean => fabAtom_tier hon hact hdst hcut hheld hfn hlen htier halign hserve hclean,
    fun data w hlen hblock hop halign hwhole htier hreduce =>
      fabRed_tier hon hact hdst hcut hheld hlen hblock hop halign hwhole htier hreduce,
    fun r htier halign hserve hclean => fabSemadd_tier hon hact hdst hcut hheld htier halign hserve hclean,
    fun r htier halign hserve hclean => fabSemwr_tier hon hact hdst hcut hheld htier halign hserve hclean,
    fun c off hloc hc => ⟨fabCtake_present hon hact hdst hcut hheld hloc hc, fabCend_present hon hact hdst hcut hheld hloc hc⟩,
    fun level m hnext => paceRelease_sends hon hnext⟩

/-! #### Responses (R439, R440, R443) -/

section
variable {s : State} {p : PortId} {h : FabHdr} {r : FabReq}

/-- A response that a request awaits ends it. -/
theorem fabResponse_ends {hw : Hw} {op status : Nat} {data : List Byte} {old : Word} (hop : 0x10 ≤ op)
    (hact : pState hw p = psActive) (hdst : h.dst = hw.img.pkgId)
    (hreq : hw.pkg.fabReqs.find? (fun r => r.tag == h.tag.toNat) = some r) (hgo : responseHeld hw (4 + p / 8) r = false) :
    fabResponse p op h data status old hw =
      (fabEnd { hw with pkg := { hw.pkg with fabReqs := hw.pkg.fabReqs.filter (fun x => x.tag != r.tag) } } r status data old,
        .done) := by
  unfold fabResponse
  rw [fabArrive_response hop hact hdst]
  simp only [hreq, hgo, Bool.false_eq_true, if_false, did]

/-- A request that none answers in time ends as unreachable (R443). -/
theorem fabRequestTimeout_ends (hon : s.on) {tag : BitVec 20}
    (hreq : s.now.pkg.fabReqs.find? (fun r => r.tag == tag.toNat) = some r) :
    Effect (.fabRequestTimeout tag) s (fabEnd { s.now with pkg := { s.now.pkg with
      fabReqs := s.now.pkg.fabReqs.filter (fun x => x.tag != r.tag) } } r stUnreachable [] 0) .done :=
  effect_onHw (exec_fabRequestTimeout tag) hon (by simp only [hreq, did])

end

/-- Settles O30: each response ends its request with its own status. -/
theorem fabricResponsesComplete : Obligations.FabricResponsesComplete := by
  intro p h r s hon hw hw1
  refine ⟨fun hact hdst hreq hgo => ⟨?done, fun data => ?data, ?old, ?grant, ?error⟩,
    fun tag hreq => fabRequestTimeout_ends hon hreq⟩
  case done =>
    exact effect_onHw (f := fabResponse p 0x10 h [] stSuccess 0) rfl hon (fabResponse_ends (by omega) hact hdst hreq hgo)
  case data =>
    exact effect_onHw (f := fabResponse p 0x11 h data stSuccess 0) rfl hon (fabResponse_ends (by omega) hact hdst hreq hgo)
  case old =>
    exact effect_onHw (f := fabResponse p 0x12 h [] stSuccess h.opnd) rfl hon (fabResponse_ends (by omega) hact hdst hreq hgo)
  case grant =>
    exact effect_onHw (f := fabResponse p 0x13 h [] stSuccess h.opnd) rfl hon (fabResponse_ends (by omega) hact hdst hreq hgo)
  case error =>
    exact effect_onHw (f := fabResponse p 0x14 h [] (errStatus h.status.toNat) 0) rfl hon
      (fabResponse_ends (by omega) hact hdst hreq hgo)

end Sys2Proof.Machine
end

section
/-! PROOF. Every effect on the hardware leaves the part's lock bit and identity key (R512, R537). -/

namespace Sys2Proof.Machine

/-! #### The part's lock bit and identity key -/

/-- The part's lock bit and its identity key (R512, R537). -/
def Hw.lockKey (hw : Hw) : Bool × List Byte := (hw.locked, hw.idKey)

section
variable {hw : Hw}

/-- An update of other parts of the hardware leaves them. -/
@[simp] theorem lockKey_mk (regs : FMap Word) (logs : FMap (List (Word × Word))) (lastPop : FMap (Word × Word)) (fresh : Nat)
    (mem : Mem) (harts : FMap Hart) (cores : FMap Core) (groups parts : FMap Nat) (trees : FMap Tree) (migs : List MigEnt)
    (migRets : List MigRet) (portsUp : Bool) (ramps : List Nat) (fenced : BitVec 2) (gpow : FMap GPow) (halves : FMap Half)
    (pow : Pow) (ctls : FMap Ctl) (ert : Ert) (dies : FMap Die) (ports : FMap Port) (lasers : FMap Laser) (acelos : FMap Acelo)
    (pkg : Pkg) (img : Image) (present : BitVec 64) (stop : Bool) (fatal : List (Nat × Word)) (msgs : List MsgWr)
    (imsic : FMap (List Nat)) (bar4 : FMap Byte) (idCert : List Byte) (deadHarts : List Nat) (clk : FMap Word)
    (pcpFlip : FMap Nat) (retired : List Nat) (tallied : FMap Nat) (kept : List KeptSnc) (placed : FMap Nat) (sent : List Out) :
    Hw.lockKey ⟨regs, logs, lastPop, fresh, mem, harts, cores, groups, parts, trees, migs, migRets, portsUp, ramps, fenced, gpow,
      halves, pow, ctls, ert, dies, ports, lasers, acelos, pkg, img, present, hw.locked, stop, fatal, msgs, imsic, bar4, hw.idKey,
      idCert, deadHarts, clk, pcpFlip, retired, tallied, kept, placed, sent⟩ = hw.lockKey := rfl

end

section
variable {α β : Type}

/-- A fold leaves what each of its steps leaves. -/
@[simp] theorem foldl_lockKey {f : Hw → α → Hw} (hf : ∀ w a, (f w a).lockKey = w.lockKey) (l : List α) (w : Hw) :
    (l.foldl f w).lockKey = w.lockKey :=
  foldl_keeps hf l w

@[simp] theorem foldl_fst_lockKey {f : Hw × β → α → Hw × β} (hf : ∀ x a, (f x a).1.lockKey = x.1.lockKey) (l : List α)
    (x : Hw × β) : (l.foldl f x).1.lockKey = x.1.lockKey :=
  foldl_keeps (g := fun x : Hw × β => x.1.lockKey) hf l x

@[simp] theorem foldN_lockKey {f : Hw → Nat → Hw} (hf : ∀ w i, (f w i).lockKey = w.lockKey) (n : Nat) (w : Hw) :
    (foldN n w f).lockKey = w.lockKey :=
  foldl_keeps hf _ w

@[simp] theorem foldN_fst_lockKey {f : Hw × β → Nat → Hw × β} (hf : ∀ x i, (f x i).1.lockKey = x.1.lockKey) (n : Nat)
    (x : Hw × β) : (foldN n x f).1.lockKey = x.1.lockKey :=
  foldl_keeps (g := fun x : Hw × β => x.1.lockKey) hf _ x

end

section
variable {β : Type} {p : Prop} [Decidable p]

@[simp] theorem ite_lockKey (w w' : Hw) : (if p then w else w').lockKey = if p then w.lockKey else w'.lockKey := apply_ite ..

@[simp] theorem ite_fst_lockKey (x y : Hw × β) : (if p then x else y).1.lockKey = if p then x.1.lockKey else y.1.lockKey :=
  apply_ite (fun x : Hw × β => x.1.lockKey) ..

@[simp] theorem ite_snd_lockKey (x y : β × Hw) : (if p then x else y).2.lockKey = if p then x.2.lockKey else y.2.lockKey :=
  apply_ite (fun x : β × Hw => x.2.lockKey) ..

end
section
variable {α γ : Type} {g : γ → Hw} {f : γ → α → Option γ}

theorem foldl_bind_none (l : List α) : l.foldl (fun acc a => acc.bind fun x => f x a) none = none := by
  induction l with
  | nil => rfl
  | cons a l ih => exact ih

/-- A fold that may fail leaves, where it ends, what each of its steps leaves. -/
theorem foldl_bind_lockKey (hf : ∀ x a y, f x a = some y → (g y).lockKey = (g x).lockKey) {l : List α} {x y : γ}
    (h : l.foldl (fun acc a => acc.bind fun x => f x a) (some x) = some y) : (g y).lockKey = (g x).lockKey := by
  induction l generalizing x with
  | nil =>
    cases h
    rfl
  | cons a l ih =>
    rw [List.foldl_cons, Option.bind_some] at h
    cases hx : f x a with
    | none =>
      rw [hx, foldl_bind_none] at h
      cases h
    | some z =>
      rw [hx] at h
      exact (ih h).trans (hf x a z hx)

theorem foldN_bind_lockKey {f : γ → Nat → Option γ} (hf : ∀ x i y, f x i = some y → (g y).lockKey = (g x).lockKey) {n : Nat}
    {x y : γ} (h : foldN n (some x) (fun acc i => acc.bind fun x => f x i) = some y) : (g y).lockKey = (g x).lockKey :=
  foldl_bind_lockKey hf h

end

/-- What comes of an effect that may fail. -/
theorem getD_lockKey {hw : Hw} {o : Option Hw} (h : ∀ w, o = some w → w.lockKey = hw.lockKey) :
    (o.getD hw).lockKey = hw.lockKey := by
  cases o with
  | none => rfl
  | some w => exact h w rfl

/-! #### The local address map (R49–R59) and the register file -/

@[simp] theorem rset_lockKey (hw : Hw) (a : Nat) (v : Word) : (rset hw a v).lockKey = hw.lockKey := by
  simp [rset]

@[simp] theorem rsetN_lockKey (hw : Hw) (a v : Nat) : (rsetN hw a v).lockKey = hw.lockKey := by
  simp [rsetN]

@[simp] theorem ror_lockKey (hw : Hw) (a m : Nat) : (ror hw a m).lockKey = hw.lockKey := by
  simp [ror]

@[simp] theorem rclr_lockKey (hw : Hw) (a m : Nat) : (rclr hw a m).lockKey = hw.lockKey := by
  simp [rclr]

@[simp] theorem rfield_lockKey (hw : Hw) (a hi lo v : Nat) : (rfield hw a hi lo v).lockKey = hw.lockKey := by
  simp [rfield]

@[simp] theorem radd_lockKey (hw : Hw) (a n : Nat) : (radd hw a n).lockKey = hw.lockKey := by
  simp [radd]

@[simp] theorem rinc_lockKey (hw : Hw) (a hi lo n : Nat) : (rinc hw a hi lo n).lockKey = hw.lockKey := by
  simp [rinc]

@[simp] theorem touch_lockKey (hw : Hw) (a : Nat) : (touch hw a).lockKey = hw.lockKey := by
  simp [touch]

@[simp] theorem draw_lockKey (hw : Hw) : (draw hw).2.lockKey = hw.lockKey := by
  simp [draw]

@[simp] theorem logPush_lockKey (hw : Hw) (a cap : Nat) (e : Word × Word) : (logPush hw a cap e).2.lockKey = hw.lockKey := by
  simp [logPush]

@[simp] theorem setAcelo_lockKey (hw : Hw) (a : Nat) (v : Acelo) : (setAcelo hw a v).lockKey = hw.lockKey := by
  simp [setAcelo]

@[simp] theorem popOut_lockKey (hw : Hw) (by_ : Agent) (a : Nat) : (popOut hw by_ a).lockKey = hw.lockKey := by
  unfold popOut
  split <;> simp

@[simp] theorem logPop_lockKey (hw : Hw) (by_ : Agent) (a : Nat) : (logPop hw by_ a).2.lockKey = hw.lockKey := by
  simp [logPop]

/-! #### Error records and message writes -/

@[simp] theorem message_lockKey (hw : Hw) (d ra data : Nat) : (message hw d ra data).lockKey = hw.lockKey := by
  simp [message]

@[simp] theorem packageStop_lockKey (hw : Hw) : (packageStop hw).lockKey = hw.lockKey := by
  simp [packageStop]

@[simp] theorem say_lockKey (hw : Hw) (o : Out) : (say hw o).lockKey = hw.lockKey := by
  simp [say]

@[simp] theorem rasEnter_lockKey (hw : Hw) (d cls : Nat) (e : Word × Word) : (rasEnter hw d cls e).lockKey = hw.lockKey := by
  simp [rasEnter]

@[simp] theorem rasStop_lockKey (hw : Hw) (d cls cause : Nat) (w0 : Word) :
    (rasStop hw d cls cause w0).lockKey = hw.lockKey := by
  simp [rasStop]

@[simp] theorem rasWrite_lockKey (hw : Hw) (d cls unit cause inst agent ctx pkg addr : Nat) :
    (rasWrite hw d cls unit cause inst agent ctx pkg addr).lockKey = hw.lockKey := by
  simp [rasWrite]

@[simp] theorem setDie_lockKey (hw : Hw) (d : Nat) (v : Die) : (setDie hw d v).lockKey = hw.lockKey := by
  simp [setDie]

@[simp] theorem ras_lockKey (hw : Hw) (d cls unit cause inst agent ctx pkg addr : Nat) :
    (ras hw d cls unit cause inst agent ctx pkg addr).lockKey = hw.lockKey := by
  simp [ras]

@[simp] theorem errorResponse_lockKey (hw : Hw) (d cause : Nat) (by_ : Agent) (ctx addr : Nat) :
    (errorResponse hw d cause by_ ctx addr).lockKey = hw.lockKey := by
  simp [errorResponse]

@[simp] theorem consumed_lockKey (hw : Hw) (by_ : Agent) (addr : Nat) (poison : Bool) :
    (consumed hw by_ addr poison).lockKey = hw.lockKey := by
  unfold consumed
  dsimp only
  split <;> simp

/-! #### The one mesh over six dies (R23, R27–R31) -/

@[simp] theorem setRoutes_lockKey (hw : Hw) : (setRoutes hw).lockKey = hw.lockKey := by
  simp [setRoutes]

@[simp] theorem clocksRun_lockKey (hw : Hw) : (clocksRun hw).lockKey = hw.lockKey := by
  simp [clocksRun]

/-! #### The homes of coherent memory -/

@[simp] theorem writeBytes_lockKey (hw : Hw) (a : Nat) (bs : List Byte) : (writeBytes hw a bs).lockKey = hw.lockKey := by
  simp [writeBytes]

@[simp] theorem setPoison_lockKey (hw : Hw) (line : Nat) (p : Bool) : (setPoison hw line p).lockKey = hw.lockKey := by
  simp [setPoison]

@[simp] theorem setHart_lockKey (hw : Hw) (h : Nat) (v : Hart) : (setHart hw h v).lockKey = hw.lockKey := by
  simp [setHart]

@[simp] theorem filtSet_lockKey (hw : Hw) (line : Nat) (st : Option FiltSt) : (filtSet hw line st).lockKey = hw.lockKey := by
  simp [filtSet]

@[simp] theorem slcRas_lockKey (hw : Hw) (line cls cause : Nat) : (slcRas hw line cls cause).lockKey = hw.lockKey := by
  simp [slcRas]

@[simp] theorem setMem_lockKey (hw : Hw) (m : Mem) : (setMem hw m).lockKey = hw.lockKey := by
  simp [setMem]

@[simp] theorem tagCheck_lockKey (hw : Hw) (line : Nat) : (tagCheck hw line).lockKey = hw.lockKey := by
  unfold tagCheck
  split <;> simp

@[simp] theorem filtLive_lockKey (hw : Hw) (line : Nat) : (filtLive hw line).2.lockKey = hw.lockKey := by
  unfold filtLive
  split <;> simp

@[simp] theorem filtCheck_lockKey (hw : Hw) (kind : ReqKind) (line : Nat) (r : Agent) :
    (filtCheck hw kind line r).2.lockKey = hw.lockKey := by
  unfold filtCheck
  split <;> simp

@[simp] theorem snoopPlan_lockKey (hw : Hw) (kind : ReqKind) (line : Nat) (r : Agent) :
    (snoopPlan hw kind line r).2.2.lockKey = hw.lockKey := by
  simp [snoopPlan]

@[simp] theorem memLeave_lockKey (hw : Hw) (line : Nat) : (memLeave hw line).lockKey = hw.lockKey := by
  unfold memLeave
  dsimp only
  split <;> simp

@[simp] theorem memSeen_lockKey (hw : Hw) (line : Nat) : (memSeen hw line).lockKey = hw.lockKey := by
  unfold memSeen
  split <;> simp

@[simp] theorem memFetch_lockKey (hw : Hw) (line : Nat) : (memFetch hw line).lockKey = hw.lockKey := by
  unfold memFetch
  split <;> simp

@[simp] theorem setSlcList_lockKey (hw : Hw) (slice_ : Nat) (l : List SlcBlock) :
    (setSlcList hw slice_ l).lockKey = hw.lockKey := by
  simp [setSlcList]

@[simp] theorem slcPut_lockKey (hw : Hw) (line : Nat) (st : SlcSt) (retain : Bool) :
    (slcPut hw line st retain).lockKey = hw.lockKey := by
  unfold slcPut
  dsimp only
  split <;> simp

@[simp] theorem slcCheck_lockKey (hw : Hw) (line : Nat) : (slcCheck hw line).lockKey = hw.lockKey := by
  unfold slcCheck
  split <;> simp

@[simp] theorem slcFresh_lockKey (hw : Hw) (line : Nat) : (slcFresh hw line).lockKey = hw.lockKey := by
  simp [slcFresh]

@[simp] theorem homeFetch_lockKey (hw : Hw) (line : Nat) (alloc : Bool) : (homeFetch hw line alloc).lockKey = hw.lockKey := by
  unfold homeFetch
  split <;> simp

@[simp] theorem homeWrite_lockKey (hw : Hw) (line : Nat) (mask : BitVec 64) (data : List Byte) (poison retain roe : Bool) :
    (homeWrite hw line mask data poison retain roe).lockKey = hw.lockKey := by
  simp [homeWrite]

@[simp] theorem sendMsg_lockKey (hw : Hw) (k : MsgKind) (line : Nat) (ag : Agent) :
    (sendMsg hw k line ag).lockKey = hw.lockKey := by
  simp [sendMsg]

@[simp] theorem setNet_lockKey (hw : Hw) (n : List Msg) : (setNet hw n).lockKey = hw.lockKey := by
  simp [setNet]

@[simp] theorem notifyWatches_lockKey (hw : Hw) (line : Nat) : (notifyWatches hw line).lockKey = hw.lockKey := by
  simp [notifyWatches]

@[simp] theorem addWatch_lockKey (hw : Hw) (line c : Nat) : (addWatch hw line c).lockKey = hw.lockKey := by
  simp [addWatch]

@[simp] theorem applyHint_lockKey (hw : Hw) (line : Nat) (by_ : Agent) (hint htgt : Nat) :
    (applyHint hw line by_ hint htgt).lockKey = hw.lockKey := by
  simp [applyHint]

@[simp] theorem homeApply_lockKey (hw : Hw) (req : HReq) (st : Option FiltSt) :
    (homeApply hw req st).hw.lockKey = hw.lockKey := by
  unfold homeApply
  (repeat' split) <;> simp

@[simp] theorem setHome_lockKey (hw : Hw) (line : Nat) (v : Home) : (setHome hw line v).lockKey = hw.lockKey := by
  simp [setHome]

@[simp] theorem signalPoisoned_lockKey (hw : Hw) (pa agent pkg : Nat) :
    (signalPoisoned hw pa agent pkg).lockKey = hw.lockKey := by
  simp [signalPoisoned]

@[simp] theorem reqAnswered_lockKey (hw : Hw) (req : HReq) (who : Nat × Nat) (poison : Bool) :
    (reqAnswered hw req who poison).lockKey = hw.lockKey := by
  simp [reqAnswered]

@[simp] theorem sendComp_lockKey (hw : Hw) (line : Nat) (ag : Agent) : (sendComp hw line ag).lockKey = hw.lockKey := by
  unfold sendComp
  split <;> simp

@[simp] theorem homeReply_lockKey (r : Served) (req : HReq) : (homeReply r req).lockKey = r.hw.lockKey := by
  unfold homeReply
  split <;> simp

@[simp] theorem finishReq_lockKey (hw : Hw) (req : HReq) (st : Option FiltSt) : (finishReq hw req st).lockKey = hw.lockKey := by
  unfold finishReq
  (repeat' split) <;> simp

@[simp] theorem applyShared_lockKey (hw : Hw) (req : HReq) (st : Option FiltSt) :
    (applyShared hw req st).1.lockKey = hw.lockKey := by
  unfold applyShared
  split <;> simp

@[simp] theorem acceptReq_lockKey (hw : Hw) (req : HReq) : (acceptReq hw req).lockKey = hw.lockKey := by
  unfold acceptReq
  dsimp only
  (repeat' split) <;> simp

@[simp] theorem enqueue_lockKey (hw : Hw) (req : HReq) : (enqueue hw req).lockKey = hw.lockKey := by
  simp [enqueue]

@[simp] theorem waitInput_lockKey (hw : Hw) (req : HReq) : (waitInput hw req).lockKey = hw.lockKey := by
  simp [waitInput]

@[simp] theorem victimGo_lockKey (hw : Hw) (line : Nat) : (victimGo hw line).lockKey = hw.lockKey := by
  unfold victimGo
  split <;> simp

@[simp] theorem homeArrive_lockKey (hw : Hw) (req : HReq) : (homeArrive hw req).lockKey = hw.lockKey := by
  simp [homeArrive]

@[simp] theorem hartScan_lockKey (hw : Hw) (h line : Nat) : (hartScan hw h line).lockKey = hw.lockKey := by
  unfold hartScan
  dsimp only
  (repeat' split) <;> simp

@[simp] theorem fetchScan_lockKey (hw : Hw) (h line : Nat) : (fetchScan hw h line).lockKey = hw.lockKey := by
  simp [fetchScan]

@[simp] theorem snoopData_lockKey (hw : Hw) (line : Nat) (drop : Bool) (data : List Byte) (poison : Bool) :
    (snoopData hw line drop data poison).lockKey = hw.lockKey := by
  simp [snoopData]

@[simp] theorem snoopHart_lockKey (hwOld : Hw) (line h : Nat) (inv drop : Bool) :
    (snoopHart hwOld line h inv drop).lockKey = hwOld.lockKey := by
  unfold snoopHart
  dsimp only
  split <;> simp

@[simp] theorem showDead_lockKey (hw : Hw) (ag : Agent) : (showDead hw ag).lockKey = hw.lockKey := by
  unfold showDead
  split <;> simp

@[simp] theorem snoopExpired_lockKey (hw : Hw) (line : Nat) (ag : Agent) : (snoopExpired hw line ag).lockKey = hw.lockKey := by
  simp [snoopExpired]

@[simp] theorem snoopExt_lockKey (hw : Hw) (line : Nat) (a : Agent) (inv drop owner : Bool) :
    (snoopExt hw line a inv drop owner).1.lockKey = hw.lockKey := by
  simp [snoopExt]

theorem pocServe_lockKey {out : Served} (hw : Hw) (req : HReq) (h : pocServe hw req = some out) :
    out.hw.lockKey = hw.lockKey := by
  unfold pocServe at h
  extract_lets _ pl d sn drop x fl r at h
  split at h
  · cases h
  have hx : x.1.lockKey = hw.lockKey := by
    refine (foldl_fst_lockKey (fun y a => ?_) ..).trans (snoopPlan_lockKey ..)
    cases a <;> simp
  have hr : r.hw.lockKey = hw.lockKey := by rw [homeApply_lockKey, filtLive_lockKey, hx]
  obtain rfl := Option.some.inj h
  split
  · rw [← hr]
    exact rset_lockKey ..
  · exact hr

theorem pocRead_lockKey {out : Hw × List Byte × Bool} (hw : Hw) (ag : Agent) (line : Nat) (watch : Bool)
    (h : pocRead hw ag line watch = some out) : out.1.lockKey = hw.lockKey := by
  grind [pocRead, → pocServe_lockKey, Option.map_eq_some_iff, Option.bind_eq_some_iff]

theorem pocWrite_lockKey {out : Hw} (hw : Hw) (ag : Agent) (line : Nat) (mask : BitVec 64) (data : List Byte) (poison : Bool)
    (hint htgt : Nat) (h : pocWrite hw ag line mask data poison hint htgt = some out) : out.lockKey = hw.lockKey := by
  grind [pocWrite, → pocServe_lockKey, Option.map_eq_some_iff, Option.bind_eq_some_iff]

theorem pocReadN_lockKey {out : Hw × List Byte × Bool} (fuel : Nat) (hw : Hw) (ag : Agent) (a n : Nat)
    (h : pocReadN fuel hw ag a n = some out) : out.1.lockKey = hw.lockKey := by
  fun_induction pocReadN generalizing out <;> grind [→ pocRead_lockKey]

theorem pocWriteN_lockKey {out : Hw} (fuel : Nat) (hw : Hw) (ag : Agent) (a : Nat) (bs : List Byte) (poison : Bool)
    (hint htgt : Nat) (h : pocWriteN fuel hw ag a bs poison hint htgt = some out) : out.lockKey = hw.lockKey := by
  fun_induction pocWriteN generalizing out <;> grind [→ pocWrite_lockKey]

@[simp] theorem msixFire_lockKey (hw : Hw) (a v : Nat) : (msixFire hw a v).lockKey = hw.lockKey := by
  simp [msixFire]

@[simp] theorem imsicPend_lockKey (hw : Hw) (h f v : Nat) : (imsicPend hw h f v).lockKey = hw.lockKey := by
  simp [imsicPend]

@[simp] theorem deliverMsg_lockKey (hw : Hw) (m : MsgWr) : (deliverMsg hw m).lockKey = hw.lockKey := by
  unfold deliverMsg
  split
  · simp
  split
  · split <;> simp
  · split <;> simp
  case h_3 | h_4 =>
    dsimp only
    split
    · next r hr => exact pocServe_lockKey _ _ hr
    · simp
  · simp

@[simp] theorem settle_lockKey (n : Nat) (hw : Hw) : (settle n hw).lockKey = hw.lockKey := by
  fun_induction settle <;> simp_all

/-! #### Shapes of an effect on the hardware -/

@[simp] theorem did_lockKey (hw : Hw) : (did hw).1.lockKey = hw.lockKey := by
  simp [did]

@[simp] theorem hartBerr_lockKey (hw : Hw) (h cause addr : Nat) : (hartBerr hw h cause addr).lockKey = hw.lockKey := by
  simp [hartBerr]

@[simp] theorem writeRefused_lockKey (hw : Hw) (d cause : Nat) (by_ : Agent) (addr : Nat) :
    (writeRefused hw d cause by_ addr).1.lockKey = hw.lockKey := by
  unfold writeRefused
  split <;> simp

/-! #### The commands of the coherence protocol (R372–R397) -/

@[simp] theorem deadRequest_lockKey (hw : Hw) (line : Nat) (ag : Agent) : (deadRequest hw line ag).1.lockKey = hw.lockKey := by
  simp [deadRequest]

@[simp] theorem arriveGuarded_lockKey (ok : Hw → Bool) (req : HReq) (hw : Hw) :
    (arriveGuarded ok req hw).1.lockKey = hw.lockKey := by
  simp [arriveGuarded]

@[simp] theorem hartWaits_lockKey (hw : Hw) (h line : Nat) (why : MissWhy) :
    (hartWaits hw h line why).lockKey = hw.lockKey := by
  simp [hartWaits]

@[simp] theorem hartRequest_lockKey (hw : Hw) (h : HartId) (line : Nat) (unique : Bool) (why : MissWhy) :
    (hartRequest hw h line unique why).lockKey = hw.lockKey := by
  simp [hartRequest]

@[simp] theorem responded_lockKey (hw : Hw) (line : Nat) (ag : Agent) : (responded hw line ag).lockKey = hw.lockKey := by
  unfold responded
  dsimp only
  (repeat' split) <;> simp

@[simp] theorem ownerLeft_lockKey (hw : Hw) (line : Nat) (ag : Agent) : (ownerLeft hw line ag).lockKey = hw.lockKey := by
  simp [ownerLeft]

@[simp] theorem respondedI_lockKey (hw : Hw) (line : Nat) (ag : Agent) : (respondedI hw line ag).lockKey = hw.lockKey := by
  simp [respondedI]

@[simp] theorem dirtyIn_lockKey (hw : Hw) (line : Nat) (data : List Byte) (poison : Bool) :
    (dirtyIn hw line data poison).lockKey = hw.lockKey := by
  simp [dirtyIn]

@[simp] theorem dataResponse_lockKey (hw : Hw) (line : Nat) (ag : Agent) (data : List Byte) (poison : Bool) :
    (dataResponse hw line ag data poison).lockKey = hw.lockKey := by
  simp [dataResponse]

@[simp] theorem crossing_lockKey (hw : Hw) (line : Nat) (ag : Agent) (data : List Byte) :
    (crossing hw line ag data).lockKey = hw.lockKey := by
  simp [crossing]

@[simp] theorem holdAside_lockKey (hw : Hw) (line : Nat) (ag : Agent) (data : List Byte) :
    (holdAside hw line ag data).lockKey = hw.lockKey := by
  simp [holdAside]

@[simp] theorem arriveWrBack_lockKey (hw : Hw) (line : Nat) (ag : Agent) (data : List Byte) (poison : Bool) :
    (arriveWrBack hw line ag data poison).lockKey = hw.lockKey := by
  unfold arriveWrBack
  dsimp only
  split <;> simp

@[simp] theorem arriveEvict_lockKey (hw : Hw) (line : Nat) (ag : Agent) : (arriveEvict hw line ag).lockKey = hw.lockKey := by
  simp [arriveEvict]

@[simp] theorem hartDrop_lockKey (hw : Hw) (h line : Nat) (l : HLine) : (hartDrop hw h line l).lockKey = hw.lockKey := by
  simp [hartDrop]

@[simp] theorem hartEvict_lockKey (hw : Hw) (h : HartId) (line : Nat) : (hartEvict hw h line).lockKey = hw.lockKey := by
  unfold hartEvict
  dsimp only
  split <;> simp

@[simp] theorem hartRoom_lockKey (hw : Hw) (h : HartId) (line : Nat) : (hartRoom hw h line).lockKey = hw.lockKey := by
  simp [hartRoom]

@[simp] theorem leaveQueue_lockKey (hw : Hw) (req : HReq) : (leaveQueue hw req).lockKey = hw.lockKey := by
  simp [leaveQueue]

@[simp] theorem hartSnooped_lockKey (hwOld : Hw) (h : HartId) (line : Nat) (inv : Bool) :
    (hartSnooped hwOld h line inv).lockKey = hwOld.lockKey := by
  unfold hartSnooped
  dsimp only
  (repeat' split) <;> simp

@[simp] theorem snoopArrives_lockKey (line : Nat) (agent : Agent) (inv : Bool) (hw : Hw) :
    (snoopArrives line agent inv hw).1.lockKey = hw.lockKey := by
  unfold snoopArrives
  (repeat' split) <;> simp

@[simp] theorem lateResponse_lockKey (hw : Hw) (line : Nat) (ag : Agent) :
    (lateResponse hw line ag).1.lockKey = hw.lockKey := by
  simp [lateResponse]

@[simp] theorem plainResponse_lockKey (line : Nat) (agent : Agent) (k : MsgKind) (hw : Hw) :
    (plainResponse line agent k hw).1.lockKey = hw.lockKey := by
  unfold plainResponse
  split <;> simp

@[simp] theorem hartInstall_lockKey (hwOld : Hw) (h : HartId) (line : Nat) (granted hasData : Bool) (data : List Byte)
    (poison : Bool) : (hartInstall hwOld h line granted hasData data poison).1.lockKey = hwOld.lockKey := by
  simp [hartInstall]

theorem takeHeld_lockKey {out : List Byte × Hw} (hw : Hw) (line : Nat) (ag : Agent) (h : takeHeld hw line ag = some out) :
    out.2.lockKey = hw.lockKey := by
  grind [takeHeld, setHome_lockKey]

@[simp] theorem cutAgent_lockKey (hw : Hw) (ag : Agent) (mute : Bool) : (cutAgent hw ag mute).lockKey = hw.lockKey := by
  simp [cutAgent]

@[simp] theorem declareDead_lockKey (hw : Hw) (ag : Agent) : (declareDead hw ag).lockKey = hw.lockKey := by
  unfold declareDead
  extract_lets hw1 lines
  rw [foldl_lockKey]
  · simp [hw1]
  · intro w l
    split
    · next data w' hw' => rw [crossing_lockKey, takeHeld_lockKey _ _ _ hw']
    · simp

@[simp] theorem regWriteBy_lockKey (by_ : Agent) (d addr : Nat) {f : Hw → Hw × Answer}
    (hf : ∀ w, (f w).1.lockKey = w.lockKey) (hw : Hw) :
    (regWriteBy by_ d addr f hw).1.lockKey = hw.lockKey := by
  unfold regWriteBy
  split <;> [skip; split] <;> simp [hf]

@[simp] theorem slcCtrlWrite_lockKey (value : Word) (hw : Hw) : (slcCtrlWrite value hw).1.lockKey = hw.lockKey := by
  simp [slcCtrlWrite]

@[simp] theorem extResponse_lockKey (line : Nat) (ag : Agent) (rsp : SnpRsp) (hw : Hw) :
    (extResponse line ag rsp hw).1.lockKey = hw.lockKey := by
  unfold extResponse
  grind [responded_lockKey, crossing_lockKey, respondedI_lockKey, dataResponse_lockKey, did_lockKey, → takeHeld_lockKey,
    lateResponse_lockKey]

/-! #### Optical ports as state -/

@[simp] theorem setPort_lockKey (hw : Hw) (p : Nat) (v : Port) : (setPort hw p v).lockKey = hw.lockKey := by
  simp [setPort]

@[simp] theorem setLaser_lockKey (hw : Hw) (m : Nat) (v : Laser) : (setLaser hw m v).lockKey = hw.lockKey := by
  simp [setLaser]

@[simp] theorem setPState_lockKey (hw : Hw) (p s : Nat) : (setPState hw p s).lockKey = hw.lockKey := by
  simp [setPState]

@[simp] theorem setWidth_lockKey (hw : Hw) (p : Nat) (w : Nat × Bool × Nat) : (setWidth hw p w).lockKey = hw.lockKey := by
  simp [setWidth]

@[simp] theorem fabEvent_lockKey (hw : Hw) (evt p pkg info : Nat) : (fabEvent hw evt p pkg info).lockKey = hw.lockKey := by
  simp [fabEvent]

@[simp] theorem portEvent_lockKey (hw : Hw) (evt p pkg info : Nat) : (portEvent hw evt p pkg info).lockKey = hw.lockKey := by
  simp [portEvent]

@[simp] theorem flitsOut_lockKey (hw : Hw) (p slots : Nat) : (flitsOut hw p slots).lockKey = hw.lockKey := by
  simp [flitsOut]

@[simp] theorem mgmtOut_lockKey (hw : Hw) (p kind : Nat) (bytes : List Byte) :
    (mgmtOut hw p kind bytes).lockKey = hw.lockKey := by
  simp [mgmtOut]

@[simp] theorem reroute_lockKey (old hw : Hw) (dests : List Nat) : (reroute old hw dests).lockKey = hw.lockKey := by
  simp [reroute]

@[simp] theorem advertise_lockKey (hw : Hw) : (advertise hw).lockKey = hw.lockKey := by
  simp [advertise]

@[simp] theorem advertiseNew_lockKey (old hw : Hw) : (advertiseNew old hw).lockKey = hw.lockKey := by
  simp [advertiseNew]

/-! #### Training -/

@[simp] theorem trainStart_lockKey (hw : Hw) (p : Nat) : (trainStart hw p).lockKey = hw.lockKey := by
  simp [trainStart]

@[simp] theorem portDark_lockKey (hw : Hw) (p : Nat) : (portDark hw p).lockKey = hw.lockKey := by
  simp [portDark]

@[simp] theorem backToDark_lockKey (hw : Hw) (p : Nat) : (backToDark hw p).lockKey = hw.lockKey := by
  unfold backToDark
  dsimp only
  rw [setPort_lockKey, lockKey_mk, rset_lockKey, rset_lockKey, setWidth_lockKey, setPState_lockKey]

@[simp] theorem showLaser_lockKey (hw : Hw) (m : Nat) : (showLaser hw m).lockKey = hw.lockKey := by
  simp [showLaser]

@[simp] theorem drawNonce_lockKey (hw : Hw) : (drawNonce hw).2.lockKey = hw.lockKey := by
  simp [drawNonce]

@[simp] theorem widthEvents_lockKey (hw : Hw) (p : Nat) : (widthEvents hw p).lockKey = hw.lockKey := by
  simp [widthEvents]

@[simp] theorem portActive_lockKey (hw : Hw) (p : Nat) : (portActive hw p).lockKey = hw.lockKey := by
  simp [portActive]

/-! #### The storage of an accelerator core -/

@[simp] theorem setCore_lockKey (hw : Hw) (c : Nat) (v : Core) : (setCore hw c v).lockKey = hw.lockKey := by
  simp [setCore]

@[simp] theorem modCore_lockKey (hw : Hw) (c : Nat) (f : Core → Core) : (modCore hw c f).lockKey = hw.lockKey := by
  simp [modCore]

@[simp] theorem setTree_lockKey (hw : Hw) (d : Nat) (v : Tree) : (setTree hw d v).lockKey = hw.lockKey := by
  simp [setTree]

@[simp] theorem setQueue_lockKey (hw : Hw) (c q : Nat) (v : Queue) : (setQueue hw c q v).lockKey = hw.lockKey := by
  simp [setQueue]

@[simp] theorem setCmd_lockKey (hw : Hw) (c : Nat) (m : Cmd) : (setCmd hw c m).lockKey = hw.lockKey := by
  simp [setCmd]

@[simp] theorem dropCmd_lockKey (hw : Hw) (c id : Nat) : (dropCmd hw c id).lockKey = hw.lockKey := by
  simp [dropCmd]

@[simp] theorem setGroup_lockKey (hw : Hw) (g s : Nat) : (setGroup hw g s).lockKey = hw.lockKey := by
  simp [setGroup]

@[simp] theorem spadFound_lockKey (hw : Hw) (c i : Nat) : (spadFound hw c i).lockKey = hw.lockKey := by
  simp [spadFound]

@[simp] theorem spadScan_lockKey (hw : Hw) (c off n : Nat) : (spadScan hw c off n).lockKey = hw.lockKey := by
  simp [spadScan]

@[simp] theorem accFound_lockKey (hw : Hw) (c i : Nat) : (accFound hw c i).lockKey = hw.lockKey := by
  simp [accFound]

@[simp] theorem accScan_lockKey (hw : Hw) (c off n : Nat) : (accScan hw c off n).lockKey = hw.lockKey := by
  simp [accScan]

@[simp] theorem spadPut_lockKey (hw : Hw) (c off : Nat) (bs : List Byte) (poison : Bool) :
    (spadPut hw c off bs poison).lockKey = hw.lockKey := by
  simp [spadPut]

@[simp] theorem accPut_lockKey (hw : Hw) (c off : Nat) (bs : List Byte) (poison : Bool) :
    (accPut hw c off bs poison).lockKey = hw.lockKey := by
  simp [accPut]

@[simp] theorem landPart_lockKey (c : Nat) (hw : Hw) (x : LatePart) : (landPart c hw x).lockKey = hw.lockKey := by
  simp [landPart]

@[simp] theorem addLate_lockKey (hw : Hw) (c : Nat) (x : LatePart) : (addLate hw c x).lockKey = hw.lockKey := by
  simp [addLate]

@[simp] theorem comesLate_lockKey (hw : Hw) (c : Nat) (x : LatePart) : (comesLate hw c x).2.lockKey = hw.lockKey := by
  simp [comesLate]

@[simp] theorem tilePut_lockKey (c id : Nat) (tile : Bool) (kind : Nat) (hw : Hw) (addr : Nat) (bs : List Byte) (poison : Bool)
    : (tilePut c id tile kind hw addr bs poison).lockKey = hw.lockKey := by
  simp [tilePut]

@[simp] theorem landWhere_lockKey (c : Nat) (p : LatePart → Bool) (hw : Hw) : (landWhere c p hw).lockKey = hw.lockKey := by
  simp [landWhere]

@[simp] theorem spcViolation_lockKey (hw : Hw) (c cause pkg agent off : Nat) :
    (spcViolation hw c cause pkg agent off).lockKey = hw.lockKey := by
  simp [spcViolation]

@[simp] theorem creditTake_lockKey (hw : Hw) (c n pkg agent : Nat) : (creditTake hw c n pkg agent).1.lockKey = hw.lockKey := by
  simp [creditTake]

@[simp] theorem creditEnd_lockKey (hw : Hw) (c n pkg agent : Nat) : (creditEnd hw c n pkg agent).lockKey = hw.lockKey := by
  simp [creditEnd]

@[simp] theorem spadServed_lockKey (hw : Hw) (c : Nat) : (spadServed hw c).lockKey = hw.lockKey := by
  simp [spadServed]

@[simp] theorem spadWriteByP_lockKey (hw : Hw) (ag : Agent) (c off : Nat) (bs : List Byte) (poison : Bool) :
    (spadWriteByP hw ag c off bs poison).1.lockKey = hw.lockKey := by
  unfold spadWriteByP
  dsimp only
  (repeat' split) <;> simp

@[simp] theorem spadWriteBy_lockKey (hw : Hw) (ag : Agent) (c off : Nat) (bs : List Byte) :
    (spadWriteBy hw ag c off bs).1.lockKey = hw.lockKey := by
  simp [spadWriteBy]

@[simp] theorem spadRead_lockKey (hw : Hw) (c off n : Nat) : (spadRead hw c off n).1.lockKey = hw.lockKey := by
  simp [spadRead]

@[simp] theorem accRead_lockKey (hw : Hw) (c off n : Nat) : (accRead hw c off n).1.lockKey = hw.lockKey := by
  simp [accRead]

theorem spadReadBy_lockKey {out : Hw × List Byte × Bool} (hw : Hw) (ag : Agent) (c off n : Nat)
    (h : spadReadBy hw ag c off n = some out) : out.1.lockKey = hw.lockKey := by
  grind [spadReadBy, spadRead_lockKey, spadServed_lockKey]

theorem accReadBy_lockKey {out : Hw × List Byte × Bool} (hw : Hw) (ag : Agent) (c off n : Nat)
    (h : accReadBy hw ag c off n = some out) : out.1.lockKey = hw.lockKey := by
  grind [accReadBy, accRead_lockKey]

@[simp] theorem mbParity_lockKey (hw : Hw) (c : Nat) (e : MbEnt) : (mbParity hw c e).lockKey = hw.lockKey := by
  simp [mbParity]

theorem mbDrain_lockKey {out : Hw} (hw : Hw) (c : Nat) (e : MbEnt) (h : mbDrain hw c e = some out) :
    out.lockKey = hw.lockKey := by
  grind [mbDrain, → pocWrite_lockKey, modCore_lockKey, mbParity_lockKey, rinc_lockKey]

theorem mbDrainAll_lockKey {out : Hw} (hw : Hw) (c : Nat) (es : List MbEnt) (h : mbDrainAll hw c es = some out) :
    out.lockKey = hw.lockKey := by
  fun_induction mbDrainAll generalizing out <;> grind [→ mbDrain_lockKey]

theorem mbDrainFor_lockKey {out : Hw} (hw : Hw) (c pa n : Nat) (h : mbDrainFor hw c pa n = some out) :
    out.lockKey = hw.lockKey := by
  grind [mbDrainFor, → mbDrainAll_lockKey]

theorem mbStoreM_lockKey {out : Hw} (hw : Hw) (c ctx g : Nat) (mask : BitVec 64) (data : List Byte) (poison tile : Bool)
    (h : mbStoreM hw c ctx g mask data poison tile = some out) : out.lockKey = hw.lockKey := by
  unfold mbStoreM at h
  extract_lets mb cleared at h
  have hc w (hw' : cleared = some w) : w.lockKey = hw.lockKey := by
    unfold cleared at hw'
    grind [→ mbDrain_lockKey]
  clear_value cleared
  obtain _ | w := cleared
  · cases h
  have hw' := hc w rfl
  dsimp only at h
  split at h
  · cases h
    rw [modCore_lockKey, hw']
  split at h
  · cases h
    split
    · rw [getD_lockKey fun w => mbDrain_lockKey _ _ _, draw_lockKey, modCore_lockKey, hw']
    · rw [draw_lockKey, modCore_lockKey, hw']
  · rw [mbDrain_lockKey _ _ _ h, modCore_lockKey, hw']

@[simp] theorem l1Bad_lockKey (hw : Hw) (c : Nat) (l : L1Line) (inL1 : Bool) : (l1Bad hw c l inL1).lockKey = hw.lockKey := by
  simp [l1Bad]

@[simp] theorem l1Check_lockKey (hw : Hw) (c line : Nat) (tagsOnly : Bool) :
    (l1Check hw c line tagsOnly).lockKey = hw.lockKey := by
  simp [l1Check]

theorem l1StoreM_lockKey {out : Hw} (hw : Hw) (c ctx g : Nat) (mask : BitVec 64) (data : List Byte) (poison tile : Bool)
    (h : l1StoreM hw c ctx g mask data poison tile = some out) : out.lockKey = hw.lockKey := by
  grind [l1StoreM, → mbStoreM_lockKey, l1Check_lockKey, modCore_lockKey]

theorem l1Store_lockKey {out : Hw} (fuel : Nat) (hw : Hw) (c ctx a : Nat) (bs : List Byte) (poison : Bool)
    (h : l1Store fuel hw c ctx a bs poison = some out) : out.lockKey = hw.lockKey := by
  fun_induction l1Store generalizing out <;> grind [→ l1StoreM_lockKey]

@[simp] theorem l1Drop_lockKey (hw : Hw) (c pa n : Nat) : (l1Drop hw c pa n).lockKey = hw.lockKey := by
  simp [l1Drop]

@[simp] theorem l1Invalidate_lockKey (hw : Hw) (c : Nat) : (l1Invalidate hw c).lockKey = hw.lockKey := by
  simp [l1Invalidate]

@[simp] theorem l1Touch_lockKey (hw : Hw) (c line : Nat) : (l1Touch hw c line).lockKey = hw.lockKey := by
  simp [l1Touch]

theorem lineRead_lockKey {out : Hw × L1Line × Bool × Bool} (hw : Hw) (c line : Nat) (h : lineRead hw c line = some out) :
    out.1.lockKey = hw.lockKey := by
  grind [lineRead, → pocRead_lockKey]

theorem pfArrive_lockKey {out : Hw} (hw : Hw) (c line : Nat) (h : pfArrive hw c line = some out) :
    out.lockKey = hw.lockKey := by
  grind [pfArrive, → lineRead_lockKey, modCore_lockKey]

@[simp] theorem pfRun_lockKey (hw : Hw) (c : Nat) (k : Tracker) (olds : List Tracker) :
    (pfRun hw c k olds).lockKey = hw.lockKey := by
  simp [pfRun]

@[simp] theorem pfTrain_lockKey (hw : Hw) (c eng ctx : Nat) (lines missed : List Nat) (p : PageLines) :
    (pfTrain hw c eng ctx lines missed p).lockKey = hw.lockKey := by
  unfold pfTrain
  dsimp only
  (repeat' split) <;> simp

theorem l1Access_lockKey {out : Hw × List Nat} (hw : Hw) (c eng ctx : Nat) (secs : List Nat) (p : PageLines)
    (h : l1Access hw c eng ctx secs p = some out) : out.1.lockKey = hw.lockKey := by
  unfold l1Access at h
  extract_lets lines serve at h
  obtain ⟨r, hr, rfl⟩ := Option.map_eq_some_iff.mp h
  rw [pfTrain_lockKey]
  refine foldl_bind_lockKey (g := Prod.fst) (fun a line b hb => ?_) hr
  extract_lets hw0 t ways need filled at hb
  split at hb
  · obtain rfl := Option.some.inj hb
    rw [l1Touch_lockKey, radd_lockKey]
    exact l1Check_lockKey ..
  obtain ⟨w, hw', hb⟩ := Option.bind_eq_some_iff.mp hb
  have hf : w.lockKey = a.1.lockKey := by
    unfold filled at hw'
    split at hw'
    · rw [pfArrive_lockKey _ _ _ hw', l1Check_lockKey]
    · cases hw'
      exact l1Check_lockKey ..
  split at hb
  · obtain rfl := Option.some.inj hb
    rw [l1Touch_lockKey, radd_lockKey, hf]
  · obtain ⟨z, hz, rfl⟩ := Option.map_eq_some_iff.mp hb
    simp [lineRead_lockKey _ _ _ hz, hf]

/-! #### Address translation of the accelerator cores -/

theorem walkGo_lockKey {rd : Reader} {note : Hw → Nat → Word → Hw}
    (hrd : ∀ hw a n out, rd hw a n = some out → out.1.lockKey = hw.lockKey)
    (hnote : ∀ hw a e, (note hw a e).lockKey = hw.lockKey) {out : Hw × WalkOut} (va : Nat) (aof : Bool)
    (n : Nat) (hw : Hw) (table : Nat)
    (h : walkGo rd note va aof n hw table = some out) : out.1.lockKey = hw.lockKey := by
  induction n generalizing hw table with
  | zero =>
    cases h
    rfl
  | succ n ih =>
    unfold walkGo at h
    grind

theorem walkWith_lockKey {rd : Reader} {note : Hw → Nat → Word → Hw}
    (hrd : ∀ hw a n out, rd hw a n = some out → out.1.lockKey = hw.lockKey)
    (hnote : ∀ hw a e, (note hw a e).lockKey = hw.lockKey) {out : Hw × WalkOut} (hw : Hw) (ctx va : Nat)
    (h : walkWith rd note hw ctx va = some out) : out.1.lockKey = hw.lockKey := by
  unfold walkWith at h
  grind [walkGo_lockKey]

@[simp] theorem walkParity_lockKey (hw : Hw) (d a : Nat) : (walkParity hw d a).lockKey = hw.lockKey := by
  simp [walkParity]

@[simp] theorem walkNote_lockKey (d ctx : Nat) (hw : Hw) (a : Nat) (e : Word) :
    (walkNote d ctx hw a e).lockKey = hw.lockKey := by
  simp [walkNote]

@[simp] theorem atuParity_lockKey (hw : Hw) (c va : Nat) : (atuParity hw c va).lockKey = hw.lockKey := by
  unfold atuParity
  dsimp only
  split <;> simp

@[simp] theorem xlatExtent_lockKey (c ctx : Nat) (write : Bool) (fuel : Nat) (hw : Hw) (m : Cmd) (va n : Nat) :
    (xlatExtent c ctx write fuel hw m va n).1.lockKey = hw.lockKey := by
  fun_induction xlatExtent <;> grind [atuParity_lockKey, radd_lockKey, modCore_lockKey]

@[simp] theorem xlatAll_lockKey (c ctx : Nat) (es : List (Nat × Nat × Bool)) (hw : Hw) (m : Cmd) :
    (xlatAll c ctx es hw m).1.lockKey = hw.lockKey := by
  fun_induction xlatAll <;> grind [xlatExtent_lockKey]

@[simp] theorem slotSet_lockKey (hw : Hw) (c n : Nat) (v : Option FltSlot) : (slotSet hw c n v).lockKey = hw.lockKey := by
  simp [slotSet]

@[simp] theorem takeFault_lockKey (hw : Hw) (c : Nat) (m : Cmd) (ctx cause level : Nat) (key : Option Nat) (entry : Word)
    (va : Nat) (write aof : Bool) : (takeFault hw c m ctx cause level key entry va write aof).1.lockKey = hw.lockKey := by
  unfold takeFault
  dsimp only
  (repeat' split) <;> simp

@[simp] theorem askWalk_lockKey (hw : Hw) (c : Nat) (m : Cmd) (ctx va : Nat) (write : Bool) :
    (askWalk hw c m ctx va write).lockKey = hw.lockKey := by
  simp [askWalk]

@[simp] theorem translate_lockKey (hw : Hw) (c : Nat) (m : Cmd) : (translate hw c m).1.lockKey = hw.lockKey := by
  grind [translate, takeFault_lockKey, askWalk_lockKey, xlatAll_lockKey, modCore_lockKey]

@[simp] theorem translateAgain_lockKey (hw : Hw) (c id : Nat) : (translateAgain hw c id).lockKey = hw.lockKey := by
  unfold translateAgain
  split <;> simp

@[simp] theorem fifoGo_lockKey (c q eng n : Nat) (hw : Hw) : (fifoGo c q eng n hw).lockKey = hw.lockKey := by
  fun_induction fifoGo <;> simp_all

@[simp] theorem fifoAll_lockKey (hw : Hw) (c : Nat) : (fifoAll hw c).lockKey = hw.lockKey := by
  simp [fifoAll]

@[simp] theorem slotFree_lockKey (hw : Hw) (c n : Nat) (s : FltSlot) : (slotFree hw c n s).lockKey = hw.lockKey := by
  simp [slotFree]

@[simp] theorem wakeWaiters_lockKey (hw : Hw) (c : Nat) : (wakeWaiters hw c).lockKey = hw.lockKey := by
  simp [wakeWaiters]

@[simp] theorem forget_lockKey (hw : Hw) (c id : Nat) : (forget hw c id).lockKey = hw.lockKey := by
  unfold forget
  extract_lets _ t hw0 hw1 held q hw2
  have h2 : hw2.lockKey = hw.lockKey := by
    refine (foldN_lockKey (fun w n => ?_) ..).trans ?_
    · dsimp only
      split
      · split <;> [split; skip] <;> simp
      · rfl
    · rw [modCore_lockKey, setTree_lockKey]
  split
  · rw [wakeWaiters_lockKey, h2]
  · exact h2

/-! #### Sending fabric messages (R431, R435–R440) and requests through a downstream port -/

@[simp] theorem fabOut_lockKey (hw : Hw) (p op : Nat) (h : FabHdr) (data : List Byte) (req : Option FabReq) :
    (fabOut hw p op h data req).lockKey = hw.lockKey := by
  unfold fabOut
  dsimp only
  split
  · rw [lockKey_mk, lockKey_mk, setPort_lockKey, flitsOut_lockKey]
  · rw [lockKey_mk, setPort_lockKey, flitsOut_lockKey]

@[simp] theorem fabHold_lockKey (hw : Hw) (level op : Nat) (h : FabHdr) (data : List Byte) (req : Option FabReq) :
    (fabHold hw level op h data req).lockKey = hw.lockKey := by
  simp [fabHold]

@[simp] theorem bucketNow_lockKey (hw : Hw) (level : Nat) : (bucketNow hw level).2.lockKey = hw.lockKey := by
  simp [bucketNow]

@[simp] theorem fabSend_lockKey (hw : Hw) (op : Nat) (h : FabHdr) (data : List Byte) (req : Option FabReq) :
    (fabSend hw op h data req).1.lockKey = hw.lockKey := by
  unfold fabSend
  dsimp only
  (repeat' split) <;> simp

@[simp] theorem fabRequest_lockKey (hw : Hw) (c cmd op pa len : Nat) (h : FabHdr) (data : List Byte) (dest : ReqDest) :
    (fabRequest hw c cmd op pa len h data dest).1.lockKey = hw.lockKey := by
  simp [fabRequest]

@[simp] theorem dropWrite_lockKey (hw : Hw) (c : Nat) (m : Cmd) : (dropWrite hw c m).1.lockKey = hw.lockKey := by
  simp [dropWrite]

@[simp] theorem cmdRequest_lockKey (hw : Hw) (c : Nat) (m : Cmd) (op pa len : Nat) (h : FabHdr) (data : List Byte)
    (dest : ReqDest) : (cmdRequest hw c m op pa len h data dest).1.lockKey = hw.lockKey := by
  simp [cmdRequest]

@[simp] theorem dsRead_lockKey (hw : Hw) (a addr len : Nat) (who : DsWho) :
    (dsRead hw a addr len who).lockKey = hw.lockKey := by
  simp [dsRead]

@[simp] theorem headerWritten_lockKey (hw : Hw) (a : Nat) : (headerWritten hw a).lockKey = hw.lockKey := by
  simp [headerWritten]

@[simp] theorem dsWrite_lockKey (hw : Hw) (a addr : Nat) (bs : List Byte) (who : DsWho) :
    (dsWrite hw a addr bs who).lockKey = hw.lockKey := by
  simp [dsWrite]

@[simp] theorem dsPost_lockKey (hw : Hw) (a addr : Nat) (bs : List Byte) (ro : Bool) :
    (dsPost hw a addr bs ro).lockKey = hw.lockKey := by
  simp [dsPost]

@[simp] theorem enginePost_lockKey (c a : Nat) (hw : Hw) (m : Cmd) (addr : Nat) (bs : List Byte) :
    (enginePost c a hw m addr bs).1.lockKey = hw.lockKey := by
  simp [enginePost]

theorem reduceN_lockKey {out : Hw × Bool} (how : WrHow) (ag : Agent) (roe : Bool) (fuel : Nat) (hw : Hw) (a : Nat)
    (bs : List Byte) (h : reduceN how ag roe fuel hw a bs = some out) : out.1.lockKey = hw.lockKey := by
  fun_induction reduceN generalizing out <;> grind [→ pocServe_lockKey, Option.map_eq_some_iff, Option.bind_eq_some_iff]

theorem tierWrite_lockKey {out : Hw} (fuel : Nat) (hw : Hw) (ag : Agent) (a : Nat) (bs : List Byte) (poison : Bool)
    (hint htgt : Nat) (roe : Bool) (h : tierWrite fuel hw ag a bs poison hint htgt roe = some out) : out.lockKey = hw.lockKey
    := by
  fun_induction tierWrite generalizing out <;> grind [→ pocServe_lockKey]

theorem tierRead_lockKey {out : Hw × List Byte × Bool} (hint htgt fuel : Nat) (hw : Hw) (ag : Agent) (a n : Nat) (roe : Bool)
    (h : tierRead hint htgt fuel hw ag a n roe = some out) : out.1.lockKey = hw.lockKey := by
  fun_induction tierRead generalizing out <;> grind [→ pocServe_lockKey]

@[simp] theorem poisonUsed_lockKey (hw : Hw) (c unit ctx pa : Nat) : (poisonUsed hw c unit ctx pa).lockKey = hw.lockKey := by
  simp [poisonUsed]

@[simp] theorem dmaRefused_lockKey (hw : Hw) (c : Nat) (m : Cmd) (pa cause : Nat) :
    (dmaRefused hw c m pa cause).1.lockKey = hw.lockKey := by
  simp [dmaRefused]

theorem readPieces_lockKey {rd : Hw → Nat → Nat → Option (Hw × List Byte × Bool)}
    (hrd : ∀ hw o k out, rd hw o k = some out → out.1.lockKey = hw.lockKey) {out : Hw × List Byte × Bool}
    (ps : List (Nat × Nat))
    (hw : Hw) (h : readPieces rd ps hw = some out) : out.1.lockKey = hw.lockKey := by
  induction ps generalizing hw out with
  | nil =>
    cases h
    rfl
  | cons p ps ih =>
    unfold readPieces at h
    grind [Option.map_eq_some_iff]

@[simp] theorem spadPieces_lockKey (ag : Agent) (t : Nat) (poison : Bool) (ps : List (Nat × Nat)) (hw : Hw) (bs : List Byte) :
    (spadPieces ag t poison ps hw bs).1.lockKey = hw.lockKey := by
  fun_induction spadPieces <;> grind [spadWriteByP_lockKey]

theorem dmaWriteLocal_lockKey {out : Hw × Cmd} (hw : Hw) (c : Nat) (m : Cmd) (pa : Nat) (bs : List Byte) (poison : Bool)
    (how : WrHow) (h : dmaWriteLocal hw c m pa bs poison how = some out) : out.1.lockKey = hw.lockKey := by
  unfold dmaWriteLocal at h
  grind [→ tierWrite_lockKey, l1Drop_lockKey, poisonUsed_lockKey, dmaRefused_lockKey, dsWrite_lockKey, → reduceN_lockKey,
    accPut_lockKey, spadPieces_lockKey, spadPut_lockKey, enginePost_lockKey, dropWrite_lockKey, foldl_fst_lockKey]

theorem dmaWrite_lockKey {out : Hw × Cmd} (c : Nat) (poison : Bool) (how : WrHow) (ps : List (Nat × Nat)) (hw : Hw) (m : Cmd)
    (bs : List Byte) (h : dmaWrite c poison how ps hw m bs = some out) : out.1.lockKey = hw.lockKey := by
  fun_induction dmaWrite generalizing out <;> grind [→ dmaWriteLocal_lockKey, cmdRequest_lockKey]

theorem dmaReadLocal_lockKey {out : Hw × Cmd × Option (List Byte × Bool)} (hw : Hw) (c : Nat) (m : Cmd) (pa n : Nat)
    (roe : Bool) (dest : ReqDest) (h : dmaReadLocal hw c m pa n roe dest = some out) : out.1.lockKey = hw.lockKey := by
  unfold dmaReadLocal at h
  grind [dmaRefused_lockKey, spadRead_lockKey, dsRead_lockKey, → spadReadBy_lockKey, → readPieces_lockKey, → tierRead_lockKey,
    accRead_lockKey, → accReadBy_lockKey, foldl_fst_lockKey]

@[simp] theorem stageBytes_lockKey (hw : Hw) (c id off : Nat) (bs : List (Byte × Bool)) :
    (stageBytes hw c id off bs).lockKey = hw.lockKey := by
  simp [stageBytes]

theorem dmaRead_lockKey {out : Hw × Cmd × Option (List Byte × Bool)} (hw : Hw) (c : Nat) (m : Cmd) (pa n : Nat) (roe : Bool)
    (dest : ReqDest) (h : dmaRead hw c m pa n roe dest = some out) : out.1.lockKey = hw.lockKey := by
  unfold dmaRead at h
  split at h
  · obtain rfl := Option.some.inj h
    exact foldl_fst_lockKey (fun x p => cmdRequest_lockKey ..) ..
  · exact dmaReadLocal_lockKey _ _ _ _ _ _ _ h

theorem dmaPut_lockKey {out : Hw × Cmd} (hw : Hw) (c : Nat) (m : Cmd) (kind addr : Nat) (bs : List Byte) (poison : Bool)
    (how : WrHow) (h : dmaPut hw c m kind addr bs poison how = some out) : out.1.lockKey = hw.lockKey := by
  grind [dmaPut, stageBytes_lockKey, accPut_lockKey, spadPut_lockKey, → dmaWrite_lockKey]

@[simp] theorem signalLost_lockKey (hw : Hw) (r : FabReq) (addr : Nat) : (signalLost hw r addr).lockKey = hw.lockKey := by
  simp [signalLost]

@[simp] theorem postWrites_lockKey (ag : Agent) (poison : Bool) (how : WrHow) (who : Option (Nat × Nat)) (fuel : Nat) (hw : Hw)
    (a : Nat) (bs : List Byte) : (postWrites ag poison how who fuel hw a bs).1.lockKey = hw.lockKey := by
  fun_induction postWrites <;> grind [homeArrive_lockKey, → pocServe_lockKey]

@[simp] theorem putArrived_lockKey (hw : Hw) (c : Nat) (m : Cmd) (kind addr : Nat) (bs : List Byte) (poison : Bool)
    (how : WrHow) : (putArrived hw c m kind addr bs poison how).1.lockKey = hw.lockKey := by
  grind [putArrived, l1Drop_lockKey, postWrites_lockKey, → dmaPut_lockKey]

@[simp] theorem arrivePut_lockKey (hw : Hw) (c : Nat) (m : Cmd) (kind addr : Nat) (bs : List Byte) (poison : Bool) (how : WrHow)
    : (arrivePut hw c m kind addr bs poison how).1.lockKey = hw.lockKey := by
  simp [arrivePut]

@[simp] theorem setG_lockKey (hw : Hw) (c q n : Nat) (v : Word) : (setG hw c q n v).lockKey = hw.lockKey := by
  simp [setG]

@[simp] theorem fabFinish_lockKey (hw : Hw) (r : FabReq) (status : Nat) (data : List Byte) (old : Word) :
    (fabFinish hw r status data old).lockKey = hw.lockKey := by
  unfold fabFinish
  dsimp only
  (repeat' split) <;> simp

@[simp] theorem fabPoisoned_lockKey (hw : Hw) (r : FabReq) (data : List Byte) :
    (fabPoisoned hw r data).lockKey = hw.lockKey := by
  unfold fabPoisoned
  (repeat' split) <;> simp

@[simp] theorem noRoute_lockKey (hw : Hw) (h : FabHdr) : (noRoute hw h).lockKey = hw.lockKey := by
  simp [noRoute]

@[simp] theorem fabEmit_lockKey (hw : Hw) (op : Nat) (h : FabHdr) (data : List Byte) (req : Option FabReq) :
    (fabEmit hw op h data req).lockKey = hw.lockKey := by
  unfold fabEmit
  (repeat' split) <;> grind [fabFinish_lockKey, fabSend_lockKey, noRoute_lockKey]

@[simp] theorem retryHeld_lockKey (n : Nat) (hw : Hw) : (retryHeld n hw).lockKey = hw.lockKey := by
  fun_induction retryHeld <;> simp_all

/-! #### The life of a command at its engine (R205 steps 5 and 6) -/

@[simp] theorem qfeLog_lockKey (hw : Hw) (c cause q v : Nat) : (qfeLog hw c cause q v).lockKey = hw.lockKey := by
  simp [qfeLog]

@[simp] theorem stopQueue_lockKey (hw : Hw) (c q eng st inst index : Nat) (code : Option Nat) :
    (stopQueue hw c q eng st inst index code).lockKey = hw.lockKey := by
  simp [stopQueue]

@[simp] theorem startWake_lockKey (hw : Hw) (g : Nat) : (startWake hw g).lockKey = hw.lockKey := by
  unfold startWake
  rw [lockKey_mk, setGroup_lockKey, rfield_lockKey]

@[simp] theorem groupRung_lockKey (hw : Hw) (g : Nat) : (groupRung hw g).lockKey = hw.lockKey := by
  simp [groupRung]

@[simp] theorem ringDoorbell_lockKey (hw : Hw) (c q new : Nat) : (ringDoorbell hw c q new).lockKey = hw.lockKey := by
  unfold ringDoorbell
  dsimp only
  (repeat' split) <;> simp

@[simp] theorem localSignal_lockKey (hw : Hw) (c q : Nat) (w : List Word) : (localSignal hw c q w).lockKey = hw.lockKey := by
  simp [localSignal]

@[simp] theorem treeAdd_lockKey (hw : Hw) (d node : Nat) (a : TreeAdd) : (treeAdd hw d node a).lockKey = hw.lockKey := by
  simp [treeAdd]

@[simp] theorem memSignal_lockKey (hw : Hw) (c : Nat) (m : Cmd) : (memSignal hw c m).lockKey = hw.lockKey := by
  unfold memSignal
  split
  · rfl
  split
  · rfl
  dsimp only
  split
  · rfl
  split
  · split <;> simp
  split
  · simp
  split
  · simp
  split
  · next r hr =>
    have hr := pocServe_lockKey _ _ hr
    split
    · rw [signalPoisoned_lockKey, hr]
    · exact hr
  · simp

@[simp] theorem signals_lockKey (hw : Hw) (c : Nat) (m : Cmd) : (signals hw c m).lockKey = hw.lockKey := by
  simp [signals]

@[simp] theorem partApply_lockKey (hw : Hw) (g : Nat) : (partApply hw g).lockKey = hw.lockKey := by
  simp [partApply]

@[simp] theorem closeQueue_lockKey (hw : Hw) (c q : Nat) : (closeQueue hw c q).lockKey = hw.lockKey := by
  simp [closeQueue]

@[simp] theorem meLeave_lockKey (hw : Hw) (c : Nat) (m : Cmd) : (meLeave hw c m).lockKey = hw.lockKey := by
  simp [meLeave]

@[simp] theorem retireCmd_lockKey (hw : Hw) (c : Nat) (m : Cmd) : (retireCmd hw c m).lockKey = hw.lockKey := by
  simp [retireCmd]

@[simp] theorem endUnstarted_lockKey (hw : Hw) (c : Nat) (m : Cmd) (st : Nat) :
    (endUnstarted hw c m st).lockKey = hw.lockKey := by
  simp [endUnstarted]

@[simp] theorem abortAll_lockKey (hw : Hw) (c q : Nat) : (abortAll hw c q).lockKey = hw.lockKey := by
  simp [abortAll]

@[simp] theorem discardCmd_lockKey (hw : Hw) (c : Nat) (m : Cmd) : (discardCmd hw c m).lockKey = hw.lockKey := by
  simp [discardCmd]

@[simp] theorem killCmd_lockKey (hw : Hw) (c : Nat) (m : Cmd) : (killCmd hw c m).lockKey = hw.lockKey := by
  unfold killCmd
  (repeat' split) <;> simp

@[simp] theorem killQueue_lockKey (hw : Hw) (c q : Nat) : (killQueue hw c q).lockKey = hw.lockKey := by
  simp [killQueue]

@[simp] theorem killContext_lockKey (hw : Hw) (c ctx : Nat) : (killContext hw c ctx).lockKey = hw.lockKey := by
  simp [killContext]

@[simp] theorem killPass_lockKey (c : Nat) (r : Hw × Answer) : (killPass c r).1.lockKey = r.1.lockKey := by
  simp [killPass]

@[simp] theorem takeTurn_lockKey (hw : Hw) (c q eng : Nat) : (takeTurn hw c q eng).lockKey = hw.lockKey := by
  simp [takeTurn]

@[simp] theorem storedCmd_lockKey (hw : Hw) (c : Nat) (m : Cmd) : (storedCmd hw c m).1.lockKey = hw.lockKey := by
  simp [storedCmd]

theorem beginCmd_lockKey {out : Hw × Cmd × Option Nat} (hw : Hw) (c q eng op : Nat) (can : Hw → Cmd → Bool)
    (h : beginCmd hw c q eng op can = some out) : out.1.lockKey = hw.lockKey := by
  grind [beginCmd, rsetN_lockKey, storedCmd_lockKey, poisonUsed_lockKey, takeTurn_lockKey, l1Invalidate_lockKey,
    landWhere_lockKey]

theorem engineRow_lockKey (c q eng op : Nat) (can : Hw → Cmd → Bool) {body : Hw → Cmd → Option (Hw × Cmd)}
    (hbody : ∀ w m out, body w m = some out → out.1.lockKey = w.lockKey) (hw : Hw) :
    (engineRow c q eng op can body hw).1.lockKey = hw.lockKey := by
  unfold engineRow
  rw [killPass_lockKey]
  grind [→ beginCmd_lockKey, setCmd_lockKey, killPass_lockKey, did_lockKey]

@[simp] theorem sendEnd_lockKey (hw : Hw) (c : Nat) (m : Cmd) : (sendEnd hw c m).1.lockKey = hw.lockKey := by
  unfold sendEnd
  (repeat' split) <;> simp

theorem landOne_lockKey {out : Hw × Cmd} (c : Nat) (x : LatePart) (y : Hw × Cmd) (h : landOne c x y = some out) :
    out.1.lockKey = y.1.lockKey := by
  grind [landOne, landPart_lockKey, → dmaWrite_lockKey, Option.map_eq_some_iff, Option.bind_eq_some_iff]

theorem landLate_lockKey {out : Hw × Cmd} (hw : Hw) (c : Nat) (m : Cmd) (h : landLate hw c m = some out) :
    out.1.lockKey = hw.lockKey := by
  unfold landLate at h
  dsimp only at h
  split at h
  · cases h
    rfl
  · obtain ⟨z, hz, rfl⟩ := Option.map_eq_some_iff.mp h
    rw [modCore_lockKey]
    exact foldl_bind_lockKey (g := Prod.fst) (fun y k z => landOne_lockKey _ _ _) hz

@[simp] theorem retireRow_lockKey (c q eng : Nat) (hwOld : Hw) : (retireRow c q eng hwOld).1.lockKey = hwOld.lockKey := by
  unfold retireRow
  split
  · rfl
  split
  · rfl
  · next w m hm =>
    obtain ⟨m0, -, hm⟩ := Option.bind_eq_some_iff.mp hm
    have hw' := landLate_lockKey _ _ _ hm
    grind [meLeave_lockKey, setCmd_lockKey, sendEnd_lockKey, → landLate_lockKey, retireCmd_lockKey, did_lockKey]

@[simp] theorem releaseRow_lockKey (c q eng : Nat) (hw : Hw) : (releaseRow c q eng hw).1.lockKey = hw.lockKey := by
  grind [releaseRow, retireCmd_lockKey, did_lockKey, → mbDrainAll_lockKey]

@[simp] theorem recordRow_lockKey (c q : Nat) (hw : Hw) : (recordRow c q hw).1.lockKey = hw.lockKey := by
  grind [recordRow, rsetN_lockKey, → pocWriteN_lockKey, message_lockKey, did_lockKey, modCore_lockKey]

@[simp] theorem semAsk_lockKey (hw : Hw) (c line : Nat) : (semAsk hw c line).lockKey = hw.lockKey := by
  simp [semAsk]

@[simp] theorem semArrives_lockKey (hw : Hw) (c line : Nat) (data : List Byte) (poison : Bool) :
    (semArrives hw c line data poison).lockKey = hw.lockKey := by
  simp [semArrives]

@[simp] theorem semRead_lockKey (hw : Hw) (c : Nat) (m : Cmd) : (semRead hw c m).lockKey = hw.lockKey := by
  grind (splits := 20) [semRead, semAsk_lockKey, setCmd_lockKey, fabRequest_lockKey, radd_lockKey, → pocRead_lockKey]

/-! #### The queue fetch engine -/

@[simp] theorem setPos_lockKey (hw : Hw) (c q pos : Nat) : (setPos hw c q pos).lockKey = hw.lockKey := by
  simp [setPos]

@[simp] theorem advance_lockKey (hw : Hw) (c q : Nat) : (advance hw c q).lockKey = hw.lockKey := by
  unfold advance
  dsimp only
  split <;> simp

@[simp] theorem endReplay_lockKey (hw : Hw) (c q : Nat) : (endReplay hw c q).lockKey = hw.lockKey := by
  unfold endReplay
  dsimp only
  split <;> simp

@[simp] theorem accept_lockKey (hw : Hw) (c : Nat) (m : Cmd) : (accept hw c m).lockKey = hw.lockKey := by
  simp [accept]

@[simp] theorem toWindow_lockKey (hw : Hw) (c : Nat) (m : Cmd) : (toWindow hw c m).lockKey = hw.lockKey := by
  simp [toWindow]

theorem placeCmd_lockKey {out : Hw} (hw : Hw) (c : Nat) (m : Cmd) {move : Hw → Hw} (hmove : ∀ w, (move w).lockKey = w.lockKey)
    (h : placeCmd hw c m move = some out) : out.lockKey = hw.lockKey := by
  unfold placeCmd at h
  grind [toWindow_lockKey, setCmd_lockKey, translate_lockKey]

theorem takeCmd_lockKey {out : Hw} (hw : Hw) (c : Nat) (m : Cmd) (seg : Bool) {move : Hw → Hw}
    (hmove : ∀ w, (move w).lockKey = w.lockKey)
    (h : takeCmd hw c m seg move = some out) : out.lockKey = hw.lockKey := by
  unfold takeCmd at h
  grind [accept_lockKey, → placeCmd_lockKey, radd_lockKey]

@[simp] theorem kCheck_lockKey (hw : Hw) (c q : Nat) (ks : List Nat) : (kCheck hw c q ks).1.lockKey = hw.lockKey := by
  simp [kCheck]

@[simp] theorem atFetchEffect_lockKey (hw : Hw) (c q : Nat) (w : List Word) (src : Src) :
    (atFetchEffect hw c q w src).lockKey = hw.lockKey := by
  unfold atFetchEffect
  split <;> simp

@[simp] theorem loopMove_lockKey (c q : Nat) (hw : Hw) : (loopMove c q hw).lockKey = hw.lockKey := by
  unfold loopMove
  dsimp only
  split <;> simp

theorem fetchInstance_lockKey {out : Hw} (hw : Hw) (c q : Nat) (n : LoopNest) (h : fetchInstance hw c q n = some out) :
    out.lockKey = hw.lockKey := by
  grind [fetchInstance, loopMove_lockKey, → takeCmd_lockKey]

theorem loadSet_lockKey {out : Hw × Bool} (hw : Hw) (c q : Nat) (r : Replay) (h : loadSet hw c q r = some out) :
    out.1.lockKey = hw.lockKey := by
  grind [loadSet, setQueue_lockKey, → pocReadN_lockKey, endReplay_lockKey, rsetN_lockKey, poisonUsed_lockKey,
    stopQueue_lockKey, errorResponse_lockKey]

@[simp] theorem lostSlot_lockKey (hw1 : Hw) (c q : Nat) (src : Src) (status : Nat) :
    (lostSlot hw1 c q src status).lockKey = hw1.lockKey := by
  simp [lostSlot]

@[simp] theorem poisonedSlot_lockKey (hw : Hw) (c q : Nat) (src : Src) : (poisonedSlot hw c q src).lockKey = hw.lockKey := by
  simp [poisonedSlot]

@[simp] theorem refusedSlot_lockKey (hw : Hw) (c q : Nat) (src : Src) : (refusedSlot hw c q src).lockKey = hw.lockKey := by
  simp [refusedSlot]

theorem takeBody_lockKey {out : Hw} (hw hw0 : Hw) (c q : Nat) (n : LoopNest) (raw w : List Word) (t : Queue) (src : Src)
    (h0 : hw0.lockKey = hw.lockKey) (h : takeBody hw hw0 c q n raw w t src = some out) : out.lockKey = hw.lockKey := by
  unfold takeBody at h
  grind [setQueue_lockKey, accept_lockKey, advance_lockKey]

theorem takeSlot_lockKey {out : Hw} (hw0 : Hw) (c q : Nat) (src : Src) (raw : List Word)
    (h : takeSlot hw0 c q src raw = some out) : out.lockKey = hw0.lockKey := by
  grind [takeSlot, advance_lockKey, → takeBody_lockKey, atFetchEffect_lockKey, kCheck_lockKey, → takeCmd_lockKey, radd_lockKey]

theorem fetchSlot_lockKey {out : Hw} (hw : Hw) (c q : Nat) (h : fetchSlot hw c q = some out) : out.lockKey = hw.lockKey := by
  grind [fetchSlot, refusedSlot_lockKey, → takeSlot_lockKey, → loadSet_lockKey, → pocRead_lockKey, poisonedSlot_lockKey]

theorem didOr_lockKey {hw : Hw} {r : Option Hw} (hr : ∀ w, r = some w → w.lockKey = hw.lockKey) :
    (didOr hw r).1.lockKey = hw.lockKey := by
  unfold didOr
  split
  · next w => rw [did_lockKey, hr w rfl]
  · rfl

@[simp] theorem fetchRow_lockKey (c q : Nat) (hw : Hw) : (fetchRow c q hw).1.lockKey = hw.lockKey := by
  grind [fetchRow, advance_lockKey, → fetchInstance_lockKey, loopMove_lockKey, → placeCmd_lockKey, → fetchSlot_lockKey,
    didOr_lockKey]

@[simp] theorem issueRow_lockKey (c q eng : Nat) (hw : Hw) : (issueRow c q eng hw).1.lockKey = hw.lockKey := by
  unfold issueRow
  split <;> simp

@[simp] theorem badRow_lockKey (c q : Nat) (hw : Hw) : (badRow c q hw).1.lockKey = hw.lockKey := by
  unfold badRow
  split
  · split
    · refine didOr_lockKey fun w hw' => ?_
      obtain ⟨h, hh, rfl⟩ := Option.map_eq_some_iff.mp hw'
      have hd b (hb : (if b = true then mbDrainAll hw c (getCore hw c).mb else some hw) = some h) : h.lockKey = hw.lockKey := by
        split at hb
        · exact mbDrainAll_lockKey _ _ _ hb
        · cases hb
          rfl
      rw [retireCmd_lockKey]
      exact hd _ hh
    · rfl
  · rfl

@[simp] theorem coreRegWrite_lockKey (by_ : Agent) (c addr : Nat) {f : Hw → Hw × Answer}
    (hf : ∀ w, (f w).1.lockKey = w.lockKey) (hw : Hw) :
    (coreRegWrite by_ c addr f hw).1.lockKey = hw.lockKey := by
  unfold coreRegWrite
  split
  · exact regWriteBy_lockKey _ _ _ hf hw
  · exact writeRefused_lockKey ..

@[simp] theorem dbQueueWrite_lockKey (c : Nat) (v : Word) (hw : Hw) : (dbQueueWrite c v hw).1.lockKey = hw.lockKey := by
  simp [dbQueueWrite]

@[simp] theorem cfgRefused_lockKey (hw : Hw) (c q : Nat) (v : Word) : (cfgRefused hw c q v).lockKey = hw.lockKey := by
  simp [cfgRefused]

@[simp] theorem enableQueue_lockKey (hw : Hw) (c q : Nat) : (enableQueue hw c q).lockKey = hw.lockKey := by
  unfold enableQueue
  dsimp only
  rw [lockKey_mk, rsetN_lockKey, rsetN_lockKey, rsetN_lockKey, setQueue_lockKey]

@[simp] theorem abortQueue_lockKey (hw : Hw) (c q : Nat) : (abortQueue hw c q).lockKey = hw.lockKey := by
  simp [abortQueue]

@[simp] theorem qCtrlWrite_lockKey (c q : Nat) (v : Word) (hw : Hw) : (qCtrlWrite c q v hw).1.lockKey = hw.lockKey := by
  simp [qCtrlWrite]

@[simp] theorem qOffWrite_lockKey (c q addr mask : Nat) (v : Word) (hw : Hw) :
    (qOffWrite c q addr mask v hw).1.lockKey = hw.lockKey := by
  simp [qOffWrite]

@[simp] theorem qCqWrite_lockKey (c q : Nat) (v : Word) (hw : Hw) : (qCqWrite c q v hw).1.lockKey = hw.lockKey := by
  simp [qCqWrite]

@[simp] theorem qRestartWrite_lockKey (c q : Nat) (v : Word) (hw : Hw) : (qRestartWrite c q v hw).1.lockKey = hw.lockKey := by
  simp [qRestartWrite]

/-! #### Walks that end (R294), fault records and RESUME (R298–R301), the context base (R308), INVALIDATE (R302–R307) -/

@[simp] theorem walkReply_lockKey (hw : Hw) (o : WalkOut) (r : WalkReq) : (walkReply hw o r).lockKey = hw.lockKey := by
  unfold walkReply
  (repeat' split) <;> simp

theorem walkRead_lockKey (d ctx : Nat) {hw : Hw} {a n : Nat} {out : Hw × List Byte × Bool}
    (h : walkRead d ctx hw a n = some out) : out.1.lockKey = hw.lockKey := by
  unfold walkRead at h
  dsimp only at h
  split at h
  · obtain rfl := Option.some.inj h
    rw [radd_lockKey, setTree_lockKey, walkParity_lockKey]
  split at h
  · obtain rfl := Option.some.inj h
    rw [errorResponse_lockKey, walkParity_lockKey]
  split at h
  · obtain rfl := Option.some.inj h
    rw [errorResponse_lockKey, walkParity_lockKey]
  split at h
  · cases h
  · next hr =>
    obtain rfl := Option.some.inj h
    rw [radd_lockKey, pocRead_lockKey _ _ _ _ hr, walkParity_lockKey]

@[simp] theorem walkRow_lockKey (d ctx va : Nat) (hw : Hw) : (walkRow d ctx va hw).1.lockKey = hw.lockKey := by
  unfold walkRow
  split
  · rfl
  split
  · rfl
  · next hr =>
    have hr := walkWith_lockKey (fun w a n out => walkRead_lockKey _ _) (fun w a e => walkNote_lockKey ..) _ _ _ hr
    split
    · rfl
    · rw [did_lockKey, ← hr]
      exact (foldl_lockKey (fun w r => walkReply_lockKey ..) ..).trans (setTree_lockKey ..)

@[simp] theorem recordDone_lockKey (hw : Hw) (c n : Nat) (f : FltSlot) : (recordDone hw c n f).lockKey = hw.lockKey := by
  simp [recordDone]

@[simp] theorem faultRecordRow_lockKey (c : Nat) (hw : Hw) : (faultRecordRow c hw).1.lockKey = hw.lockKey := by
  grind [faultRecordRow, recordDone_lockKey, rsetN_lockKey, → pocWriteN_lockKey, message_lockKey, did_lockKey]

@[simp] theorem atuLog_lockKey (hw : Hw) (c cause slot : Nat) : (atuLog hw c cause slot).lockKey = hw.lockKey := by
  simp [atuLog]

@[simp] theorem abortReqs_lockKey (hw : Hw) (c : Nat) (ids : List Nat) : (abortReqs hw c ids).lockKey = hw.lockKey := by
  simp [abortReqs]

@[simp] theorem fltResumeWrite_lockKey (c : Nat) (v : Word) (hw : Hw) : (fltResumeWrite c v hw).1.lockKey = hw.lockKey := by
  unfold fltResumeWrite
  dsimp only
  (repeat' split) <;> simp

@[simp] theorem fltBaseWrite_lockKey (c : Nat) (v : Word) (hw : Hw) : (fltBaseWrite c v hw).1.lockKey = hw.lockKey := by
  simp [fltBaseWrite]

@[simp] theorem computeRegWrite_lockKey (by_ : Agent) (d addr : Nat) {f : Hw → Hw × Answer}
    (hf : ∀ w, (f w).1.lockKey = w.lockKey) (hw : Hw) :
    (computeRegWrite by_ d addr f hw).1.lockKey = hw.lockKey := by
  unfold computeRegWrite
  split
  · exact regWriteBy_lockKey _ _ _ hf hw
  · exact writeRefused_lockKey ..

@[simp] theorem ctxBaseWrite_lockKey (d : Nat) (v : Word) (hw : Hw) : (ctxBaseWrite d v hw).1.lockKey = hw.lockKey := by
  simp [ctxBaseWrite]

@[simp] theorem doneAddrWrite_lockKey (d : Nat) (v : Word) (hw : Hw) : (doneAddrWrite d v hw).1.lockKey = hw.lockKey := by
  simp [doneAddrWrite]

@[simp] theorem invReqWrite_lockKey (d : Nat) (v : Word) (hw : Hw) : (invReqWrite d v hw).1.lockKey = hw.lockKey := by
  simp [invReqWrite]

@[simp] theorem bumpCore_lockKey (hw : Hw) (c ctx lo hi : Nat) : (bumpCore hw c ctx lo hi).lockKey = hw.lockKey := by
  simp [bumpCore]

@[simp] theorem modInv_lockKey (hw : Hw) (d seq : Nat) (f : InvReq → InvReq) : (modInv hw d seq f).lockKey = hw.lockKey := by
  simp [modInv]

@[simp] theorem treeOut_lockKey (hw : Hw) (d : Nat) (a : TreeAdd) : (treeOut hw d a).lockKey = hw.lockKey := by
  unfold treeOut
  extract_lets x lat hw1 from_ line req
  have h1 : hw1.lockKey = hw.lockKey := by rw [rsetN_lockKey, draw_lockKey, radd_lockKey]
  split
  · rw [errorResponse_lockKey, h1]
  split
  · rw [signalPoisoned_lockKey, h1]
  split
  · next r hr =>
    have hr := (pocServe_lockKey _ _ hr).trans h1
    split
    · rw [signalPoisoned_lockKey, hr]
    · exact hr
  · rw [homeArrive_lockKey, h1]

/-! #### A hart's barriers and stop (R360, R361, R364) -/

@[simp] theorem hartFlush_lockKey (hw : Hw) (h : HartId) : (hartFlush hw h).lockKey = hw.lockKey := by
  simp [hartFlush]

@[simp] theorem barSettle_lockKey (hw : Hw) (h : HartId) : (barSettle hw h).lockKey = hw.lockKey := by
  unfold barSettle
  dsimp only
  (repeat' split) <;> simp

@[simp] theorem trapped_lockKey (h : HartId) (r : Hw × Answer) : (trapped h r).1.lockKey = r.1.lockKey := by
  unfold trapped
  dsimp only
  (repeat' split) <;> simp

/-! #### Hart records shared by the rows that end a hart's access -/

@[simp] theorem hartStoreDone_lockKey (hw : Hw) (h tag : Nat) : (hartStoreDone hw h tag).lockKey = hw.lockKey := by
  simp [hartStoreDone]

@[simp] theorem hartStoreFailed_lockKey (hw : Hw) (h tag cause : Nat) :
    (hartStoreFailed hw h tag cause).lockKey = hw.lockKey := by
  unfold hartStoreFailed
  split <;> simp

@[simp] theorem berrPop_lockKey (hw : Hw) (by_ : Agent) (h : Nat) : (berrPop hw by_ h).2.lockKey = hw.lockKey := by
  simp [berrPop]

/-! #### The scalar engine (R172–R177, R213, R216) -/

theorem seOpBody_lockKey {out : Hw × Cmd} (c : Nat) (hw : Hw) (m : Cmd) (h : seOpBody c hw m = some out) :
    out.1.lockKey = hw.lockKey := by
  grind [seOpBody, setG_lockKey]

@[simp] theorem setPred_lockKey (hw : Hw) (c q p : Nat) (v : Bool) : (setPred hw c q p v).lockKey = hw.lockKey := by
  simp [setPred]

theorem seSetpBody_lockKey {out : Hw × Cmd} (c : Nat) (hw : Hw) (m : Cmd) (h : seSetpBody c hw m = some out) :
    out.1.lockKey = hw.lockKey := by
  grind [seSetpBody, setPred_lockKey]

@[simp] theorem loadEnd_lockKey (hw : Hw) (c : Nat) (m : Cmd) (bs : List Byte) (bad : Bool) (pa : Nat) :
    (loadEnd hw c m bs bad pa).1.lockKey = hw.lockKey := by
  simp [loadEnd]

theorem seLoadTier_lockKey {out : Hw × Cmd} (hw : Hw) (c : Nat) (m : Cmd) (pa size : Nat)
    (h : seLoadTier hw c m pa size = some out) : out.1.lockKey = hw.lockKey := by
  unfold seLoadTier at h
  grind [loadEnd_lockKey, → mbDrainFor_lockKey, l1Check_lockKey, pfTrain_lockKey, l1Touch_lockKey, radd_lockKey,
    → pfArrive_lockKey, → pocRead_lockKey, modCore_lockKey, Option.map_eq_some_iff]

theorem seLoadFar_lockKey {out : Hw × Cmd} (hw : Hw) (c : Nat) (m : Cmd) (pa size : Nat)
    (h : seLoadFar hw c m pa size = some out) : out.1.lockKey = hw.lockKey := by
  grind [seLoadFar, loadEnd_lockKey, dmaRefused_lockKey, → dmaReadLocal_lockKey]

theorem seLdBody_lockKey {out : Hw × Cmd} (c : Nat) (hw : Hw) (m : Cmd) (h : seLdBody c hw m = some out) :
    out.1.lockKey = hw.lockKey := by
  grind [seLdBody, loadEnd_lockKey, → seLoadTier_lockKey, spadRead_lockKey, → seLoadFar_lockKey]

theorem seStBody_lockKey {out : Hw × Cmd} (c : Nat) (hw : Hw) (m : Cmd) (h : seStBody c hw m = some out) :
    out.1.lockKey = hw.lockKey := by
  grind [seStBody, → l1Store_lockKey, → dmaWriteLocal_lockKey, dmaRefused_lockKey, spadPut_lockKey, Option.map_eq_some_iff,
    Option.bind_eq_some_iff]

theorem seZlineBody_lockKey {out : Hw × Cmd} (c : Nat) (hw : Hw) (m : Cmd) (h : seZlineBody c hw m = some out) :
    out.1.lockKey = hw.lockKey := by
  grind [seZlineBody, → l1Store_lockKey, Option.map_eq_some_iff, Option.bind_eq_some_iff]

theorem seAmoGo_lockKey {out : Hw × Cmd} (c : Nat) (hw : Hw) (m : Cmd) (h : seAmoGo c hw m = some out) :
    out.1.lockKey = hw.lockKey := by
  unfold seAmoGo at h
  dsimp only at h
  (repeat' split at h) <;> simp at h <;> grind [→ mbDrainFor_lockKey, poisonUsed_lockKey, dmaRefused_lockKey,
    cmdRequest_lockKey, setG_lockKey, → pocServe_lockKey]

theorem seAmoBody_lockKey {out : Hw × Cmd} (c : Nat) (hw : Hw) (m : Cmd) (h : seAmoBody c hw m = some out) :
    out.1.lockKey = hw.lockKey := by
  grind [seAmoBody, → seAmoGo_lockKey, → mbDrainAll_lockKey, Option.map_eq_some_iff, Option.bind_eq_some_iff]

theorem seBrBody_lockKey {out : Hw × Cmd} (c : Nat) (hw : Hw) (m : Cmd) (h : seBrBody c hw m = some out) :
    out.1.lockKey = hw.lockKey := by
  unfold seBrBody at h
  extract_lets q cond g n hw1 taken target resolved at h
  have h1 : hw1.lockKey = hw.lockKey := by
    unfold hw1
    split
    · exact setG_lockKey ..
    · rfl
  have hr w : (resolved w).lockKey = w.lockKey := setQueue_lockKey ..
  split at h
  · cases h
    rw [hr, h1]
  split at h
  · cases h
    rw [hr, setPos_lockKey, radd_lockKey, h1]
  · cases h
    rw [hr, h1]

@[simp] theorem clockNow_lockKey (hw : Hw) (a : Nat) : (clockNow hw a).1.lockKey = hw.lockKey := by
  simp [clockNow]

theorem seRdcntBody_lockKey {out : Hw × Cmd} (c : Nat) (hw : Hw) (m : Cmd) (h : seRdcntBody c hw m = some out) :
    out.1.lockKey = hw.lockKey := by
  grind [seRdcntBody, clockNow_lockKey, setG_lockKey]

@[simp] theorem refillRow_lockKey (c addr : Nat) (hw : Hw) : (refillRow c addr hw).1.lockKey = hw.lockKey := by
  unfold refillRow
  dsimp only
  split
  · rfl
  split
  · rfl
  · next hr =>
    rw [did_lockKey, ← pocRead_lockKey _ _ _ _ hr]
    refine (foldl_lockKey (fun w m => ?_) ..).trans (modCore_lockKey ..)
    rw [setCmd_lockKey, loadEnd_lockKey]

/-! #### Operands of the vector engine (R131–R137, R162, R167, R170, R178, R214) -/

@[simp] theorem spadRows_lockKey (hw : Hw) (c base stride rows n : Nat) :
    (spadRows hw c base stride rows n).1.lockKey = hw.lockKey := by
  simp [spadRows]

@[simp] theorem accRows_lockKey (hw : Hw) (c base stride rows n : Nat) :
    (accRows hw c base stride rows n).1.lockKey = hw.lockKey := by
  simp [accRows]

@[simp] theorem putRows_lockKey {put : Hw → Nat → List Byte → Bool → Hw} (hput : ∀ w a bs p, (put w a bs p).lockKey = w.lockKey)
    (base stride : Nat) (rows : List OutBytes) (hw : Hw) : (putRows put base stride rows hw).lockKey = hw.lockKey := by
  exact foldl_lockKey (fun _ _ => foldl_lockKey (fun _ _ => hput ..) ..) ..

@[simp] theorem packKept_lockKey (hw : Hw) (c wbits base : Nat) (row : OutRow) :
    (packKept hw c wbits base row).1.lockKey = hw.lockKey := by
  simp [packKept]

/-! #### The vector engine (R161–R171, R215) -/

/-- An access of the vector engine leaves the part's lock bit and identity key, where it ends. -/
def VOut.Keeps {α : Type} (hw : Hw) : VOut α → Prop
  | .wait => True
  | .stop w _ => w.lockKey = hw.lockKey
  | .ok w _ => w.lockKey = hw.lockKey

section
variable {α β : Type} {hw w : Hw}

theorem VOut.Keeps.stop {x : VOut α} (h : x.Keeps hw) {st : Nat} (hx : x = .stop w st) : w.lockKey = hw.lockKey := by
  subst hx
  exact h

theorem VOut.Keeps.ok {x : VOut α} (h : x.Keeps hw) {a : α} (hx : x = .ok w a) : w.lockKey = hw.lockKey := by
  subst hx
  exact h

theorem VOut.Keeps.of_eq {x : VOut α} (h : x.Keeps w) (he : w.lockKey = hw.lockKey) : x.Keeps hw := by
  cases x with
  | wait => trivial
  | stop => exact h.trans he
  | ok => exact h.trans he

theorem VOut.Keeps.bind {x : VOut α} (h : x.Keeps hw) {f : Hw → α → VOut β} (hf : ∀ w a, (f w a).Keeps w) :
    (x.bind f).Keeps hw := by
  cases x with
  | wait => trivial
  | stop => exact h
  | ok w a => exact (hf w a).of_eq h

theorem VOut.Keeps.foldl {l : List β} {f : Hw → α → β → VOut α} (hf : ∀ w a b, (f w a b).Keeps w) {x : VOut α}
    (h : x.Keeps hw) :
    (l.foldl (fun acc b => acc.bind fun w a => f w a b) x).Keeps hw := by
  induction l generalizing x with
  | nil => exact h
  | cons b l ih => exact ih (h.bind fun w a => hf w a b)

end

theorem veChecked_lockKey {hw : Hw} {m : Cmd} {st : Nat} {go : Unit → Option (Hw × Cmd)} {out : Hw × Cmd}
    (hgo : go () = some out → out.1.lockKey = hw.lockKey)
    (h : veChecked hw m st go = some out) : out.1.lockKey = hw.lockKey := by
  unfold veChecked at h
  split at h
  · cases h
    rfl
  · exact hgo h

section
variable {hw : Hw} (c : Nat) (m : Cmd) (gv : Option (Nat × Nat))

theorem veLoadBlock_keeps (va n : Nat) : (veLoadBlock hw c m va n).Keeps hw := by
  unfold veLoadBlock
  split
  · rfl
  extract_lets a secs r
  split
  · split
    · trivial
    · next hw0 h0 =>
      have h0 := mbDrainFor_lockKey _ _ _ _ h0
      split
      · dsimp only
        split
        · trivial
        · next w bs hr =>
          refine Eq.trans ?_ h0
          refine foldl_bind_lockKey (g := Prod.fst) (fun x s y hy => ?_) hr
          obtain ⟨z, hz, rfl⟩ := Option.map_eq_some_iff.mp hy
          exact pocRead_lockKey _ _ _ _ hz
      · split
        · trivial
        · next w bad hr => exact (l1Access_lockKey _ _ _ _ _ _ hr).trans h0
  split
  · exact dmaRefused_lockKey ..
  split
  · trivial
  · next w _ _ _ hr => exact dmaReadLocal_lockKey _ _ _ _ _ _ _ hr
  · next w _ hr => exact dmaReadLocal_lockKey _ _ _ _ _ _ _ hr

theorem veLoad_keeps (ps : List (Nat × Nat)) : (veLoad c m ps hw).Keeps hw := by
  induction ps generalizing hw with
  | nil => rfl
  | cons p ps ih => exact (veLoadBlock_keeps c m p.1 p.2).bind fun w bs => ih.bind fun w' rest => rfl

theorem readSrc_keeps (i code rows count : Nat) : (readSrc hw c m gv i code rows count).Keeps hw := by
  unfold readSrc
  dsimp only
  split
  · rfl
  split
  · split
    · rfl
    · exact accRows_lockKey ..
  split
  · rfl
  split
  · split
    · rfl
    · exact spadRows_lockKey ..
  · exact (veLoad_keeps c m _).bind fun w bs => rfl

theorem readMask_keeps (base stride rows count : Nat) : (readMask hw c base stride rows count).Keeps hw := by
  unfold readMask
  dsimp only
  split
  · rfl
  · exact spadRows_lockKey ..

theorem readDMask_keeps (rows cols count : Nat) : (readDMask hw c m rows cols count).Keeps hw := by
  unfold readDMask
  split
  · exact readMask_keeps ..
  · rfl

theorem selMask_keeps (w : List Word) (func rows count : Nat) : (selMask hw c w func rows count).Keeps hw := by
  unfold selMask
  split
  · exact readMask_keeps ..
  · rfl

theorem readSrcs_keeps (rows count : Nat) (is : List (Nat × Nat)) : (readSrcs c m gv rows count is hw).Keeps hw := by
  induction is generalizing hw with
  | nil => rfl
  | cons p ps ih => exact (readSrc_keeps c m gv p.1 p.2 rows count).bind fun w r => ih.bind fun w' rest => rfl

theorem readExpos_keeps (i n : Nat) : (readExpos hw c m gv i n).Keeps hw := by
  refine VOut.Keeps.bind ?_ fun w r => rfl
  split <;> exact readSrc_keeps ..

theorem veStore1_keeps (tile : Bool) (va : Nat) (bs : OutBytes) : (veStore1 tile hw c m va bs).Keeps hw := by
  unfold veStore1
  split
  · rfl
  split
  · rfl
  split
  · dsimp only
    split
    · trivial
    · next w hw' => exact l1StoreM_lockKey _ _ _ _ _ _ _ _ hw'
  split
  · exact dmaRefused_lockKey ..
  · refine VOut.Keeps.foldl (fun w _ x => ?_) rfl
    split
    · trivial
    · next w' m1 hw' =>
      have hw' := dmaWriteLocal_lockKey _ _ _ _ _ _ _ hw'
      split <;> exact hw'

theorem veStore_keeps (tile : Bool) (fuel va : Nat) (bs : OutBytes) : (veStore tile c m fuel hw va bs).Keeps hw := by
  induction fuel generalizing hw va bs with
  | zero => rfl
  | succ n ih =>
    unfold veStore
    split
    · rfl
    · exact (veStore1_keeps c m tile va _).bind fun w _ => ih _ _

theorem writeDest_keeps (wbits : Nat) (rows : List OutRow) : (writeDest hw c m gv wbits rows).Keeps hw := by
  unfold writeDest
  dsimp only
  split
  · exact putRows_lockKey (fun _ _ _ _ => tilePut_lockKey ..) ..
  split
  · refine (putRows_lockKey (fun _ _ _ _ => tilePut_lockKey ..) ..).trans ?_
    exact foldl_fst_lockKey (fun (x : Hw × List OutBytes) r => packKept_lockKey x.1 ..) ..
  · exact veStore_keeps ..

theorem writeRaw_keeps (rows : List PBytes) : (writeRaw hw c m gv rows).Keeps hw := by
  unfold writeRaw
  dsimp only
  split
  · exact putRows_lockKey (fun _ _ _ _ => tilePut_lockKey ..) ..
  · exact veStore_keeps ..

/-- The sources of a command of the vector engine, and what is read after them. -/
theorem readSrcs_bind_keeps {β : Type} (rows count : Nat) (is : List (Nat × Nat)) {f : Hw → List SrcRows → VOut β}
    (hf : ∀ w ss, (f w ss).Keeps w) : ((readSrcs c m gv rows count is hw).bind f).Keeps hw :=
  (readSrcs_keeps c m gv rows count is).bind hf

/-- The last of them is the mask. -/
theorem readDMask_bind_keeps {β : Type} (k l n : Nat) (f : List (List (Nat × Bool)) × Option Nat → β) :
    ((readDMask hw c m k l n).bind fun w dm => .ok w (f dm)).Keeps hw :=
  (readDMask_keeps c m k l n).bind fun _ _ => rfl

/-- The reads of VE_CMP, VE_CVT, VE_RED and VE_DACC. -/
theorem plainReads_keeps (rows count k l n : Nat) (is : List (Nat × Nat)) :
    ((readSrcs c m gv rows count is hw).bind fun w ss => (readDMask w c m k l n).bind fun w dm => .ok w (ss, dm)).Keeps hw :=
  readSrcs_bind_keeps c m gv rows count is fun _ _ => readDMask_bind_keeps ..

/-- The reads of VE_ELEM (R165). -/
theorem elemReads_keeps (rows count k l n : Nat) (is : List (Nat × Nat)) (func : Nat) :
    ((readSrcs c m gv rows count is hw).bind fun w ss => (selMask w c m.w func rows count).bind fun w sm =>
      (readDMask w c m k l n).bind fun w dm => .ok w (ss, sm, dm)).Keeps hw :=
  readSrcs_bind_keeps c m gv rows count is fun _ _ => (selMask_keeps ..).bind fun _ _ => readDMask_bind_keeps ..

/-- The reads of VE_EXPO (R169). -/
theorem expoReads_keeps (rows count n : Nat) (is : List (Nat × Nat)) (isAcc : Bool) :
    ((readSrcs c m gv rows count is hw).bind fun w ss =>
      (if isAcc then readDMask w c m n 1 n else readDMask w c m 1 n n).bind fun w dm => .ok w (ss, dm)).Keeps hw :=
  readSrcs_bind_keeps c m gv rows count is fun _ _ => by split <;> exact readDMask_bind_keeps ..

/-- The reads of VE_SLICE (R171). -/
theorem sliceReads_keeps (rows count i j k l n : Nat) (is : List (Nat × Nat)) :
    ((readSrcs c m gv rows count is hw).bind fun w ss => (readExpos w c m gv i j).bind fun w ex =>
      (readDMask w c m k l n).bind fun w dm => .ok w (ss, ex, dm)).Keeps hw :=
  readSrcs_bind_keeps c m gv rows count is fun _ _ => (readExpos_keeps ..).bind fun _ _ => readDMask_bind_keeps ..

/-- The reads of VE_XCOMB (R158). -/
theorem xcombReads_keeps (src code i1 n1 i2 n2 a b k l n : Nat) :
    ((readSrc hw c m gv src code a b).bind fun w ds => (readExpos w c m gv i1 n1).bind fun w re =>
      (readExpos w c m gv i2 n2).bind fun w ce => (readDMask w c m k l n).bind fun w dm => .ok w (ds, re, ce, dm)).Keeps hw :=
  (readSrc_keeps ..).bind fun _ _ => (readExpos_keeps ..).bind fun _ _ => (readExpos_keeps ..).bind fun _ _ =>
    readDMask_bind_keeps ..

end

theorem veFinish_lockKey {hw : Hw} {c : Nat} {m : Cmd} {cnt flops : Nat} {flags : Flags} {bads : List (Option Nat)} {acc : Bool}
    {w : VOut Unit} (hw' : w.Keeps hw) {out : Hw × Cmd} (h : veFinish c m cnt flops flags bads acc w = some out) :
    out.1.lockKey = hw.lockKey := by
  cases w with
  | wait => cases h
  | stop w st =>
    cases h
    exact hw'
  | ok w _ =>
    rw [← show w.lockKey = hw.lockKey from hw']
    unfold veFinish at h
    dsimp only at h
    split at h
    · obtain rfl := Option.some.inj h
      simp
    · obtain rfl := Option.some.inj h
      rw [poisonUsed_lockKey]
      split <;> simp

theorem veEmit_lockKey {out : Hw × Cmd} (hw : Hw) (c : Nat) (m : Cmd) (gv : Option (Nat × Nat)) (wbits : Nat)
    (rows : List (List VeEl)) (bads : List (Option Nat)) (acc : Bool) (h : veEmit hw c m gv wbits rows bads acc = some out) :
    out.1.lockKey = hw.lockKey := by
  exact veFinish_lockKey (writeDest_keeps ..) h

theorem veEmitMx_lockKey {out : Hw × Cmd} (hw : Hw) (c : Nat) (m : Cmd) (gv : Option (Nat × Nat)) (fmt seed count : Nat)
    (raw : Bool) (rows : List (List VeEl)) (bads : List (Option Nat)) (acc : Bool)
    (h : veEmitMx hw c m gv fmt seed count raw rows bads acc = some out) : out.1.lockKey = hw.lockKey := by
  exact veFinish_lockKey (writeRaw_keeps ..) h

theorem veElemBody_lockKey {out : Hw × Cmd} (c : Nat) (hw : Hw) (m : Cmd) (h : veElemBody c hw m = some out) :
    out.1.lockKey = hw.lockKey := by
  unfold veElemBody at h
  dsimp only at h
  refine veChecked_lockKey (fun h => ?_) h
  split at h
  · cases h
  · next hx =>
    cases h
    exact (elemReads_keeps ..).stop hx
  · next w ss sm dm hx =>
    rw [← (elemReads_keeps ..).ok hx]
    split at h
    · exact veEmitMx_lockKey _ _ _ _ _ _ _ _ _ _ _ h
    · exact veEmit_lockKey _ _ _ _ _ _ _ _ h

theorem veCmpBody_lockKey {out : Hw × Cmd} (c : Nat) (hw : Hw) (m : Cmd) (h : veCmpBody c hw m = some out) :
    out.1.lockKey = hw.lockKey := by
  unfold veCmpBody at h
  dsimp only at h
  refine veChecked_lockKey (fun h => ?_) h
  split at h
  · cases h
  · next hx =>
    cases h
    exact (plainReads_keeps ..).stop hx
  · next w ss dm hx =>
    rw [← (plainReads_keeps ..).ok hx]
    exact veEmit_lockKey _ _ _ _ _ _ _ _ h

theorem veCvtBody_lockKey {out : Hw × Cmd} (c : Nat) (hw : Hw) (m : Cmd) (h : veCvtBody c hw m = some out) :
    out.1.lockKey = hw.lockKey := by
  unfold veCvtBody at h
  dsimp only at h
  refine veChecked_lockKey (fun h => ?_) h
  split at h
  · cases h
  · next hx =>
    cases h
    exact (plainReads_keeps ..).stop hx
  · next w ss dm hx =>
    rw [← (plainReads_keeps ..).ok hx]
    split at h
    · exact veEmitMx_lockKey _ _ _ _ _ _ _ _ _ _ _ h
    · exact veEmit_lockKey _ _ _ _ _ _ _ _ h

theorem veRedBody_lockKey {out : Hw × Cmd} (c : Nat) (hw : Hw) (m : Cmd) (h : veRedBody c hw m = some out) :
    out.1.lockKey = hw.lockKey := by
  unfold veRedBody at h
  dsimp only at h
  refine veChecked_lockKey (fun h => ?_) h
  split at h
  · cases h
  · next hx =>
    cases h
    exact (plainReads_keeps ..).stop hx
  · next w ss dm hx =>
    rw [← (plainReads_keeps ..).ok hx]
    exact veEmit_lockKey _ _ _ _ _ _ _ _ h

theorem veExpoBody_lockKey {out : Hw × Cmd} (c : Nat) (hw : Hw) (m : Cmd) (h : veExpoBody c hw m = some out) :
    out.1.lockKey = hw.lockKey := by
  unfold veExpoBody at h
  dsimp only at h
  refine veChecked_lockKey (fun h => ?_) h
  split at h
  · cases h
  · next hx =>
    cases h
    exact (expoReads_keeps ..).stop hx
  · next w ss dm hx =>
    rw [← (expoReads_keeps ..).ok hx]
    exact veEmit_lockKey _ _ _ _ _ _ _ _ h

theorem veSliceRun_lockKey {out : Hw × Cmd} (byCol : Bool) (c : Nat) (hw : Hw) (m : Cmd)
    (h : veSliceRun byCol c hw m = some out) : out.1.lockKey = hw.lockKey := by
  unfold veSliceRun at h
  dsimp only at h
  refine veChecked_lockKey (fun h => ?_) h
  split at h
  · cases h
  · next hx =>
    cases h
    exact (sliceReads_keeps ..).stop hx
  · next w ss ex dm hx =>
    rw [← (sliceReads_keeps ..).ok hx]
    exact veEmit_lockKey _ _ _ _ _ _ _ _ h

theorem veSliceBody_lockKey {out : Hw × Cmd} (c : Nat) (hw : Hw) (m : Cmd) (h : veSliceBody c hw m = some out) :
    out.1.lockKey = hw.lockKey := by
  exact veSliceRun_lockKey _ _ _ _ h

theorem veDaccBody_lockKey {out : Hw × Cmd} (c : Nat) (hw : Hw) (m : Cmd) (h : veDaccBody c hw m = some out) :
    out.1.lockKey = hw.lockKey := by
  unfold veDaccBody at h
  dsimp only at h
  refine veChecked_lockKey (fun h => ?_) h
  split at h
  · cases h
  · next hx =>
    cases h
    exact (plainReads_keeps ..).stop hx
  · next w ss dm hx =>
    rw [← (plainReads_keeps ..).ok hx]
    exact veEmit_lockKey _ _ _ _ _ _ _ _ h

theorem veXcombBody_lockKey {out : Hw × Cmd} (c : Nat) (hw : Hw) (m : Cmd) (h : veXcombBody c hw m = some out) :
    out.1.lockKey = hw.lockKey := by
  unfold veXcombBody at h
  dsimp only at h
  refine veChecked_lockKey (fun h => ?_) h
  split at h
  · cases h
  · next hx =>
    cases h
    exact (xcombReads_keeps ..).stop hx
  · next w ds re ce dm hx =>
    rw [← (xcombReads_keeps ..).ok hx]
    exact veEmit_lockKey _ _ _ _ _ _ _ _ h

theorem veZlineBody_lockKey {out : Hw × Cmd} (c : Nat) (hw : Hw) (m : Cmd) (h : veZlineBody c hw m = some out) :
    out.1.lockKey = hw.lockKey := by
  unfold veZlineBody at h
  dsimp only at h
  split at h
  · cases h
    rfl
  split at h
  · split at h
    · cases h
      rfl
    · obtain ⟨w, hw', rfl⟩ := Option.map_eq_some_iff.mp h
      rw [radd_lockKey, l1Store_lockKey _ _ _ _ _ _ _ hw']
  · cases h
    rfl

/-! #### The matrix engine (R95–R126, R135, R138–R142, R148–R151, R565) -/

@[simp] theorem setMe_lockKey (hw : Hw) (c : Nat) (me : MeSt) : (setMe hw c me).lockKey = hw.lockKey := by
  simp [setMe]

@[simp] theorem readStored_lockKey (hw : Hw) (c code : Nat) (sparse : Bool) (tk tn base stride : Nat) :
    (readStored hw c code sparse tk tn base stride).1.lockKey = hw.lockKey := by
  simp [readStored]

@[simp] theorem rowShown_lockKey (c id : Nat) (old hw : Hw) (a n : Nat) : (rowShown c id old hw a n).lockKey = hw.lockKey := by
  simp [rowShown]

@[simp] theorem meRow_lockKey (id : Option Nat) (hw0 : Hw) (c row col0 n : Nat) (acc : Bool) (f : Nat → Option Nat → Nat × Bool)
    : (meRow id hw0 c row col0 n acc f).1.lockKey = hw0.lockKey := by
  unfold meRow
  dsimp only
  split <;> simp

theorem meLoadwBody_lockKey {out : Hw × Cmd} (c : Nat) (hw : Hw) (m : Cmd) (h : meLoadwBody c hw m = some out) :
    out.1.lockKey = hw.lockKey := by
  grind [meLoadwBody, poisonUsed_lockKey, setMe_lockKey, readStored_lockKey]

@[simp] theorem askRamp_lockKey (hw : Hw) (c : Nat) : (askRamp hw c).lockKey = hw.lockKey := by
  simp [askRamp]

@[simp] theorem assign_lockKey (hw : Hw) (c shape s : Nat) (st : Stream) : (assign hw c shape s st).lockKey = hw.lockKey := by
  simp [assign]

theorem meGemmBody_lockKey {out : Hw × Cmd} (c : Nat) (hw : Hw) (m : Cmd) (h : meGemmBody c hw m = some out) :
    out.1.lockKey = hw.lockKey := by
  grind [meGemmBody, assign_lockKey]

theorem meGemvBody_lockKey {out : Hw × Cmd} (c : Nat) (hw : Hw) (m : Cmd) (h : meGemvBody c hw m = some out) :
    out.1.lockKey = hw.lockKey := by
  grind [meGemvBody, assign_lockKey]

@[simp] theorem statPar_lockKey (hw : Hw) (c : Nat) (par : List Nat) : (statPar hw c par).lockKey = hw.lockKey := by
  simp [statPar]

@[simp] theorem gemmRows_lockKey (hw : Hw) (c s : Nat) (y : Stream) (t : Tile) :
    (gemmRows hw c s y t).1.lockKey = hw.lockKey := by
  simp [gemmRows]

@[simp] theorem gemvRows_lockKey (hw : Hw) (c : Nat) (y : Stream) : (gemvRows hw c y).1.lockKey = hw.lockKey := by
  simp [gemvRows]

@[simp] theorem enterRow_lockKey (c s : Nat) (hw : Hw) : (enterRow c s hw).1.lockKey = hw.lockKey := by
  unfold enterRow
  dsimp only
  (repeat' split) <;> simp

/-! #### The DMA engine (R191, R192, R196–R198, R217, R218, R331, R332, R389) -/

theorem readBlock_lockKey {out : Hw × Cmd × Option PBytes} (hw : Hw) (c : Nat) (m : Cmd) (pa n : Nat) (roe : Bool)
    (dest : ReqDest) (h : readBlock hw c m pa n roe dest = some out) : out.1.lockKey = hw.lockKey := by
  grind [readBlock, → dmaRead_lockKey, Option.map_eq_some_iff, Option.bind_eq_some_iff]

theorem tileWrite_lockKey {out : Hw × Cmd} (c : Nat) (how : WrHow) (poison : Bool) (ps : List (Nat × List Byte)) (y : Hw × Cmd)
    (h : tileWrite c how poison ps y = some out) : out.1.lockKey = y.1.lockKey := by
  fun_induction tileWrite generalizing out <;> grind [addLate_lockKey, → landOne_lockKey, comesLate_lockKey]

theorem farPut_lockKey {out : Xfer} (c : Nat) (how : WrHow) (x : Xfer) (pa : Nat) (bs : PBytes)
    (h : farPut c how x pa bs = some out) : out.hw.lockKey = x.hw.lockKey := by
  grind [farPut, → dmaWrite_lockKey, Option.map_eq_some_iff, Option.bind_eq_some_iff]

theorem piecePut_lockKey {out : Xfer} (c : Nat) (how : WrHow) (x : Xfer) (pa : Nat) (bs : PBytes)
    (h : piecePut c how x pa bs = some out) : out.hw.lockKey = x.hw.lockKey := by
  unfold piecePut at h
  split at h
  · exact foldl_bind_lockKey (g := Xfer.hw) (fun y k z => farPut_lockKey _ _ _ _ _) h
  split at h
  · obtain ⟨z, hz, rfl⟩ := Option.map_eq_some_iff.mp h
    exact foldl_bind_lockKey (g := Prod.fst) (fun y k z => tileWrite_lockKey _ _ _ _ _) hz
  · obtain ⟨z, hz, rfl⟩ := Option.map_eq_some_iff.mp h
    exact foldl_bind_lockKey (g := Prod.fst) (fun y k z => dmaWrite_lockKey _ _ _ _ _ _ _) hz

theorem runPut_lockKey {out : Xfer} (c : Nat) (how : WrHow) (ps : List (Nat × Nat)) (x : Xfer) (bs : PBytes)
    (h : runPut c how ps x bs = some out) : out.hw.lockKey = x.hw.lockKey := by
  fun_induction runPut generalizing out <;> grind [→ piecePut_lockKey]

theorem xferPut_lockKey {out : Xfer} (c : Nat) (how : WrHow) (kind addr : Nat) (x : Xfer) (bs : PBytes)
    (h : xferPut c how kind addr x bs = some out) : out.hw.lockKey = x.hw.lockKey := by
  unfold xferPut at h
  split at h
  · exact runPut_lockKey _ _ _ _ _ h
  · obtain rfl := Option.some.inj h
    exact foldl_lockKey (fun w y => tilePut_lockKey ..) ..

@[simp] theorem noteBad_lockKey (x : Xfer) (base : Nat) (bs : PBytes) : (noteBad x base bs).hw.lockKey = x.hw.lockKey := by
  unfold noteBad
  split <;> simp

theorem moveBlocks_lockKey {out : Xfer} (c : Nat) (how : WrHow) (dk : Nat) (ps : List (Nat × Nat × Nat)) (x : Xfer)
    (h : moveBlocks c how dk ps x = some out) : out.hw.lockKey = x.hw.lockKey := by
  fun_induction moveBlocks generalizing out <;> grind [→ xferPut_lockKey, → readBlock_lockKey, noteBad_lockKey]

theorem moveRow_lockKey {out : Xfer} (c : Nat) (how : WrHow) (sk src dk dst len : Nat) (x : Xfer)
    (h : moveRow c how sk src dk dst len x = some out) : out.hw.lockKey = x.hw.lockKey := by
  grind [moveRow, → xferPut_lockKey, noteBad_lockKey, accRows_lockKey, → moveBlocks_lockKey, spadRows_lockKey]

@[simp] theorem xferEnd_lockKey (c : Nat) (x : Xfer) : (xferEnd c x).1.lockKey = x.hw.lockKey := by
  unfold xferEnd
  split <;> simp

theorem plainXfer_lockKey {out : Hw × Cmd} (c : Nat) (hw : Hw) (m : Cmd) (h : plainXfer c hw m = some out) :
    out.1.lockKey = hw.lockKey := by
  unfold plainXfer at h
  extract_lets _ _ _ _ _ _ _ _ _ _ how at h
  split at h
  · cases h
    rfl
  · obtain ⟨y, hy, rfl⟩ := Option.map_eq_some_iff.mp h
    rw [xferEnd_lockKey]
    exact foldN_bind_lockKey (g := Xfer.hw) (fun x i z => moveRow_lockKey _ _ _ _ _ _ _ _) hy

@[simp] theorem stagedDrop_lockKey (hw : Hw) (c id : Nat) : (stagedDrop hw c id).lockKey = hw.lockKey := by
  simp [stagedDrop]

theorem stageRun_lockKey {out : Xfer} (c off : Nat) (ps : List (Nat × Nat)) (x : Xfer) (h : stageRun c off ps x = some out) :
    out.hw.lockKey = x.hw.lockKey := by
  fun_induction stageRun generalizing out <;> grind [→ readBlock_lockKey, stageBytes_lockKey, noteBad_lockKey]

@[simp] theorem stageSpad_lockKey (c off base n : Nat) (x : Xfer) : (stageSpad c off base n x).hw.lockKey = x.hw.lockKey := by
  simp [stageSpad]

theorem codecRun_lockKey {out : Hw × Cmd} (c len src dst n : Nat) (x : Xfer) (h : codecRun c len src dst n x = some out) :
    out.1.lockKey = x.hw.lockKey := by
  induction n generalizing x with
  | zero =>
    obtain rfl := Option.some.inj h
    exact stagedDrop_lockKey ..
  | succ n ih =>
    unfold codecRun at h
    extract_lets w expand get stop at h
    have hstop st y (hy : stop st y = some out) : out.1.lockKey = y.hw.lockKey := by
      obtain rfl := Option.some.inj hy
      rw [stagedDrop_lockKey, xferEnd_lockKey]
    split at h
    · exact hstop _ _ h
    split at h
    · split at h
      · split at h
        · exact hstop _ _ h
        · exact (ih _ h).trans (stageSpad_lockKey ..)
      split at h
      · cases h
      · next y hy =>
        have hy := stageRun_lockKey _ _ _ _ hy
        split at h
        · exact (ih _ h).trans hy
        · cases h
          exact hy
    · extract_lets gated at h
      clear_value gated
      split at h
      · exact hstop _ _ h
      split at h
      · cases h
      · next y hy =>
        refine (hstop _ _ h).trans (foldl_bind_lockKey (g := Xfer.hw) (fun y o z hz => ?_) hy)
        split at hz
        · cases hz
          rfl
        · exact xferPut_lockKey _ _ _ _ _ _ hz

theorem codecXfer_lockKey {out : Hw × Cmd} (c : Nat) (hw : Hw) (m : Cmd) (h : codecXfer c hw m = some out) :
    out.1.lockKey = hw.lockKey := by
  grind [codecXfer, → codecRun_lockKey]

theorem deXferBody_lockKey {out : Hw × Cmd} (c : Nat) (hw : Hw) (m : Cmd) (h : deXferBody c hw m = some out) :
    out.1.lockKey = hw.lockKey := by
  grind [deXferBody, → codecXfer_lockKey, → plainXfer_lockKey]

@[simp] theorem codecContinue_lockKey (hw : Hw) (c id : Nat) : (codecContinue hw c id).lockKey = hw.lockKey := by
  grind [codecContinue, setCmd_lockKey, → codecRun_lockKey]

theorem gatherPieces_lockKey {out : Xfer} (c : Nat) (roe : Bool) (loc : Nat) (ps : List (Nat × Nat)) (x : Xfer)
    (h : gatherPieces c roe loc ps x = some out) : out.hw.lockKey = x.hw.lockKey := by
  fun_induction gatherPieces generalizing out <;> grind [→ xferPut_lockKey, → readBlock_lockKey, noteBad_lockKey]

theorem tableElem_lockKey {out : Xfer} (c : Nat) (scatter : Bool) (x0 : Xfer) (i : Nat)
    (h : tableElem c scatter x0 i = some out) : out.hw.lockKey = x0.hw.lockKey := by
  grind [tableElem, noteBad_lockKey, → runPut_lockKey, → gatherPieces_lockKey, spadRows_lockKey, spadScan_lockKey]

theorem tableBody_lockKey {out : Hw × Cmd} (c : Nat) (scatter : Bool) (hw : Hw) (m : Cmd)
    (h : tableBody c scatter hw m = some out) : out.1.lockKey = hw.lockKey := by
  unfold tableBody at h
  dsimp only at h
  split at h
  · cases h
    rfl
  split at h
  · cases h
    rfl
  · obtain ⟨y, hy, rfl⟩ := Option.map_eq_some_iff.mp h
    rw [xferEnd_lockKey]
    exact foldN_bind_lockKey (g := Xfer.hw) (fun x i z => tableElem_lockKey _ _ _ _) hy

theorem deFillBody_lockKey {out : Hw × Cmd} (c : Nat) (hw : Hw) (m : Cmd) (h : deFillBody c hw m = some out) :
    out.1.lockKey = hw.lockKey := by
  unfold deFillBody at h
  dsimp only at h
  split at h
  · cases h
    rfl
  split at h
  · cases h
    rfl
  · cases h
    exact foldN_lockKey (fun w r => tilePut_lockKey ..) ..

theorem deCopyBody_lockKey {out : Hw × Cmd} (c : Nat) (hw : Hw) (m : Cmd) (h : deCopyBody c hw m = some out) :
    out.1.lockKey = hw.lockKey := by
  unfold deCopyBody at h
  dsimp only at h
  split at h
  · cases h
    rfl
  split at h
  · cases h
    rfl
  · obtain ⟨y, hy, rfl⟩ := Option.map_eq_some_iff.mp h
    rw [xferEnd_lockKey]
    exact foldN_bind_lockKey (g := Xfer.hw) (fun x i z => moveRow_lockKey _ _ _ _ _ _ _ _) hy

theorem deCreditPostBody_lockKey {out : Hw × Cmd} (c : Nat) (hw : Hw) (m : Cmd) (h : deCreditPostBody c hw m = some out) :
    out.1.lockKey = hw.lockKey := by
  unfold deCreditPostBody at h
  dsimp only at h
  split at h <;> obtain rfl := Option.some.inj h
  · rfl
  · exact rset_lockKey ..

@[simp] theorem takeOnce_lockKey (hw : Hw) (c : Nat) (m : Cmd) (left pa : Nat) :
    (takeOnce hw c m left pa).1.lockKey = hw.lockKey := by
  unfold takeOnce
  (repeat' split) <;> simp

theorem deCreditTakeBody_lockKey {out : Hw × Cmd} (c : Nat) (hw : Hw) (m : Cmd) (h : deCreditTakeBody c hw m = some out) :
    out.1.lockKey = hw.lockKey := by
  grind [deCreditTakeBody, takeOnce_lockKey]

@[simp] theorem takeRetryRow_lockKey (c q : Nat) (hw : Hw) : (takeRetryRow c q hw).1.lockKey = hw.lockKey := by
  unfold takeRetryRow
  (repeat' split) <;> simp

theorem prefetchTier_lockKey {out : Hw} (c hint htgt : Nat) (ps : List (Nat × Nat)) (hw : Hw)
    (h : prefetchTier c hint htgt ps hw = some out) : out.lockKey = hw.lockKey := by
  fun_induction prefetchTier generalizing out <;> grind [→ pocServe_lockKey]

theorem prefetchRuns_lockKey {out : Hw × Cmd} (c hint htgt : Nat) (ps : List (Nat × Nat)) (hw : Hw) (m : Cmd)
    (h : prefetchRuns c hint htgt ps hw m = some out) : out.1.lockKey = hw.lockKey := by
  fun_induction prefetchRuns generalizing out <;> grind [→ prefetchTier_lockKey, cmdRequest_lockKey, → dmaReadLocal_lockKey]

theorem dePrefetchBody_lockKey {out : Hw × Cmd} (c : Nat) (hw : Hw) (m : Cmd) (h : dePrefetchBody c hw m = some out) :
    out.1.lockKey = hw.lockKey := by
  grind [dePrefetchBody, → prefetchRuns_lockKey, Option.map_eq_some_iff, Option.bind_eq_some_iff]

/-! #### Page migration (R322–R326, R337) -/

theorem deMigrateBody_lockKey {out : Hw × Cmd} (hw : Hw) (m : Cmd) (h : deMigrateBody hw m = some out) :
    out.1.lockKey = hw.lockKey := by
  grind [deMigrateBody]

@[simp] theorem migEntryRow_lockKey (c q : Nat) (hw : Hw) : (migEntryRow c q hw).1.lockKey = hw.lockKey := by
  unfold migEntryRow
  (repeat' split) <;> simp

@[simp] theorem migFree_lockKey (hw : Hw) (c id : Nat) : (migFree hw c id).lockKey = hw.lockKey := by
  simp [migFree]

@[simp] theorem pageMoved_lockKey (ctx : Nat) (p : Page) (dst : Nat) (hw : Hw) :
    (pageMoved ctx p dst hw).lockKey = hw.lockKey := by
  simp [pageMoved]

theorem drainCtx_lockKey {out : Hw} (ctx : Nat) (cs : List Nat) (hw : Hw) (h : drainCtx ctx cs hw = some out) :
    out.lockKey = hw.lockKey := by
  fun_induction drainCtx generalizing out <;> grind [modCore_lockKey, → mbDrainAll_lockKey]

@[simp] theorem migLog_lockKey (hw : Hw) (cause pool ctx c : Nat) : (migLog hw cause pool ctx c).lockKey = hw.lockKey := by
  simp [migLog]

@[simp] theorem migStop_lockKey (hw : Hw) (c : Nat) (m : Cmd) (st : Nat) : (migStop hw c m st).lockKey = hw.lockKey := by
  simp [migStop]

@[simp] theorem migBumpRow_lockKey (c q : Nat) (hw : Hw) : (migBumpRow c q hw).1.lockKey = hw.lockKey := by
  unfold migBumpRow
  rw [killPass_lockKey]
  split
  · rfl
  split
  · rfl
  split
  · rfl
  split
  · rfl
  next hw1 h1 =>
  have h1 := drainCtx_lockKey _ _ _ h1
  dsimp only
  split
  · rw [did_lockKey, migStop_lockKey, migLog_lockKey, h1]
  split
  · rfl
  next hw2 bs bad h2 =>
  have h2 := (pocReadN_lockKey _ _ _ _ _ h2).trans h1
  split
  · rw [did_lockKey, migStop_lockKey, poisonUsed_lockKey, rsetN_lockKey, h2]
  split
  · rw [did_lockKey, migStop_lockKey, migLog_lockKey, rsetN_lockKey, h2]
  · rw [did_lockKey, setCmd_lockKey, rsetN_lockKey, h2]

theorem copyLines_lockKey {out : Hw × Bool} (c src dst n : Nat) (hw : Hw) (b : Bool) (h : copyLines c src dst n hw b = some out)
    : out.1.lockKey = hw.lockKey := by
  fun_induction copyLines generalizing out <;> grind [l1Drop_lockKey, → pocWrite_lockKey, → pocRead_lockKey]

theorem leafWrite_lockKey {out : Hw} (hw : Hw) (c at_ dst : Nat) (h : leafWrite hw c at_ dst = some out) :
    out.lockKey = hw.lockKey := by
  grind [leafWrite, l1Drop_lockKey, → pocReadN_lockKey, → pocWriteN_lockKey]

theorem leafWrites_lockKey {out : Hw} (c dst : Nat) (x : List Nat) (hw : Hw) (h : leafWrites c dst x hw = some out) :
    out.lockKey = hw.lockKey := by
  induction x generalizing hw with
  | nil =>
    cases h
    rfl
  | cons a as ih =>
    obtain ⟨w, hw', h⟩ := Option.bind_eq_some_iff.mp h
    exact (ih w h).trans (leafWrite_lockKey _ _ _ _ hw')

@[simp] theorem migCopyRow_lockKey (c q : Nat) (hw : Hw) : (migCopyRow c q hw).1.lockKey = hw.lockKey := by
  unfold migCopyRow
  split
  · rfl
  split
  · extract_lets size src
    split
    · rfl
    split
    · rfl
    next hw1 bad h1 =>
    split
    · rfl
    next hw2 h2 =>
    have h2 := (leafWrites_lockKey _ _ _ _ h2).trans (copyLines_lockKey _ _ _ _ _ _ h1)
    rw [did_lockKey, setCmd_lockKey, lockKey_mk]
    split <;> simp [h2]
  · rfl

@[simp] theorem migReturnRow_lockKey (hw : Hw) : (migReturnRow hw).1.lockKey = hw.lockKey := by
  unfold migReturnRow
  dsimp only
  (repeat' split) <;> simp <;> grind [l1Drop_lockKey, rsetN_lockKey, setCmd_lockKey, → pocWriteN_lockKey, did_lockKey]

@[simp] theorem ringBaseWrite_lockKey (addr entry : Nat) (v : Word) (hw : Hw) :
    (ringBaseWrite addr entry v hw).1.lockKey = hw.lockKey := by
  simp [ringBaseWrite]

@[simp] theorem mretWrite_lockKey (a : Nat) (v : Word) (hw : Hw) : (mretWrite a v hw).1.lockKey = hw.lockKey := by
  simp [mretWrite]

@[simp] theorem mpoolWrite_lockKey (a p : Nat) (v : Word) (hw : Hw) : (mpoolWrite a p v hw).1.lockKey = hw.lockKey := by
  simp [mpoolWrite]

@[simp] theorem pkgRegWrite_lockKey (by_ : Agent) (addr : Nat → Nat) {f : Nat → Hw → Hw × Answer}
    (hf : ∀ a w, (f a w).1.lockKey = w.lockKey)
    (hw : Hw) : (pkgRegWrite by_ addr f hw).1.lockKey = hw.lockKey := by
  exact regWriteBy_lockKey _ _ _ (hf _) hw

/-! #### The scratchpad's rows -/

@[simp] theorem spadWriteRow_lockKey (by_ : Agent) (c off : Nat) (data : List Byte) (hw : Hw) :
    (spadWriteRow by_ c off data hw).1.lockKey = hw.lockKey := by
  grind [spadWriteRow, writeRefused_lockKey, spadWriteBy_lockKey, did_lockKey, hartBerr_lockKey]

@[simp] theorem creditWrite_lockKey (c n : Nat) (v : Word) (hw : Hw) : (creditWrite c n v hw).1.lockKey = hw.lockKey := by
  simp [creditWrite]

@[simp] theorem bankGateWrite_lockKey (c : Nat) (v : Word) (hw : Hw) : (bankGateWrite c v hw).1.lockKey = hw.lockKey := by
  simp [bankGateWrite]

@[simp] theorem bankWipe_lockKey (hw : Hw) (c b : Nat) : (bankWipe hw c b).lockKey = hw.lockKey := by
  simp [bankWipe]

/-! #### Core groups and the cores' own control (R85–R94) -/

@[simp] theorem mbFlush_lockKey (hw : Hw) (c : Nat) : (mbFlush hw c).lockKey = hw.lockKey := by
  refine foldl_lockKey (fun w e => ?_) ..
  split
  · cases hd : mbDrain w c e with
    | none => rfl
    | some w' => exact mbDrain_lockKey _ _ _ hd
  · rfl

@[simp] theorem coreCtrlWrite_lockKey (c : Nat) (v : Word) (hw : Hw) : (coreCtrlWrite c v hw).1.lockKey = hw.lockKey := by
  simp [coreCtrlWrite]

@[simp] theorem holdOff_lockKey (hw : Hw) (g : Nat) : (holdOff hw g).lockKey = hw.lockKey := by
  simp [holdOff]

@[simp] theorem cgPwrWrite_lockKey (g : Nat) (v : Word) (hw : Hw) : (cgPwrWrite g v hw).1.lockKey = hw.lockKey := by
  simp [cgPwrWrite]

@[simp] theorem cgRegWrite_lockKey (by_ : Agent) (g addr : Nat) {f : Hw → Hw × Answer}
    (hf : ∀ w, (f w).1.lockKey = w.lockKey) (hw : Hw) :
    (cgRegWrite by_ g addr f hw).1.lockKey = hw.lockKey := by
  exact regWriteBy_lockKey _ _ _ hf hw

theorem mbDrainCores_lockKey {out : Hw} (x : List Nat) (hw : Hw) (h : mbDrainCores x hw = some out) :
    out.lockKey = hw.lockKey := by
  induction x generalizing hw with
  | nil =>
    cases h
    rfl
  | cons c cs ih =>
    obtain ⟨w, hw', h⟩ := Option.bind_eq_some_iff.mp h
    exact (ih w h).trans (mbDrainAll_lockKey _ _ _ hw')

@[simp] theorem coreOff_lockKey (hw : Hw) (c : Nat) : (coreOff hw c).lockKey = hw.lockKey := by
  simp [coreOff]

@[simp] theorem rclearAll_lockKey (hw : Hw) (as : List Nat) : (rclearAll hw as).lockKey = hw.lockKey := by
  simp [rclearAll]

@[simp] theorem coreWake_lockKey (hw : Hw) (c : Nat) : (coreWake hw c).lockKey = hw.lockKey := by
  simp [coreWake]

@[simp] theorem groupWake_lockKey (g : Nat) (hw : Hw) : (groupWake g hw).lockKey = hw.lockKey := by
  simp [groupWake]

@[simp] theorem cgPartWrite_lockKey (g : Nat) (v : Word) (hw : Hw) : (cgPartWrite g v hw).1.lockKey = hw.lockKey := by
  simp [cgPartWrite]

/-! #### The optical fabric's traffic (R420–R443) -/

@[simp] theorem codecSweep_lockKey (hw : Hw) : (codecSweep hw).lockKey = hw.lockKey := by
  simp [codecSweep]

@[simp] theorem resendHeld_lockKey (hw : Hw) : (resendHeld hw).lockKey = hw.lockKey := by
  simp [resendHeld]

@[simp] theorem fabEnd_lockKey (hw : Hw) (r : FabReq) (status : Nat) (data : List Byte) (old : Word) :
    (fabEnd hw r status data old).lockKey = hw.lockKey := by
  simp [fabEnd]

@[simp] theorem failUnacked_lockKey (hw : Hw) (p : Nat) (passing : List (Nat × FabHdr)) :
    (failUnacked hw p passing).lockKey = hw.lockKey := by
  simp [failUnacked]

@[simp] theorem portDown_lockKey (hw : Hw) (p cause : Nat) : (portDown hw p cause).lockKey = hw.lockKey := by
  simp [portDown]

@[simp] theorem linkLost_lockKey (hw : Hw) (p cause : Nat) : (linkLost hw p cause).lockKey = hw.lockKey := by
  simp [linkLost]

@[simp] theorem widthChange_lockKey (hw : Hw) (p : Nat) (w : Nat × Bool × Nat) : (widthChange hw p w).lockKey = hw.lockKey := by
  simp [widthChange]

@[simp] theorem failLanes_lockKey (hw : Hw) (p : Nat) (lanes : BitVec 17) : (failLanes hw p lanes).lockKey = hw.lockKey := by
  simp [failLanes]

@[simp] theorem optCtrlWrite_lockKey (p : Nat) (value : Word) (hw : Hw) : (optCtrlWrite p value hw).1.lockKey = hw.lockKey := by
  simp [optCtrlWrite]

@[simp] theorem optCmdWrite_lockKey (p : Nat) (value : Word) (hw : Hw) : (optCmdWrite p value hw).1.lockKey = hw.lockKey := by
  simp [optCmdWrite]

@[simp] theorem laserReport_lockKey (m : Nat) (rep : LaserRep) (hw : Hw) : (laserReport m rep hw).lockKey = hw.lockKey := by
  simp [laserReport]

@[simp] theorem optAcked_lockKey (hw : Hw) (p seq : Nat) : (optAcked hw p seq).lockKey = hw.lockKey := by
  simp [optAcked]

@[simp] theorem creditsBack_lockKey (hw : Hw) (p : Nat) : (creditsBack hw p).lockKey = hw.lockKey := by
  simp [creditsBack]

@[simp] theorem fabReply_lockKey (hw : Hw) (h : FabHdr) (op status : Nat) (opnd : Word) (data : List Byte) :
    (fabReply hw h op status opnd data).lockKey = hw.lockKey := by
  simp [fabReply]

@[simp] theorem fabTransit_lockKey (hw : Hw) (op : Nat) (h : FabHdr) (data : List Byte) :
    (fabTransit hw op h data).lockKey = hw.lockKey := by
  simp [fabTransit]

@[simp] theorem fabRefuse_lockKey (hw : Hw) (h : FabHdr) (status cause : Nat) :
    (fabRefuse hw h status cause).lockKey = hw.lockKey := by
  simp [fabRefuse]

@[simp] theorem fabArrive_lockKey (p op : Nat) (h : FabHdr) (data : List Byte) {serve : Hw → Hw × Answer}
    (hserve : ∀ w, (serve w).1.lockKey = w.lockKey) (hw : Hw) : (fabArrive p op h data serve hw).1.lockKey = hw.lockKey := by
  unfold fabArrive
  (repeat' split) <;> simp [hserve]

@[simp] theorem fabAtomicServe_lockKey (h : FabHdr) (op : AtomOp) (size rsp : Nat) (hw : Hw) :
    (fabAtomicServe h op size rsp hw).1.lockKey = hw.lockKey := by
  unfold fabAtomicServe
  dsimp only
  split
  · simp
  split
  · simp
  split
  · simp
  split
  · next r hr =>
    have hr := pocServe_lockKey _ _ hr
    split
    · rw [did_lockKey, fabReply_lockKey]
      split <;> simp [hr]
    · rw [did_lockKey, fabReply_lockKey, hr]
  · rfl

@[simp] theorem fabResponse_lockKey (p op : Nat) (h : FabHdr) (data : List Byte) (status : Nat) (old : Word) (hw : Hw) :
    (fabResponse p op h data status old hw).1.lockKey = hw.lockKey := by
  refine fabArrive_lockKey _ _ _ _ (fun w => ?_) hw
  split
  · exact radd_lockKey ..
  split
  · rfl
  · rw [did_lockKey, fabEnd_lockKey, lockKey_mk]

/-! #### The CXL host and adapter ports (R447–R469) -/

@[simp] theorem linkTrained_lockKey (hw : Hw) (status : Nat) : (linkTrained hw status).lockKey = hw.lockKey := by
  simp [linkTrained]

@[simp] theorem linkDark_lockKey (hw : Hw) (status : Nat) : (linkDark hw status).lockKey = hw.lockKey := by
  simp [linkDark]

@[simp] theorem cxuLog_lockKey (hw : Hw) (a cause addr : Nat) : (cxuLog hw a cause addr).lockKey = hw.lockKey := by
  simp [cxuLog]

@[simp] theorem popLost_lockKey (hw : Hw) (a : Nat) : (popLost hw a).lockKey = hw.lockKey := by
  unfold popLost
  split <;> simp

@[simp] theorem hdmClear_lockKey (hw : Hw) (a : Nat) : (hdmClear hw a).lockKey = hw.lockKey := by
  simp [hdmClear]

@[simp] theorem cxuDown_lockKey (hwOld : Hw) (a : AceloId) : (cxuDown hwOld a).lockKey = hwOld.lockKey := by
  simp [cxuDown]

@[simp] theorem bar4Write_lockKey (hw : Hw) (a off : Nat) (data : List Byte) :
    (bar4Write hw a off data).lockKey = hw.lockKey := by
  simp [bar4Write]

@[simp] theorem cxdLog_lockKey (hw : Hw) (a cause rid addr : Nat) : (cxdLog hw a cause rid addr).lockKey = hw.lockKey := by
  simp [cxdLog]

theorem takeDs_lockKey {out : DsReq × Hw} (hw : Hw) (a tag : Nat) (h : takeDs hw a tag = some out) :
    out.2.lockKey = hw.lockKey := by
  grind [takeDs, setAcelo_lockKey]

@[simp] theorem dsExpired_lockKey (hw : Hw) (a : Nat) (r : DsReq) : (dsExpired hw a r).1.lockKey = hw.lockKey := by
  unfold dsExpired
  split <;> simp

@[simp] theorem dsLost_lockKey (hw : Hw) (r : DsReq) : (dsLost hw r).lockKey = hw.lockKey := by
  unfold dsLost
  split <;> simp

@[simp] theorem deviceGone_lockKey (hw : Hw) (a : AceloId) : (deviceGone hw a).lockKey = hw.lockKey := by
  simp [deviceGone]

@[simp] theorem cxdDown_lockKey (a : AceloId) (dpc : Bool) (hw : Hw) : (cxdDown a dpc hw).lockKey = hw.lockKey := by
  simp [cxdDown]

@[simp] theorem iotTgtWrite_lockKey (a w : Nat) (value : Word) (hw : Hw) :
    (iotTgtWrite a w value hw).1.lockKey = hw.lockKey := by
  simp [iotTgtWrite]

@[simp] theorem iotBaseWrite_lockKey (a addr w : Nat) (value : Word) (hw : Hw) :
    (iotBaseWrite a addr w value hw).1.lockKey = hw.lockKey := by
  simp [iotBaseWrite]

@[simp] theorem iotInvWrite_lockKey (a : Nat) (value : Word) (hw : Hw) : (iotInvWrite a value hw).1.lockKey = hw.lockKey := by
  simp [iotInvWrite]

theorem smallRead_lockKey {out : Hw × List Byte × Bool} (ag : Agent) (c : Nat) (ps : List (Nat × Nat)) (hw : Hw)
    (h : smallRead ag c ps hw = some out) : out.1.lockKey = hw.lockKey := by
  fun_induction smallRead generalizing out <;> grind [→ spadReadBy_lockKey]

@[simp] theorem inboundWrite_lockKey (hw : Hw) (a : AceloId) (x : HeldWr) : (inboundWrite hw a x).lockKey = hw.lockKey := by
  unfold inboundWrite
  split <;> simp

/-! #### The Erotte layer (R398–R414) -/

@[simp] theorem setMDir_lockKey (hw : Hw) (m : Nat) (dir : Bool) (v : MDir) : (setMDir hw m dir v).lockKey = hw.lockKey := by
  simp [setMDir]

@[simp] theorem setModState_lockKey (hw : Hw) (m s : Nat) : (setModState hw m s).lockKey = hw.lockKey := by
  simp [setModState]

@[simp] theorem setFails_lockKey (hw : Hw) (m : Nat) (dir : Bool) (v : BitVec 68) :
    (setFails hw m dir v).lockKey = hw.lockKey := by
  simp [setFails]

@[simp] theorem setSpares_lockKey (hw : Hw) (m : Nat) (dir : Bool) (n : Nat) : (setSpares hw m dir n).lockKey = hw.lockKey := by
  simp [setSpares]

@[simp] theorem ertSend_lockKey (hw : Hw) (m : Nat) (dir : Bool) (k : MKind) (body : BitVec 992) :
    (ertSend hw m dir k body).lockKey = hw.lockKey := by
  simp [ertSend]

@[simp] theorem replayAll_lockKey (hw : Hw) (m : Nat) (dir : Bool) : (replayAll hw m dir).lockKey = hw.lockKey := by
  simp [replayAll]

@[simp] theorem ackedTo_lockKey (hw : Hw) (m : Nat) (dir : Bool) (modulus next : Nat) :
    (ackedTo hw m dir modulus next).lockKey = hw.lockKey := by
  simp [ackedTo]

@[simp] theorem ertNumber_lockKey (hw : Hw) (m : Nat) (dir : Bool) (body : BitVec 992) :
    (ertNumber hw m dir body).lockKey = hw.lockKey := by
  simp [ertNumber]

@[simp] theorem flushHeld_lockKey (hw : Hw) (e : Nat) : (flushHeld hw e).lockKey = hw.lockKey := by
  refine foldl_lockKey (fun w x => ?_) ..
  dsimp only
  split
  · rfl
  split
  · split
    · rw [ertSend_lockKey, ertNumber_lockKey, lockKey_mk]
    · rfl
  · rfl

@[simp] theorem ertEvent_lockKey (hw : Hw) (m : Nat) (dir : Bool) (step lane : Nat) :
    (ertEvent hw m dir step lane).lockKey = hw.lockKey := by
  simp [ertEvent]

@[simp] theorem listChanged_lockKey (hw : Hw) (e : Nat) : (listChanged hw e).lockKey = hw.lockKey := by
  simp [listChanged]

@[simp] theorem unsent_lockKey (hw : Hw) (m : Nat) (dir : Bool) : (unsent hw m dir).lockKey = hw.lockKey := by
  simp [unsent]

@[simp] theorem retire_lockKey (hw : Hw) (m : Nat) (dir : Bool) (lane : Nat) : (retire hw m dir lane).lockKey = hw.lockKey := by
  simp [retire]

@[simp] theorem repairStart_lockKey (hw : Hw) (m : Nat) : (repairStart hw m).lockKey = hw.lockKey := by
  simp [repairStart]

@[simp] theorem ertFailLanes_lockKey (hw : Hw) (m : Nat) (dir : Bool) (lanes : BitVec 68) :
    (ertFailLanes hw m dir lanes).lockKey = hw.lockKey := by
  simp [ertFailLanes]

@[simp] theorem repairSide_lockKey (was now : Nat) (hw : Hw) (m : Nat) (dir : Bool) :
    (repairSide was now hw m dir).lockKey = hw.lockKey := by
  simp [repairSide]

@[simp] theorem repairDone_lockKey (m : Nat) (ok : Bool) (failB failA : BitVec 68) (hw : Hw) :
    (repairDone m ok failB failA hw).lockKey = hw.lockKey := by
  simp [repairDone]

@[simp] theorem chargeLanes_lockKey (hw : Hw) (m : Nat) (dir : Bool) (bad : BitVec 68) :
    (chargeLanes hw m dir bad).lockKey = hw.lockKey := by
  simp [chargeLanes]

@[simp] theorem takeAck_lockKey (m : Nat) (dir : Bool) (flit : MFlit) (hw : Hw) :
    (takeAck m dir flit hw).lockKey = hw.lockKey := by
  simp [takeAck]

@[simp] theorem takeNak_lockKey (m : Nat) (dir : Bool) (hw : Hw) : (takeNak m dir hw).lockKey = hw.lockKey := by
  simp [takeNak]

@[simp] theorem ertSent_lockKey (hw : Hw) (m : Nat) (dir : Bool) (flit : MFlit) :
    (ertSent hw m dir flit).lockKey = hw.lockKey := by
  unfold ertSent
  split <;> simp

@[simp] theorem ertFlit_lockKey (m : Nat) (dir crcOk : Bool) (flit : MFlit) (bad : BitVec 68) (hwOld : Hw) :
    (ertFlit m dir crcOk flit bad hwOld).lockKey = hwOld.lockKey := by
  unfold ertFlit
  (repeat' split) <;> simp

@[simp] theorem rerouted_lockKey (e : Nat) (hw : Hw) : (rerouted e hw).lockKey = hw.lockKey := by
  unfold rerouted
  rw [setRoutes_lockKey, lockKey_mk]

@[simp] theorem routesDone_lockKey (e : Nat) (hw : Hw) : (routesDone e hw).lockKey = hw.lockKey := by
  simp [routesDone]

@[simp] theorem trainedSide_lockKey (hw : Hw) (m : Nat) (dir : Bool) : (trainedSide hw m dir).lockKey = hw.lockKey := by
  simp [trainedSide]

@[simp] theorem trainOne_lockKey (bad : List (ModuleId × BitVec 68 × BitVec 68)) (dead : BitVec 64) (hw : Hw) (m : Nat) :
    (trainOne bad dead hw m).lockKey = hw.lockKey := by
  simp [trainOne]

@[simp] theorem trainCold_lockKey (bad : List (ModuleId × BitVec 68 × BitVec 68)) (dead : BitVec 64) (hw : Hw) :
    (trainCold bad dead hw).lockKey = hw.lockKey := by
  simp [trainCold]

@[simp] theorem repairCut_lockKey (hw : Hw) (m : Nat) : (repairCut hw m).lockKey = hw.lockKey := by
  simp [repairCut]

@[simp] theorem retrainOne_lockKey (bad : List (ModuleId × BitVec 68 × BitVec 68)) (dead : BitVec 64) (hw : Hw) (m : Nat) :
    (retrainOne bad dead hw m).lockKey = hw.lockKey := by
  simp [retrainOne]

@[simp] theorem trainWarm_lockKey (bad : List (ModuleId × BitVec 68 × BitVec 68)) (dead : BitVec 64) (hw : Hw) :
    (trainWarm bad dead hw).lockKey = hw.lockKey := by
  simp [trainWarm]

@[simp] theorem trainLost_lockKey (old lost : BitVec 8) (hw : Hw) : (trainLost old lost hw).lockKey = hw.lockKey := by
  simp [trainLost]

@[simp] theorem showNegotiation_lockKey (hw : Hw) (result : Nat) (missing : BitVec 6) :
    (showNegotiation hw result missing).lockKey = hw.lockKey := by
  simp [showNegotiation]

/-! #### Memory controllers (R338–R352) -/

@[simp] theorem setCtl_lockKey (hw : Hw) (k : Nat) (v : Ctl) : (setCtl hw k v).lockKey = hw.lockKey := by
  simp [setCtl]

@[simp] theorem setCtlState_lockKey (hw : Hw) (k s : Nat) : (setCtlState hw k s).lockKey = hw.lockKey := by
  simp [setCtlState]

@[simp] theorem putMargins_lockKey (hw : Hw) (k : Nat) (r : MarginRes) (remap outcome : Nat) :
    (putMargins hw k r remap outcome).lockKey = hw.lockKey := by
  simp [putMargins]

@[simp] theorem putReadMargins_lockKey (hw : Hw) (k : Nat) (r : MarginRes) : (putReadMargins hw k r).lockKey = hw.lockKey := by
  simp [putReadMargins]

@[simp] theorem mrgCmdWrite_lockKey (k : Nat) (v : Word) (hw : Hw) : (mrgCmdWrite k v hw).1.lockKey = hw.lockKey := by
  simp [mrgCmdWrite]

@[simp] theorem marginDone_lockKey (k : Nat) (r : MarginRes) (hw : Hw) : (marginDone k r hw).lockKey = hw.lockKey := by
  simp [marginDone]

@[simp] theorem tgOverwrite_lockKey (hw : Hw) (k : Nat) (us : List Nat) (sp : Nat × Nat) :
    (tgOverwrite hw k us sp).lockKey = hw.lockKey := by
  simp [tgOverwrite]

@[simp] theorem tgCtrlWrite_lockKey (k : Nat) (v : Word) (hw : Hw) : (tgCtrlWrite k v hw).1.lockKey = hw.lockKey := by
  simp [tgCtrlWrite]

@[simp] theorem tgDone_lockKey (k bits_ : Nat) (errs : List TgErr) (hw : Hw) :
    (tgDone k bits_ errs hw).lockKey = hw.lockKey := by
  simp [tgDone]

@[simp] theorem leccWindow_lockKey (k c count : Nat) (hw : Hw) : (leccWindow k c count hw).lockKey = hw.lockKey := by
  simp [leccWindow]

@[simp] theorem bringCold_lockKey (std : MarginRes) (res : List (CtlId × MarginRes)) (bad : List (CtlId × Nat)) (k : Nat)
    (hw : Hw) (u : Nat) : (bringCold std res bad k hw u).lockKey = hw.lockKey := by
  simp [bringCold]

@[simp] theorem bringWarm_lockKey (std : MarginRes) (res : List (CtlId × MarginRes)) (k : Nat) (hw : Hw) (u : Nat) :
    (bringWarm std res k hw u).lockKey = hw.lockKey := by
  simp [bringWarm]

@[simp] theorem bringUnits_lockKey (cold : Bool) (std : MarginRes) (res : List (CtlId × MarginRes)) (bad : List (CtlId × Nat))
    (hw : Hw) : (bringUnits cold std res bad hw).lockKey = hw.lockKey := by
  simp [bringUnits]

@[simp] theorem allCtls_lockKey (s : Nat) (hw : Hw) : (allCtls s hw).lockKey = hw.lockKey := by
  simp [allCtls]

@[simp] theorem bringBegin_lockKey (cold : Bool) (hw : Hw) : (bringBegin cold hw).lockKey = hw.lockKey := by
  simp [bringBegin]

@[simp] theorem bringOn_lockKey (cold : Bool) (hw : Hw) : (bringOn cold hw).lockKey = hw.lockKey := by
  simp [bringOn]

@[simp] theorem memInit_lockKey (hw : Hw) : (memInit hw).lockKey = hw.lockKey := by
  simp [memInit]

@[simp] theorem setLimits_lockKey (hw : Hw) : (setLimits hw).lockKey = hw.lockKey := by
  simp [setLimits]

@[simp] theorem repartition_lockKey (hw : Hw) (l' m' : Nat) : (repartition hw l' m').lockKey = hw.lockKey := by
  simp [repartition]

/-! #### Power and the Kudu governor (R470–R495) -/

@[simp] theorem setGp_lockKey (hw : Hw) (g : Nat) (v : GPow) : (setGp hw g v).lockKey = hw.lockKey := by
  simp [setGp]

@[simp] theorem setHalf_lockKey (hw : Hw) (a : Nat) (v : Half) : (setHalf hw a v).lockKey = hw.lockKey := by
  simp [setHalf]

@[simp] theorem modGps_lockKey (hw : Hw) (f : Nat → GPow → GPow) : (modGps hw f).lockKey = hw.lockKey := by
  simp [modGps]

@[simp] theorem setATarget_lockKey (hw : Hw) (g mhz : Nat) : (setATarget hw g mhz).lockKey = hw.lockKey := by
  simp [setATarget]

@[simp] theorem setHTarget_lockKey (hw : Hw) (k mhz : Nat) : (setHTarget hw k mhz).lockKey = hw.lockKey := by
  simp [setHTarget]

@[simp] theorem pwrEvent_lockKey (hw : Hw) (evt info : Nat) : (pwrEvent hw evt info).lockKey = hw.lockKey := by
  simp [pwrEvent]

@[simp] theorem sagBegin_lockKey (hw : Hw) : (sagBegin hw).lockKey = hw.lockKey := by
  simp [sagBegin]

@[simp] theorem sagEnd_lockKey (hw : Hw) : (sagEnd hw).lockKey = hw.lockKey := by
  simp [sagEnd]

@[simp] theorem sagHold_lockKey (hw : Hw) : (sagHold hw).lockKey = hw.lockKey := by
  simp [sagHold]

@[simp] theorem vinJudge_lockKey (hw : Hw) (mv : Nat) : (vinJudge hw mv).1.lockKey = hw.lockKey := by
  simp [vinJudge]

@[simp] theorem vinTake_lockKey (hw : Hw) (a mv tenMa : Nat) : (vinTake hw a mv tenMa).1.lockKey = hw.lockKey := by
  simp [vinTake]

@[simp] theorem slewTick_lockKey (a rise : Nat) (rose : BitVec 64) (hw : Hw) :
    (slewTick a rise rose hw).lockKey = hw.lockKey := by
  simp [slewTick]

@[simp] theorem slewSplit_lockKey (rampN rampS : Nat) (hw : Hw) : (slewSplit rampN rampS hw).lockKey = hw.lockKey := by
  simp [slewSplit]

@[simp] theorem slewApply_lockKey (hw : Hw) : (slewApply hw).lockKey = hw.lockKey := by
  simp [slewApply]

@[simp] theorem rampGrant_lockKey (a : Nat) (hw : Hw) : (rampGrant a hw).1.lockKey = hw.lockKey := by
  unfold rampGrant
  (repeat' split) <;> simp

@[simp] theorem peakCheck_lockKey (projected : Nat) (hw : Hw) : (peakCheck projected hw).lockKey = hw.lockKey := by
  simp [peakCheck]

@[simp] theorem brakeAssert_lockKey (hw : Hw) : (brakeAssert hw).lockKey = hw.lockKey := by
  simp [brakeAssert]

@[simp] theorem brakeCheck_lockKey (watts : Nat) (hw : Hw) : (brakeCheck watts hw).lockKey = hw.lockKey := by
  simp [brakeCheck]

@[simp] theorem brakeRelease_lockKey (hw : Hw) : (brakeRelease hw).lockKey = hw.lockKey := by
  simp [brakeRelease]

@[simp] theorem brakeStep_lockKey (hw : Hw) : (brakeStep hw).lockKey = hw.lockKey := by
  simp [brakeStep]

@[simp] theorem sustained_lockKey (w1s w2ms w1ms : Nat) (hwOld : Hw) :
    (sustained w1s w2ms w1ms hwOld).lockKey = hwOld.lockKey := by
  unfold sustained
  extract_lets a p hw plan hw0 p0 hw1 gs near far hw2 hw3 hw4
  have h3 : hw3.lockKey = hwOld.lockKey := by
    refine (foldN_lockKey (fun w i => ?_) ..).trans ((foldl_lockKey (fun w g => ?_) ..).trans ?_)
    · split
      · rfl
      · exact setHTarget_lockKey ..
    · rw [setATarget_lockKey, setGp_lockKey]
    · rw [lockKey_mk, rsetN_lockKey, lockKey_mk]
  split
  · exact h3
  · rw [lockKey_mk, ← h3]
    exact foldl_lockKey (fun w g => setGp_lockKey ..) ..

@[simp] theorem targetsApply_lockKey (t : Targets) (hw : Hw) : (targetsApply t hw).lockKey = hw.lockKey := by
  simp [targetsApply]

@[simp] theorem coreEnergy_lockKey (hw : Hw) (c uj : Nat) (busy : List Nat) :
    (coreEnergy hw c uj busy).lockKey = hw.lockKey := by
  simp [coreEnergy]

@[simp] theorem energyUpdate_lockKey (pkg : Nat) (dies : List Nat) (cores : List (CoreId × Nat × List Nat)) (hw : Hw) :
    (energyUpdate pkg dies cores hw).lockKey = hw.lockKey := by
  simp [energyUpdate]

@[simp] theorem trimUpdate_lockKey (d measured modelled : Nat) (est : List (GroupId × Nat)) (tj : BitVec 16) (thr : Bool)
    (hw : Hw) : (trimUpdate d measured modelled est tj thr hw).lockKey = hw.lockKey := by
  simp [trimUpdate]

@[simp] theorem plSusWrite_lockKey (v : Word) (hw : Hw) : (plSusWrite v hw).1.lockKey = hw.lockKey := by
  simp [plSusWrite]

@[simp] theorem partCapWrite_lockKey (n : Nat) (v : Word) (hw : Hw) : (partCapWrite n v hw).1.lockKey = hw.lockKey := by
  simp [partCapWrite]

/-! #### Fencing a half (R505) -/

@[simp] theorem hartFence_lockKey (hw : Hw) (h : Nat) : (hartFence hw h).lockKey = hw.lockKey := by
  simp [hartFence]

@[simp] theorem portFence_lockKey (hw : Hw) (p : Nat) : (portFence hw p).lockKey = hw.lockKey := by
  simp [portFence]

@[simp] theorem fenceHalf_lockKey (a : AceloId) (hw : Hw) : (fenceHalf a hw).lockKey = hw.lockKey := by
  simp [fenceHalf]

@[simp] theorem stopAll_lockKey (old hw : Hw) : (stopAll old hw).lockKey = hw.lockKey := by
  simp [stopAll]

@[simp] theorem finish_lockKey (old hw : Hw) : (finish old hw).lockKey = hw.lockKey := by
  simp [finish]

/-! #### Boot and resets (R496–R515) -/

@[simp] theorem showStatus_lockKey (hw : Hw) (sec : Sec) : (showStatus hw sec).lockKey = hw.lockKey := by
  simp [showStatus]

@[simp] theorem halt_lockKey (a w : Nat) (r : Hw × Sec) : (halt a w r).1.lockKey = r.1.lockKey := by
  unfold halt
  dsimp only
  rw [showStatus_lockKey, lockKey_mk, rsetN_lockKey]

@[simp] theorem lockPlls_lockKey (hw : Hw) (d : Nat) : (lockPlls hw d).lockKey = hw.lockKey := by
  simp [lockPlls]

@[simp] theorem touchClock_lockKey (hw : Hw) (d gen : Nat) : (touchClock hw d gen).lockKey = hw.lockKey := by
  simp [touchClock]

@[simp] theorem showImage_lockKey (hw : Hw) : (showImage hw).lockKey = hw.lockKey := by
  unfold showImage
  dsimp only
  rw [setLimits_lockKey, foldN_lockKey fun w c => rsetN_lockKey .., rsetN_lockKey, foldN_lockKey fun w l => rsetN_lockKey ..,
    rset_lockKey, rsetN_lockKey, rsetN_lockKey, rsetN_lockKey, lockKey_mk, rsetN_lockKey]

@[simp] theorem clampTargets_lockKey (hw : Hw) : (clampTargets hw).lockKey = hw.lockKey := by
  simp [clampTargets]

@[simp] theorem bootAccept_lockKey (slot : Nat) (b : List Byte) (rs : List ImgRec) (r : Hw × Sec) :
    (bootAccept slot b rs r).1.lockKey = r.1.lockKey := by
  unfold bootAccept
  dsimp only
  rw [lockKey_mk, clampTargets_lockKey, showImage_lockKey, slewApply_lockKey, lockKey_mk, repartition_lockKey]

@[simp] theorem showRetired_lockKey (hw : Hw) : (showRetired hw).lockKey = hw.lockKey := by
  simp [showRetired]

@[simp] theorem retireCore_lockKey (hw : Hw) (c : Nat) : (retireCore hw c).lockKey = hw.lockKey := by
  simp [retireCore]

@[simp] theorem releaseDie_lockKey (retired : List Nat) (cold : Bool) (hw : Hw) (d : Nat) :
    (releaseDie retired cold hw d).lockKey = hw.lockKey := by
  simp [releaseDie]

@[simp] theorem bootCompute_lockKey (retired : List CoreId) (r : Hw × Sec) :
    (bootCompute retired r).1.lockKey = r.1.lockKey := by
  simp [bootCompute]

@[simp] theorem fillDpt_lockKey (hw : Hw) : (fillDpt hw).lockKey = hw.lockKey := by
  simp [fillDpt]

@[simp] theorem bootMesh_lockKey (missing : BitVec 6) (bad : List (ModuleId × BitVec 68 × BitVec 68)) (dead : BitVec 64)
    (r : Hw × Sec) : (bootMesh missing bad dead r).1.lockKey = r.1.lockKey := by
  simp [bootMesh]

@[simp] theorem bootCopy_lockKey (hw : Hw) (a : Nat) (bs : List Byte) : (bootCopy hw a bs).lockKey = hw.lockKey := by
  simp [bootCopy]

@[simp] theorem bootHost_lockKey (r : Hw × Sec) : (bootHost r).1.lockKey = r.1.lockKey := by
  simp [bootHost]

@[simp] theorem bootLinks_lockKey (r : Hw × Sec) : (bootLinks r).1.lockKey = r.1.lockKey := by
  simp [bootLinks]

@[simp] theorem offSample_lockKey (mv : Nat) (hw : Hw) : (offSample mv hw).lockKey = hw.lockKey := by
  simp [offSample]

@[simp] theorem warmMb_lockKey (hw : Hw) (c : Nat) : (warmMb hw c).1.lockKey = hw.lockKey := by
  unfold warmMb
  dsimp only
  rw [foldl_fst_lockKey]
  · exact draw_lockKey ..
  · intro x e
    split
    · next h hp => exact pocWrite_lockKey _ _ _ _ _ _ _ _ hp
    · rfl

@[simp] theorem warmLine_lockKey (hw : Hw) (line : Nat) (mask : BitVec 64) (data : List Byte) (poison : Bool) :
    (warmLine hw line mask data poison).lockKey = hw.lockKey := by
  simp [warmLine]

@[simp] theorem warmHart_lockKey (hw : Hw) (h : Nat) : (warmHart hw h).lockKey = hw.lockKey := by
  unfold warmHart
  dsimp only
  rw [rsetN_lockKey, foldl_lockKey, foldl_lockKey, foldl_lockKey, draw_lockKey]
  · intro w e
    simp
  · intro w e
    simp
  · intro w e
    split <;> simp

@[simp] theorem warmRecords_lockKey (c n : Nat) (hw : Hw) : (warmRecords c n hw).lockKey = hw.lockKey := by
  fun_induction warmRecords <;> simp_all

@[simp] theorem warmCmd_lockKey (c : Nat) (hw : Hw) (m : Cmd) : (warmCmd c hw m).lockKey = hw.lockKey := by
  unfold warmCmd
  extract_lets m1 hw1
  have h1 : hw1.lockKey = hw.lockKey := by
    unfold hw1
    split
    · cases hd : mbDrainAll hw c (getCore hw c).mb with
      | none => rfl
      | some w => exact mbDrainAll_lockKey _ _ _ hd
    · rfl
  rw [retireCmd_lockKey, h1]

@[simp] theorem warmCore_lockKey (hw : Hw) (c : Nat) : (warmCore hw c).lockKey = hw.lockKey := by
  simp [warmCore]

@[simp] theorem warmAdds_lockKey (hw : Hw) : (warmAdds hw).lockKey = hw.lockKey := by
  exact foldN_lockKey (fun w d => foldl_lockKey (fun v e => foldl_lockKey (fun u a => treeOut_lockKey ..) ..) ..) ..

@[simp] theorem warmTest_lockKey (old hw : Hw) (k : Nat) : (warmTest old hw k).lockKey = hw.lockKey := by
  simp [warmTest]

/-! #### Losses of clocks and heartbeats, and the error-handling blocks' own work (R37, R504, R520, R525, R561) -/

@[simp] theorem groupLost_lockKey (g : Nat) (hw : Hw) : (groupLost g hw).lockKey = hw.lockKey := by
  simp [groupLost]

@[simp] theorem clusterLost_lockKey (k : Nat) (hw : Hw) : (clusterLost k hw).lockKey = hw.lockKey := by
  simp [clusterLost]

@[simp] theorem pllLoss_lockKey (d : DieId) (gen : Nat) (hw : Hw) : (pllLoss d gen hw).lockKey = hw.lockKey := by
  simp [pllLoss]

@[simp] theorem pcpCheck_lockKey (hw : Hw) (a : Nat) : (pcpCheck hw a).lockKey = hw.lockKey := by
  unfold pcpCheck
  split <;> simp

@[simp] theorem heartbeatOut_lockKey (a : Nat) (hw : Hw) : (heartbeatOut a hw).lockKey = hw.lockKey := by
  simp [heartbeatOut]

@[simp] theorem noteGap_lockKey (hw : Hw) (a n : Nat) : (noteGap hw a n).lockKey = hw.lockKey := by
  simp [noteGap]

@[simp] theorem heartbeatIn_lockKey (a : Nat) (hw : Hw) : (heartbeatIn a hw).lockKey = hw.lockKey := by
  simp [heartbeatIn]

@[simp] theorem heartbeatLost_lockKey (a : AceloId) (hw : Hw) : (heartbeatLost a hw).lockKey = hw.lockKey := by
  simp [heartbeatLost]

@[simp] theorem scrubStep_lockKey (k : Nat) (hw : Hw) : (scrubStep k hw).lockKey = hw.lockKey := by
  simp [scrubStep]

@[simp] theorem strikeCore_lockKey (c k n v : Nat) (hw : Hw) : (strikeCore c k n v hw).lockKey = hw.lockKey := by
  simp [strikeCore]

@[simp] theorem strikeDie_lockKey (d k n v : Nat) (hw : Hw) : (strikeDie d k n v hw).lockKey = hw.lockKey := by
  unfold strikeDie
  split <;> simp

@[simp] theorem strike_lockKey (d : Nat) (hw : Hw) : (strike d hw).lockKey = hw.lockKey := by
  simp [strike]

@[simp] theorem ceWindow_lockKey (d : Nat) (hw : Hw) : (ceWindow d hw).lockKey = hw.lockKey := by
  simp [ceWindow]

@[simp] theorem injectWrite_lockKey (d : Nat) (v : Word) (hw : Hw) : (injectWrite d v hw).1.lockKey = hw.lockKey := by
  simp [injectWrite]

@[simp] theorem popRead_lockKey (by_ : Agent) (d addr : Nat) (high : Bool) (hw : Hw) :
    (popRead by_ d addr high hw).1.lockKey = hw.lockKey := by
  simp [popRead]

@[simp] theorem corePopRead_lockKey (by_ : Agent) (c addr : Nat) (high : Bool) (hw : Hw) :
    (corePopRead by_ c addr high hw).1.lockKey = hw.lockKey := by
  simp [corePopRead]

@[simp] theorem berrRead_lockKey (by_ : Agent) (h : Nat) (high : Bool) (hw : Hw) :
    (berrRead by_ h high hw).1.lockKey = hw.lockKey := by
  simp [berrRead]

/-! #### What a register read returns where the value is a view of the state and not a stored word (R14, R91, R94 -/

@[simp] theorem cycRead_lockKey (hw : Hw) (b : Blk) (off : Nat) : (cycRead hw b off).1.lockKey = hw.lockKey := by
  unfold cycRead
  split <;> simp

/-! #### An access to a local address by a hart, a PCP, the monitor or an upstream port (R12, R14, R16, R49–R64) -/

@[simp] theorem plainWrite_lockKey (r : RegRow) (addr : Nat) (v : Word) (hw : Hw) :
    (plainWrite r addr v hw).lockKey = hw.lockKey := by
  unfold plainWrite
  split <;> simp

@[simp] theorem rangedWrite_lockKey (addr lo hi v : Nat) (hw : Hw) : (rangedWrite addr lo hi v hw).lockKey = hw.lockKey := by
  simp [rangedWrite]

@[simp] theorem coreWrite_lockKey (c s off : Nat) (r : RegRow) (v : Word) (hw : Hw) :
    (coreWrite c s off r v hw).1.lockKey = hw.lockKey := by
  unfold coreWrite
  (repeat' split) <;> simp

@[simp] theorem dieWrite_lockKey (d b off : Nat) (r : RegRow) (v : Word) (hw : Hw) :
    (dieWrite d b off r v hw).1.lockKey = hw.lockKey := by
  simp [dieWrite]

theorem halfWrite_lockKey {out : Hw} (b : Blk) (o : Nat) (high : Bool) (w : Word) (r : RegRow) (hw : Hw)
    (h : halfWrite b o high w r hw = some out) : out.lockKey = hw.lockKey := by
  unfold halfWrite at h
  grind [rset_lockKey]

@[simp] theorem readRefused_lockKey (hw : Hw) (d cause : Nat) (by_ : Agent) (addr : Nat) :
    (readRefused hw d cause by_ addr).1.lockKey = hw.lockKey := by
  simp [readRefused]

@[simp] theorem popAt_lockKey (by_ : Agent) (b : Blk) (off size : Nat) (hw : Hw) :
    (popAt by_ b off size hw).1.lockKey = hw.lockKey := by
  unfold popAt
  (repeat' split) <;> simp

@[simp] theorem regRead_lockKey (by_ : Agent) (addr : Nat) (b : Blk) (off size : Nat) (hwOld : Hw) (sec : Sec) :
    (regRead by_ addr b off size hwOld sec).1.lockKey = hwOld.lockKey := by
  unfold regRead
  dsimp only
  (repeat' split) <;> simp

@[simp] theorem busRead_lockKey (by_ : Agent) (who : DsWho) (a size : Nat) (hw : Hw) (sec : Sec) :
    (busRead by_ who a size hw sec).1.lockKey = hw.lockKey := by
  grind (splits := 20) [busRead, → pocReadN_lockKey, readRefused_lockKey, dsRead_lockKey, → spadReadBy_lockKey,
    consumed_lockKey, regRead_lockKey, → accReadBy_lockKey]

@[simp] theorem imsicWrite_lockKey (h f off v : Nat) (hw : Hw) : (imsicWrite h f off v hw).lockKey = hw.lockKey := by
  simp [imsicWrite]

/-! #### The rows of Erotte.lean -/

@[simp] theorem ertReport_lockKey (hw : Hw) (m : ModuleId) : (ertReport hw m).lockKey = hw.lockKey := by
  unfold ertReport
  split <;> simp

/-! #### The rows of Fabric.lean -/

@[simp] theorem laneDark_lockKey (p lane : Nat) (hw : Hw) : (laneDark p lane hw).lockKey = hw.lockKey := by
  simp [laneDark]

@[simp] theorem optReplay_lockKey (hw : Hw) (p : Nat) : (optReplay hw p).lockKey = hw.lockKey := by
  unfold optReplay
  dsimp only
  split
  · rfl
  split
  · rw [linkLost_lockKey, setPort_lockKey]
  · rw [lockKey_mk, radd_lockKey, setPort_lockKey]

/-! #### What harts do (R355–R371) -/

@[simp] theorem hartAsk_lockKey (hw : Hw) (h : HartId) (line : Nat) (unique : Bool) (why : MissWhy) :
    (hartAsk hw h line unique why).lockKey = hw.lockKey := by
  simp [hartAsk]

@[simp] theorem hartPoison_lockKey (hw : Hw) (h : HartId) (line : Nat) : (hartPoison hw h line).lockKey = hw.lockKey := by
  simp [hartPoison]

@[simp] theorem memLoad_lockKey (h : HartId) (a size : Nat) (hwOld : Hw) :
    (memLoad h a size hwOld).1.lockKey = hwOld.lockKey := by
  simp [memLoad]

@[simp] theorem ioLoad_lockKey (h : HartId) (a size : Nat) (hw : Hw) (sec : Sec) :
    (ioLoad h a size hw sec).1.lockKey = hw.lockKey := by
  unfold ioLoad
  dsimp only
  (repeat' split) <;> simp

@[simp] theorem hostLoad_lockKey (h : HartId) (a size : Nat) (hw : Hw) (sec : Sec) :
    (hostLoad h a size hw sec).1.lockKey = hw.lockKey := by
  simp [hostLoad]

@[simp] theorem askToWrite_lockKey (hw : Hw) (h : HartId) (line : Nat) (why : MissWhy) :
    (askToWrite hw h line why).lockKey = hw.lockKey := by
  simp [askToWrite]

@[simp] theorem hostStore_lockKey (h : HartId) (a size : Nat) (v : Word) (hw : Hw) :
    (hostStore h a size v hw).1.lockKey = hw.lockKey := by
  simp [hostStore]

@[simp] theorem sbDone_lockKey (hw : Hw) (h : HartId) (i : Nat) : (sbDone hw h i).lockKey = hw.lockKey := by
  simp [sbDone]

@[simp] theorem sbCache_lockKey (h : HartId) (i : Nat) (e : SbEnt) (hwOld : Hw) :
    (sbCache h i e hwOld).1.lockKey = hwOld.lockKey := by
  unfold sbCache
  dsimp only
  split <;> simp

@[simp] theorem hostAmo_lockKey (h : HartId) (a size : Nat) (op : HostAmo) (v : Word) (hwOld : Hw) :
    (hostAmo h a size op v hwOld).1.lockKey = hwOld.lockKey := by
  unfold hostAmo
  dsimp only
  (repeat' split) <;> simp

@[simp] theorem barrier_lockKey (h : HartId) (b : Barrier) (hw : Hw) : (barrier h b hw).1.lockKey = hw.lockKey := by
  simp [barrier]

@[simp] theorem hostFence_lockKey (h : HartId) (k : FenceKind) (hw : Hw) : (hostFence h k hw).1.lockKey = hw.lockKey := by
  simp [hostFence]

@[simp] theorem tlvDbRow_lockKey (h : HartId) (a : Nat) (v : Word) (hw : Hw) : (tlvDbRow h a v hw).1.lockKey = hw.lockKey := by
  simp [tlvDbRow]

@[simp] theorem tlvRelRow_lockKey (h : HartId) (scope : Scope) (hw : Hw) : (tlvRelRow h scope hw).1.lockKey = hw.lockKey := by
  simp [tlvRelRow]

@[simp] theorem tlvAcqRow_lockKey (h : HartId) (scope : Scope) (hw : Hw) : (tlvAcqRow h scope hw).1.lockKey = hw.lockKey := by
  simp [tlvAcqRow]

@[simp] theorem offerTo_lockKey (hw : Hw) (line : Nat) (ag : Agent) : (offerTo hw line ag).lockKey = hw.lockKey := by
  simp [offerTo]

@[simp] theorem tlvStashRow_lockKey (h : HartId) (a : Nat) (rs2 : Word) (hwOld : Hw) :
    (tlvStashRow h a rs2 hwOld).1.lockKey = hwOld.lockKey := by
  unfold tlvStashRow
  dsimp only
  (repeat' split) <;> simp

@[simp] theorem cboAt_lockKey (h : HartId) (a : Nat) {f : Nat → Hart → Hw → Hw × Answer}
    (hf : ∀ l t w, (f l t w).1.lockKey = w.lockKey)
    (hwOld : Hw) : (cboAt h a f hwOld).1.lockKey = hwOld.lockKey := by
  unfold cboAt
  dsimp only
  (repeat' split) <;> simp [hf]

@[simp] theorem cleanLine_lockKey (h : HartId) (line : Nat) (t : Hart) (hw : Hw) :
    (cleanLine h line t hw).1.lockKey = hw.lockKey := by
  unfold cleanLine
  split <;> simp

@[simp] theorem flushLine_lockKey (h : HartId) (line : Nat) (t : Hart) (hw : Hw) :
    (flushLine h line t hw).1.lockKey = hw.lockKey := by
  unfold flushLine
  split <;> simp

@[simp] theorem zeroLine_lockKey (h : HartId) (a : Nat) (hw : Hw) : (zeroLine h a hw).1.lockKey = hw.lockKey := by
  unfold zeroLine
  dsimp only
  (repeat' split) <;> simp

@[simp] theorem prefetchLine_lockKey (h : HartId) (a : Nat) (unique instr : Bool) (hwOld : Hw) :
    (prefetchLine h a unique instr hwOld).1.lockKey = hwOld.lockKey := by
  unfold prefetchLine
  dsimp only
  (repeat' split) <;> simp

@[simp] theorem hartStopRow_lockKey (h : HartId) (pd : Bool) (hw : Hw) : (hartStopRow h pd hw).1.lockKey = hw.lockKey := by
  simp [hartStopRow]

@[simp] theorem handlerRow_lockKey (h : HartId) (hw : Hw) : (handlerRow h hw).1.lockKey = hw.lockKey := by
  simp [handlerRow]

@[simp] theorem offerRow_lockKey (line : Nat) (target : Agent) (hw : Hw) :
    (offerRow line target hw).1.lockKey = hw.lockKey := by
  unfold offerRow
  dsimp only
  (repeat' split) <;> simp

/-! #### The external host at an upstream port (R448–R451, R459, R513) -/

@[simp] theorem bar2_lockKey (a : AceloId) (off size : Nat) (write : Bool) (data : List Byte) (poison : Bool) (hw : Hw) :
    (bar2 a off size write data poison hw).1.lockKey = hw.lockKey := by
  grind (splits := 20) [bar2, cxuLog_lockKey, → pocReadN_lockKey, readRefused_lockKey, → pocWriteN_lockKey,
    writeRefused_lockKey, consumed_lockKey, did_lockKey]

/-! #### The rows of MemCtl.lean -/

@[simp] theorem ctlRegWrite_lockKey (by_ : Agent) (k addr : Nat) {f : Hw → Hw × Answer}
    (hf : ∀ w, (f w).1.lockKey = w.lockKey) (hw : Hw) :
    (ctlRegWrite by_ k addr f hw).1.lockKey = hw.lockKey := by
  exact regWriteBy_lockKey _ _ _ hf hw

/-! #### A load -/

@[simp] theorem mkcNew_lockKey (dpt : Nat → Word) (m : List Byte) (r : LoadReq) (hw : Hw) :
    (mkcNew dpt m r hw).1.lockKey = hw.lockKey := by
  simp [mkcNew]

@[simp] theorem mkcKeep_lockKey (dpt : Nat → Word) (m : List Byte) (r : LoadReq) (hw : Hw) :
    (mkcKeep dpt m r hw).1.lockKey = hw.lockKey := by
  unfold mkcKeep
  split <;> simp

@[simp] theorem loaderPut_lockKey (hw : Hw) (a : Nat) (bs : List Byte) : (loaderPut hw a bs).lockKey = hw.lockKey := by
  simp [loaderPut]

@[simp] theorem putItem_lockKey (x : Hw × Nat) (item : SncItem) : (putItem x item).1.1.lockKey = x.1.lockKey := by
  unfold putItem
  split <;> simp

@[simp] theorem putSlot_lockKey (c q : Nat) (x : Hw × Nat) (i : SncItem) : (putSlot c q x i).1.lockKey = x.1.lockKey := by
  unfold putSlot
  dsimp only
  rw [lockKey_mk, loaderPut_lockKey, putItem_lockKey]

@[simp] theorem placeList_lockKey (ctx : Nat) (x : Hw × Nat) (e : Nat × Nat × List SncItem) :
    (placeList ctx x e).1.lockKey = x.1.lockKey := by
  unfold placeList
  split <;> simp

@[simp] theorem mkcDo_lockKey (dpt : Nat → Word) (m : List Byte) (r : LoadReq) (hw : Hw) :
    (mkcDo dpt m r hw).lockKey = hw.lockKey := by
  simp [mkcDo]

@[simp] theorem mkcLoad_lockKey (m : List Byte) (r : LoadReq) (hw : Hw) : (mkcLoad m r hw).1.lockKey = hw.lockKey := by
  simp [mkcLoad]

end Sys2Proof.Machine
end

section
/-! PROOF. A production-locked part's monitor unlocks under a verified signature alone (R537, R539). -/

namespace Sys2Proof.Machine

/-! #### A production-locked part stays locked (R506, R512, R537) -/

theorem lockKey_fst (hw : Hw) : hw.lockKey.1 = hw.locked := rfl

theorem locked_of_lockKey {w hw : Hw} (h : w.lockKey = hw.lockKey) : w.locked = hw.locked := congrArg Prod.fst h

theorem idKey_of_lockKey {w hw : Hw} (h : w.lockKey = hw.lockKey) : w.idKey = hw.idKey := congrArg Prod.snd h

/-- A production-locked part whose monitor is LOCKED (R537). -/
def LockedOut (hw : Hw) (sec : Sec) : Prop := hw.locked = true ∧ sec.mon.unlocked = false

theorem LockedOut.keep {hw w : Hw} {sec sec' : Sec} (h : LockedOut hw sec) (hw' : w.lockKey = hw.lockKey)
    (hs : sec'.mon.unlocked = sec.mon.unlocked) : LockedOut w sec' :=
  ⟨(locked_of_lockKey hw').trans h.1, hs.trans h.2⟩

section
variable {hw : Hw} {sec : Sec}

/-- A warm reset keeps the lock bit; the identity key is derived again in boot step 2 (R512). -/
theorem warmHw_lockKey : (warmHw hw).lockKey = (hw.locked, []) := by
  unfold warmHw
  extract_lets mem present base hw2 hw3
  rw [foldN_lockKey fun w m => foldN_lockKey (fun w i => setMDir_lockKey ..) .., foldN_lockKey repairCut_lockKey,
    foldN_lockKey fun w a => ?acelo, foldN_lockKey fun w k => ?ctl]
  case acelo => rw [setAcelo_lockKey, rset_lockKey]
  case ctl => rw [setCtl_lockKey, warmTest_lockKey]
  rfl

theorem coldReset_lockedOut (hl : hw.locked = true) (src : Nat) : LockedOut (coldReset src hw sec).1 (coldReset src hw sec).2 :=
  ⟨(coldReset_keeps offPins_locked src).trans hl, by simp [coldReset, coldSec, hl]⟩

theorem warmHw_locked : (warmHw hw).locked = hw.locked := by
  rw [← lockKey_fst, warmHw_lockKey]

theorem coldHw_locked : (coldHw hw).locked = hw.locked := coldHw_keeps offPins_locked

theorem railsDown_lockedOut (hl : hw.locked = true) (off cause : Nat) :
    LockedOut (railsDown off cause hw sec).1 (railsDown off cause hw sec).2 := by
  refine ⟨?_, by simp [railsDown, coldSec, hl]⟩
  unfold railsDown
  dsimp only
  split
  · exact (locked_of_lockKey (foldN_lockKey (fun w a => rsetN_lockKey ..) ..)).trans (coldHw_locked.trans hl)
  · exact coldHw_locked.trans hl

theorem warmReset_locked (src : Nat) : (warmReset src hw sec).1.locked = hw.locked := by
  generalize hx : warmReset src hw sec = x
  unfold warmReset at hx
  extract_lets hw0 drained blank hw1 discs shut closed disc hw2 hw3 count hw4 hw5 reset mon sec1 at hx
  have h0 : hw0.lockKey = hw.lockKey := (warmAdds_lockKey ..).trans (foldl_lockKey (fun w e => warmCore_lockKey ..) ..)
  have hdr : drained.1.lockKey = hw.lockKey := by
    refine Eq.trans (foldl_fst_lockKey (fun x e => ?_) ..) h0
    exact warmMb_lockKey ..
  have hblank : blank.lockKey = hw.lockKey := (foldl_lockKey (fun w h => rset_lockKey ..) ..).trans hdr
  have h1 : hw1.lockKey = hw.lockKey := (foldl_lockKey (fun w e => warmHart_lockKey ..) ..).trans hblank
  have hshut : shut.lockKey = hw.lockKey := by
    refine (foldl_lockKey (fun w p => ?_) ..).trans h1
    split
    · exact mgmtOut_lockKey ..
    · rfl
  have hc : closed.lockKey = hw.lockKey := by
    refine (settle_lockKey ..).trans ((foldN_lockKey (fun w a => ?_) ..).trans hshut)
    split
    · rfl
    · exact radd_lockKey ..
  have h2 : hw2.locked = hw.locked := warmHw_locked.trans (locked_of_lockKey hc)
  have h5 : hw5.lockKey = hw2.lockKey := by
    refine (rsetN_lockKey ..).trans ((foldN_lockKey (fun w a => ?_) ..).trans (foldl_lockKey (fun w e => rset_lockKey ..) ..))
    rw [rsetN_lockKey, rsetN_lockKey]
  clear_value hw5 hw2 sec1
  subst hx
  exact (locked_of_lockKey ((showStatus_lockKey ..).trans h5)).trans h2

theorem warmReset_lockedOut (hl : hw.locked = true) (src : Nat) : LockedOut (warmReset src hw sec).1 (warmReset src hw sec).2 :=
  ⟨(warmReset_locked src).trans hl, show (!hw.locked) = false by rw [hl]; rfl⟩

end

/-! #### Accesses: only PCP_RESET reaches the lock (R514) -/

/-- An effect on the hardware and the security state under which a locked part stays locked. -/
abbrev KeepsLocked (f : Hw → Sec → Hw × Sec × Answer) : Prop :=
  ∀ hw sec, LockedOut hw sec → LockedOut (f hw sec).1 (f hw sec).2.1

section
variable {hw : Hw} {sec : Sec}

/-- A write to a register block leaves the lock bit, the identity key and the security state, or it is a write to
PCP_RESET (R514). -/
theorem regWrite_lockKey (ag : Agent) (addr : Nat) (b : Blk) (off size : Nat) (v : Word) :
    ((regWrite ag addr b off size v hw sec).1.lockKey = hw.lockKey ∧ (regWrite ag addr b off size v hw sec).2.1 = sec) ∨
      ∃ w, regWrite ag addr b off size v hw sec = pcpResetWrite w hw sec := by
  unfold regWrite
  dsimp only
  split
  · exact .inl ⟨writeRefused_lockKey .., rfl⟩
  split
  · exact .inl ⟨writeRefused_lockKey .., rfl⟩
  split
  · exact .inl ⟨rfl, rfl⟩
  split
  · next h hh =>
    refine .inl ⟨?_, rfl⟩
    split at hh
    · exact halfWrite_lockKey _ _ _ _ _ _ hh
    · cases hh
  split
  · exact .inl ⟨coreWrite_lockKey .., rfl⟩
  split
  · exact .inr ⟨_, rfl⟩
  · exact .inl ⟨dieWrite_lockKey .., rfl⟩

/-- So does any write of the bus. -/
theorem busWrite_lockKey (ag : Agent) (who : DsWho) (a size : Nat) (v : Word) :
    ((busWrite ag who a size v hw sec).1.lockKey = hw.lockKey ∧ (busWrite ag who a size v hw sec).2.1 = sec) ∨
      ∃ w, busWrite ag who a size v hw sec = pcpResetWrite w hw sec := by
  unfold busWrite
  dsimp only
  split
  · exact .inl ⟨writeRefused_lockKey .., rfl⟩
  split
  · exact .inl ⟨rfl, rfl⟩
  split
  case h_5 | h_6 => exact regWrite_lockKey ..
  case h_1 | h_2 =>
    refine .inl ?_
    split
    · exact ⟨writeRefused_lockKey .., rfl⟩
    split
    · next hh => exact ⟨pocWriteN_lockKey _ _ _ _ _ _ _ _ hh, rfl⟩
    · exact ⟨rfl, rfl⟩
  case h_3 => exact .inl ⟨spadWriteRow_lockKey .., rfl⟩
  case h_4 | h_9 => exact .inl ⟨writeRefused_lockKey .., rfl⟩
  case h_7 =>
    refine .inl ?_
    split
    · exact ⟨imsicWrite_lockKey .., rfl⟩
    · exact ⟨writeRefused_lockKey .., rfl⟩
  case h_8 =>
    refine .inl ?_
    split
    · exact ⟨writeRefused_lockKey .., rfl⟩
    split
    · exact ⟨writeRefused_lockKey .., rfl⟩
    split
    · exact ⟨dsPost_lockKey .., rfl⟩
    · exact ⟨dsWrite_lockKey .., rfl⟩

theorem pcpResetWrite_lockedOut (v : Word) : KeepsLocked (pcpResetWrite v) := by
  intro hw sec h
  rcases pcpResetWrite_cases (hw := hw) (sec := sec) v with he | he | he <;> rw [he]
  · exact h
  · exact coldReset_lockedOut h.1 4
  · exact warmReset_lockedOut h.1 4

theorem pcpResetBy_lockedOut (ag : Agent) (v : Word) : KeepsLocked (pcpResetBy ag v) := by
  intro hw sec h
  unfold pcpResetBy
  split
  · exact pcpResetWrite_lockedOut v hw sec h
  · exact h.keep (errorResponse_lockKey ..) rfl

theorem busWrite_lockedOut (ag : Agent) (who : DsWho) (a size : Nat) (v : Word) : KeepsLocked (busWrite ag who a size v) := by
  intro hw sec h
  rcases busWrite_lockKey (hw := hw) (sec := sec) ag who a size v with ⟨hk, hs⟩ | ⟨w, he⟩
  · rw [hs]
    exact h.keep hk rfl
  · rw [he]
    exact pcpResetWrite_lockedOut w hw sec h

theorem sbIo_lockedOut (h : HartId) (i : Nat) (e : SbEnt) : KeepsLocked (sbIo h i e) := by
  intro hw sec hl
  unfold sbIo
  extract_lets
  split
  · split
    · exact hl
    split
    · exact hl.keep (by simp) rfl
    · exact hl.keep (by simp) rfl
  · split
    · exact hl
    split
    · exact hl.keep (by simp) rfl
    · exact hl.keep (by simp) rfl
  · split
    · exact hl
    · have hb := busWrite_lockedOut (.hart h) (.hartStore h) e.addr e.size (word (leNat e.data)) hw sec hl
      exact hb.keep (sbDone_lockKey ..) rfl

theorem sbComplete_lockedOut (h : HartId) (i : Nat) : KeepsLocked (sbComplete h i) := by
  intro hw sec hl
  unfold sbComplete
  extract_lets
  split
  · exact hl
  split
  · exact hl
  split
  · split
    · exact hl
    · exact hl.keep (sbCache_lockKey ..) rfl
  split
  · exact hl
  · exact sbIo_lockedOut h i _ hw sec hl

theorem bar0_lockedOut (a : AceloId) (off size : Nat) (write : Bool) (data : List Byte) (poison : Bool) :
    KeepsLocked (bar0 a off size write data poison) := by
  intro hw sec hl
  unfold bar0
  extract_lets
  split
  · split
    · split
      · next c o _ =>
        split
        · exact hl
        split
        · exact hl.keep ((writeRefused_lockKey ..).trans (cxuLog_lockKey ..)) rfl
        · have hk := spadWriteByP_lockKey (cxuLog hw a 3 (0x040000000000 + off)) (.upstream a) c o data true
          rw [cxuLog_lockKey] at hk
          split
          · next he =>
            rw [he] at hk
            exact hl.keep ((writeRefused_lockKey ..).trans hk) rfl
          · next he =>
            rw [he] at hk
            exact hl.keep hk rfl
          · next he =>
            rw [he] at hk
            exact hl.keep hk rfl
      · exact hl.keep (cxuLog_lockKey ..) rfl
    · exact busWrite_lockedOut _ _ _ _ _ hw sec hl
  · exact hl.keep (busRead_lockKey ..) rfl

end

/-! #### The supply and the boot (R471, R512) -/

section
variable {hw : Hw} {sec : Sec}

theorem vinGood_lockedOut : KeepsLocked vinGood := by
  intro hw sec h
  unfold vinGood
  split
  · exact h
  · exact (coldReset_lockedOut h.1 _).keep (foldN_lockKey (fun w a => rset_lockKey ..) ..) rfl

theorem halt_lockedOut (h : LockedOut hw sec) (a w : Nat) : LockedOut (halt a w (hw, sec)).1 (halt a w (hw, sec)).2 :=
  h.keep (halt_lockKey ..) rfl

theorem bootTimeout_lockedOut (die gen : Nat) : KeepsLocked (bootTimeout die gen) := by
  intro hw sec h
  unfold bootTimeout
  extract_lets a n stop
  have hstop w : LockedOut (stop w).1 (stop w).2.1 := halt_lockedOut h _ _
  split
  · exact h
  split
  · exact hstop _
  split
  · exact hstop _
  split
  · exact hstop _
  split
  · exact halt_lockedOut (h.keep (showNegotiation_lockKey ..) rfl) _ _
  split
  · refine halt_lockedOut (h.keep ?_ rfl) _ _
    rw [rsetN_lockKey, allCtls_lockKey]
  · exact h

end

section
variable {r : Hw × Sec}

/-- An effect of a boot step that leaves a locked part locked. -/
def BootLocked (f : Hw × Sec → Hw × Sec) : Prop := ∀ r, LockedOut r.1 r.2 → LockedOut (f r).1 (f r).2

/-- The monitor's record is as it was. -/
def MonKept (x y : Sec) : Prop := y.mon = x.mon

theorem LockedOut.keepMon {hw w : Hw} {sec sec' : Sec} (h : LockedOut hw sec) (hw' : w.lockKey = hw.lockKey)
    (hs : MonKept sec sec') : LockedOut w sec' :=
  h.keep hw' (congrArg Mon.unlocked hs)

theorem MonKept.refl (x : Sec) : MonKept x x := rfl

theorem MonKept.halt {x : Sec} {r : Hw × Sec} (h : MonKept x r.2) (a w : Nat) : MonKept x (halt a w r).2 := by
  rw [halt_sec]
  exact h

theorem MonKept.measure {x y : Sec} (h : MonKept x y) (m : Nat) (d : List Byte) (last : Bool) : MonKept x (extend y m d last) := h

theorem foldl_extend_mon {α : Type} {d : α → List Byte} (m : Nat) (last : Bool) (l : List α) (x : Sec) :
    (l.foldl (fun s a => extend s m (d a) last) x).mon = x.mon :=
  foldl_keeps (g := Sec.mon) (fun x a => show (extend x m (d a) last).mon = x.mon from rfl) l x

theorem LockedOut.relock {hw w : Hw} (h : hw.locked = true) (hw' : w.locked = hw.locked) (x : Sec) :
    LockedOut w { x with mon := { Mon.reset with unlocked := !hw.locked } } :=
  ⟨hw'.trans h, by rw [h]; rfl⟩

/-- The monitor is LOCKED again from the lock bit (R512, R537). -/
theorem bootStraps_lockedOut (n s : Bool) : BootLocked (bootStraps n s) := by
  intro r h
  unfold bootStraps
  split
  · exact halt_lockedOut (halt_lockedOut h _ _) _ _
  · extract_lets a w p hw1 hw2 hw3 keys d mon y
    have h3 : hw3.lockKey = hw1.lockKey := by
      refine (foldN_lockKey (fun w k => setHTarget_lockKey ..) ..).trans ?_
      rw [lockPlls_lockKey, lockPlls_lockKey]
    have hl : hw3.locked = r.1.locked := (locked_of_lockKey h3).trans rfl
    exact LockedOut.relock h.1 hl _

theorem bootAccept_mon (slot : Nat) (b : List Byte) (rs : List ImgRec) : (bootAccept slot b rs r).2.mon = r.2.mon := by
  unfold bootAccept
  extract_lets host keys n img hw1 hw2 src sec1 measured sec2
  exact foldl_extend_mon ..

theorem bootImage_lockedOut (slot0 slot1 : Option (List Byte)) : BootLocked (bootImage slot0 slot1) := by
  intro r h
  unfold bootImage
  extract_lets
  split
  · exact halt_lockedOut h _ _
  split
  · exact halt_lockedOut h _ _
  extract_lets
  split
  · exact halt_lockedOut h _ _
  · exact h.keep (bootAccept_lockKey ..) (congrArg Mon.unlocked (bootAccept_mon ..))

theorem bootSecondary_lockedOut (answers : Bool) : BootLocked (bootSecondary answers) := by
  intro r h
  unfold bootSecondary
  extract_lets
  split
  · exact halt_lockedOut h _ _
  split
  · exact h
  · exact halt_lockedOut h _ _

theorem bootMesh_mon (missing : BitVec 6) (bad : List (ModuleId × BitVec 68 × BitVec 68)) (dead : BitVec 64) :
    MonKept r.2 (bootMesh missing bad dead r).2 := by
  unfold bootMesh
  extract_lets
  clear_value *
  split
  · rw [halt_sec]
    exact MonKept.refl r.2
  · exact ((MonKept.refl _).measure ..).measure ..

theorem bootMesh_lockedOut (missing : BitVec 6) (bad : List (ModuleId × BitVec 68 × BitVec 68)) (dead : BitVec 64) :
    BootLocked (bootMesh missing bad dead) := by
  intro r h
  exact h.keepMon (bootMesh_lockKey ..) (bootMesh_mon ..)

/-- Which unit the search for a failed one finds has no part in it. -/
theorem bootMemory_lockedOut (cycles : Nat) (std : MarginRes) (res : List (CtlId × MarginRes)) (bad : List (CtlId × Nat)) :
    BootLocked (bootMemory cycles std res bad) := by
  delta bootMemory
  obtain ⟨failed, hfailed⟩ : ∃ f, f = failedUnit := ⟨_, rfl⟩
  rw [← hfailed]
  clear hfailed
  intro r h
  beta_reduce
  extract_lets a cold hw1 spent hw2 hw3f hw3 hold hw4
  have h2 : hw2.lockKey = r.1.lockKey := by rw [rsetN_lockKey, bringUnits_lockKey]
  have h3 : hw3.lockKey = r.1.lockKey := by
    unfold hw3
    split
    · rw [memInit_lockKey, h2]
    · exact h2
  have h3f : hw3f.lockKey = r.1.lockKey := by rw [rset_lockKey, allCtls_lockKey, h2]
  have h4 : hw4.lockKey = r.1.lockKey := by rw [rset_lockKey, allCtls_lockKey, h3]
  clear_value a hw3f hw4 hold hw3 hw2
  split
  · exact halt_lockedOut (h.keep h3f rfl) _ _
  · exact h.keep h4 rfl

theorem bootHost_mon : MonKept r.2 (bootHost r).2 := by
  unfold bootHost
  extract_lets
  clear_value *
  split
  · exact (MonKept.refl _).halt ..
  split
  · exact (MonKept.refl _).halt ..
  · exact (MonKept.refl _).measure ..

theorem bootHost_lockedOut : BootLocked bootHost := by
  intro r h
  exact h.keepMon (bootHost_lockKey ..) bootHost_mon

theorem bootLinks_lockedOut : BootLocked bootLinks := by
  intro r h
  refine h.keep (bootLinks_lockKey ..) ?_
  unfold bootLinks
  dsimp only
  split <;> rfl

theorem bootEffect_lockedOut {n cycles : Nat} {inp : BootIn} {r' : Hw × Sec} (h : bootEffect n cycles inp r = some r')
    (hl : LockedOut r.1 r.2) : LockedOut r'.1 r'.2 := by
  unfold bootEffect at h
  split at h
  case h_11 => cases h
  all_goals
    injection h with h
    subst h
  case h_1 =>
    refine hl.keep ?_ rfl
    split
    · exact foldN_lockKey (fun w a => rsetN_lockKey ..) ..
    · rfl
  case h_2 => exact bootStraps_lockedOut _ _ r hl
  case h_3 => exact bootImage_lockedOut _ _ r hl
  case h_4 => exact bootSecondary_lockedOut _ r hl
  case h_5 => exact hl.keep (bootCompute_lockKey ..) rfl
  case h_6 => exact bootMesh_lockedOut _ _ _ r hl
  case h_7 => exact bootMemory_lockedOut _ _ _ _ r hl
  case h_8 => exact bootHost_lockedOut r hl
  case h_9 => exact hl.keep (foldN_lockKey (fun w p => portDark_lockKey ..) ..) rfl
  case h_10 => exact bootLinks_lockedOut r hl

theorem bootStep_lockedOut (cycles : BitVec 32) (inp : BootIn) : KeepsLocked (bootStep cycles inp) := by
  intro hw sec h
  unfold bootStep
  dsimp only
  split
  · exact h
  split
  · exact h
  next hw1 sec1 he =>
  have h1 := bootEffect_lockedOut he h
  split
  · exact h1
  · refine h1.keep ?_ rfl
    refine (showStatus_lockKey ..).trans ((foldN_lockKey (fun w a => ?_) ..).trans (draw_lockKey ..))
    split
    · exact rsetN_lockKey ..
    · rfl

end

/-! #### The monitor unlocks under a signature alone (R537, R539) -/

/-- A locked part whose monitor is UNLOCKED only where a signature verifies over a challenge bound to the identity key. -/
def SignedOnly (r : Hw × Sec) : Prop :=
  r.1.locked = true ∧ (r.2.mon.unlocked = true →
    ∃ key ∈ r.2.monKeys, ∃ nonce sig, Config.slhVerify key (unlockMsg r.1 nonce) sig = true)

section
variable {hw w : Hw} {sec sec' : Sec} {r r' : Hw × Sec}

theorem LockedOut.signedOnly (h : LockedOut hw sec) : SignedOnly (hw, sec) :=
  ⟨h.1, fun hu => absurd (h.2.symm.trans hu) Bool.false_ne_true⟩

theorem unlockMsg_of_lockKey (h : w.lockKey = hw.lockKey) (nonce : List Byte) : unlockMsg w nonce = unlockMsg hw nonce := by
  unfold unlockMsg
  rw [idKey_of_lockKey h]

/-- What leaves the lock bit, the identity key and the keys, and does not unlock, keeps it. -/
theorem SignedOnly.keep (h : SignedOnly (hw, sec)) (hw' : w.lockKey = hw.lockKey)
    (hu : sec'.mon.unlocked = true → sec.mon.unlocked = true) (hk : sec'.monKeys = sec.monKeys) : SignedOnly (w, sec') := by
  obtain ⟨hl, hs⟩ := h
  refine ⟨(locked_of_lockKey hw').trans hl, fun h => ?_⟩
  obtain ⟨key, hkey, nonce, sig, hv⟩ := hs (hu h)
  exact ⟨key, hk ▸ hkey, nonce, sig, unlockMsg_of_lockKey hw' nonce ▸ hv⟩

theorem MonMove.signedOnly (h : MonMove r r') (hr : SignedOnly r) : SignedOnly r' := by
  cases h with
  | read hw sec a size => exact hr.keep (busRead_lockKey ..) id rfl
  | write hw sec a size v =>
    rcases busWrite_lockKey (hw := hw) (sec := sec) .monitor (.agent .monitor) a size v with ⟨hk, hs⟩ | ⟨w, he⟩
    · rw [hs]
      exact hr.keep hk id rfl
    · rw [he]
      rcases pcpResetWrite_cases (hw := hw) (sec := sec) w with he | he | he <;> rw [he]
      · exact hr
      · exact (coldReset_lockedOut hr.1 4).signedOnly
      · exact (warmReset_lockedOut hr.1 4).signedOnly
  | margin hw sec k v => exact hr.keep (mrgCmdWrite_lockKey ..) id rfl
  | traffic hw sec k n v => exact hr.keep ((tgCtrlWrite_lockKey ..).trans (rsetN_lockKey ..)) id rfl
  | pop hw sec a => exact hr.keep (logPop_lockKey ..) id rfl
  | own hw sec sent fresh => exact hr.keep (lockKey_mk ..) id rfl
  | follow hw sec old => exact hr.keep (finish_lockKey ..) id rfl
  | record hw sec m hu hl hi => exact hr.keep rfl hu rfl
  | unlock hw sec m key nonce sig hk hsig hl hi => exact ⟨hr.1, fun _ => ⟨key, hk, nonce, sig, hsig⟩⟩
  | reset hw sec => exact (warmReset_lockedOut hr.1 6).signedOnly
  | revoke hw sec k => exact hr.keep rfl id rfl

theorem MonMoves.signedOnly (h : MonMoves r r') (hr : SignedOnly r) : SignedOnly r' := by
  induction h with
  | refl => exact hr
  | tail _ hm ih => exact hm.signedOnly ih

/-- Where no signature verifies, what is SignedOnly is LOCKED. -/
theorem SignedOnly.locked (h : SignedOnly (hw, sec)) (hv : ∀ key ∈ sec.monKeys, ∀ nonce sig : List Byte,
    Config.slhVerify key (unlockMsg hw nonce) sig = false) : sec.mon.unlocked = false := by
  by_contra hu
  obtain ⟨key, hkey, nonce, sig, hs⟩ := h.2 (Bool.of_not_eq_false hu)
  exact Bool.false_ne_true ((hv key hkey nonce sig).symm.trans hs)

end

/-! #### Every command on a locked part (R537) -/

/-- The outcomes of the commands but those on the supply, on a locked part: an effect on the hardware that leaves the lock
bit; one on the security state too that leaves it LOCKED; an action of the monitor. -/
inductive LockRow (s : State) : Host.Outcome State Fault Refusal → Prop
  | hw (f : Hw → Hw × Answer) (hf : ∀ w, (f w).1.lockKey = w.lockKey) : LockRow s (onHw s f)
  | all (f : Hw → Sec → Hw × Sec × Answer) (hf : KeepsLocked f) : LockRow s (onAll s f)
  | mon (c : Mon → Bool) (f : Hw × Sec → Hw × Sec) (hf : ∀ r, MonMoves r (f r)) : LockRow s (onMon s c f)

section
variable {s t : State} {hw : Hw} {sec : Sec}

theorem settled_signedOnly (h : LockedOut hw sec) (ans : Answer) : SignedOnly ((settled s hw sec ans).hw, (settled s hw sec ans).sec) :=
  (monSettle_moves ans (finish s.hw hw, sec)).signedOnly (h.keep (finish_lockKey ..) rfl).signedOnly

theorem LockRow.signedOnly {o : Host.Outcome State Fault Refusal} (h : LockRow s o) (hl : LockedOut s.hw s.sec) (ht : o = .next t) :
    SignedOnly (t.hw, t.sec) := by
  have hnow : LockedOut s.now s.sec := hl
  cases h with
  | hw f hf =>
    by_cases hoff : s.hw.pow.off = 0
    · rw [onHw_on hoff] at ht
      cases ht
      exact settled_signedOnly (hnow.keep (hf _) rfl) _
    · rw [onHw_off hoff] at ht
      cases ht
      exact hl.signedOnly
  | all f hf =>
    rcases onAll_next ht with rfl | ⟨-, rfl⟩
    · exact hl.signedOnly
    · exact settled_signedOnly (hf _ _ hnow) _
  | mon c f hf =>
    unfold onMon at ht
    split at ht
    · cases ht
      exact hl.signedOnly
    split at ht
    · cases ht
      exact hnow.signedOnly
    · cases ht
      exact (hf _).signedOnly hnow.signedOnly

end

/-! #### The shapes of the rows -/

@[simp] theorem guardHw_lockKey {c : Hw → Bool} {f : Hw → Hw × Answer} (hf : ∀ w, (f w).1.lockKey = w.lockKey) (hw : Hw) :
    (guardHw c f hw).1.lockKey = hw.lockKey := by
  unfold guardHw
  split
  · exact hf hw
  · rfl

/-! #### The rows (log 1) -/

section
variable {s : State}

theorem LockRow.monCommand (c : MonCmd) : LockRow s (Sys2Proof.Machine.monCommand c s) :=
  .mon _ _ (monAct_moves fun _ _ => monRun_moves _)

/-- A row of an engine: what its body leaves. -/
theorem LockRow.engine (c q eng op : Nat) (can : Hw → Cmd → Bool) {body : Hw → Cmd → Option (Hw × Cmd)}
    (hbody : ∀ w m out, body w m = some out → out.1.lockKey = w.lockKey) : LockRow s (onHw s (engineRow c q eng op can body)) :=
  .hw _ (engineRow_lockKey c q eng op can hbody)

/-- A request of another package: what serving it leaves. -/
theorem LockRow.fabric (p op : Nat) (h : FabHdr) (data : List Byte) {serve : Hw → Hw × Answer}
    (hserve : ∀ w, (serve w).1.lockKey = w.lockKey) : LockRow s (onHw s (fabArrive p op h data serve)) :=
  .hw _ (fabArrive_lockKey p op h data hserve)

theorem cgGatingComplete_lockRow (g : GroupId) : LockRow s (execCgGatingComplete g s) := by
  refine .hw _ fun hw => guardHw_lockKey (fun w => ?_) hw
  split
  · rfl
  · next w1 h1 =>
    rw [did_lockKey, foldN_lockKey fun v i => coreOff_lockKey .., setGroup_lockKey, ← mbDrainCores_lockKey _ _ h1]
    refine (foldl_keeps (g := fun r : Hw × Answer => r.1.lockKey) (fun r i => killPass_lockKey ..) _ _).trans ?_
    exact did_lockKey w1

theorem lockDone_lockRow (p : PortId) (failed : BitVec 17) : LockRow s (execLockDone p failed s) := by
  refine .hw _ fun hw => guardHw_lockKey (fun w => ?_) hw
  extract_lets fault dark fails w1 power w2
  have h2 : w2.lockKey = w.lockKey := by
    refine (foldN_lockKey (fun v l => rsetN_lockKey ..) ..).trans ?_
    rw [lockKey_mk, rfield_lockKey]
  split
  · rw [did_lockKey, backToDark_lockKey, h2]
  · rw [did_lockKey, setPState_lockKey, h2]

theorem identRecord_lockRow (p : PortId) (rec_ : IdentRec) : LockRow s (execIdentRecord p rec_ s) := by
  refine .hw _ fun hw => guardHw_lockKey (fun w => ?_) hw
  split
  · rw [did_lockKey, fabEvent_lockKey, lockKey_mk, ror_lockKey, setPState_lockKey]
  · extract_lets w1 w2 p w3
    have h3 : w3.lockKey = w.lockKey := by rw [setPort_lockKey, rset_lockKey, rsetN_lockKey]
    split
    · rw [did_lockKey, portActive_lockKey, h3]
    · exact h3

theorem optFlitReceive_lockRow (p : PortId) (fecOk : Bool) (flit : Flit) : LockRow s (execOptFlitReceive p fecOk flit s) := by
  refine .hw _ fun hw => guardHw_lockKey (fun w => ?_) hw
  extract_lets t nak late
  have hnak h : (nak h).1.lockKey = h.lockKey := by
    show (did _).1.lockKey = _
    rw [did_lockKey, lockKey_mk, setPort_lockKey]
  have hlate h : (late h).1.lockKey = h.lockKey := by
    unfold late
    split
    · exact did_lockKey h
    · exact hnak h
  split
  · exact hnak w
  split
  · split
    · rw [did_lockKey, lockKey_mk, setPort_lockKey, radd_lockKey]
    split
    · rw [did_lockKey, lockKey_mk]
    · exact hlate w
  · split
    · rw [did_lockKey, creditsBack_lockKey]
    · exact hlate w
  · rw [did_lockKey, creditsBack_lockKey, optAcked_lockKey]
  · rw [did_lockKey, optReplay_lockKey, optAcked_lockKey]

theorem ite_fst_lockKey_of {α : Type} {p : Prop} [Decidable p] {x y : Hw × α} {k : Bool × List Byte} (hx : x.1.lockKey = k)
    (hy : y.1.lockKey = k) : (if p then x else y).1.lockKey = k := by
  split
  · exact hx
  · exact hy

theorem inboundRequest_lockRow (a : AceloId) (req : InbReq) : LockRow s (execInboundRequest a req s) := by
  refine .hw _ fun hw => ite_fst_lockKey_of rfl (ite_fst_lockKey_of (cxdLog_lockKey ..) ?_)
  split
  · refine ite_fst_lockKey_of ?_ ?_
    · rw [did_lockKey, lockKey_mk, radd_lockKey]
    · rw [cxdLog_lockKey, radd_lockKey]
  extract_lets t hw1 hw2 x p hw3
  have h1 : hw1.lockKey = hw.lockKey := radd_lockKey ..
  have h2 : hw2.lockKey = hw.lockKey := by
    unfold hw2
    split
    · rw [cxdLog_lockKey, h1]
    · exact h1
  refine ite_fst_lockKey_of ?_ (ite_fst_lockKey_of ?_ (ite_fst_lockKey_of (ite_fst_lockKey_of ?_ ?_) (ite_fst_lockKey_of rfl ?_)))
  · rw [cxdLog_lockKey, h1]
  · rw [errorResponse_lockKey, h1]
  · rw [did_lockKey, inboundWrite_lockKey, setAcelo_lockKey, h2]
  · rw [setAcelo_lockKey, setAcelo_lockKey, h2]
  split
  · split
    · next h => rw [consumed_lockKey, smallRead_lockKey _ _ _ _ h, h1]
    · rw [errorResponse_lockKey, h1]
  · split
    · next h => rw [consumed_lockKey, pocReadN_lockKey _ _ _ _ _ h, h1]
    · rfl

theorem hostBarAccess_lockRow (a : AceloId) (bar : Fin 3) (off size : Nat) (write : Bool) (data : List Byte) (poison : Bool) :
    LockRow s (execHostBarAccess a bar off size write data poison s) := by
  refine .all _ fun hw sec h => ?_
  extract_lets keep span
  split
  · exact h
  split
  · exact h.keep (cxuLog_lockKey ..) rfl
  split
  · exact bar0_lockedOut a off size write data poison hw sec h
  split
  · exact h.keep (bar2_lockKey ..) rfl
  split
  · refine h.keep ?_ rfl
    split
    · exact writeRefused_lockKey ..
    · exact readRefused_lockKey ..
  split
  · exact h.keep (bar4Write_lockKey ..) rfl
  · exact h

theorem qfeFence_lockRow (c : CoreId) (q : QueueId) : LockRow s (execQfeFence c q s) := by
  refine .engine _ _ _ _ _ fun w m out h => ?_
  split at h
  · cases h
  · cases h
    exact setQueue_lockKey ..

/-- Each command but those on the supply is one of these rows. -/
theorem exec_lockRow (i : Instr) (hv : ∀ a mv x, i ≠ .vinSample a mv x) (hg : i ≠ .vinGood) (hl : i ≠ .vinLowRelease) :
    LockRow s (exec i s) := by
  unfold exec
  cases i
  all_goals dsimp only
  case vinSample a mv x => exact absurd rfl (hv a mv x)
  case vinGood => exact absurd rfl hg
  case vinLowRelease => exact absurd rfl hl
  -- the supply, the resets and the boot
  case overvoltageTimeout | sagTimeout =>
    refine .all _ fun hw sec h => ?_
    split
    · exact railsDown_lockedOut h.1 ..
    · exact h
  case thermalShutdown => exact .all _ fun _ _ h => railsDown_lockedOut h.1 2 0
  case coldRst => exact .all _ fun _ _ h => coldReset_lockedOut h.1 2
  case warmRst =>
    refine .all _ fun hw sec h => ?_
    split
    · exact warmReset_lockedOut h.1 5
    · exact h
  case pcpResetCold | pcpResetWarm =>
    refine .all _ fun hw sec h => ?_
    split
    · exact pcpResetBy_lockedOut _ _ hw sec h
    · exact h
  case bootStepDone cycles inp => exact .all _ (bootStep_lockedOut cycles inp)
  case bootStepTimeout die gen => exact .all _ (bootTimeout_lockedOut die gen)
  case routeRecomputeDone edge =>
    refine .all _ fun hw sec h => ?_
    split
    · exact h
    split
    · split
      · exact halt_lockedOut (h.keep (rerouted_lockKey ..) rfl) _ _
      · exact h.keep (routesDone_lockKey ..) rfl
    · exact h.keep (routesDone_lockKey ..) rfl
  -- accesses that may reach PCP_RESET
  case registerWrite by_ addr size v =>
    refine .all _ fun hw sec h => ?_
    split
    · exact busWrite_lockedOut _ _ _ _ _ hw sec h
    · exact h
  case sbEntryComplete h idx => exact .all _ (sbComplete_lockedOut h idx)
  case hostBarAccess => exact hostBarAccess_lockRow ..
  -- rows with a proof of their own
  case cgGatingComplete => exact cgGatingComplete_lockRow ..
  case lockDone => exact lockDone_lockRow ..
  case identRecord => exact identRecord_lockRow ..
  case optFlitReceive => exact optFlitReceive_lockRow ..
  case inboundRequest => exact inboundRequest_lockRow ..
  case qfeFence => exact qfeFence_lockRow ..
  case qfeNop | qfeRing | qfeStop =>
    refine .engine _ _ _ _ _ fun w m out h => ?_
    cases h
    rfl
  -- rows that go through what may fail
  case invalidateCoreAck => exact .hw _ fun hw => by grind [killPass_lockKey, → mbDrainAll_lockKey, modCore_lockKey,
        did_lockKey, modInv_lockKey]
  case invalidateDone => exact .hw _ fun hw => by grind [setTree_lockKey, rfield_lockKey, → pocWriteN_lockKey, did_lockKey,
        message_lockKey]
  case homeAccept => exact .hw _ fun hw => by grind [deadRequest_lockKey, leaveQueue_lockKey, did_lockKey, victimGo_lockKey,
        acceptReq_lockKey]
  case evict => exact .hw _ fun hw => by grind [did_lockKey, arriveEvict_lockKey, setHart_lockKey, deadRequest_lockKey]
  case rspData => exact .hw _ fun hw => by grind [did_lockKey, dataResponse_lockKey, setNet_lockKey, lateResponse_lockKey]
  case rspWBInFlight => exact .hw _ fun hw => by grind [setNet_lockKey, → takeHeld_lockKey, did_lockKey, crossing_lockKey,
        setHome_lockKey]
  case biconflict => exact .hw _ fun hw => by grind [→ takeHeld_lockKey, did_lockKey, crossing_lockKey, setPoison_lockKey]
  case completionTimeout => exact .hw _ fun hw => by grind [→ takeDs_lockKey, dsExpired_lockKey]
  case completionReceived => exact .hw _ fun hw => by grind [→ takeDs_lockKey, cxdLog_lockKey, barSettle_lockKey,
        setHart_lockKey, ioLoad_lockKey, consumed_lockKey, errorResponse_lockKey, hartStoreDone_lockKey,
        hartStoreFailed_lockKey, codecContinue_lockKey, fabPoisoned_lockKey, fabEnd_lockKey]
  case deXfer => exact .engine _ _ _ _ _ fun _ _ _ => deXferBody_lockKey _ _ _
  case deGather => exact .engine _ _ _ _ _ fun _ _ _ => tableBody_lockKey _ _ _ _
  case deScatter => exact .engine _ _ _ _ _ fun _ _ _ => tableBody_lockKey _ _ _ _
  case deFill => exact .engine _ _ _ _ _ fun _ _ _ => deFillBody_lockKey _ _ _
  case deCopy => exact .engine _ _ _ _ _ fun _ _ _ => deCopyBody_lockKey _ _ _
  case deCreditPost => exact .engine _ _ _ _ _ fun _ _ _ => deCreditPostBody_lockKey _ _ _
  case deCreditTake => exact .engine _ _ _ _ _ fun _ _ _ => deCreditTakeBody_lockKey _ _ _
  case dePrefetch => exact .engine _ _ _ _ _ fun _ _ _ => dePrefetchBody_lockKey _ _ _
  case fabWr => exact .fabric _ _ _ _ fun w => by grind [did_lockKey, fabRefuse_lockKey, → tierWrite_lockKey, fabReply_lockKey,
        spadWriteBy_lockKey]
  case fabRd => exact .fabric _ _ _ _ fun w => by grind [did_lockKey, fabRefuse_lockKey, → tierRead_lockKey, fabReply_lockKey,
        → spadReadBy_lockKey, → accReadBy_lockKey]
  case fabAtom => exact .fabric _ _ _ _ fun w => by grind [fabAtomicServe_lockKey, did_lockKey, fabRefuse_lockKey]
  case fabRed => exact .fabric _ _ _ _ fun w => by grind [did_lockKey, fabRefuse_lockKey, → reduceN_lockKey, fabReply_lockKey]
  case fabCtake => exact .fabric _ _ _ _ fun w => by grind [creditTake_lockKey, did_lockKey, fabReply_lockKey,
        fabRefuse_lockKey]
  case fabCend => exact .fabric _ _ _ _ fun w => by grind [did_lockKey, fabReply_lockKey, creditEnd_lockKey, fabRefuse_lockKey]
  case meLoadw => exact .engine _ _ _ _ _ fun _ _ _ => meLoadwBody_lockKey _ _ _
  case meGemm => exact .engine _ _ _ _ _ fun _ _ _ => meGemmBody_lockKey _ _ _
  case meGemv => exact .engine _ _ _ _ _ fun _ _ _ => meGemvBody_lockKey _ _ _
  case marginDone => exact .hw _ fun hw => by grind [did_lockKey, marginDone_lockKey]
  case deMigrate => exact .engine _ _ _ _ _ fun _ _ _ => deMigrateBody_lockKey _ _
  case semRecheck => exact .hw _ fun hw => by grind [did_lockKey, semRead_lockKey]
  case waitTimeout => exact .hw _ fun hw => by grind [did_lockKey, endUnstarted_lockKey]
  case seOp => exact .engine _ _ _ _ _ fun _ _ _ => seOpBody_lockKey _ _ _
  case seSetp => exact .engine _ _ _ _ _ fun _ _ _ => seSetpBody_lockKey _ _ _
  case seLd => exact .engine _ _ _ _ _ fun _ _ _ => seLdBody_lockKey _ _ _
  case seSt => exact .engine _ _ _ _ _ fun _ _ _ => seStBody_lockKey _ _ _
  case seZline => exact .engine _ _ _ _ _ fun _ _ _ => seZlineBody_lockKey _ _ _
  case seAmo => exact .engine _ _ _ _ _ fun _ _ _ => seAmoBody_lockKey _ _ _
  case seBr => exact .engine _ _ _ _ _ fun _ _ _ => seBrBody_lockKey _ _ _
  case seRdcnt => exact .engine _ _ _ _ _ fun _ _ _ => seRdcntBody_lockKey _ _ _
  case prefetchFill => exact .hw _ fun hw => by grind [→ pfArrive_lockKey, did_lockKey]
  case mbIdleDrain => exact .hw _ fun hw => by grind [killPass_lockKey, → mbDrain_lockKey, did_lockKey]
  case veElem => exact .engine _ _ _ _ _ fun _ _ _ => veElemBody_lockKey _ _ _
  case veCmp => exact .engine _ _ _ _ _ fun _ _ _ => veCmpBody_lockKey _ _ _
  case veCvt => exact .engine _ _ _ _ _ fun _ _ _ => veCvtBody_lockKey _ _ _
  case veRed => exact .engine _ _ _ _ _ fun _ _ _ => veRedBody_lockKey _ _ _
  case veExpo => exact .engine _ _ _ _ _ fun _ _ _ => veExpoBody_lockKey _ _ _
  case veSlice => exact .engine _ _ _ _ _ fun _ _ _ => veSliceBody_lockKey _ _ _
  case veDacc => exact .engine _ _ _ _ _ fun _ _ _ => veDaccBody_lockKey _ _ _
  case veXcomb => exact .engine _ _ _ _ _ fun _ _ _ => veXcombBody_lockKey _ _ _
  case veZline => exact .engine _ _ _ _ _ fun _ _ _ => veZlineBody_lockKey _ _ _
  case invalidateBump | semNodeHoldTimeout | rdShared | rdUnique | iotInvDone | roWriteRelease | fabRequestTimeout | paceRelease
      | writeNote =>
    refine .hw _ fun hw => ?_
    dsimp only
    split <;> simp
  case wrBack | comp | compData | compAck | cxlMemRequest | d2hRequest =>
    refine .hw _ fun hw => ?_
    dsimp only
    (repeat' split) <;> simp
  -- rows that look at the security state and leave it
  case hostLoad h addr size => exact .all _ fun hw sec hl => hl.keep ((trapped_lockKey ..).trans (hostLoad_lockKey ..)) rfl
  case popLowHalfRead by_ addr =>
    refine .all _ fun hw sec h => ?_
    split
    · split
      · split
        · exact h.keep (by simp) rfl
        · exact h.keep (by simp) rfl
      · exact h.keep (by simp) rfl
    · exact h
  case brakeAssert | sustainedTick | heartbeatSend | heartbeatReceive | heartbeatTimeout | haltLineRepeat | upstreamLinkUp
      | doeCerts =>
    refine .all _ fun hw sec h => ?_
    split_ifs <;> exact h.keep (by simp) rfl
  case doeReport a nonce mask =>
    refine .all _ fun hw sec h => ?_
    dsimp only
    split_ifs <;> exact h.keep (by simp) rfl
  -- the monitor
  case monChar ch => exact .mon _ _ (monChar_moves (monFeed_moves 256) ch)
  case monAbort => exact .mon _ _ fun r => monStop_moves.trans (monFeed_moves 257 _)
  case monUploadTimeout => exact .mon _ _ (monAct_moves fun _ _ => .same .refl _ rfl rfl rfl)
  case monHelp | monId | monPeek | monPoke | monDump | monCnt | monPwr | monLink | monMargin | monTg | monLog | monChal
      | monUpload | monUnlock | monLock | monReset | monRevoke => exact .monCommand _
  -- every other command's effect is a sequence of effects that leave the lock bit
  all_goals exact .hw _ fun hw => by simp

end

/-! #### A step on a locked part (R537) -/

section
variable {s t : State}

/-- A sample that the supply's bounds refuse takes the rails down (R471). -/
theorem vinSample_signedOnly (a : AceloId) (mv x : Nat) (hl : LockedOut s.hw s.sec) (ht : execVinSample a mv x s = .next t) :
    SignedOnly (t.hw, t.sec) := by
  have hnow : LockedOut s.now s.sec := hl
  unfold execVinSample at ht
  split at ht
  · cases ht
    exact (hnow.keep (offSample_lockKey ..) rfl).signedOnly
  · rcases onAll_next ht with rfl | ⟨-, rfl⟩
    · exact hl.signedOnly
    · refine settled_signedOnly ?_ _
      have hk := vinTake_lockKey s.now a mv x
      split
      · next he =>
        rw [he] at hk
        exact hnow.keep hk rfl
      · next he =>
        rw [he] at hk
        have hw := hnow.keep (sec' := s.sec) hk rfl
        exact (railsDown_lockedOut hw.1 1 _).keep (offSample_lockKey ..) rfl

theorem exec_signedOnly {i : Instr} (hl : LockedOut s.hw s.sec) (ht : exec i s = .next t) : SignedOnly (t.hw, t.sec) := by
  by_cases hv : ∃ a mv x, i = .vinSample a mv x
  · obtain ⟨a, mv, x, rfl⟩ := hv
    exact vinSample_signedOnly a mv x hl ht
  by_cases hg : i = .vinGood
  · subst hg
    have hk := vinGood_lockedOut s.now s.sec hl
    change execVinGood s = .next t at ht
    injection ht with ht
    subst ht
    exact hk.signedOnly
  by_cases hr : i = .vinLowRelease
  · subst hr
    change execVinLowRelease s = .next t at ht
    unfold execVinLowRelease at ht
    split at ht <;> (cases ht; exact hl.signedOnly)
  · exact (exec_lockRow i (fun a mv x he => hv ⟨a, mv, x, he⟩) hg hr).signedOnly hl ht

theorem step_signedOnly (hl : LockedOut s.hw s.sec) (ht : step s = .next t) : SignedOnly (t.hw, t.sec) := by
  cases hp : s.pending with
  | nil =>
    rw [(stepRunsFront .vinGood [] s).2 hp] at ht
    cases ht
    exact hl.signedOnly
  | cons c rest =>
    rw [step_cons hp] at ht
    exact exec_signedOnly (s := { s with pending := rest }) hl ht

end

/-- Settles O45: a step leaves the lock bit, and the monitor, which may run on in it, unlocks under a verified signature alone. -/
theorem unlockNeedsSignature : Obligations.UnlockNeedsSignature := by
  intro s t hlocked hmon ht hv
  exact (step_signedOnly ⟨hlocked, hmon⟩ ht).locked hv

end Sys2Proof.Machine
end
